-- ==== Sys2Proof/Word.lean ====
section
/-! DEFINITION. The word types of the Z9 and the names an instruction's fields take: guards, matrix-register names, element
widths, rounding modes, format codes, and the shapes of a fabric packet and a link frame (spec/05, spec/07, spec/19). -/

namespace Sys2Proof

/-- A scalar register, a command word, a dword of memory. -/
abbrev W64 := BitVec 64
/-- A lane, an FP32 code, a pier word or a header word. -/
abbrev W32 := BitVec 32
/-- A byte of memory. -/
abbrev Byte := BitVec 8

/-- What every berth word carries beside its operands (R67): the stop bit S and the guard E, GR, GB. -/
structure Hd where
  stop : Bool
  e    : Bool
  gr   : Nat
  gb   : Nat
deriving DecidableEq, Repr

/-- The head of an unguarded word that ends its group. -/
def Hd.plain : Hd := ⟨true, false, 0, 0⟩

/-- Direction of a matrix-register name (R40, R73). -/
inductive Dir where
  | h | v | d | a
deriving DecidableEq, Repr

/-- A matrix-register name: plane, direction, index (R40, R73). -/
structure MName where
  plane : Nat
  dir   : Dir
  idx   : Nat
deriving DecidableEq, Repr

/-- Element width (R70, R182). -/
inductive Width where
  | w32 | w16 | w8 | w4
deriving DecidableEq, Repr

/-- Bits of an element. -/
def Width.bits : Width → Nat
  | .w32 => 32 | .w16 => 16 | .w8 => 8 | .w4 => 4

/-- Rounding mode (R105). -/
inductive RM where
  | rne | rtz | rup | rdn | sr
deriving DecidableEq, Repr

/-- Number format (R95). -/
inductive Fmt where
  | fp32 | bf16 | fp16 | e4m3 | e5m2 | mxfp4 | zb4 | int8 | uint8
deriving DecidableEq, Repr

/-- Element bits of a format (R95). -/
def Fmt.bits : Fmt → Nat
  | .fp32 => 32 | .bf16 => 16 | .fp16 => 16 | .e4m3 => 8 | .e5m2 => 8 | .mxfp4 => 4 | .zb4 => 4 | .int8 => 8 | .uint8 => 8

/-- Loop register named by MTL and MFL (R167). -/
inductive LoopReg where
  | lc | lb | le
deriving DecidableEq, Repr

/-- Type of a VCMP (R191). -/
inductive CmpType where
  | flt | fp16 | sgn | uns
deriving DecidableEq, Repr

/-- Condition of a VCMP (R191). -/
inductive VCond where
  | eq | ne | lt | le | gt | ge | uo
deriving DecidableEq, Repr

/-- Kind of a VKEY (R195). -/
inductive KeyType where
  | flt | sgn | uns
deriving DecidableEq, Repr

/-- Kind of a VRED (R198). -/
inductive RedKind where
  | fsum | fmax | fmin | isum | smax | smin | umax | umin
deriving DecidableEq, Repr

/-- Operation of an atomic (R228). -/
inductive AtomOp where
  | read | xchg | add | fadd | min | max | minu | maxu | and | or | xor | cas | fmax | fmin
deriving DecidableEq, Repr

/-- Gang of a matrix form (R70, R261). -/
inductive Gang where
  | single | pair | quad
deriving DecidableEq, Repr

/-- Members of a gang. -/
def Gang.size : Gang → Nat
  | .single => 1 | .pair => 2 | .quad => 4

/-- How a copy arranges and completes (R214): plain, transpose by 8 or 16, zero fill, publish a ring slot. -/
inductive CopyQ where
  | none | t8 | t16 | zero | publish
deriving DecidableEq, Repr

/-- Condition of a pier CMPP (R290). -/
inductive PCond where
  | eq | ne | lt | le | gt | ge | flt | feq
deriving DecidableEq, Repr

/-- Kind of a pier SHP (R290). -/
inductive ShKind where
  | l | r | a
deriving DecidableEq, Repr

/-- Mode of a pier COMBINE (R293). -/
inductive CombMode where
  | fadd | iadd | fmax
deriving DecidableEq, Repr

/-- Wait condition of a wharf command word (R302): none, at least, equal, at least and subtract. -/
inductive WCond where
  | none | geu | eq | sub
deriving DecidableEq, Repr

/-- Condition of a semaphore test (R233, R314). -/
inductive SCond where
  | geu | eq | ne
deriving DecidableEq, Repr

/-- Mode of POOL (R314). -/
inductive PoolMode where
  | sum | mean | weighted
deriving DecidableEq, Repr

/-- Kind of REDUCE (R314). -/
inductive RedOp where
  | sum | max | min
deriving DecidableEq, Repr

/-- The WAIT and SIGNAL bytes of a wharf command word (R302). -/
structure WX where
  wcond : WCond
  wdesc : Nat
  post  : Bool
  sdesc : Nat
deriving DecidableEq, Repr

/-- No wait and no signal. -/
def WX.none : WX := ⟨.none, 0, false, 0⟩

/-- A fabric packet (R271): the header's 32-bit words and the payload bytes, 256 to a flit. -/
structure Packet where
  hdr : List W32
  pay : List Byte
deriving DecidableEq, Repr

/-- A link frame (R269): its sequence number, and its columns of ten-bit symbols, in the order of the lanes in use. -/
structure Frame where
  seq  : Nat
  cols : List (List Nat)
deriving DecidableEq, Repr

/-- A frame of full width has 13 columns of 18 symbols; one of half width has 26 of 10. -/
def Frame.wf (f : Frame) : Bool :=
  let full := f.cols.length == 13
  (full || f.cols.length == 26) && f.cols.all fun c => c.length == (if full then 18 else 10) && c.all fun x => decide (x < 1024)

end Sys2Proof
end

