-- ==== Sys2Proof/Machine/Float.lean ====
section
/-! DEFINITION. Number formats and arithmetic (spec/07): exact values, decoding and rounding of every format, the special
functions, and the block-exact accumulation of the matrix engine. -/

namespace Sys2Proof.Machine
open Sys2Proof

/-- An exact value: (-1)^neg × m × 2^e, an infinity, or a NaN with its sign and its fraction in FP32 (R97, R102). -/
inductive FV where
  | fin (neg : Bool) (m : Nat) (e : Int)
  | inf (neg : Bool)
  | nan (neg : Bool) (frac : Nat)
deriving DecidableEq, Repr

/-- The canonical NaN (R102). -/
def FV.canon : FV := .nan false 0x400000
def FV.zero (neg : Bool) : FV := .fin neg 0 0
def FV.ofNat (n : Nat) : FV := .fin false n 0
def FV.ofInt (i : Int) : FV := .fin (decide (i < 0)) i.natAbs 0

def FV.isNan : FV → Bool
  | .nan _ _ => true
  | _ => false
def FV.isInf : FV → Bool
  | .inf _ => true
  | _ => false
def FV.isZero : FV → Bool
  | .fin _ m _ => m == 0
  | _ => false
def FV.neg : FV → FV
  | .fin s m e => .fin (!s) m e
  | .inf s => .inf (!s)
  | .nan s f => .nan (!s) f
def FV.sign : FV → Bool
  | .fin s _ _ => s
  | .inf s => s
  | .nan s _ => s

/-- Layout of a floating-point format (R96, R97): exponent bits, fraction bits, whether it has infinities, whether NaNs. -/
structure FF where
  eb  : Nat
  fb  : Nat
  inf : Bool
  nan : Bool
deriving DecidableEq, Repr

def FF.fp32 : FF := ⟨8, 23, true, true⟩
def FF.bf16 : FF := ⟨8, 7, true, true⟩
def FF.fp16 : FF := ⟨5, 10, true, true⟩
def FF.e4m3 : FF := ⟨4, 3, false, true⟩
def FF.e5m2 : FF := ⟨5, 2, true, true⟩
def FF.e2m1 : FF := ⟨2, 1, false, false⟩

def FF.bias (f : FF) : Int := 2 ^ (f.eb - 1) - 1
/-- Exponent of the unit in the last place of a subnormal. -/
def FF.qmin (f : FF) : Int := 1 - f.bias - f.fb
/-- Largest finite significand and the exponent of its last place (R96). -/
def FF.maxT (f : FF) : Nat :=
  if f.inf then 2 ^ (f.fb + 1) - 1 else if f.nan then 2 ^ (f.fb + 1) - 2 else 2 ^ (f.fb + 1) - 1
def FF.maxQ (f : FF) : Int := if f.inf then f.bias - f.fb else f.bias + 1 - f.fb
/-- Sign bit. -/
def FF.signBit (f : FF) (neg : Bool) : Nat := if neg then 2 ^ (f.eb + f.fb) else 0
/-- Code of the largest finite value. -/
def FF.maxCode (f : FF) (neg : Bool) : Nat :=
  f.signBit neg + (f.maxQ + f.fb + f.bias).toNat * 2 ^ f.fb + (f.maxT - 2 ^ f.fb)
/-- Code of an infinity. -/
def FF.infCode (f : FF) (neg : Bool) : Nat := f.signBit neg + (2 ^ f.eb - 1) * 2 ^ f.fb
/-- Code of a NaN with an FP32 fraction (R102): the payload's top bits, or the top fraction bit when those are zero. -/
def FF.nanCode (f : FF) (neg : Bool) (frac : Nat) : Nat :=
  if f.inf then
    let g := frac / 2 ^ (23 - f.fb)
    f.infCode neg + (if g = 0 then 2 ^ (f.fb - 1) else g)
  else if f.nan then f.signBit neg + 2 ^ (f.eb + f.fb) - 1
  else 0

/-- The value of a code (R97, R102). -/
def FF.decode (f : FF) (c : Nat) : FV :=
  let neg := c / 2 ^ (f.eb + f.fb) % 2 == 1
  let e := c / 2 ^ f.fb % 2 ^ f.eb
  let fr := c % 2 ^ f.fb
  if f.inf && e == 2 ^ f.eb - 1 then
    if fr = 0 then .inf neg else .nan neg (fr * 2 ^ (23 - f.fb))
  else if !f.inf && f.nan && e == 2 ^ f.eb - 1 && fr == 2 ^ f.fb - 1 then .nan neg 0x400000
  else if e = 0 then .fin neg fr f.qmin
  else .fin neg (2 ^ f.fb + fr) (f.qmin + ((e : Int) - 1))

/-- Number of bits of m. -/
def bitLen (m : Nat) : Nat := if m = 0 then 0 else Nat.log2 m + 1

/-- Round a rational cut into t (integer part), r (discarded part) out of 2^sh, away or toward zero (R105, R106). -/
def roundUp? (rm : RM) (neg : Bool) (t r sh n rnd : Nat) : Bool :=
  match rm with
  | .rne => if 2 * r < 2 ^ sh then false else if 2 * r = 2 ^ sh then t % 2 == 1 else true
  | .rtz => false
  | .rup => !neg && r != 0
  | .rdn => neg && r != 0
  | .sr => decide (2 ^ n ≤ r * 2 ^ n / 2 ^ sh + rnd % 2 ^ n)

/-- m × 2^e rounded to the place 2^q (R105, R106): the integer multiple of 2^q. -/
def roundAt (rm : RM) (neg : Bool) (m : Nat) (e q : Int) (n rnd : Nat) : Nat :=
  if q ≤ e then m * 2 ^ (e - q).toNat
  else
    let sh := (q - e).toNat
    let t := m / 2 ^ sh
    let r := m % 2 ^ sh
    if roundUp? rm neg t r sh n rnd then t + 1 else t

/-- The code of an overflow (R107). -/
def FF.overflow (f : FF) (rm : RM) (sat neg : Bool) : Nat :=
  if sat || (!f.inf && !f.nan) then f.maxCode neg
  else if !f.inf then f.nanCode neg 0
  else match rm with
    | .rne | .sr => f.infCode neg
    | .rtz => f.maxCode neg
    | .rup => if neg then f.maxCode true else f.infCode false
    | .rdn => if neg then f.infCode true else f.maxCode false

/-- A value rounded to a format (R105-R108); n and rnd are the bit count and random bits of stochastic rounding. -/
def FF.encode (f : FF) (rm : RM) (sat : Bool) (n rnd : Nat) : FV → Nat
  | .nan s g => f.nanCode s g
  | .inf s =>
    if f.inf then f.infCode s else if sat || !f.nan then f.maxCode s else f.nanCode s 0
  | .fin s m e =>
    if m = 0 then f.signBit s
    else
      let q0 := (bitLen m : Int) + e - (f.fb + 1)
      let q := if q0 < f.qmin then f.qmin else q0
      let t0 := roundAt rm s m e q n rnd
      let t := if t0 = 2 ^ (f.fb + 1) then 2 ^ f.fb else t0
      let q := if t0 = 2 ^ (f.fb + 1) then q + 1 else q
      if t < 2 ^ f.fb then f.signBit s + t
      else if f.maxQ < q ∨ (q = f.maxQ ∧ f.maxT < t) then f.overflow rm sat s
      else f.signBit s + (q + f.fb + f.bias).toNat * 2 ^ f.fb + (t - 2 ^ f.fb)

/-- Rounded to nearest even. -/
def FF.rne (f : FF) (x : FV) : Nat := f.encode .rne false 0 0 x

/-- First NaN of two operands, else k (R103). -/
def nan2 (x y : FV) (k : FV) : FV := if x.isNan then x else if y.isNan then y else k

/-- Signed integer of a sign and magnitude. -/
def sgn (neg : Bool) (m : Nat) : Int := if neg then -(m : Int) else m

/-- Exact sum of finite values, with the sign of an exact zero (R111). -/
def addFin (rm : RM) (s1 : Bool) (m1 : Nat) (e1 : Int) (s2 : Bool) (m2 : Nat) (e2 : Int) : FV :=
  if m1 = 0 ∧ m2 = 0 then .zero (if s1 = s2 then s1 else rm == .rdn)
  else
    let e := if e1 < e2 then e1 else e2
    let v := sgn s1 (m1 * 2 ^ (e1 - e).toNat) + sgn s2 (m2 * 2 ^ (e2 - e).toNat)
    if v = 0 then .zero (rm == .rdn) else .fin (decide (v < 0)) v.natAbs e

/-- x + y, exact (R103, R111). -/
def FV.add (rm : RM) (x y : FV) : FV :=
  match x, y with
  | .inf a, .inf b => if a = b then .inf a else .canon
  | .fin s1 m1 e1, .fin s2 m2 e2 => addFin rm s1 m1 e1 s2 m2 e2
  | .inf a, .fin _ _ _ => .inf a
  | .fin _ _ _, .inf b => .inf b
  | x, y => nan2 x y .canon

/-- x × y, exact. -/
def FV.mul (x y : FV) : FV :=
  match x, y with
  | .fin s1 m1 e1, .fin s2 m2 e2 => .fin (s1 != s2) (m1 * m2) (e1 + e2)
  | .inf a, .inf b => .inf (a != b)
  | .inf a, .fin s m _ => if m = 0 then .canon else .inf (a != s)
  | .fin s m _, .inf b => if m = 0 then .canon else .inf (s != b)
  | x, y => nan2 x y .canon

/-- Whether x × y is the invalid product of zero and infinity. -/
def FV.mulInvalid (x y : FV) : Bool := (x.isZero && y.isInf) || (x.isInf && y.isZero)

/-- x × y + z with one rounding to come (R103, R111): invalid first, then the first NaN of x, y, z. -/
def FV.fma (rm : RM) (x y z : FV) : FV :=
  if FV.mulInvalid x y then .canon
  else if x.isNan then x
  else if y.isNan then y
  else FV.add rm (FV.mul x y) z

/-- Order of two values that are no NaN, −0 below +0. -/
def FV.lt0 (x y : FV) : Bool :=
  match x, y with
  | .inf a, .inf b => a && !b
  | .inf a, _ => a
  | _, .inf b => !b
  | .fin s1 m1 e1, .fin s2 m2 e2 =>
    if m1 = 0 ∧ m2 = 0 then s1 && !s2
    else
      let e := if e1 < e2 then e1 else e2
      decide (sgn s1 (m1 * 2 ^ (e1 - e).toNat) < sgn s2 (m2 * 2 ^ (e2 - e).toNat))
  | _, _ => false

/-- x < y as numbers: zeros equal, NaN false. -/
def FV.lt (x y : FV) : Bool := if x.isZero && y.isZero then false else !x.isNan && !y.isNan && FV.lt0 x y
/-- x = y as numbers. -/
def FV.eq (x y : FV) : Bool := !x.isNan && !y.isNan && !FV.lt x y && !FV.lt y x

/-- Minimum and maximum, −0 below +0, NaNs under R103. -/
def FV.min (x y : FV) : FV := if x.isNan then x else if y.isNan then y else if FV.lt0 y x then y else x
def FV.max (x y : FV) : FV := if x.isNan then x else if y.isNan then y else if FV.lt0 x y then y else x

-- special functions (R112) --------------------------------------------------------------------------------------

/-- A positive value m × 2^e, with a last bit that says that more follows below it. -/
def sticky (neg : Bool) (m : Nat) (e : Int) (more : Bool) : FV := .fin neg (2 * m + if more then 1 else 0) (e - 1)

/-- 1/x. -/
def FV.rcp : FV → FV
  | .nan s f => .nan s f
  | .inf s => .zero s
  | .fin s m e =>
    if m = 0 then .inf s
    else
      let k : Nat := 160
      sticky s (2 ^ k / m) (-(k : Int) - e) (2 ^ k % m != 0)

/-- Newton iteration for the integer square root. -/
def isqrtGo : Nat → Nat → Nat → Nat
  | 0, _, x => x
  | f + 1, n, x =>
    let y := (x + n / x) / 2
    if y < x then isqrtGo f n y else x
/-- Integer square root. -/
def isqrt (n : Nat) : Nat := if n = 0 then 0 else isqrtGo 600 n (2 ^ (bitLen n / 2 + 1))

/-- √x of a nonnegative finite value, for NORM2 (R318). -/
def FV.sqrt : FV → FV
  | .nan s f => .nan s f
  | .inf s => if s then .canon else .inf false
  | .fin s m e =>
    if m = 0 then .zero s
    else if s then .canon
    else
      let odd := e % 2 != 0
      let m' := if odd then 2 * m else m
      let e' := if odd then e - 1 else e
      let k : Nat := 100
      let r := isqrt (m' * 2 ^ (2 * k))
      sticky false r (e' / 2 - k) (r * r != m' * 2 ^ (2 * k))

/-- 1/√x. -/
def FV.rsq : FV → FV
  | .nan s f => .nan s f
  | .inf s => if s then .canon else .zero false
  | .fin s m e =>
    if m = 0 then .inf s
    else if s then .canon
    else
      let odd := e % 2 != 0
      let m' := if odd then 2 * m else m
      let e' := if odd then e - 1 else e
      let k : Nat := 120
      let r := isqrt (2 ^ (2 * k) / m')
      sticky false r (-(k : Int) - e' / 2) (r * r * m' != 2 ^ (2 * k))

/-- Product of the constants 2^(2^-i) over the one bits of a fraction of `n` bits, in fixed point of p bits. -/
def exp2Go (p : Nat) : Nat → Nat → Nat → Nat → Nat
  | 0, _, _, acc => acc
  | n + 1, f, c, acc =>
    let c := isqrt (c * 2 ^ p)
    exp2Go p n f c (if f / 2 ^ n % 2 = 1 then acc * c / 2 ^ p else acc)

/-- 2^x. -/
def FV.exp2 : FV → FV
  | .nan s f => .nan s f
  | .inf s => if s then .zero false else .inf false
  | .fin s m e =>
    if m = 0 then .fin false 1 0
    else if 0 ≤ e ∧ decide (bitLen m + e.toNat ≤ 16) then
      .fin false 1 (sgn s (m * 2 ^ e.toNat))
    else if 16 < (bitLen m : Int) + e then .fin false 1 (if s then -70000 else 70000)
    else if (bitLen m : Int) + e < -40 then
      if s then .fin false (2 ^ 80 - 1) (-80) else .fin false (2 ^ 80 + 1) (-80)
    else
      -- x = n + f / 2^k with 0 ≤ f < 2^k
      let k := (-e).toNat
      let v := sgn s m
      let n := v / 2 ^ k
      let f := (v % 2 ^ k).toNat
      if f = 0 then .fin false 1 n
      else
        let p : Nat := 240
        sticky false (exp2Go p k f (2 * 2 ^ p) (2 ^ p)) (n - p) true

/-- Bits of log2 of a fixed-point number in [1, 2): n bits, by repeated squaring. -/
def log2Go (p : Nat) : Nat → Nat → Nat → Nat
  | 0, _, acc => acc
  | n + 1, y, acc =>
    let z := y * y / 2 ^ p
    if 2 ^ (p + 1) ≤ z then log2Go p n (z / 2) (2 * acc + 1) else log2Go p n z (2 * acc)

/-- log2 x. -/
def FV.log2 : FV → FV
  | .nan s f => .nan s f
  | .inf s => if s then .canon else .inf false
  | .fin s m e =>
    if m = 0 then .inf true
    else if s then .canon
    else
      let l := bitLen m - 1
      let ex : Int := e + l
      if m = 2 ^ l then (if ex = 0 then .zero false else FV.ofInt ex)
      else
        let p : Nat := 500
        let n : Nat := 160
        let fr := log2Go p n (m * 2 ^ (p - l)) 0
        let v : Int := ex * 2 ^ n + fr
        -- the true value lies strictly between v and v + 1, in units of 2^-n
        if 0 ≤ v then sticky false v.natAbs (-(n : Int)) true else sticky true (v.natAbs - 1) (-(n : Int)) true

-- elements and conversions --------------------------------------------------------------------------------------

/-- Layout of a floating-point format code; code 5 stands for a lone E2M1 element (R193). -/
def fmtFF : Fmt → FF
  | .fp32 => .fp32 | .bf16 => .bf16 | .fp16 => .fp16 | .e4m3 => .e4m3 | .e5m2 => .e5m2
  | .mxfp4 => .e2m1 | .zb4 => .e2m1 | .int8 => .fp32 | .uint8 => .fp32

/-- Whether a format is an integer format (R101). -/
def fmtInt : Fmt → Bool
  | .int8 | .uint8 => true
  | _ => false

/-- Two's-complement value of an n-bit code. -/
def toSigned (n c : Nat) : Int := if c % 2 ^ n < 2 ^ (n - 1) then ((c % 2 ^ n : Nat) : Int) else ((c % 2 ^ n : Nat) : Int) - ((2 ^ n : Nat) : Int)

/-- n-bit code of an integer. -/
def ofSigned (n : Nat) (i : Int) : Nat := (i % ((2 ^ n : Nat) : Int)).toNat

/-- Value of an element without scale (R96, R97, R101). -/
def elemFV (t : Fmt) (c : Nat) : FV :=
  match t with
  | .int8 => .ofInt (toSigned 8 c)
  | .uint8 => .ofNat (c % 256)
  | t => (fmtFF t).decode (c % 2 ^ t.bits)

/-- Rounded to an integer under RM, NaN and infinities apart (R108). -/
def FV.toInt (rm : RM) (n rnd : Nat) : FV → Int
  | .fin s m e => sgn s (roundAt rm s m e 0 n rnd)
  | _ => 0

/-- Clamp to [lo, hi]. -/
def clampI (lo hi v : Int) : Int := if v < lo then lo else if hi < v then hi else v

/-- Saturating conversion to an integer of n bits (R108). -/
def satInt (rm : RM) (sgnd : Bool) (bits n rnd : Nat) (x : FV) : Nat :=
  let lo : Int := if sgnd then -(2 ^ (bits - 1)) else 0
  let hi : Int := if sgnd then 2 ^ (bits - 1) - 1 else 2 ^ bits - 1
  match x with
  | .nan _ _ => 0
  | .inf s => ofSigned bits (if s then lo else hi)
  | x => ofSigned bits (clampI lo hi (x.toInt rm n rnd))

/-- One conversion to a format (R105-R108). -/
def convTo (t : Fmt) (rm : RM) (sat : Bool) (n rnd : Nat) (x : FV) : Nat :=
  match t with
  | .int8 => satInt rm true 8 n rnd x
  | .uint8 => satInt rm false 8 n rnd x
  | t => (fmtFF t).encode rm sat n rnd x

/-- Value of a ZB4 code (R100): type and code, as sign, magnitude and exponent. -/
def zb4Val (ty c : Nat) : FV :=
  match ty with
  | 0 => .ofInt (toSigned 4 c)
  | 1 => FF.e2m1.decode c
  | 2 => .fin (decide (8 ≤ c)) 1 (((c % 8 : Nat) : Int) - 4)
  | _ =>
    if c ≤ 8 then .ofNat c
    else if c = 9 then .ofNat 12 else if c = 10 then .ofNat 16 else if c = 11 then .ofNat 24
    else if c = 12 then .ofInt (-8) else if c = 13 then .ofInt (-12) else if c = 14 then .ofInt (-16) else .ofInt (-24)

/-- Element and scale of a matrix operand (R98, R99, R113): the two factors. -/
def scaledPair (t : Fmt) (code scale : Nat) : FV × FV :=
  match t with
  | .mxfp4 =>
    let x : Nat := scale % 256
    (FF.e2m1.decode (code % 16), if x = 255 then .canon else .fin false 1 ((x : Int) - 127))
  | .zb4 =>
    let ty := scale / 2 ^ 22 % 4
    let e : Nat := scale / 2 ^ 14 % 256
    let f : Nat := scale % 2 ^ 14
    if e = 0 then (.zero false, .fin false 1 0)
    else if e = 255 then (.canon, .fin false 1 0)
    else (zb4Val ty (code % 16), .fin false (2 ^ 14 + f) ((e : Int) - 127 - 14))
  | t => (elemFV t code, .fin false 1 0)

/-- The sum of one block (R113, R114): P before its rounding, from the products' factors in increasing k. `ints` says that the factors
are integers, whose products are never −0 (R101). -/
def blockSum (ints : Bool) (ps : List ((FV × FV) × (FV × FV))) : FV :=
  let nan := ps.findSome? fun (a, w) =>
    if a.1.isNan then some a.1 else if a.2.isNan then some a.2 else if w.1.isNan then some w.1
    else if w.2.isNan then some w.2 else none
  match nan with
  | some x => x
  | none =>
    let prods := ps.map fun (a, w) => FV.mul (FV.mul a.1 a.2) (FV.mul w.1 w.2)
    let bad := prods.any FV.isNan
    let pinf := prods.any fun x => x.isInf && !x.sign
    let ninf := prods.any fun x => x.isInf && x.sign
    if bad || (pinf && ninf) then .canon
    else if pinf then .inf false
    else if ninf then .inf true
    else
      let s := prods.foldl (fun acc x => FV.add .rne acc x) (.fin true 0 0)
      match s with
      | .fin _ 0 _ => .zero (!ints && prods.all FV.sign)
      | s => s

/-- One accumulation of a block into a cell (R113). -/
def accBlock (ints : Bool) (acc : Nat) (ps : List ((FV × FV) × (FV × FV))) : Nat :=
  let p := FF.fp32.rne (blockSum ints ps)
  FF.fp32.rne (FV.add .rne (FF.fp32.decode acc) (FF.fp32.decode p))

-- blocks of MXFP4 and ZB4 (R110) --------------------------------------------------------------------------------

/-- Magnitude of a value. -/
def FV.abs : FV → FV
  | .fin _ m e => .fin false m e
  | .inf _ => .inf false
  | .nan _ f => .nan false f

/-- Distance of v from c × s, as an exact value. -/
def distTo (v c s : FV) : FV := (FV.add .rne v (FV.mul c s).neg).abs

/-- Nearest code of a table, for v / s (R110): on a tie the even code, then the smaller magnitude. Of two codes that still tie, the two
zeros, the lower is taken, which is +0 (DESIGN CHOICE, log entry 135). -/
def nearestCode (tbl : Nat → FV) (v s : FV) : Nat :=
  (List.range 16).foldl (fun b c =>
    let db := distTo v (tbl b) s
    let dc := distTo v (tbl c) s
    if dc.lt db then c
    else if db.lt dc then b
    else if b % 2 != c % 2 then (if c % 2 = 0 then c else b)
    else if (tbl c).abs.lt (tbl b).abs then c else b) 0

/-- The code of largest magnitude with the sign of an infinite v. -/
def extremeCode (tbl : Nat → FV) (neg : Bool) : Nat :=
  (List.range 16).foldl (fun b c => if neg then (if (tbl c).lt (tbl b) then c else b)
    else (if (tbl b).lt (tbl c) then c else b)) 0

/-- Largest magnitude of a block. -/
def amax (vs : List FV) : FV := vs.foldl (fun a v => FV.max a v.abs) (.zero false)

/-- An MXFP4 block: 32 codes and the scale byte (R110). -/
def encodeMxfp4 (vs : List FV) : List Nat × Nat :=
  if vs.any FV.isNan then (vs.map fun _ => 0, 0xFF)
  else
    let x : Int := match amax vs with
      | .fin _ m e => if m = 0 then -127 else clampI (-127) 127 (((bitLen m : Nat) : Int) - 1 + e - 2)
      | _ => 127
    let s : FV := .fin false 1 x
    (vs.map fun v => match v with
      | .inf n => extremeCode FF.e2m1.decode n
      | v => nearestCode FF.e2m1.decode v s, (x + 127).toNat)

/-- A ZB4 block of a type: 32 codes and the scale word (R110). -/
def encodeZb4 (ty : Nat) (vs : List FV) : List Nat × Nat :=
  if vs.any FV.isNan then (vs.map fun _ => 0, ty * 2 ^ 22 + 255 * 2 ^ 14)
  else match amax vs with
    | .fin _ m e =>
      if m = 0 then (vs.map fun _ => 0, ty * 2 ^ 22)
      else
        let q : Nat := match ty with | 0 => 7 | 1 => 6 | 2 => 8 | _ => 24
        -- amax / q rounded up to 15 significant bits
        let big := m * 2 ^ 64
        let r := big / q
        let more := big % q != 0
        let l := bitLen r
        let cut := r / 2 ^ (l - 15)
        let t := if more || r % 2 ^ (l - 15) != 0 then cut + 1 else cut
        let ex : Int := e - 64 + (l - 15 : Nat)
        let t' := if t = 2 ^ 15 then 2 ^ 14 else t
        let ex' := if t = 2 ^ 15 then ex + 1 else ex
        let t'' := if ex' + 14 < -126 then 2 ^ 14 else if 127 < ex' + 14 then 2 ^ 15 - 1 else t'
        let e'' := clampI (-126) 127 (ex' + 14)
        let s : FV := .fin false t'' (e'' - 14)
        (vs.map fun v => nearestCode (zb4Val ty) v s, ty * 2 ^ 22 + (e'' + 127).toNat * 2 ^ 14 + (t'' - 2 ^ 14))
    | _ =>
      let s : FV := .fin false (2 ^ 15 - 1) 113
      (vs.map fun v => match v with
        | .inf n => extremeCode (zb4Val ty) n
        | v => nearestCode (zb4Val ty) v s, ty * 2 ^ 22 + 254 * 2 ^ 14 + (2 ^ 14 - 1))

end Sys2Proof.Machine
end

