-- ==== Sys2Proof/Syntax.lean ====
section
/-! DEFINITION. The instructions and steps of the Z9: one constructor for each row of spec/opcode_table.json. Berth words
(spec/05 R67-R81) carry their head `h`; register fields are register numbers; immediates are the encoded field. Pier words:
spec/19 R289-R294. Wharf commands: spec/21 R302, R314; `x` holds the WAIT and SIGNAL bytes. The device's own steps
(spec/95) have no word; what a step with no operand here acts on (a berth, an operation, a port, a manifest, a channel) stands in
State's subject. The constructors with operands stand first. -/

namespace Sys2Proof

inductive Instr where
  -- berth: issue and landing
  | vbusCrcFailure (b group wire : Nat)
  -- scalar forms
  | nop (h : Hd)
  | add (h : Hd) (d a b : Nat)
  | sub (h : Hd) (d a b : Nat)
  | and (h : Hd) (d a b : Nat)
  | or (h : Hd) (d a b : Nat)
  | xor (h : Hd) (d a b : Nat)
  | andn (h : Hd) (d a b : Nat)
  | shl (h : Hd) (d a b : Nat)
  | shr (h : Hd) (d a b : Nat)
  | sar (h : Hd) (d a b : Nat)
  | rol (h : Hd) (d a b : Nat)
  | min (h : Hd) (d a b : Nat)
  | max (h : Hd) (d a b : Nat)
  | minu (h : Hd) (d a b : Nat)
  | maxu (h : Hd) (d a b : Nat)
  | clz (h : Hd) (d a : Nat)
  | popc (h : Hd) (d a : Nat)
  | mov (h : Hd) (d a : Nat)
  | mul (h : Hd) (d a b : Nat)
  | mulh (h : Hd) (d a b : Nat)
  | mulhu (h : Hd) (d a b : Nat)
  | div (h : Hd) (d a b : Nat)
  | divu (h : Hd) (d a b : Nat)
  | rem (h : Hd) (d a b : Nat)
  | remu (h : Hd) (d a b : Nat)
  | addi (h : Hd) (d a imm : Nat)
  | movi (h : Hd) (d imm : Nat)
  | movh (h : Hd) (d a imm : Nat)
  | shli (h : Hd) (d a n : Nat)
  | shri (h : Hd) (d a n : Nat)
  | sari (h : Hd) (d a n : Nat)
  | bext (h : Hd) (d a lo wm1 : Nat)
  | bins (h : Hd) (d a lo wm1 : Nat)
  | setb (h : Hd) (d a p : Nat)
  | clrb (h : Hd) (d a p : Nat)
  | cmpeq (h : Hd) (d p a b : Nat)
  | cmpne (h : Hd) (d p a b : Nat)
  | cmplt (h : Hd) (d p a b : Nat)
  | cmpltu (h : Hd) (d p a b : Nat)
  | cmple (h : Hd) (d p a b : Nat)
  | cmpleu (h : Hd) (d p a b : Nat)
  | sel (h : Hd) (d a b : Nat)
  | lds (h : Hd) (d a imm : Nat)
  | sts (h : Hd) (d a imm : Nat)
  -- control forms
  | br (h : Hd) (off : Nat)
  | call (h : Hd) (d off : Nat)
  | jmp (h : Hd) (d a : Nat)
  | ret (h : Hd) (a : Nat)
  | loop (h : Hd) (l c off : Nat)
  | loopi (h : Hd) (l n off : Nat)
  | mtl (h : Hd) (r : LoopReg) (l a : Nat)
  | mfl (h : Hd) (d : Nat) (r : LoopReg) (l : Nat)
  -- system forms
  | trap (h : Hd) (imm : Nat)
  | bkpt (h : Hd) (imm : Nat)
  | rett (h : Hd)
  | exit (h : Hd)
  | mfsys (h : Hd) (d n : Nat)
  | mtsys (h : Hd) (a n : Nat)
  | phase (h : Hd) (l : Nat)
  | fence (h : Hd) (ma mb : Nat)
  | pfence (h : Hd) (die : Bool)
  | time (h : Hd) (d : Nat) (fabric : Bool)
  | id (h : Hd) (d key : Nat)
  | launch (h : Hd) (a q : Nat)
  | mboxreg (h : Hd) (d a nm1 sm6 : Nat) (loc : Bool)
  | mboxack (h : Hd)
  -- token forms
  | tklend (h : Hd) (g n : Nat) (sp : Bool)
  | tkret (h : Hd) (g : Nat) (sp : Bool)
  | tksplit (h : Hd) (g : Nat) (sp : Bool)
  | tkjoin (h : Hd) (g : Nat) (sp : Bool)
  | tkshare (h : Hd) (g n : Nat) (lvl sp : Bool)
  | tkunshare (h : Hd) (g : Nat) (sp : Bool)
  | tkatom (h : Hd) (g : Nat) (back sp : Bool)
  | tkquery (h : Hd) (g x : Nat) (sp : Bool)
  | tkclaim (h : Hd) (g : Nat) (sp : Bool)
  -- vector forms
  | vadd (h : Hd) (d a b : MName) (f16 : Bool) (rm : RM) (w : Width) (k : Nat)
  | vsub (h : Hd) (d a b : MName) (f16 : Bool) (rm : RM) (w : Width) (k : Nat)
  | vmul (h : Hd) (d a b : MName) (f16 : Bool) (rm : RM) (w : Width) (k : Nat)
  | vfma (h : Hd) (d a b : MName) (f16 : Bool) (rm : RM) (w : Width) (k : Nat)
  | vfms (h : Hd) (d a b : MName) (f16 : Bool) (rm : RM) (w : Width) (k : Nat)
  | vmin (h : Hd) (d a b : MName) (f16 : Bool) (w : Width) (k : Nat)
  | vmax (h : Hd) (d a b : MName) (f16 : Bool) (w : Width) (k : Nat)
  | vabs (h : Hd) (d a : MName) (f16 : Bool) (w : Width) (k : Nat)
  | vneg (h : Hd) (d a : MName) (f16 : Bool) (w : Width) (k : Nat)
  | vexp2 (h : Hd) (d a : MName) (f16 : Bool) (w : Width) (k : Nat)
  | vlog2 (h : Hd) (d a : MName) (f16 : Bool) (w : Width) (k : Nat)
  | vrsq (h : Hd) (d a : MName) (f16 : Bool) (w : Width) (k : Nat)
  | vrcp (h : Hd) (d a : MName) (f16 : Bool) (w : Width) (k : Nat)
  | viadd (h : Hd) (d a b : MName) (u sat : Bool) (w : Width) (k : Nat)
  | visub (h : Hd) (d a b : MName) (u sat : Bool) (w : Width) (k : Nat)
  | vimul (h : Hd) (d a b : MName) (hi u sat : Bool) (w : Width) (k : Nat)
  | vand (h : Hd) (d a b : MName) (w : Width) (k : Nat)
  | vor (h : Hd) (d a b : MName) (w : Width) (k : Nat)
  | vxor (h : Hd) (d a b : MName) (w : Width) (k : Nat)
  | vshl (h : Hd) (d a b : MName) (w : Width) (k : Nat)
  | vshr (h : Hd) (d a b : MName) (w : Width) (k : Nat)
  | vsar (h : Hd) (d a b : MName) (w : Width) (k : Nat)
  | vcmp (h : Hd) (kd : Nat) (a b : MName) (t : CmpType) (c : VCond) (w : Width) (k : Nat)
  | vsel (h : Hd) (d a b : MName) (w : Width) (k : Nat)
  | vcvt (h : Hd) (d a : MName) (src dst : Fmt) (rm : RM) (sat : Bool) (nm1 p : Nat) (k : Nat)
  | vkey (h : Hd) (d a : MName) (desc : Bool) (t : KeyType) (f16 : Bool) (w : Width) (k : Nat)
  | vhist (h : Hd) (d a : MName) (lo dbm1 : Nat) (half acc : Bool) (w : Width) (k : Nat)
  | vscan (h : Hd) (d a : MName) (rev int : Bool) (rm : RM) (w : Width) (k : Nat)
  | vred (h : Hd) (d a : MName) (kind : RedKind) (u f16 : Bool) (rm : RM) (w : Width) (k : Nat)
  | vcomp (h : Hd) (d a : MName) (w : Width) (k : Nat)
  | vexpd (h : Hd) (d a : MName) (w : Width) (k : Nat)
  | vperm (h : Hd) (d a b : MName) (z hi : Bool) (w : Width) (k : Nat)
  | vbcast (h : Hd) (d : MName) (a : Nat) (w : Width) (imm : Nat)
  | vmovs (h : Hd) (m : MName) (s : Nat) (sx toVec : Bool) (w : Width) (j : Nat)
  | vrot (h : Hd) (a imm : Nat)
  | vmconf (h : Hd) (a imm : Nat)
  | kand (h : Hd) (kd ka kb : Nat)
  | kor (h : Hd) (kd ka kb : Nat)
  | knot (h : Hd) (kd ka : Nat)
  | kpopc (h : Hd) (d ka : Nat)
  | vld (h : Hd) (m : MName) (a k : Nat) (w : Width) (imm : Nat)
  | vst (h : Hd) (m : MName) (a k : Nat) (w : Width) (imm : Nat)
  | vldx (h : Hd) (d a : MName) (p : Nat) (w : Width) (k : Nat)
  | vstx (h : Hd) (a b : MName) (p : Nat) (w : Width) (k : Nat)
  -- lighter, stream, ring, probe, atomic and semaphore forms
  | cp (h : Hd) (g l n x : Nat) (q : CopyQ) (out st : Bool) (tag : Nat)
  | cpw (h : Hd) (g l n x : Nat) (q : CopyQ) (out st : Bool) (tag : Nat)
  | cpg (h : Hd) (g l n : Nat) (zero : Bool) (tag : Nat)
  | cps (h : Hd) (g l n x : Nat) (q : CopyQ) (out st : Bool) (tag : Nat)
  | lwait (h : Hd) (c : Nat)
  | stbind (h : Hd) (x es : Nat)
  | strel (h : Hd) (g l x : Nat)
  | rconf (h : Hd) (q l n : Nat)
  | racq (h : Hd) (q l : Nat)
  | rpub (h : Hd) (q l : Nat)
  | rtake (h : Hd) (q l : Nat)
  | rrel (h : Hd) (q : Nat)
  | probe (h : Hd) (g l pt off : Nat)
  | pwait (h : Hd) (l : Nat)
  | pinv (h : Hd) (g pt : Nat) (all : Bool)
  | atom (h : Hd) (g l n x : Nat) (op : AtomOp) (ord : Nat) (w64 : Bool) (scope : Nat)
  | atomnr (h : Hd) (g l n : Nat) (op : AtomOp) (ord : Nat) (w64 : Bool) (scope : Nat)
  | atomfence (h : Hd) (scope : Nat)
  | semwait (h : Hd) (g n : Nat) (cond : SCond) (sub : Bool)
  | sempost (h : Hd) (g n : Nat)
  | whpush (h : Hd) (g l n : Nat)
  | imload (h : Hd) (g l n tag : Nat)
  | layset (h : Hd) (l n : Nat)
  | wconf (h : Hd) (w g l n : Nat)
  -- matrix forms
  | mmul (h : Hd) (c qa m : Nat) (gang : Gang) (z mask : Bool)
  | wload (h : Hd) (qb : Nat) (gang : Gang) (fmt : Fmt)
  | wswap (h : Hd) (gang : Gang)
  | fmtpush (h : Hd) (m : Nat)
  | fmtclr (h : Hd)
  | sqbind (h : Hd) (qb : Nat) (none : Bool)
  | mpbclr (h : Hd)
  | acczero (h : Hd) (c : Nat) (gang : Gang)
  | accfree (h : Hd) (c : Nat) (gang : Gang)
  | accconf (h : Hd) (m : Nat)
  | accdrain (h : Hd) (c m : Nat) (gang : Gang) (fmt : Fmt) (rm : RM) (sat : Bool) (ra rb : Nat)
  | accread (h : Hd) (x : MName) (c m : Nat)
  | accwrite (h : Hd) (c m : Nat) (x : MName)
  | mpbld (h : Hd) (m : Nat)
  -- arrivals and completions of berth operations
  | streamElementArrive (b x : Nat)
  -- harbourmaster
  | lqtailDoorbell (q v : Nat)
  | lqctlWrite (q v : Nat)
  | barrierComplete (t l inst : Nat)
  | mailboxHandlerEnter (mbox slot : Nat)
  -- fabric
  | fabctlWrite (v : Nat)
  | portmapWrite (v : Nat)
  | frameReceive (port : Nat) (f : Frame)
  | retryRequest (port seq : Nat)
  | laneFail (port lane : Nat)
  | timestampExchange (port stamp : Nat)
  | pierjobWrite (j v : Nat)
  | pierPacketMatch (port slot : Nat)
  -- pier words
  | addp (v bs ib : Bool) (d a b imm : Nat)
  | subp (v bs ib : Bool) (d a b imm : Nat)
  | mulp (v bs ib : Bool) (d a b imm : Nat)
  | faddp (v bs : Bool) (d a b : Nat)
  | fmaxp (v bs : Bool) (d a b : Nat)
  | minp (v bs ib u : Bool) (d a b imm : Nat)
  | maxp (v bs ib u : Bool) (d a b imm : Nat)
  | andp (v bs ib : Bool) (d a b imm : Nat)
  | orp (v bs ib : Bool) (d a b imm : Nat)
  | xorp (v bs ib : Bool) (d a b imm : Nat)
  | shp (v bs : Bool) (k : ShKind) (d a b : Nat)
  | cmpp (v bs u : Bool) (c : PCond) (d a b : Nat)
  | selp (v bs ib : Bool) (d c a b imm : Nat)
  | hld (x : Bool) (d a n : Nat)
  | pld (d : Nat)
  | pst (a : Nat)
  | fld (alloc : Bool) (d a n : Nat)
  | fst (a b n : Nat)
  | fcas (d a b n : Nat)
  | combine (mode : CombMode) (a b : Nat)
  | emit (dst : Bool) (a b : Nat)
  | redirect (tree : Bool) (a : Nat)
  | brf (z : Bool) (a off : Nat)
  | trapp (imm : Nat)
  -- wharf units
  | wuctlWrite (u v : Nat)
  | wustatWrite (u v : Nat)
  | nopw (x : WX)
  | setd (x : WX) (d w v : Nat)
  | wharfSemwait (x : WX) (da : Nat) (cond : SCond) (sub : Bool)
  | wharfSempost (x : WX) (da : Nat) (err : Bool)
  | barrier (x : WX) (da : Nat)
  | fill (x : WX) (da db : Nat)
  | copyc (x : WX) (da db : Nat)
  | convert (x : WX) (da db : Nat) (rm : RM) (sat : Bool)
  | gather (x : WX) (da db dc : Nat) (pad : Bool)
  | pool (x : WX) (da db dc dd : Nat) (mode : PoolMode) (split pad : Bool)
  | gemv (x : WX) (da db dc : Nat) (acc : Bool)
  | axpy (x : WX) (da db dc : Nat)
  | scale (x : WX) (da db : Nat)
  | reduce (x : WX) (da db : Nat) (kind : RedOp) (acc : Bool)
  | dot (x : WX) (da db dc : Nat)
  | norm2 (x : WX) (da db : Nat) (sq : Bool)
  | clamp (x : WX) (da db dc : Nat)
  | atomadd (x : WX) (da db dc : Nat)
  | atommax (x : WX) (da db dc : Nat) (min : Bool)
  | scatter (x : WX) (da db dc : Nat)
  | crc (x : WX) (da db : Nat)
  | sortidx (x : WX) (da db : Nat) (perm : Bool)
  | mergedup (x : WX) (da db dc dd : Nat)
  | topkv (x : WX) (da db dc km1 : Nat)
  -- memory channels
  | remapRewrite (c copy : Nat)
  | tempSample (c t : Nat)
  -- power, failure and debug
  | berthFailure (b code data : Nat)
  | evbaseWrite (v : Nat)
  -- host
  | hostRead (port pa : Nat)
  | hostWrite (port pa : Nat) (bytes : List Byte)
  | hrqtailDoorbell (v : Nat)
  | carveWrite (v : Nat)
  | poolwinWrite (n v : Nat)
  | uioCompletion (b id : Nat) (data : List Byte) (poison ok : Bool)
  | powerThrottleBegin (watts : Nat)
  | registerWrite (off v : Nat)
  | backInvalidateResponse (line : Nat) (dirty : List Byte)
  -- berth: issue and landing
  | groupIssue
  | resultLand
  | heldOpRelease
  | handlerResume
  | remoteLoadReturn
  | vbusReplayDone
  -- system forms
  | mboxregAnswer
  -- matrix forms
  | mmulRetire
  | wloadRetire
  -- arrivals and completions of berth operations
  | copyHomeArrival
  | copyComplete
  | probeFillComplete
  | atomicApply
  | semaphorePoll
  | tokenFormAtHome
  | tokenRefusalReturn
  | windowStoreArrive
  | windowReplyReturn
  | remoteLoadArrive
  | persistComplete
  | journalForcedPersist
  -- harbourmaster
  | manifestValidate
  | manifestEligible
  | manifestAge
  | manifestPlace
  | preempt
  | graceExpiry
  | preemptDrainDone
  | spillDone
  | fillDone
  | imageEvict
  | teamStart
  | berthThreadStart
  | budgetExpiry
  | teamRetire
  | wharfStreamDone
  -- fabric
  | portRetrainDone
  | requestTimeout
  | postedWrite
  | readRequest
  | readResponse
  | atomicPacket
  | atomicResponse
  | multicastWrite
  | barrierPacket
  | flowWrite
  | launchPacket
  | launchResponse
  | launchStartTime
  | eventPacket
  | pierKernelLoad
  | pierKernelUnload
  -- pier words
  | hold
  | fwd
  | drop
  | endk
  -- wharf units
  | illegalCommand
  | wharfWaitTimeout
  -- memory channels
  | channelFailure
  | refresh
  | patrolScrub
  -- power, failure and debug
  | tilePowerLoss
  | tilePowerRestore
  | powerGate
  | powerUngate
  | modulePowerLoss
  | moduleReset
  | fullService
  | debugHalt
  | debugResume
  | step
  | imgout
  | imgin
  | imageTransferDone
  -- host
  | map
  | mapx
  | unmap
  | hostTklend
  | hostTkret
  | hostTksplit
  | hostTkjoin
  | hostTkshare
  | hostTkunshare
  | hostTkatom
  | hostTkquery
  | hostTkclaim
  | migrate
  | jobinit
  | jobrel
  | attest
  | fwstage
  | fwcommit
  | pwrstatRead
  | wtempRead
  | powerThrottleEnd
  | thermalThrottleBegin
  | thermalThrottleEnd
  | thermalTrip
  | uioCompletionTimeout
deriving DecidableEq, Repr

end Sys2Proof
end

