-- ==== Sys2Proof/WellFormed.lean ====
section
/-! DEFINITION. Well-formed instructions: each field within what its encoding admits (spec/05 R67-R81 and the form's own rule,
spec/19 R289-R294, spec/21 R302, R314), and the steps' operands within the device (spec/00 R2). -/

namespace Sys2Proof

/-- A guard that the scanner accepts (R68): on s0 it must be all zero. -/
def Hd.wf (h : Hd) : Bool :=
  decide (h.gr < 64) && decide (h.gb < 64) && (h.gr != 0 || (!h.e && h.gb == 0))

/-- A matrix-register name that its 11 bits hold (R73). -/
def MName.wf (m : MName) : Bool := decide (m.plane < 4) && decide (m.idx < 128)

/-- Scalar register number. -/
def reg (r : Nat) : Bool := decide (r < 64)
/-- Lane mask number. -/
def kreg (k : Nat) : Bool := decide (k < 8)
/-- Berth number. -/
def berthOk (b : Nat) : Bool := decide (b < 128)
/-- Unit or channel number. -/
def unitOk (u : Nat) : Bool := decide (u < 256)
/-- Fabric port number. -/
def portOk (p : Nat) : Bool := decide (p < 11)

/-- Widths of a floating-point form, with its H bit (R182). -/
def fwOk (w : Width) (f16 : Bool) : Bool :=
  match w with
  | .w32 => !f16
  | .w16 => true
  | .w8 => false
  | .w4 => false

/-- Widths of an integer form. -/
def iwOk (w : Width) : Bool := w != .w4

/-- The WAIT and SIGNAL bytes that R303 accepts. -/
def WX.wf (x : WX) : Bool :=
  decide (x.wdesc < 64) && decide (x.sdesc < 64) && (x.wcond != .none || x.wdesc == 0) && (x.post || x.sdesc == 0)

/-- The operand b of a pier arithmetic word (R290): an immediate excludes a register and a broadcast. -/
def pbOk (v bs ib : Bool) (b imm lim : Nat) : Bool :=
  decide (b < 16) && decide (imm < lim) && (!bs || v) && (if ib then b == 0 && !bs else imm == 0)

/-- Ratio of the widths of a conversion (R193). -/
def cvtRatio (s d : Fmt) : Nat := Nat.max s.bits d.bits / Nat.min s.bits d.bits

/-- A format that VCVT names (R193): code 5 is a lone E2M1 element, code 6 is not legal. -/
def cvtFmt (f : Fmt) : Bool := f != .zb4

/-- Route of a copy (R214): the stream route names st0-st15 with l = s0, publishing names a ring, the count route names none. -/
def routeOk (l x : Nat) (q : CopyQ) (out st : Bool) : Bool :=
  if st then decide (x < 16) && q != .publish && !out && l == 0
  else if q == .publish then decide (16 ≤ x) && decide (x < 32) && !out
  else x == 0

/-- Well-formed instruction. -/
def Instr.wf : Instr → Bool
  | .streamElementArrive b x => berthOk b && decide (x < 16)
  | .vbusCrcFailure b g w => berthOk b && decide (g < 256) && decide (w < 64)
  | .berthFailure b c _ => berthOk b && decide (c < 256)
  | .nop h => h.wf && h.gr == 0
  | .rett h | .exit h | .mboxack h | .fmtclr h | .mpbclr h => h.wf
  | .add h d a b | .sub h d a b | .and h d a b | .or h d a b | .xor h d a b | .andn h d a b | .shl h d a b
  | .shr h d a b | .sar h d a b | .rol h d a b | .min h d a b | .max h d a b | .minu h d a b | .maxu h d a b
  | .mul h d a b | .mulh h d a b | .mulhu h d a b | .div h d a b | .divu h d a b | .rem h d a b | .remu h d a b
  | .sel h d a b => h.wf && reg d && reg a && reg b
  | .clz h d a | .popc h d a | .mov h d a => h.wf && reg d && reg a
  | .addi h d a i | .movh h d a i | .lds h d a i | .sts h d a i => h.wf && reg d && reg a && decide (i < 2 ^ 31)
  | .movi h d i => h.wf && reg d && decide (i < 2 ^ 31)
  | .shli h d a n | .shri h d a n | .sari h d a n | .setb h d a n | .clrb h d a n =>
      h.wf && reg d && reg a && decide (n < 64)
  | .bext h d a lo w | .bins h d a lo w => h.wf && reg d && reg a && decide (lo < 64) && decide (w < 64)
  | .cmpeq h d p a b | .cmpne h d p a b | .cmplt h d p a b | .cmpltu h d p a b | .cmple h d p a b
  | .cmpleu h d p a b => h.wf && reg d && decide (p < 64) && reg a && reg b
  | .br h o => h.wf && decide (o < 2 ^ 37)
  | .call h d o => h.wf && reg d && decide (o < 2 ^ 37)
  | .jmp h d a => h.wf && reg d && reg a
  | .ret h a => h.wf && reg a
  | .loop h l c o => h.wf && decide (l < 4) && reg c && decide (o < 2 ^ 15)
  | .loopi h l n o => h.wf && decide (l < 4) && decide (n < 2 ^ 20) && decide (o < 2 ^ 15)
  | .mtl h _ l a => h.wf && decide (l < 4) && reg a
  | .mfl h d _ l => h.wf && reg d && decide (l < 4)
  | .trap h i | .bkpt h i => h.wf && decide (i < 2 ^ 31)
  | .mfsys h d n => h.wf && reg d && sysOk n
  | .mtsys h a n => h.wf && reg a && sysOk n
  | .phase h l => h.wf && decide (l < 8)
  | .fence h a b => h.wf && decide (a < 128) && decide (b < 128)
  | .pfence h _ => h.wf
  | .time h d _ => h.wf && reg d
  | .id h d k => h.wf && reg d && decide (k < 22)
  | .launch h a q => h.wf && reg a && decide (q < 16)
  | .mboxreg h d a n s _ => h.wf && reg d && reg a && decide (n < 1024) && decide (s < 7)
  | .tklend h g n _ | .tkshare h g n _ _ => h.wf && reg g && reg n
  | .tkret h g _ | .tksplit h g _ | .tkjoin h g _ | .tkunshare h g _ | .tkatom h g _ _ | .tkclaim h g _ => h.wf && reg g
  | .tkquery h g x _ => h.wf && reg g && decide (x < 16)
  | .vadd h d a b f rm w k | .vsub h d a b f rm w k | .vmul h d a b f rm w k | .vfma h d a b f rm w k
  | .vfms h d a b f rm w k => h.wf && d.wf && a.wf && b.wf && fwOk w f && rm != .sr && kreg k
  | .vmin h d a b f w k | .vmax h d a b f w k => h.wf && d.wf && a.wf && b.wf && fwOk w f && kreg k
  | .vabs h d a f w k | .vneg h d a f w k | .vexp2 h d a f w k | .vlog2 h d a f w k | .vrsq h d a f w k
  | .vrcp h d a f w k => h.wf && d.wf && a.wf && fwOk w f && kreg k
  | .viadd h d a b _ _ w k | .visub h d a b _ _ w k => h.wf && d.wf && a.wf && b.wf && iwOk w && kreg k
  | .vimul h d a b hi _ s w k => h.wf && d.wf && a.wf && b.wf && iwOk w && !(hi && s) && kreg k
  | .vand h d a b _ k | .vor h d a b _ k | .vxor h d a b _ k | .vsel h d a b _ k => h.wf && d.wf && a.wf && b.wf && kreg k
  | .vshl h d a b w k | .vshr h d a b w k | .vsar h d a b w k => h.wf && d.wf && a.wf && b.wf && iwOk w && kreg k
  | .vcmp h kd a b t c w k => h.wf && kreg kd && a.wf && b.wf && kreg k && vcmpOk t c w
  | .vcvt h d a s t rm sat n p k =>
      h.wf && d.wf && a.wf && cvtFmt s && cvtFmt t && kreg k && decide (p < cvtRatio s t) && (cvtRatio s t != 8 || !sat)
        && (if rm == .sr then decide (n < Nat.min 16 t.bits) else n == 0)
  | .vkey h d a _ t f w k => h.wf && d.wf && a.wf && kreg k && (if t == .flt then fwOk w f else iwOk w && !f)
  | .vhist h d a lo db _ _ w k => h.wf && d.wf && a.wf && decide (lo < 32) && decide (db < 8) && iwOk w && kreg k
  | .vscan h d a _ i rm w k =>
      h.wf && d.wf && a.wf && kreg k && (if i then iwOk w && rm == .rne else w == .w32 && rm != .sr)
  | .vred h d a kind u f rm w k => h.wf && d.wf && a.wf && kreg k && vredOk kind u f rm w
  | .vcomp h d a w k | .vexpd h d a w k => h.wf && d.wf && a.wf && iwOk w && kreg k
  | .vperm h d a b _ hi w k => h.wf && d.wf && a.wf && b.wf && iwOk w && (!hi || w == .w8) && kreg k
  | .vbcast h d a _ i => h.wf && d.wf && reg a && decide (i < 2 ^ 21)
  | .vmovs h m s sx dir w j => h.wf && m.wf && reg s && !(sx && dir) && decide (j < 4096 / w.bits)
  | .vrot h a i | .vmconf h a i => h.wf && reg a && decide (i < 2 ^ 21)
  | .kand h d a b | .kor h d a b => h.wf && kreg d && kreg a && kreg b
  | .knot h d a => h.wf && kreg d && kreg a
  | .kpopc h d a => h.wf && reg d && kreg a
  | .vld h m a k _ i | .vst h m a k _ i => h.wf && m.wf && reg a && kreg k && decide (i < 2 ^ 21)
  | .vldx h d a p w k => h.wf && d.wf && a.wf && iwOk w && decide (p < 32 / w.bits) && kreg k
  | .vstx h a b p w k => h.wf && a.wf && b.wf && iwOk w && decide (p < 32 / w.bits) && kreg k
  | .cp h g l n x q o s t => h.wf && reg g && reg l && reg n && decide (t < 256) && routeOk l x q o s
      && (!(q == .t8 || q == .t16) || !o)
  | .cpw h g l n x q o s t | .cps h g l n x q o s t =>
      h.wf && reg g && reg l && reg n && decide (t < 256) && routeOk l x q o s && q != .t8 && q != .t16
  | .cpg h g l n _ t => h.wf && reg g && reg l && reg n && decide (t < 256)
  | .lwait h c => h.wf && decide (c ≤ 64)
  | .stbind h x e => h.wf && decide (x < 16) && decide (e < 3)
  | .strel h g l x => h.wf && reg g && reg l && decide (x < 16)
  | .rconf h q l n => h.wf && decide (q < 16) && reg l && reg n
  | .racq h q l | .rpub h q l | .rtake h q l => h.wf && decide (q < 16) && reg l
  | .rrel h q => h.wf && decide (q < 16)
  | .probe h g l p o => h.wf && reg g && reg l && decide (p < 4) && decide (o < 1024)
  | .pwait h l => h.wf && reg l
  | .pinv h g p all => h.wf && reg g && decide (p < 4) && (!all || g == 0)
  | .atom h g l n x op o w s => h.wf && reg g && reg l && reg n && decide (x < 16) && atomOk op w l && decide (o < 4)
      && decide (s < 10)
  | .atomnr h g l n op o w s => h.wf && reg g && reg l && reg n && op != .read && atomOk op w l && decide (o < 4)
      && decide (s < 10)
  | .atomfence h s => h.wf && decide (s < 10)
  | .semwait h g n c s => h.wf && reg g && reg n && (!s || c == .geu)
  | .sempost h g n => h.wf && reg g && reg n
  | .whpush h g l n => h.wf && reg g && reg l && reg n
  | .imload h g l n t => h.wf && reg g && reg l && reg n && decide (t < 256)
  | .layset h l n => h.wf && reg l && reg n
  | .wconf h w g l n => h.wf && decide (w < 16) && reg g && reg l && reg n
  | .mmul h c q m _ _ _ => h.wf && decide (c < 4) && decide (q < 16) && reg m
  | .wload h q _ f => h.wf && decide (q < 16) && f != .fp32
  | .wswap h _ => h.wf
  | .fmtpush h m | .accconf h m | .mpbld h m => h.wf && reg m
  | .sqbind h q nn => h.wf && decide (q < 16) && (!nn || q == 0)
  | .acczero h c _ | .accfree h c _ => h.wf && decide (c < 4)
  | .accdrain h c m _ f rm _ a b => h.wf && decide (c < 4) && reg m && f != .mxfp4 && f != .zb4 && rm != .sr && reg a && reg b
  | .accread h x c m | .accwrite h c m x => h.wf && x.wf && decide (c < 4) && reg m
  | .lqtailDoorbell q _ | .lqctlWrite q _ => decide (q < 16)
  | .mailboxHandlerEnter _ _ | .fabctlWrite _ | .portmapWrite _ => true
  | .barrierComplete _ l _ => decide (l < 8)
  | .frameReceive p f => portOk p && f.wf
  | .retryRequest p _ => portOk p
  | .timestampExchange p _ => portOk p
  | .laneFail p l => portOk p && decide (l < 18)
  | .pierjobWrite j _ => decide (j < 64)
  | .pierPacketMatch p k => portOk p && decide (k < 8)
  | .addp v s i d a b m | .subp v s i d a b m | .mulp v s i d a b m | .andp v s i d a b m | .orp v s i d a b m
  | .xorp v s i d a b m | .minp v s i _ d a b m | .maxp v s i _ d a b m =>
      decide (d < 16) && decide (a < 16) && pbOk v s i b m 1024
  | .faddp v s d a b | .fmaxp v s d a b | .shp v s _ d a b => decide (d < 16) && decide (a < 16) && pbOk v s false b 0 1
  | .cmpp v s u c d a b => decide (d < 16) && decide (a < 16) && pbOk v s false b 0 1 && (!u || (c != .flt && c != .feq))
  | .selp v s i d c a b m => decide (d < 16) && decide (c < 16) && decide (a < 16) && pbOk v s i b m 64
  | .hld x d a n => decide (d < 16) && decide (a < 16) && decide (n < 64) && (x || a == 0)
  | .pld d => decide (d < 16)
  | .pst a => decide (a < 16)
  | .fld _ d a n => decide (d < 16) && decide (a < 16) && decide (n < 16)
  | .fst a b n => decide (a < 16) && decide (b < 16) && decide (n < 16)
  | .fcas d a b n => decide (d < 16) && decide (a < 16) && decide (b < 16) && decide (n < 16)
  | .hold | .fwd | .drop | .endk => true
  | .combine _ a b => decide (a < 16) && decide (b < 16)
  | .emit dst a b => decide (a < 16) && decide (b < 16) && (dst || a == 0)
  | .redirect _ a => decide (a < 16)
  | .brf _ a o => decide (a < 16) && decide (o < 128)
  | .trapp i => decide (i < 2 ^ 16)
  | .wuctlWrite u _ | .wustatWrite u _ | .tempSample u _ => unitOk u
  | .remapRewrite c k => unitOk c && decide (k < 2)
  | .nopw x => x.wf
  | .setd x d w v => x.wf && decide (d < 64) && decide (w < 8) && decide (v < 2 ^ 32)
  | .wharfSemwait x a c s => x.wf && reg a && (!s || c == .geu)
  | .wharfSempost x a _ | .barrier x a => x.wf && reg a
  | .fill x a b | .copyc x a b | .scale x a b | .reduce x a b _ _ | .norm2 x a b _ | .crc x a b | .sortidx x a b _ =>
      x.wf && reg a && reg b
  | .convert x a b rm _ => x.wf && reg a && reg b && rm != .sr
  | .gather x a b c _ | .gemv x a b c _ | .axpy x a b c | .dot x a b c | .clamp x a b c | .atomadd x a b c
  | .atommax x a b c _ | .scatter x a b c => x.wf && reg a && reg b && reg c
  | .pool x a b c d m _ _ => x.wf && reg a && reg b && reg c && reg d && (m == .weighted || d == 0)
  | .mergedup x a b c d => x.wf && reg a && reg b && reg c && reg d
  | .topkv x a b c k => x.wf && reg a && reg b && reg c && decide (k < 1024)
  | .hostRead p _ => decide (p < 4)
  | .hostWrite p _ bs => decide (p < 4) && decide (bs.length ≤ 64)
  | .poolwinWrite n _ => decide (n < 4)
  | .uioCompletion b _ _ _ _ => berthOk b
  | .registerWrite off _ => decide (off < 2 ^ 26)
  | .backInvalidateResponse _ bs => decide (bs.length ≤ 64)
  | .evbaseWrite _ | .hrqtailDoorbell _ | .carveWrite _ | .powerThrottleBegin _ => true
  -- the steps without an operand act on State's subject
  | .groupIssue | .resultLand | .heldOpRelease | .handlerResume | .remoteLoadReturn | .vbusReplayDone | .mboxregAnswer
  | .mmulRetire | .wloadRetire | .copyHomeArrival | .copyComplete | .probeFillComplete | .atomicApply | .semaphorePoll
  | .tokenFormAtHome | .tokenRefusalReturn | .windowStoreArrive | .windowReplyReturn | .remoteLoadArrive
  | .persistComplete | .journalForcedPersist | .manifestValidate | .manifestEligible | .manifestAge | .manifestPlace
  | .preempt | .graceExpiry | .preemptDrainDone | .spillDone | .fillDone | .imageEvict | .teamStart | .berthThreadStart
  | .budgetExpiry | .teamRetire | .wharfStreamDone | .portRetrainDone | .requestTimeout | .postedWrite | .readRequest
  | .readResponse | .atomicPacket | .atomicResponse | .multicastWrite | .barrierPacket | .flowWrite | .launchPacket
  | .launchResponse | .launchStartTime | .eventPacket | .pierKernelLoad | .pierKernelUnload | .illegalCommand
  | .wharfWaitTimeout | .channelFailure | .refresh | .patrolScrub | .tilePowerLoss | .tilePowerRestore | .powerGate
  | .powerUngate | .modulePowerLoss | .moduleReset | .fullService | .debugHalt | .debugResume | .step | .imgout | .imgin
  | .imageTransferDone | .map | .mapx | .unmap | .hostTklend | .hostTkret | .hostTksplit | .hostTkjoin | .hostTkshare
  | .hostTkunshare | .hostTkatom | .hostTkquery | .hostTkclaim | .migrate | .jobinit | .jobrel | .attest | .fwstage
  | .fwcommit | .pwrstatRead | .powerThrottleEnd | .thermalThrottleBegin | .thermalThrottleEnd | .thermalTrip
  | .wtempRead | .uioCompletionTimeout => true
where
  /-- System register numbers of R169. -/
  sysOk (n : Nat) : Bool :=
    decide (n ≤ 5) || n == 8 || n == 0x40 || (decide (0x50 ≤ n) && decide (n < 0x74))
  /-- R191: FP16 at width 16 only, integer conditions without uo. -/
  vcmpOk (t : CmpType) (c : VCond) (w : Width) : Bool :=
    match t with
    | .flt => w == .w32 || w == .w16
    | .fp16 => w == .w16
    | .sgn | .uns => iwOk w && c != .uo
  /-- R198: fields that a kind does not use are zero. -/
  vredOk (k : RedKind) (u f : Bool) (rm : RM) (w : Width) : Bool :=
    match k with
    | .fsum => fwOk w f && !u && rm != .sr
    | .fmax | .fmin => fwOk w f && !u && rm == .rne
    | .isum => iwOk w && !f && rm == .rne
    | .smax | .smin | .umax | .umin => iwOk w && !u && !f && rm == .rne
  /-- R228: floating-point operations are 32 bits wide, and only CAS names a compare value. -/
  atomOk (op : AtomOp) (w64 : Bool) (l : Nat) : Bool :=
    (op == .cas || l == 0) && !(w64 && (op == .fadd || op == .fmax || op == .fmin))

end Sys2Proof
end

