-- ==== Sys2Proof/Decode.lean ====
section
/-! DEFINITION. Decoding and encoding of the three kinds of instruction word: berth words (spec/05 R67-R81 and each form's
own rule), pier words (spec/19 R289-R294) and wharf command words (spec/21 R302-R307, R314). A berth word that the scanner
would refuse is refused here by the scanner's code, RESERVED (1) before ZERO (2) (R83). The encoders are written from the
same layouts. -/

namespace Sys2Proof

/-- Bits lo .. lo + n - 1 of w. -/
def fld (w lo n : Nat) : Nat := w / 2 ^ lo % 2 ^ n

/-- A Boolean as a bit. -/
def bit (b : Bool) : Nat := if b then 1 else 0

/-- A bit as a Boolean. -/
def tst (n : Nat) : Bool := n != 0

-- codes of the small enumerations -------------------------------------------------------------------------------

/-- Width code (R70). -/
def Width.code : Width → Nat
  | .w32 => 0 | .w16 => 1 | .w8 => 2 | .w4 => 3
/-- Width of a 2-bit code. -/
def Width.ofCode (n : Nat) : Width :=
  if n = 0 then .w32 else if n = 1 then .w16 else if n = 2 then .w8 else .w4

/-- Direction code (R73). -/
def Dir.code : Dir → Nat
  | .h => 0 | .v => 1 | .d => 2 | .a => 3
/-- Direction of a 2-bit code. -/
def Dir.ofCode (n : Nat) : Dir := if n = 0 then .h else if n = 1 then .v else if n = 2 then .d else .a

/-- MRF name in 11 bits (R73). -/
def MName.code (m : MName) : Nat := m.plane * 512 + m.dir.code * 128 + m.idx
/-- MRF name of 11 bits. -/
def MName.ofCode (n : Nat) : MName := ⟨fld n 9 2, Dir.ofCode (fld n 7 2), fld n 0 7⟩

/-- Rounding mode code (R105). -/
def RM.code : RM → Nat
  | .rne => 0 | .rtz => 1 | .rup => 2 | .rdn => 3 | .sr => 4
/-- Rounding mode of a code; codes above 4 name none. -/
def RM.ofCode? (n : Nat) : Option RM :=
  if n = 0 then some .rne else if n = 1 then some .rtz else if n = 2 then some .rup else if n = 3 then some .rdn
  else if n = 4 then some .sr else none
/-- Rounding mode of a form without stochastic rounding: codes above 3 are reserved. -/
def RM.det? (n : Nat) : Option RM := if n < 4 then RM.ofCode? n else none

/-- Format code (R95). -/
def Fmt.code : Fmt → Nat
  | .fp32 => 0 | .bf16 => 1 | .fp16 => 2 | .e4m3 => 3 | .e5m2 => 4 | .mxfp4 => 5 | .zb4 => 6 | .int8 => 7 | .uint8 => 8
/-- Format of a code; codes above 8 are reserved. -/
def Fmt.ofCode? (n : Nat) : Option Fmt :=
  if n = 0 then some .fp32 else if n = 1 then some .bf16 else if n = 2 then some .fp16 else if n = 3 then some .e4m3
  else if n = 4 then some .e5m2 else if n = 5 then some .mxfp4 else if n = 6 then some .zb4 else if n = 7 then some .int8
  else if n = 8 then some .uint8 else none

/-- Loop register code (R167). -/
def LoopReg.code : LoopReg → Nat
  | .lc => 0 | .lb => 1 | .le => 2
def LoopReg.ofCode? (n : Nat) : Option LoopReg :=
  if n = 0 then some .lc else if n = 1 then some .lb else if n = 2 then some .le else none

/-- Compare type code (R191). -/
def CmpType.code : CmpType → Nat
  | .flt => 0 | .fp16 => 1 | .sgn => 2 | .uns => 3
def CmpType.ofCode (n : Nat) : CmpType :=
  if n = 0 then .flt else if n = 1 then .fp16 else if n = 2 then .sgn else .uns

/-- Compare condition code (R191). -/
def VCond.code : VCond → Nat
  | .eq => 0 | .ne => 1 | .lt => 2 | .le => 3 | .gt => 4 | .ge => 5 | .uo => 6
def VCond.ofCode? (n : Nat) : Option VCond :=
  if n = 0 then some .eq else if n = 1 then some .ne else if n = 2 then some .lt else if n = 3 then some .le
  else if n = 4 then some .gt else if n = 5 then some .ge else if n = 6 then some .uo else none

/-- Key type code (R195). -/
def KeyType.code : KeyType → Nat
  | .flt => 0 | .sgn => 1 | .uns => 2
def KeyType.ofCode? (n : Nat) : Option KeyType :=
  if n = 0 then some .flt else if n = 1 then some .sgn else if n = 2 then some .uns else none

/-- Reduction kind code (R198). -/
def RedKind.code : RedKind → Nat
  | .fsum => 0 | .fmax => 1 | .fmin => 2 | .isum => 3 | .smax => 4 | .smin => 5 | .umax => 6 | .umin => 7
def RedKind.ofCode (n : Nat) : RedKind :=
  if n = 0 then .fsum else if n = 1 then .fmax else if n = 2 then .fmin else if n = 3 then .isum
  else if n = 4 then .smax else if n = 5 then .smin else if n = 6 then .umax else .umin

/-- Atomic operation code (R228). -/
def AtomOp.code : AtomOp → Nat
  | .read => 0 | .xchg => 1 | .add => 2 | .fadd => 3 | .min => 4 | .max => 5 | .minu => 6 | .maxu => 7 | .and => 8
  | .or => 9 | .xor => 10 | .cas => 11 | .fmax => 12 | .fmin => 13
def AtomOp.ofCode? (n : Nat) : Option AtomOp :=
  if n = 0 then some .read else if n = 1 then some .xchg else if n = 2 then some .add else if n = 3 then some .fadd
  else if n = 4 then some .min else if n = 5 then some .max else if n = 6 then some .minu else if n = 7 then some .maxu
  else if n = 8 then some .and else if n = 9 then some .or else if n = 10 then some .xor else if n = 11 then some .cas
  else if n = 12 then some .fmax else if n = 13 then some .fmin else none

/-- Gang code (R70). -/
def Gang.code : Gang → Nat
  | .single => 0 | .pair => 1 | .quad => 2
def Gang.ofCode? (n : Nat) : Option Gang :=
  if n = 0 then some .single else if n = 1 then some .pair else if n = 2 then some .quad else none

/-- Copy qualifier code (R70, R214). -/
def CopyQ.code : CopyQ → Nat
  | .none => 0 | .t8 => 1 | .t16 => 2 | .zero => 3 | .publish => 4
def CopyQ.ofCode? (n : Nat) : Option CopyQ :=
  if n = 0 then some .none else if n = 1 then some .t8 else if n = 2 then some .t16 else if n = 3 then some .zero
  else if n = 4 then some .publish else Option.none

/-- Condition codes of SEMWAIT (R233, R314). -/
def SCond.code : SCond → Nat
  | .geu => 0 | .eq => 1 | .ne => 2
def SCond.ofCode? (n : Nat) : Option SCond :=
  if n = 0 then some .geu else if n = 1 then some .eq else if n = 2 then some .ne else none

/-- CMPP condition code (R290). -/
def PCond.code : PCond → Nat
  | .eq => 0 | .ne => 1 | .lt => 2 | .le => 3 | .gt => 4 | .ge => 5 | .flt => 6 | .feq => 7
def PCond.ofCode (n : Nat) : PCond :=
  if n = 0 then .eq else if n = 1 then .ne else if n = 2 then .lt else if n = 3 then .le else if n = 4 then .gt
  else if n = 5 then .ge else if n = 6 then .flt else .feq

/-- SHP kind code (R290). -/
def ShKind.code : ShKind → Nat
  | .l => 0 | .r => 1 | .a => 2
def ShKind.ofCode? (n : Nat) : Option ShKind :=
  if n = 0 then some .l else if n = 1 then some .r else if n = 2 then some .a else none

/-- COMBINE mode code (R293). -/
def CombMode.code : CombMode → Nat
  | .fadd => 0 | .iadd => 1 | .fmax => 2
def CombMode.ofCode? (n : Nat) : Option CombMode :=
  if n = 0 then some .fadd else if n = 1 then some .iadd else if n = 2 then some .fmax else none

/-- Wait condition code (R302). -/
def WCond.code : WCond → Nat
  | .none => 0 | .geu => 1 | .eq => 2 | .sub => 3
def WCond.ofCode (n : Nat) : WCond := if n = 0 then .none else if n = 1 then .geu else if n = 2 then .eq else .sub

/-- POOL mode code (R314). -/
def PoolMode.code : PoolMode → Nat
  | .sum => 0 | .mean => 1 | .weighted => 2
def PoolMode.ofCode? (n : Nat) : Option PoolMode :=
  if n = 0 then some .sum else if n = 1 then some .mean else if n = 2 then some .weighted else none

/-- REDUCE kind code (R314). -/
def RedOp.code : RedOp → Nat
  | .sum => 0 | .max => 1 | .min => 2
def RedOp.ofCode? (n : Nat) : Option RedOp :=
  if n = 0 then some .sum else if n = 1 then some .max else if n = 2 then some .min else none

-- the berth word and its formats (R67, R70) ---------------------------------------------------------------------

/-- The fields of every berth word (R67). -/
structure Raw where
  stop : Bool
  op   : Nat
  e    : Bool
  gr   : Nat
  gb   : Nat
  opd  : Nat
deriving DecidableEq, Repr

def Raw.ofWord (w : Nat) : Raw := ⟨tst (fld w 63 1), fld w 56 7, tst (fld w 55 1), fld w 49 6, fld w 43 6, fld w 0 43⟩
def Raw.word (r : Raw) : Nat :=
  bit r.stop * 2 ^ 63 + r.op * 2 ^ 56 + bit r.e * 2 ^ 55 + r.gr * 2 ^ 49 + r.gb * 2 ^ 43 + r.opd
/-- The head of a word. -/
def Raw.hd (r : Raw) : Hd := ⟨r.stop, r.e, r.gr, r.gb⟩
/-- A word from its head, opcode and operands. -/
def Raw.mk' (h : Hd) (op opd : Nat) : Nat := (Raw.mk h.stop op h.e h.gr h.gb opd).word

/-- Format F-SS (R70). -/
structure SS where
  (d a b fn z : Nat)
deriving DecidableEq, Repr
def SS.ofBits (w : Nat) : SS := ⟨fld w 37 6, fld w 31 6, fld w 25 6, fld w 17 8, fld w 0 17⟩
def SS.bits (f : SS) : Nat := f.d * 2 ^ 37 + f.a * 2 ^ 31 + f.b * 2 ^ 25 + f.fn * 2 ^ 17 + f.z

/-- Format F-SI (R70). -/
structure SI where
  (d a imm : Nat)
deriving DecidableEq, Repr
def SI.ofBits (w : Nat) : SI := ⟨fld w 37 6, fld w 31 6, fld w 0 31⟩
def SI.bits (f : SI) : Nat := f.d * 2 ^ 37 + f.a * 2 ^ 31 + f.imm

/-- Format F-BR (R70). -/
structure BRf where
  (d off : Nat)
deriving DecidableEq, Repr
def BRf.ofBits (w : Nat) : BRf := ⟨fld w 37 6, fld w 0 37⟩
def BRf.bits (f : BRf) : Nat := f.d * 2 ^ 37 + f.off

/-- Format F-LP, with the offset field split as R71 gives. -/
structure LP where
  (l c n off : Nat)
deriving DecidableEq, Repr
def LP.ofBits (w : Nat) : LP := ⟨fld w 41 2, fld w 35 6, fld w 15 20, fld w 0 15⟩
def LP.bits (f : LP) : Nat := f.l * 2 ^ 41 + f.c * 2 ^ 35 + f.n * 2 ^ 15 + f.off

/-- Format F-VV (R70). -/
structure VV where
  (d a b sub w k : Nat)
deriving DecidableEq, Repr
def VV.ofBits (w : Nat) : VV := ⟨fld w 32 11, fld w 21 11, fld w 10 11, fld w 5 5, fld w 3 2, fld w 0 3⟩
def VV.bits (f : VV) : Nat := f.d * 2 ^ 32 + f.a * 2 ^ 21 + f.b * 2 ^ 10 + f.sub * 2 ^ 5 + f.w * 2 ^ 3 + f.k

/-- Format F-VS (R70). -/
structure VS where
  (m s sub imm : Nat)
deriving DecidableEq, Repr
def VS.ofBits (w : Nat) : VS := ⟨fld w 32 11, fld w 26 6, fld w 21 5, fld w 0 21⟩
def VS.bits (f : VS) : Nat := f.m * 2 ^ 32 + f.s * 2 ^ 26 + f.sub * 2 ^ 21 + f.imm

/-- Format F-LC (R70). -/
structure LC where
  (g l n x q sub z : Nat)
deriving DecidableEq, Repr
def LC.ofBits (w : Nat) : LC := ⟨fld w 37 6, fld w 31 6, fld w 25 6, fld w 20 5, fld w 17 3, fld w 10 7, fld w 0 10⟩
def LC.bits (f : LC) : Nat :=
  f.g * 2 ^ 37 + f.l * 2 ^ 31 + f.n * 2 ^ 25 + f.x * 2 ^ 20 + f.q * 2 ^ 17 + f.sub * 2 ^ 10 + f.z

/-- Format F-MX (R70). -/
structure MX where
  (c qa qb m gang fn z : Nat)
deriving DecidableEq, Repr
def MX.ofBits (w : Nat) : MX := ⟨fld w 41 2, fld w 37 4, fld w 33 4, fld w 27 6, fld w 24 3, fld w 16 8, fld w 0 16⟩
def MX.bits (f : MX) : Nat :=
  f.c * 2 ^ 41 + f.qa * 2 ^ 37 + f.qb * 2 ^ 33 + f.m * 2 ^ 27 + f.gang * 2 ^ 24 + f.fn * 2 ^ 16 + f.z

/-- Format F-SY (R70). -/
structure SY where
  (d a num fn z : Nat)
deriving DecidableEq, Repr
def SY.ofBits (w : Nat) : SY := ⟨fld w 37 6, fld w 31 6, fld w 19 12, fld w 11 8, fld w 0 11⟩
def SY.bits (f : SY) : Nat := f.d * 2 ^ 37 + f.a * 2 ^ 31 + f.num * 2 ^ 19 + f.fn * 2 ^ 11 + f.z

-- decoding ------------------------------------------------------------------------------------------------------

/-- SCAN.RESERVED (R83). -/
def scanReserved : Nat := 1
/-- SCAN.ZERO (R83). -/
def scanZero : Nat := 2

/-- A decoding: the instruction, or the scanner's code. -/
abbrev Dec := Except Nat Instr

/-- Refused as RESERVED unless every qualifier is defined, then as ZERO unless the unused bits are zero (R83). -/
def dec (okRes okZero : Bool) (i : Instr) : Dec :=
  if !okRes then .error scanReserved else if !okZero then .error scanZero else .ok i

/-- A form with a qualifier that may be undefined. -/
def decQ {α : Type} (q : Option α) (k : α → Dec) : Dec :=
  match q with
  | none => .error scanReserved
  | some a => k a

/-- Forms of OP 0x01 (R155). -/
def decAlu (h : Hd) (f : SS) : Dec :=
  let two (i : Instr) := dec true (f.z == 0) i
  let one (i : Instr) := dec true (f.z == 0 && f.b == 0) i
  match f.fn with
  | 0x00 => two (.add h f.d f.a f.b)
  | 0x01 => two (.sub h f.d f.a f.b)
  | 0x02 => two (.and h f.d f.a f.b)
  | 0x03 => two (.or h f.d f.a f.b)
  | 0x04 => two (.xor h f.d f.a f.b)
  | 0x05 => two (.andn h f.d f.a f.b)
  | 0x06 => two (.shl h f.d f.a f.b)
  | 0x07 => two (.shr h f.d f.a f.b)
  | 0x08 => two (.sar h f.d f.a f.b)
  | 0x09 => two (.rol h f.d f.a f.b)
  | 0x0A => two (.min h f.d f.a f.b)
  | 0x0B => two (.max h f.d f.a f.b)
  | 0x0C => two (.minu h f.d f.a f.b)
  | 0x0D => two (.maxu h f.d f.a f.b)
  | 0x0E => one (.clz h f.d f.a)
  | 0x0F => one (.popc h f.d f.a)
  | 0x10 => one (.mov h f.d f.a)
  | _ => .error scanReserved

/-- Forms of OP 0x02 (R156). -/
def decMul (h : Hd) (f : SS) : Dec :=
  let two (i : Instr) := dec true (f.z == 0) i
  match f.fn with
  | 0x00 => two (.mul h f.d f.a f.b)
  | 0x01 => two (.mulh h f.d f.a f.b)
  | 0x02 => two (.mulhu h f.d f.a f.b)
  | 0x10 => two (.div h f.d f.a f.b)
  | 0x11 => two (.divu h f.d f.a f.b)
  | 0x12 => two (.rem h f.d f.a f.b)
  | 0x13 => two (.remu h f.d f.a f.b)
  | _ => .error scanReserved

/-- Scalar forms (R77). -/
def decScalar (op : Nat) (h : Hd) (opd : Nat) : Dec :=
  let f := SS.ofBits opd
  let g := SI.ofBits opd
  let small := decide (g.imm < 64)
  let cmp (i : Instr) := dec true (f.z == 0 && decide (f.fn < 64)) i
  match op with
  | 0x01 => decAlu h f
  | 0x02 => decMul h f
  | 0x03 => dec true true (.addi h g.d g.a g.imm)
  | 0x04 => dec true (g.a == 0) (.movi h g.d g.imm)
  | 0x05 => dec true true (.movh h g.d g.a g.imm)
  | 0x06 => dec true small (.shli h g.d g.a g.imm)
  | 0x07 => dec true small (.shri h g.d g.a g.imm)
  | 0x08 => dec true small (.sari h g.d g.a g.imm)
  | 0x09 => dec true (decide (g.imm < 4096)) (.bext h g.d g.a (fld g.imm 0 6) (fld g.imm 6 6))
  | 0x0A => dec true (decide (g.imm < 4096)) (.bins h g.d g.a (fld g.imm 0 6) (fld g.imm 6 6))
  | 0x0B => dec true small (.setb h g.d g.a g.imm)
  | 0x0C => dec true small (.clrb h g.d g.a g.imm)
  | 0x0D => cmp (.cmpeq h f.d f.fn f.a f.b)
  | 0x0E => cmp (.cmpne h f.d f.fn f.a f.b)
  | 0x0F => cmp (.cmplt h f.d f.fn f.a f.b)
  | 0x10 => cmp (.cmpltu h f.d f.fn f.a f.b)
  | 0x11 => cmp (.cmple h f.d f.fn f.a f.b)
  | 0x12 => cmp (.cmpleu h f.d f.fn f.a f.b)
  | 0x13 => dec true (f.z == 0 && f.fn == 0) (.sel h f.d f.a f.b)
  | 0x14 => dec true true (.lds h g.d g.a g.imm)
  | 0x15 => dec true true (.sts h g.d g.a g.imm)
  | _ => .error scanReserved

/-- Control forms (R78, R164-R167). -/
def decControl (op : Nat) (h : Hd) (opd : Nat) : Dec :=
  let f := SS.ofBits opd
  let b := BRf.ofBits opd
  let p := LP.ofBits opd
  match op with
  | 0x20 => dec true (b.d == 0) (.br h b.off)
  | 0x21 => dec true true (.call h b.d b.off)
  | 0x22 => dec true (f.z == 0 && f.fn == 0 && f.b == 0) (.jmp h f.d f.a)
  | 0x23 => dec true (f.z == 0 && f.fn == 0 && f.b == 0 && f.d == 0) (.ret h f.a)
  | 0x24 => dec true (p.n == 0) (.loop h p.l p.c p.off)
  | 0x25 => dec true (p.c == 0) (.loopi h p.l p.n p.off)
  | 0x26 => decQ (LoopReg.ofCode? (fld f.fn 2 2)) fun r =>
      dec true (f.z == 0 && decide (f.fn < 16) && f.d == 0 && f.b == 0) (.mtl h r (fld f.fn 0 2) f.a)
  | 0x27 => decQ (LoopReg.ofCode? (fld f.fn 2 2)) fun r =>
      dec true (f.z == 0 && decide (f.fn < 16) && f.a == 0 && f.b == 0) (.mfl h f.d r (fld f.fn 0 2))
  | _ => .error scanReserved

/-- System forms (R78, R168-R180). -/
def decSystem (op : Nat) (h : Hd) (opd : Nat) : Dec :=
  let g := SI.ofBits opd
  let f := SY.ofBits opd
  let bare := f.z == 0 && f.num == 0 && f.a == 0 && f.d == 0
  match op with
  | 0x2C => dec true (g.d == 0 && g.a == 0) (.trap h g.imm)
  | 0x2D => dec true (bare && f.fn == 0) (.rett h)
  | 0x2E => dec true (g.d == 0 && g.a == 0) (.bkpt h g.imm)
  | 0x2F => dec true (bare && f.fn == 0) (.exit h)
  | 0x30 => dec (Instr.wf.sysOk f.num) (f.z == 0 && f.fn == 0 && f.a == 0) (.mfsys h f.d f.num)
  | 0x31 => dec (Instr.wf.sysOk f.num) (f.z == 0 && f.fn == 0 && f.d == 0) (.mtsys h f.a f.num)
  | 0x32 => dec true (bare && decide (f.fn < 8)) (.phase h f.fn)
  | 0x33 => dec true (f.z == 0 && f.d == 0 && f.a == 0 && decide (f.fn < 128) && fld f.num 0 5 == 0)
      (.fence h (fld f.num 5 7) f.fn)
  | 0x34 => dec (decide (f.fn < 2)) bare (.pfence h (tst f.fn))
  -- R78 has TIME at 0x35 and ID at 0x36; R175 and R176 have them the other way about (log entry 19)
  | 0x35 => dec (decide (f.fn < 2)) (f.z == 0 && f.num == 0 && f.a == 0) (.time h f.d (tst f.fn))
  | 0x36 => dec (decide (f.fn < 22)) (f.z == 0 && f.num == 0 && f.a == 0) (.id h f.d f.fn)
  | 0x37 => dec true (f.z == 0 && f.num == 0 && f.d == 0 && decide (f.fn < 16)) (.launch h f.a f.fn)
  | 0x38 => dec (fld f.fn 0 3 != 7) (f.z == 0 && decide (f.num < 1024) && decide (f.fn < 16))
      (.mboxreg h f.d f.a f.num (fld f.fn 0 3) (tst (fld f.fn 3 1)))
  | 0x39 => dec true (bare && f.fn == 0) (.mboxack h)
  | _ => .error scanReserved

/-- The reserved part of Q in the F-LC forms that are no copies, and its must-be-zero part (R83, R210). -/
def qRes (f : LC) : Bool := decide (f.q < 5)

/-- Token forms (R235). -/
def decToken (h : Hd) (f : LC) : Dec :=
  let sp := tst (fld f.z 1 1)
  let flag := tst (fld f.z 0 1)
  let z0 := f.q == 0 && f.l == 0
  let noFlag := f.z == 0 || f.z == 2
  match f.sub with
  | 0x00 => dec (qRes f) (z0 && f.x == 0 && noFlag) (.tklend h f.g f.n sp)
  | 0x01 => dec (qRes f) (z0 && f.x == 0 && f.n == 0 && noFlag) (.tkret h f.g sp)
  | 0x02 => dec (qRes f) (z0 && f.x == 0 && f.n == 0 && noFlag) (.tksplit h f.g sp)
  | 0x03 => dec (qRes f) (z0 && f.x == 0 && f.n == 0 && noFlag) (.tkjoin h f.g sp)
  | 0x04 => dec (qRes f) (z0 && f.x == 0 && decide (f.z < 4)) (.tkshare h f.g f.n flag sp)
  | 0x05 => dec (qRes f) (z0 && f.x == 0 && f.n == 0 && noFlag) (.tkunshare h f.g sp)
  | 0x06 => dec (qRes f) (z0 && f.x == 0 && f.n == 0 && decide (f.z < 4)) (.tkatom h f.g flag sp)
  | 0x07 => dec (qRes f && decide (f.x < 16)) (z0 && f.n == 0 && noFlag) (.tkquery h f.g f.x sp)
  | 0x08 => dec (qRes f) (z0 && f.x == 0 && f.n == 0 && noFlag) (.tkclaim h f.g sp)
  | _ => .error scanReserved

/-- Vector and lane-mask forms in format F-VV (R79, R185-R200, R204, R206). -/
def decVV (op : Nat) (h : Hd) (f : VV) : Dec :=
  let w := Width.ofCode f.w
  let d := MName.ofCode f.d
  let a := MName.ofCode f.a
  let b := MName.ofCode f.b
  let k := f.k
  let sel := fld f.sub 3 2
  -- R185: 9 zero, 8 H, 7:5 RM
  let h8 := tst (fld f.sub 3 1)
  let fw := w == .w32 || w == .w16
  let hz := h8 && w == .w32
  let flt (c : MName → MName → MName → Bool → RM → Width → Nat → Instr) : Dec :=
    decQ (RM.det? (fld f.sub 0 3)) fun rm => dec fw (!hz && fld f.sub 4 1 == 0) (c d a b h8 rm w k)
  let mnx (c : MName → MName → MName → Bool → Width → Nat → Instr) : Dec :=
    dec (fw && decide (fld f.sub 0 3 < 4)) (!hz && fld f.sub 4 1 == 0 && fld f.sub 0 3 == 0) (c d a b h8 w k)
  -- R186: 9:8 selector, 7:6 zero, 5 H
  let h5 := tst (fld f.sub 0 1)
  let un (c : MName → MName → Bool → Width → Nat → Instr) : Dec :=
    dec fw (!(h5 && w == .w32) && fld f.sub 1 2 == 0 && f.b == 0) (c d a h5 w k)
  -- R188: 9:8 zero, 7 HI, 6 U, 5 SAT
  let hi := tst (fld f.sub 2 1)
  let u := tst (fld f.sub 1 1)
  let sat := h5
  let iw := w != .w4
  let int (c : MName → MName → MName → Bool → Bool → Width → Nat → Instr) : Dec :=
    dec (iw && !(hi && sat)) (sel == 0 && !hi) (c d a b u sat w k)
  let low3 := fld f.sub 0 3 == 0
  let log (c : MName → MName → MName → Width → Nat → Instr) : Dec := dec true low3 (c d a b w k)
  let shf (c : MName → MName → MName → Width → Nat → Instr) : Dec := dec iw low3 (c d a b w k)
  match op with
  | 0x40 => flt (.vadd h)
  | 0x41 => flt (.vsub h)
  | 0x42 => flt (.vmul h)
  | 0x43 => flt (.vfma h)
  | 0x44 => flt (.vfms h)
  | 0x45 => mnx (.vmin h)
  | 0x46 => mnx (.vmax h)
  | 0x47 => match sel with
    | 0 => un (.vabs h)
    | 1 => un (.vneg h)
    | _ => .error scanReserved
  | 0x48 => match sel with
    | 0 => un (.vexp2 h)
    | 1 => un (.vlog2 h)
    | 2 => un (.vrsq h)
    | _ => un (.vrcp h)
  | 0x49 => int (.viadd h)
  | 0x4A => int (.visub h)
  | 0x4B => dec (iw && !(hi && sat)) (sel == 0) (.vimul h d a b hi u sat w k)
  | 0x4C => match sel with
    | 0 => log (.vand h)
    | 1 => log (.vor h)
    | 2 => log (.vxor h)
    | _ => .error scanReserved
  | 0x4D => match sel with
    | 0 => shf (.vshl h)
    | 1 => shf (.vshr h)
    | 2 => shf (.vsar h)
    | _ => .error scanReserved
  | 0x4E => decQ (VCond.ofCode? (fld f.sub 0 3)) fun c =>
      let t := CmpType.ofCode sel
      dec (Instr.wf.vcmpOk t c w) (decide (f.d < 8)) (.vcmp h (fld f.d 0 3) a b t c w k)
  | 0x4F => dec true (f.sub == 0) (.vsel h d a b w k)
  | 0x50 =>
      -- R193: word bits 20:17 SRC, 16:13 DST, 12:10 RM, 9 SAT or P2, 8:5 NM1, 4:3 P
      decQ (Fmt.ofCode? (fld f.b 7 4)) fun s => decQ (Fmt.ofCode? (fld f.b 3 4)) fun t =>
        decQ (RM.ofCode? (fld f.b 0 3)) fun rm =>
          let r := cvtRatio s t
          let b9 := fld f.sub 4 1
          let nm1 := fld f.sub 0 4
          let p := f.w + (if r == 8 then 4 * b9 else 0)
          dec (cvtFmt s && cvtFmt t && decide (p < r) && (rm != .sr || decide (nm1 < Nat.min 16 t.bits)))
            (rm == .sr || nm1 == 0)
            (.vcvt h d a s t rm (r != 8 && tst b9) nm1 p k)
  | 0x51 => decQ (KeyType.ofCode? (fld f.sub 1 2)) fun t =>
      dec (if t == .flt then fw else iw)
        ((if t == .flt then !(h5 && w == .w32) else !h5) && fld f.sub 4 1 == 0 && f.b == 0)
        (.vkey h d a h8 t h5 w k)
  | 0x52 => dec iw (fld f.b 0 3 == 0 && fld f.sub 2 3 == 0)
      (.vhist h d a (fld f.b 6 5) (fld f.b 3 3) u h5 w k)
  | 0x53 => decQ (RM.det? (fld f.sub 0 3)) fun rm =>
      dec (if h8 then iw else w == .w32) ((!h8 || rm == .rne) && f.b == 0) (.vscan h d a (tst (fld f.sub 4 1)) h8 rm w k)
  | 0x54 => decQ (RM.det? (fld f.b 0 3)) fun rm =>
      let kind := RedKind.ofCode (fld f.sub 0 3)
      let uu := tst (fld f.b 4 1)
      let hh := tst (fld f.b 3 1)
      let isF := kind == .fsum || kind == .fmax || kind == .fmin
      dec (if isF then fw else iw)
        (sel == 0 && decide (f.b < 32) && Instr.wf.vredOk kind uu hh rm w)
        (.vred h d a kind uu hh rm w k)
  | 0x55 => match sel with
    | 0 => dec iw (low3 && f.b == 0) (.vcomp h d a w k)
    | 1 => dec iw (low3 && f.b == 0) (.vexpd h d a w k)
    | _ => .error scanReserved
  | 0x56 => dec iw (fld f.sub 2 3 == 0 && (!h5 || w == .w8)) (.vperm h d a b u h5 w k)
  | 0x5A =>
      let wk := f.w == 0 && f.k == 0 && low3
      match sel with
      | 0 => dec true (wk && decide (f.d < 8) && decide (f.a < 8) && decide (f.b < 8))
          (.kand h (fld f.d 0 3) (fld f.a 0 3) (fld f.b 0 3))
      | 1 => dec true (wk && decide (f.d < 8) && decide (f.a < 8) && decide (f.b < 8))
          (.kor h (fld f.d 0 3) (fld f.a 0 3) (fld f.b 0 3))
      | 2 => dec true (wk && decide (f.d < 8) && decide (f.a < 8) && f.b == 0) (.knot h (fld f.d 0 3) (fld f.a 0 3))
      | _ => dec true (wk && decide (f.d < 64) && decide (f.a < 8) && f.b == 0) (.kpopc h (fld f.d 0 6) (fld f.a 0 3))
  | 0x62 => dec (iw && decide (fld f.sub 0 2 < 32 / w.bits)) (fld f.sub 2 3 == 0 && f.b == 0)
      (.vldx h d a (fld f.sub 0 2) w k)
  | 0x63 => dec (iw && decide (fld f.sub 0 2 < 32 / w.bits)) (fld f.sub 2 3 == 0 && f.d == 0)
      (.vstx h a b (fld f.sub 0 2) w k)
  | _ => .error scanReserved

/-- Vector forms in format F-VS (R79, R80, R201-R205). -/
def decVS (op : Nat) (h : Hd) (f : VS) : Dec :=
  let m := MName.ofCode f.m
  let w := Width.ofCode (fld f.sub 0 2)
  match op with
  | 0x57 => dec true (fld f.sub 2 3 == 0) (.vbcast h m f.s w f.imm)
  | 0x58 =>
      let sx := tst (fld f.sub 3 1)
      let dir := tst (fld f.sub 2 1)
      let j := fld f.imm 0 10
      dec (decide (j < 4096 / w.bits)) (fld f.sub 4 1 == 0 && !(sx && dir) && decide (f.imm < 1024))
        (.vmovs h m f.s sx dir w j)
  | 0x59 => match fld f.sub 3 2 with
    | 0 => dec true (f.m == 0 && fld f.sub 0 3 == 0) (.vrot h f.s f.imm)
    | 1 => dec true (f.m == 0 && fld f.sub 0 3 == 0) (.vmconf h f.s f.imm)
    | _ => .error scanReserved
  | 0x60 => dec true true (.vld h m f.s (fld f.sub 2 3) w f.imm)
  | 0x61 => dec true true (.vst h m f.s (fld f.sub 2 3) w f.imm)
  | _ => .error scanReserved

/-- Copies (R210, R213, R214). -/
def decCopy (h : Hd) (f : LC) : Dec :=
  let out := tst (fld f.z 9 1)
  let st := tst (fld f.z 8 1)
  let tag := fld f.z 0 8
  let route (q : CopyQ) (c : Nat → CopyQ → Bool → Bool → Nat → Instr) : Dec :=
    dec (!(out && (q == .t8 || q == .t16 || q == .publish)) && !(st && (out || q == .publish)) && !(st && decide (16 ≤ f.x))
        && !(q == .publish && decide (f.x < 16)))
      ((st || q == .publish || f.x == 0) && (!st || f.l == 0)) (c f.x q out st tag)
  match f.sub with
  | 0x00 => decQ (CopyQ.ofCode? f.q) fun q => route q (.cp h f.g f.l f.n)
  | 0x01 => decQ (CopyQ.ofCode? f.q) fun q =>
      if q == .t8 || q == .t16 then .error scanReserved else route q (.cpw h f.g f.l f.n)
  | 0x02 => decQ (CopyQ.ofCode? f.q) fun q =>
      dec ((q == .none || q == .zero) && f.x == 0) (decide (f.z < 256)) (.cpg h f.g f.l f.n (q == .zero) tag)
  | 0x03 => decQ (CopyQ.ofCode? f.q) fun q =>
      if q == .t8 || q == .t16 then .error scanReserved else route q (.cps h f.g f.l f.n)
  | 0x04 =>
      let c := fld f.z 0 7
      dec (qRes f && f.x == 0 && decide (c ≤ 64)) (f.q == 0 && f.g == 0 && f.l == 0 && f.n == 0 && decide (f.z < 128))
        (.lwait h c)
  | _ => .error scanReserved

/-- Atomic forms (R210, R228). -/
def decAtom (ret : Bool) (h : Hd) (f : LC) : Dec :=
  decQ (AtomOp.ofCode? (fld f.sub 3 4)) fun o =>
    let w64 := tst (fld f.sub 0 1)
    let ord := fld f.sub 1 2
    let scope := fld f.z 0 4
    let okr := qRes f && Instr.wf.atomOk o w64 f.l && decide (scope < 10)
    if ret then dec (okr && decide (f.x < 16)) (f.q == 0 && decide (f.z < 16)) (.atom h f.g f.l f.n f.x o ord w64 scope)
    else dec (okr && f.x == 0 && o != .read) (f.q == 0 && decide (f.z < 16)) (.atomnr h f.g f.l f.n o ord w64 scope)

/-- Stream, ring, lighter, probe, atomic, semaphore, push and privileged forms (R80, R210). -/
def decLC (op : Nat) (h : Hd) (f : LC) : Dec :=
  let q0 := f.q == 0
  let ring := qRes f && decide (16 ≤ f.x)
  let strm := qRes f && decide (f.x < 16)
  -- a form whose x is listed as 0: another value is out of its range (R210)
  let x0 := qRes f && f.x == 0
  let xq := f.x - 16
  match op with
  | 0x3A => decToken h f
  | 0x64 => match f.sub with
    | 0x00 => dec (strm && fld f.z 0 2 != 3) (q0 && f.g == 0 && f.l == 0 && f.n == 0 && decide (f.z < 4))
        (.stbind h f.x (fld f.z 0 2))
    | 0x01 => dec strm (q0 && f.n == 0 && f.z == 0) (.strel h f.g f.l f.x)
    | _ => .error scanReserved
  | 0x65 => dec ring (q0 && f.sub == 0 && f.g == 0 && f.z == 0) (.rconf h xq f.l f.n)
  | 0x66 => match f.sub with
    | 0x00 => dec ring (q0 && f.g == 0 && f.n == 0 && f.z == 0) (.racq h xq f.l)
    | 0x01 => dec ring (q0 && f.g == 0 && f.n == 0 && f.z == 0) (.rpub h xq f.l)
    | 0x02 => dec ring (q0 && f.g == 0 && f.n == 0 && f.z == 0) (.rtake h xq f.l)
    | 0x03 => dec ring (q0 && f.g == 0 && f.l == 0 && f.n == 0 && f.z == 0) (.rrel h xq)
    | _ => .error scanReserved
  | 0x6C => decCopy h f
  | 0x6D => match f.sub with
    | 0x00 => dec (qRes f && decide (f.x < 4)) (q0 && f.n == 0) (.probe h f.g f.l f.x f.z)
    | 0x01 => dec x0 (q0 && f.g == 0 && f.n == 0 && f.z == 0) (.pwait h f.l)
    | 0x02 => dec (qRes f && decide (f.x < 4)) (q0 && f.l == 0 && f.n == 0 && decide (f.z < 2) && (f.z == 0 || f.g == 0))
        (.pinv h f.g f.x (tst f.z))
    | _ => .error scanReserved
  | 0x6E => decAtom true h f
  | 0x6F => decAtom false h f
  | 0x70 => dec (x0 && decide (fld f.z 0 4 < 10))
      (q0 && f.sub == 0 && f.g == 0 && f.l == 0 && f.n == 0 && decide (f.z < 16)) (.atomfence h (fld f.z 0 4))
  | 0x71 => match f.sub with
    | 0x00 => decQ (SCond.ofCode? (fld f.z 0 2)) fun c =>
        let sub := tst (fld f.z 2 1)
        dec (x0 && (!sub || c == .geu)) (q0 && f.l == 0 && decide (f.z < 8)) (.semwait h f.g f.n c sub)
    | 0x01 => dec x0 (q0 && f.l == 0 && f.z == 0) (.sempost h f.g f.n)
    | _ => .error scanReserved
  | 0x72 => match f.sub with
    | 0x00 => dec x0 (q0 && f.z == 0) (.whpush h f.g f.l f.n)
    | 0x01 => dec x0 (q0 && decide (f.z < 256)) (.imload h f.g f.l f.n f.z)
    | _ => .error scanReserved
  | 0x73 => match f.sub with
    | 0x00 => dec x0 (q0 && f.g == 0 && f.z == 0) (.layset h f.l f.n)
    | 0x01 => dec strm (q0 && f.z == 0) (.wconf h f.x f.g f.l f.n)
    | _ => .error scanReserved
  | _ => .error scanReserved

/-- Matrix forms (R81, R245). -/
def decMX (op : Nat) (h : Hd) (f : MX) : Dec :=
  decQ (Gang.ofCode? f.gang) fun g =>
    let sg := g == .single
    match op with
    | 0x76 => dec true (f.qb == 0 && decide (f.fn < 4) && f.z == 0)
        (.mmul h f.c f.qa f.m g (tst (fld f.fn 0 1)) (tst (fld f.fn 1 1)))
    | 0x77 => decQ (Fmt.ofCode? (fld f.fn 0 4)) fun t =>
        dec (t != .fp32) (f.c == 0 && f.qa == 0 && f.m == 0 && decide (f.fn < 16) && f.z == 0) (.wload h f.qb g t)
    | 0x78 =>
        let cq := f.c == 0 && f.qa == 0
        match f.fn with
        | 0x00 => dec true (cq && f.qb == 0 && f.m == 0 && f.z == 0) (.wswap h g)
        | 0x01 => dec true (cq && f.qb == 0 && f.z == 0 && sg) (.fmtpush h f.m)
        | 0x02 => dec true (cq && f.qb == 0 && f.m == 0 && f.z == 0 && sg) (.fmtclr h)
        | 0x03 => dec true (cq && f.m == 0 && decide (f.z < 2) && (f.z == 0 || f.qb == 0) && sg) (.sqbind h f.qb (tst f.z))
        | 0x04 => dec true (cq && f.qb == 0 && f.m == 0 && f.z == 0 && sg) (.mpbclr h)
        | _ => .error scanReserved
    | 0x79 =>
        let qz := f.qa == 0 && f.qb == 0 && f.z == 0
        match f.fn with
        | 0x00 => dec true (qz && f.m == 0) (.acczero h f.c g)
        | 0x01 => dec true (qz && f.m == 0) (.accfree h f.c g)
        | 0x02 => dec true (qz && f.c == 0 && sg) (.accconf h f.m)
        | _ => .error scanReserved
    | 0x7A => decQ (Fmt.ofCode? (fld f.fn 0 4)) fun t => decQ (RM.det? (fld f.fn 4 3)) fun rm =>
        dec (t != .mxfp4 && t != .zb4) (f.qa == 0 && f.qb == 0 && fld f.z 0 4 == 0)
          (.accdrain h f.c f.m g t rm (tst (fld f.fn 7 1)) (fld f.z 10 6) (fld f.z 4 6))
    | 0x7B =>
        let zz := f.qa == 0 && f.qb == 0 && fld f.z 0 5 == 0 && sg
        match f.fn with
        | 0x00 => dec true zz (.accread h (MName.ofCode (fld f.z 5 11)) f.c f.m)
        | 0x01 => dec true zz (.accwrite h f.c f.m (MName.ofCode (fld f.z 5 11)))
        | _ => .error scanReserved
    | 0x7C => dec true (f.c == 0 && f.qa == 0 && f.qb == 0 && f.fn == 0 && f.z == 0 && sg) (.mpbld h f.m)
    | _ => .error scanReserved

/-- A form by its major opcode (R76). -/
def decForm (op : Nat) (h : Hd) (opd : Nat) : Dec :=
  if op = 0 then dec true (!h.e && h.gr == 0 && h.gb == 0 && opd == 0) (.nop h)
  else if op < 0x20 then decScalar op h opd
  else if op < 0x2C then decControl op h opd
  else if op < 0x3A then decSystem op h opd
  else if op = 0x3A then decLC op h (LC.ofBits opd)
  else if op < 0x40 then .error scanReserved
  else if op < 0x57 ∨ op = 0x5A ∨ op = 0x62 ∨ op = 0x63 then decVV op h (VV.ofBits opd)
  else if op < 0x62 then decVS op h (VS.ofBits opd)
  else if op < 0x74 then decLC op h (LC.ofBits opd)
  else decMX op h (MX.ofBits opd)

/-- A berth word: its instruction, or the scanner's code. A guard on s0 must be all zero (R68). -/
def decodeBerth (w : Nat) : Dec :=
  let r := Raw.ofWord w
  match decForm r.op r.hd r.opd with
  | .error c => .error c
  | .ok i => if r.gr == 0 && (r.e || r.gb != 0) then .error scanZero else .ok i

/-- The class of a berth word for R74. -/
inductive SlotClass where
  | none | s | v | m | l | c
deriving DecidableEq, Repr

/-- Class by major opcode (R77-R81). -/
def slotClass (op : Nat) : SlotClass :=
  if op = 0 then .none else if op < 0x20 then .s else if op < 0x3A then .c else if op < 0x40 then .l
  else if op < 0x64 then .v else if op < 0x76 then .l else .m

-- pier words (R289) ---------------------------------------------------------------------------------------------

/-- Fields of a pier word. -/
structure PW where
  op : Nat
  v  : Bool
  d  : Nat
  a  : Nat
  b  : Nat
  s  : Bool
  i  : Bool
  u  : Bool
  m  : Nat
deriving DecidableEq, Repr
def PW.ofWord (w : Nat) : PW :=
  ⟨fld w 26 6, tst (fld w 25 1), fld w 21 4, fld w 17 4, fld w 13 4, tst (fld w 12 1), tst (fld w 11 1), tst (fld w 10 1),
    fld w 0 10⟩
def PW.word (p : PW) : Nat :=
  p.op * 2 ^ 26 + bit p.v * 2 ^ 25 + p.d * 2 ^ 21 + p.a * 2 ^ 17 + p.b * 2 ^ 13 + bit p.s * 2 ^ 12 + bit p.i * 2 ^ 11
    + bit p.u * 2 ^ 10 + p.m

/-- Accepted only when the reserved fields are zero (R282). -/
def pdec (ok : Bool) (i : Instr) : Option Instr := if ok then some i else none

/-- A pier word: its instruction, or none where verification rejects the word (R282, R289-R294). -/
def decodePier (w : Nat) : Option Instr :=
  let p := PW.ofWord w
  let arith (ib : Bool) (c : Instr) : Option Instr :=
    pdec (!p.u && (p.v || !p.s) && (if p.i then ib && p.b == 0 && !p.s else p.m == 0)) c
  let arithU (c : Instr) : Option Instr := pdec ((p.v || !p.s) && (if p.i then p.b == 0 && !p.s else p.m == 0)) c
  -- N in bits 12:7, X or ALLOC in bit 6
  let lo13 := fld w 0 13
  let n := fld w 7 6
  let x := tst (fld w 6 1)
  match p.op with
  | 0x01 => arith true (.addp p.v p.s p.i p.d p.a p.b p.m)
  | 0x02 => arith true (.subp p.v p.s p.i p.d p.a p.b p.m)
  | 0x03 => arith true (.mulp p.v p.s p.i p.d p.a p.b p.m)
  | 0x04 => arith false (.faddp p.v p.s p.d p.a p.b)
  | 0x05 => arith false (.fmaxp p.v p.s p.d p.a p.b)
  | 0x06 => arithU (.minp p.v p.s p.i p.u p.d p.a p.b p.m)
  | 0x07 => arithU (.maxp p.v p.s p.i p.u p.d p.a p.b p.m)
  | 0x08 => arith true (.andp p.v p.s p.i p.d p.a p.b p.m)
  | 0x09 => arith true (.orp p.v p.s p.i p.d p.a p.b p.m)
  | 0x0A => arith true (.xorp p.v p.s p.i p.d p.a p.b p.m)
  | 0x0B => match ShKind.ofCode? (fld p.m 8 2) with
    | none => none
    | some k => pdec (!p.u && !p.i && (p.v || !p.s) && fld p.m 0 8 == 0) (.shp p.v p.s k p.d p.a p.b)
  | 0x0C =>
      let c := PCond.ofCode (fld p.m 7 3)
      pdec (!p.i && (p.v || !p.s) && fld p.m 0 7 == 0 && (!p.u || (c != .flt && c != .feq))) (.cmpp p.v p.s p.u c p.d p.a p.b)
  | 0x0D => pdec (!p.u && (p.v || !p.s) && (if p.i then p.b == 0 && !p.s else fld p.m 0 6 == 0))
      (.selp p.v p.s p.i p.d (fld p.m 6 4) p.a p.b (fld p.m 0 6))
  | 0x10 => pdec (!p.v && p.b == 0 && fld w 0 6 == 0 && (x || p.a == 0)) (.hld x p.d p.a n)
  | 0x11 => pdec (p.v && p.a == 0 && p.b == 0 && lo13 == 0) (.pld p.d)
  | 0x12 => pdec (p.v && p.d == 0 && p.b == 0 && lo13 == 0) (.pst p.a)
  | 0x14 => pdec (!p.v && p.b == 0 && fld w 0 6 == 0 && decide (n < 16)) (.fld x p.d p.a n)
  | 0x15 => pdec (!p.v && p.d == 0 && fld w 0 7 == 0 && decide (n < 16)) (.fst p.a p.b n)
  | 0x16 => pdec (!p.v && fld w 0 7 == 0 && decide (n < 16)) (.fcas p.d p.a p.b n)
  | 0x18 => pdec (fld w 0 26 == 0) .hold
  | 0x19 => match CombMode.ofCode? (fld w 0 2) with
    | none => none
    | some m => pdec (p.v && p.d == 0 && fld w 2 11 == 0) (.combine m p.a p.b)
  | 0x1A => pdec (!p.v && p.d == 0 && fld w 1 12 == 0 && (tst (fld w 0 1) || p.a == 0)) (.emit (tst (fld w 0 1)) p.a p.b)
  | 0x1B => pdec (fld w 0 26 == 0) .fwd
  | 0x1C => pdec (fld w 0 26 == 0) .drop
  | 0x1D => pdec (!p.v && p.d == 0 && p.b == 0 && fld w 1 12 == 0) (.redirect (tst (fld w 0 1)) p.a)
  | 0x20 => pdec (p.d == 0 && p.b == 0 && fld w 7 6 == 0) (.brf p.v p.a (fld w 0 7))
  | 0x21 => pdec (fld w 16 10 == 0) (.trapp (fld w 0 16))
  | 0x22 => pdec (fld w 0 26 == 0) .endk
  | _ => none

-- wharf command words (R302) ------------------------------------------------------------------------------------

/-- Fields of a wharf command word. -/
structure CW where
  (wcond wdesc skind sdesc opc da db dc dd flags : Nat)
deriving DecidableEq, Repr
def CW.ofWord (w : Nat) : CW :=
  ⟨fld w 62 2, fld w 56 6, fld w 54 2, fld w 48 6, fld w 42 6, fld w 36 6, fld w 30 6, fld w 24 6, fld w 18 6, fld w 0 18⟩
def CW.word (c : CW) : Nat :=
  c.wcond * 2 ^ 62 + c.wdesc * 2 ^ 56 + c.skind * 2 ^ 54 + c.sdesc * 2 ^ 48 + c.opc * 2 ^ 42 + c.da * 2 ^ 36 + c.db * 2 ^ 30
    + c.dc * 2 ^ 24 + c.dd * 2 ^ 18 + c.flags

/-- The WAIT and SIGNAL bytes. -/
def CW.wx (c : CW) : WX := ⟨WCond.ofCode c.wcond, c.wdesc, c.skind == 1, c.sdesc⟩

/-- A wharf command word, or none where it is illegal (R303). -/
def decodeWharf (w : Nat) : Option Instr :=
  let c := CW.ofWord w
  let x := c.wx
  let fl (n : Nat) := tst (fld c.flags n 1)
  let n1 := c.db == 0 && c.dc == 0 && c.dd == 0
  let n2 := c.dc == 0 && c.dd == 0
  let n3 := c.dd == 0
  let f0 := c.flags == 0
  let f1 := decide (c.flags < 2)
  let opt {α : Type} (o : Option α) (k : α → Option Instr) : Option Instr :=
    match o with
    | none => none
    | some a => k a
  if !(decide (c.skind < 2) && (c.wcond != 0 || c.wdesc == 0) && (c.skind != 0 || c.sdesc == 0)) then none
  else match c.opc with
  | 0x00 => pdec (c.da == 0 && n1 && f0) (.nopw x)
  | 0x01 => pdec (fld w 32 1 == 0) (.setd x c.da (fld w 33 3) (fld w 0 32))
  | 0x02 => opt (SCond.ofCode? (fld c.flags 0 2)) fun k =>
      pdec (n1 && decide (c.flags < 8) && (!fl 2 || k == .geu)) (.wharfSemwait x c.da k (fl 2))
  | 0x03 => pdec (n1 && f1) (.wharfSempost x c.da (fl 0))
  | 0x04 => pdec (n1 && f0) (.barrier x c.da)
  | 0x05 => pdec (n2 && f0) (.fill x c.da c.db)
  | 0x06 => pdec (n2 && f0) (.copyc x c.da c.db)
  | 0x07 => opt (RM.det? (fld c.flags 0 3)) fun rm => pdec (n2 && decide (c.flags < 16)) (.convert x c.da c.db rm (fl 3))
  | 0x08 => pdec (n3 && f1) (.gather x c.da c.db c.dc (fl 0))
  | 0x09 => opt (PoolMode.ofCode? (fld c.flags 0 2)) fun m =>
      pdec (decide (c.flags < 16) && (m == .weighted || c.dd == 0)) (.pool x c.da c.db c.dc c.dd m (fl 2) (fl 3))
  | 0x0A => pdec (n3 && f1) (.gemv x c.da c.db c.dc (fl 0))
  | 0x0B => pdec (n3 && f0) (.axpy x c.da c.db c.dc)
  | 0x0C => pdec (n2 && f0) (.scale x c.da c.db)
  | 0x0D => opt (RedOp.ofCode? (fld c.flags 0 2)) fun k => pdec (n2 && decide (c.flags < 8)) (.reduce x c.da c.db k (fl 2))
  | 0x0E => pdec (n3 && f0) (.dot x c.da c.db c.dc)
  | 0x0F => pdec (n2 && f1) (.norm2 x c.da c.db (fl 0))
  | 0x10 => pdec (n3 && f0) (.clamp x c.da c.db c.dc)
  | 0x11 => pdec (n3 && f0) (.atomadd x c.da c.db c.dc)
  | 0x12 => pdec (n3 && f1) (.atommax x c.da c.db c.dc (fl 0))
  | 0x13 => pdec (n3 && f0) (.scatter x c.da c.db c.dc)
  | 0x14 => pdec (n2 && f0) (.crc x c.da c.db)
  | 0x15 => pdec (n2 && f1) (.sortidx x c.da c.db (fl 0))
  | 0x16 => pdec f0 (.mergedup x c.da c.db c.dc c.dd)
  | 0x17 => pdec (n3 && decide (c.flags < 1024)) (.topkv x c.da c.db c.dc (fld c.flags 0 10))
  | _ => none

-- encoding ------------------------------------------------------------------------------------------------------

/-- F-SS word. -/
def encSS (h : Hd) (op d a b fn : Nat) : Nat := Raw.mk' h op (SS.mk d a b fn 0).bits
/-- F-SI word. -/
def encSI (h : Hd) (op d a imm : Nat) : Nat := Raw.mk' h op (SI.mk d a imm).bits
/-- F-SY word. -/
def encSY (h : Hd) (op d a num fn : Nat) : Nat := Raw.mk' h op (SY.mk d a num fn 0).bits
/-- F-VV word. -/
def encVV (h : Hd) (op d a b sub w k : Nat) : Nat := Raw.mk' h op (VV.mk d a b sub w k).bits
/-- F-VS word. -/
def encVS (h : Hd) (op m s sub imm : Nat) : Nat := Raw.mk' h op (VS.mk m s sub imm).bits
/-- F-LC word. -/
def encLC (h : Hd) (op sub g l n x q z : Nat) : Nat := Raw.mk' h op (LC.mk g l n x q sub z).bits
/-- F-MX word. -/
def encMX (h : Hd) (op fn c qa qb m gang z : Nat) : Nat := Raw.mk' h op (MX.mk c qa qb m gang fn z).bits
/-- Bits 9:0 of a copy (R210). -/
def copyZ (out st : Bool) (tag : Nat) : Nat := bit out * 512 + bit st * 256 + tag
/-- Bits 9:0 of a token form (R235). -/
def tokZ (flag sp : Bool) : Nat := bit sp * 2 + bit flag
/-- Sub-op of an atomic (R228). -/
def atomSub (op : AtomOp) (ord : Nat) (w64 : Bool) : Nat := op.code * 8 + ord * 2 + bit w64

/-- The 64-bit word of a berth instruction; none for an instruction that is no berth word. -/
def encodeBerth : Instr → Option Nat
  | .nop h => some (Raw.mk' h 0 0)
  | .add h d a b => some (encSS h 0x01 d a b 0x00)
  | .sub h d a b => some (encSS h 0x01 d a b 0x01)
  | .and h d a b => some (encSS h 0x01 d a b 0x02)
  | .or h d a b => some (encSS h 0x01 d a b 0x03)
  | .xor h d a b => some (encSS h 0x01 d a b 0x04)
  | .andn h d a b => some (encSS h 0x01 d a b 0x05)
  | .shl h d a b => some (encSS h 0x01 d a b 0x06)
  | .shr h d a b => some (encSS h 0x01 d a b 0x07)
  | .sar h d a b => some (encSS h 0x01 d a b 0x08)
  | .rol h d a b => some (encSS h 0x01 d a b 0x09)
  | .min h d a b => some (encSS h 0x01 d a b 0x0A)
  | .max h d a b => some (encSS h 0x01 d a b 0x0B)
  | .minu h d a b => some (encSS h 0x01 d a b 0x0C)
  | .maxu h d a b => some (encSS h 0x01 d a b 0x0D)
  | .clz h d a => some (encSS h 0x01 d a 0 0x0E)
  | .popc h d a => some (encSS h 0x01 d a 0 0x0F)
  | .mov h d a => some (encSS h 0x01 d a 0 0x10)
  | .mul h d a b => some (encSS h 0x02 d a b 0x00)
  | .mulh h d a b => some (encSS h 0x02 d a b 0x01)
  | .mulhu h d a b => some (encSS h 0x02 d a b 0x02)
  | .div h d a b => some (encSS h 0x02 d a b 0x10)
  | .divu h d a b => some (encSS h 0x02 d a b 0x11)
  | .rem h d a b => some (encSS h 0x02 d a b 0x12)
  | .remu h d a b => some (encSS h 0x02 d a b 0x13)
  | .addi h d a i => some (encSI h 0x03 d a i)
  | .movi h d i => some (encSI h 0x04 d 0 i)
  | .movh h d a i => some (encSI h 0x05 d a i)
  | .shli h d a n => some (encSI h 0x06 d a n)
  | .shri h d a n => some (encSI h 0x07 d a n)
  | .sari h d a n => some (encSI h 0x08 d a n)
  | .bext h d a lo w => some (encSI h 0x09 d a (w * 64 + lo))
  | .bins h d a lo w => some (encSI h 0x0A d a (w * 64 + lo))
  | .setb h d a p => some (encSI h 0x0B d a p)
  | .clrb h d a p => some (encSI h 0x0C d a p)
  | .cmpeq h d p a b => some (encSS h 0x0D d a b p)
  | .cmpne h d p a b => some (encSS h 0x0E d a b p)
  | .cmplt h d p a b => some (encSS h 0x0F d a b p)
  | .cmpltu h d p a b => some (encSS h 0x10 d a b p)
  | .cmple h d p a b => some (encSS h 0x11 d a b p)
  | .cmpleu h d p a b => some (encSS h 0x12 d a b p)
  | .sel h d a b => some (encSS h 0x13 d a b 0)
  | .lds h d a i => some (encSI h 0x14 d a i)
  | .sts h d a i => some (encSI h 0x15 d a i)
  | .br h o => some (Raw.mk' h 0x20 (BRf.mk 0 o).bits)
  | .call h d o => some (Raw.mk' h 0x21 (BRf.mk d o).bits)
  | .jmp h d a => some (encSS h 0x22 d a 0 0)
  | .ret h a => some (encSS h 0x23 0 a 0 0)
  | .loop h l c o => some (Raw.mk' h 0x24 (LP.mk l c 0 o).bits)
  | .loopi h l n o => some (Raw.mk' h 0x25 (LP.mk l 0 n o).bits)
  | .mtl h r l a => some (encSS h 0x26 0 a 0 (r.code * 4 + l))
  | .mfl h d r l => some (encSS h 0x27 d 0 0 (r.code * 4 + l))
  | .trap h i => some (encSI h 0x2C 0 0 i)
  | .rett h => some (encSY h 0x2D 0 0 0 0)
  | .bkpt h i => some (encSI h 0x2E 0 0 i)
  | .exit h => some (encSY h 0x2F 0 0 0 0)
  | .mfsys h d n => some (encSY h 0x30 d 0 n 0)
  | .mtsys h a n => some (encSY h 0x31 0 a n 0)
  | .phase h l => some (encSY h 0x32 0 0 0 l)
  | .fence h a b => some (encSY h 0x33 0 0 (a * 32) b)
  | .pfence h die => some (encSY h 0x34 0 0 0 (bit die))
  | .id h d k => some (encSY h 0x36 d 0 0 k)
  | .time h d f => some (encSY h 0x35 d 0 0 (bit f))
  | .launch h a q => some (encSY h 0x37 0 a 0 q)
  | .mboxreg h d a n s loc => some (encSY h 0x38 d a n (bit loc * 8 + s))
  | .mboxack h => some (encSY h 0x39 0 0 0 0)
  | .tklend h g n sp => some (encLC h 0x3A 0x00 g 0 n 0 0 (tokZ false sp))
  | .tkret h g sp => some (encLC h 0x3A 0x01 g 0 0 0 0 (tokZ false sp))
  | .tksplit h g sp => some (encLC h 0x3A 0x02 g 0 0 0 0 (tokZ false sp))
  | .tkjoin h g sp => some (encLC h 0x3A 0x03 g 0 0 0 0 (tokZ false sp))
  | .tkshare h g n lvl sp => some (encLC h 0x3A 0x04 g 0 n 0 0 (tokZ lvl sp))
  | .tkunshare h g sp => some (encLC h 0x3A 0x05 g 0 0 0 0 (tokZ false sp))
  | .tkatom h g back sp => some (encLC h 0x3A 0x06 g 0 0 0 0 (tokZ back sp))
  | .tkquery h g x sp => some (encLC h 0x3A 0x07 g 0 0 x 0 (tokZ false sp))
  | .tkclaim h g sp => some (encLC h 0x3A 0x08 g 0 0 0 0 (tokZ false sp))
  | .vadd h d a b f rm w k => some (encVV h 0x40 d.code a.code b.code (bit f * 8 + rm.code) w.code k)
  | .vsub h d a b f rm w k => some (encVV h 0x41 d.code a.code b.code (bit f * 8 + rm.code) w.code k)
  | .vmul h d a b f rm w k => some (encVV h 0x42 d.code a.code b.code (bit f * 8 + rm.code) w.code k)
  | .vfma h d a b f rm w k => some (encVV h 0x43 d.code a.code b.code (bit f * 8 + rm.code) w.code k)
  | .vfms h d a b f rm w k => some (encVV h 0x44 d.code a.code b.code (bit f * 8 + rm.code) w.code k)
  | .vmin h d a b f w k => some (encVV h 0x45 d.code a.code b.code (bit f * 8) w.code k)
  | .vmax h d a b f w k => some (encVV h 0x46 d.code a.code b.code (bit f * 8) w.code k)
  | .vabs h d a f w k => some (encVV h 0x47 d.code a.code 0 (bit f) w.code k)
  | .vneg h d a f w k => some (encVV h 0x47 d.code a.code 0 (8 + bit f) w.code k)
  | .vexp2 h d a f w k => some (encVV h 0x48 d.code a.code 0 (bit f) w.code k)
  | .vlog2 h d a f w k => some (encVV h 0x48 d.code a.code 0 (8 + bit f) w.code k)
  | .vrsq h d a f w k => some (encVV h 0x48 d.code a.code 0 (16 + bit f) w.code k)
  | .vrcp h d a f w k => some (encVV h 0x48 d.code a.code 0 (24 + bit f) w.code k)
  | .viadd h d a b u s w k => some (encVV h 0x49 d.code a.code b.code (bit u * 2 + bit s) w.code k)
  | .visub h d a b u s w k => some (encVV h 0x4A d.code a.code b.code (bit u * 2 + bit s) w.code k)
  | .vimul h d a b hi u s w k => some (encVV h 0x4B d.code a.code b.code (bit hi * 4 + bit u * 2 + bit s) w.code k)
  | .vand h d a b w k => some (encVV h 0x4C d.code a.code b.code 0 w.code k)
  | .vor h d a b w k => some (encVV h 0x4C d.code a.code b.code 8 w.code k)
  | .vxor h d a b w k => some (encVV h 0x4C d.code a.code b.code 16 w.code k)
  | .vshl h d a b w k => some (encVV h 0x4D d.code a.code b.code 0 w.code k)
  | .vshr h d a b w k => some (encVV h 0x4D d.code a.code b.code 8 w.code k)
  | .vsar h d a b w k => some (encVV h 0x4D d.code a.code b.code 16 w.code k)
  | .vcmp h kd a b t c w k => some (encVV h 0x4E kd a.code b.code (t.code * 8 + c.code) w.code k)
  | .vsel h d a b w k => some (encVV h 0x4F d.code a.code b.code 0 w.code k)
  | .vcvt h d a s t rm sat n p k =>
      some (encVV h 0x50 d.code a.code (s.code * 128 + t.code * 8 + rm.code)
        ((if cvtRatio s t = 8 then p / 4 else bit sat) * 16 + n) (p % 4) k)
  | .vkey h d a desc t f w k => some (encVV h 0x51 d.code a.code 0 (bit desc * 8 + t.code * 2 + bit f) w.code k)
  | .vhist h d a lo db half acc w k => some (encVV h 0x52 d.code a.code (lo * 64 + db * 8) (bit half * 2 + bit acc) w.code k)
  | .vscan h d a rev i rm w k => some (encVV h 0x53 d.code a.code 0 (bit rev * 16 + bit i * 8 + rm.code) w.code k)
  | .vred h d a kind u f rm w k => some (encVV h 0x54 d.code a.code (bit u * 16 + bit f * 8 + rm.code) kind.code w.code k)
  | .vcomp h d a w k => some (encVV h 0x55 d.code a.code 0 0 w.code k)
  | .vexpd h d a w k => some (encVV h 0x55 d.code a.code 0 8 w.code k)
  | .vperm h d a b z hi w k => some (encVV h 0x56 d.code a.code b.code (bit z * 2 + bit hi) w.code k)
  | .vbcast h d a w i => some (encVS h 0x57 d.code a w.code i)
  | .vmovs h m s sx dir w j => some (encVS h 0x58 m.code s (bit sx * 8 + bit dir * 4 + w.code) j)
  | .vrot h a i => some (encVS h 0x59 0 a 0 i)
  | .vmconf h a i => some (encVS h 0x59 0 a 8 i)
  | .kand h d a b => some (encVV h 0x5A d a b 0 0 0)
  | .kor h d a b => some (encVV h 0x5A d a b 8 0 0)
  | .knot h d a => some (encVV h 0x5A d a 0 16 0 0)
  | .kpopc h d a => some (encVV h 0x5A d a 0 24 0 0)
  | .vld h m a k w i => some (encVS h 0x60 m.code a (k * 4 + w.code) i)
  | .vst h m a k w i => some (encVS h 0x61 m.code a (k * 4 + w.code) i)
  | .vldx h d a p w k => some (encVV h 0x62 d.code a.code 0 p w.code k)
  | .vstx h a b p w k => some (encVV h 0x63 0 a.code b.code p w.code k)
  | .cp h g l n x q out st t => some (encLC h 0x6C 0x00 g l n x q.code (copyZ out st t))
  | .cpw h g l n x q out st t => some (encLC h 0x6C 0x01 g l n x q.code (copyZ out st t))
  | .cpg h g l n z t => some (encLC h 0x6C 0x02 g l n 0 (if z then 3 else 0) t)
  | .cps h g l n x q out st t => some (encLC h 0x6C 0x03 g l n x q.code (copyZ out st t))
  | .lwait h c => some (encLC h 0x6C 0x04 0 0 0 0 0 c)
  | .stbind h x e => some (encLC h 0x64 0x00 0 0 0 x 0 e)
  | .strel h g l x => some (encLC h 0x64 0x01 g l 0 x 0 0)
  | .rconf h q l n => some (encLC h 0x65 0x00 0 l n (16 + q) 0 0)
  | .racq h q l => some (encLC h 0x66 0x00 0 l 0 (16 + q) 0 0)
  | .rpub h q l => some (encLC h 0x66 0x01 0 l 0 (16 + q) 0 0)
  | .rtake h q l => some (encLC h 0x66 0x02 0 l 0 (16 + q) 0 0)
  | .rrel h q => some (encLC h 0x66 0x03 0 0 0 (16 + q) 0 0)
  | .probe h g l p o => some (encLC h 0x6D 0x00 g l 0 p 0 o)
  | .pwait h l => some (encLC h 0x6D 0x01 0 l 0 0 0 0)
  | .pinv h g p all => some (encLC h 0x6D 0x02 g 0 0 p 0 (bit all))
  | .atom h g l n x op o w s => some (encLC h 0x6E (atomSub op o w) g l n x 0 s)
  | .atomnr h g l n op o w s => some (encLC h 0x6F (atomSub op o w) g l n 0 0 s)
  | .atomfence h s => some (encLC h 0x70 0 0 0 0 0 0 s)
  | .semwait h g n c s => some (encLC h 0x71 0x00 g 0 n 0 0 (bit s * 4 + c.code))
  | .sempost h g n => some (encLC h 0x71 0x01 g 0 n 0 0 0)
  | .whpush h g l n => some (encLC h 0x72 0x00 g l n 0 0 0)
  | .imload h g l n t => some (encLC h 0x72 0x01 g l n 0 0 t)
  | .layset h l n => some (encLC h 0x73 0x00 0 l n 0 0 0)
  | .wconf h w g l n => some (encLC h 0x73 0x01 g l n w 0 0)
  | .mmul h c q m g z mask => some (encMX h 0x76 (bit mask * 2 + bit z) c q 0 m g.code 0)
  | .wload h q g f => some (encMX h 0x77 f.code 0 0 q 0 g.code 0)
  | .wswap h g => some (encMX h 0x78 0x00 0 0 0 0 g.code 0)
  | .fmtpush h m => some (encMX h 0x78 0x01 0 0 0 m 0 0)
  | .fmtclr h => some (encMX h 0x78 0x02 0 0 0 0 0 0)
  | .sqbind h q n => some (encMX h 0x78 0x03 0 0 q 0 0 (bit n))
  | .mpbclr h => some (encMX h 0x78 0x04 0 0 0 0 0 0)
  | .acczero h c g => some (encMX h 0x79 0x00 c 0 0 0 g.code 0)
  | .accfree h c g => some (encMX h 0x79 0x01 c 0 0 0 g.code 0)
  | .accconf h m => some (encMX h 0x79 0x02 0 0 0 m 0 0)
  | .accdrain h c m g f rm sat a b =>
      some (encMX h 0x7A (bit sat * 128 + rm.code * 16 + f.code) c 0 0 m g.code (a * 1024 + b * 16))
  | .accread h x c m => some (encMX h 0x7B 0x00 c 0 0 m 0 (x.code * 32))
  | .accwrite h c m x => some (encMX h 0x7B 0x01 c 0 0 m 0 (x.code * 32))
  | .mpbld h m => some (encMX h 0x7C 0x00 0 0 0 m 0 0)
  | _ => none

/-- Pier arithmetic word (R290). -/
def encP (op : Nat) (v bs ib u : Bool) (d a b m : Nat) : Nat := (PW.mk op v d a b bs ib u m).word
/-- Pier word without the arithmetic layout: V, d, a, b and bits 12:0. -/
def encP' (op : Nat) (v : Bool) (d a b lo : Nat) : Nat := op * 2 ^ 26 + bit v * 2 ^ 25 + d * 2 ^ 21 + a * 2 ^ 17 + b * 2 ^ 13 + lo

/-- The 32-bit word of a pier instruction. -/
def encodePier : Instr → Option Nat
  | .addp v s i d a b m => some (encP 0x01 v s i false d a b m)
  | .subp v s i d a b m => some (encP 0x02 v s i false d a b m)
  | .mulp v s i d a b m => some (encP 0x03 v s i false d a b m)
  | .faddp v s d a b => some (encP 0x04 v s false false d a b 0)
  | .fmaxp v s d a b => some (encP 0x05 v s false false d a b 0)
  | .minp v s i u d a b m => some (encP 0x06 v s i u d a b m)
  | .maxp v s i u d a b m => some (encP 0x07 v s i u d a b m)
  | .andp v s i d a b m => some (encP 0x08 v s i false d a b m)
  | .orp v s i d a b m => some (encP 0x09 v s i false d a b m)
  | .xorp v s i d a b m => some (encP 0x0A v s i false d a b m)
  | .shp v s k d a b => some (encP 0x0B v s false false d a b (k.code * 256))
  | .cmpp v s u c d a b => some (encP 0x0C v s false u d a b (c.code * 128))
  | .selp v s i d c a b m => some (encP 0x0D v s i false d a b (c * 64 + m))
  | .hld x d a n => some (encP' 0x10 false d a 0 (n * 128 + bit x * 64))
  | .pld d => some (encP' 0x11 true d 0 0 0)
  | .pst a => some (encP' 0x12 true 0 a 0 0)
  | .fld al d a n => some (encP' 0x14 false d a 0 (n * 128 + bit al * 64))
  | .fst a b n => some (encP' 0x15 false 0 a b (n * 128))
  | .fcas d a b n => some (encP' 0x16 false d a b (n * 128))
  | .hold => some (encP' 0x18 false 0 0 0 0)
  | .combine m a b => some (encP' 0x19 true 0 a b m.code)
  | .emit dst a b => some (encP' 0x1A false 0 a b (bit dst))
  | .fwd => some (encP' 0x1B false 0 0 0 0)
  | .drop => some (encP' 0x1C false 0 0 0 0)
  | .redirect t a => some (encP' 0x1D false 0 a 0 (bit t))
  | .brf z a o => some (encP' 0x20 z 0 a 0 o)
  | .trapp i => some (0x21 * 2 ^ 26 + i)
  | .endk => some (encP' 0x22 false 0 0 0 0)
  | _ => none

/-- Wharf command word (R302). -/
def encW (x : WX) (opc da db dc dd fl : Nat) : Nat :=
  (CW.mk x.wcond.code x.wdesc (bit x.post) x.sdesc opc da db dc dd fl).word

/-- The 64-bit word of a wharf command. -/
def encodeWharf : Instr → Option Nat
  | .nopw x => some (encW x 0x00 0 0 0 0 0)
  | .setd x d w v => some (encW x 0x01 d 0 0 0 0 + w * 2 ^ 33 + v)
  | .wharfSemwait x a c s => some (encW x 0x02 a 0 0 0 (bit s * 4 + c.code))
  | .wharfSempost x a e => some (encW x 0x03 a 0 0 0 (bit e))
  | .barrier x a => some (encW x 0x04 a 0 0 0 0)
  | .fill x a b => some (encW x 0x05 a b 0 0 0)
  | .copyc x a b => some (encW x 0x06 a b 0 0 0)
  | .convert x a b rm s => some (encW x 0x07 a b 0 0 (bit s * 8 + rm.code))
  | .gather x a b c p => some (encW x 0x08 a b c 0 (bit p))
  | .pool x a b c d m sp p => some (encW x 0x09 a b c d (bit p * 8 + bit sp * 4 + m.code))
  | .gemv x a b c acc => some (encW x 0x0A a b c 0 (bit acc))
  | .axpy x a b c => some (encW x 0x0B a b c 0 0)
  | .scale x a b => some (encW x 0x0C a b 0 0 0)
  | .reduce x a b k acc => some (encW x 0x0D a b 0 0 (bit acc * 4 + k.code))
  | .dot x a b c => some (encW x 0x0E a b c 0 0)
  | .norm2 x a b sq => some (encW x 0x0F a b 0 0 (bit sq))
  | .clamp x a b c => some (encW x 0x10 a b c 0 0)
  | .atomadd x a b c => some (encW x 0x11 a b c 0 0)
  | .atommax x a b c m => some (encW x 0x12 a b c 0 (bit m))
  | .scatter x a b c => some (encW x 0x13 a b c 0 0)
  | .crc x a b => some (encW x 0x14 a b 0 0 0)
  | .sortidx x a b p => some (encW x 0x15 a b 0 0 (bit p))
  | .mergedup x a b c d => some (encW x 0x16 a b c d 0)
  | .topkv x a b c k => some (encW x 0x17 a b c 0 k)
  | _ => none

-- words from bytes ----------------------------------------------------------------------------------------------

/-- Little-endian value of a list of bytes (spec/00 R3). -/
def leValue : List Byte → Nat
  | [] => 0
  | b :: bs => b.toNat + 256 * leValue bs

/-- n bytes of a value, little-endian. -/
def leBytes : Nat → Nat → List Byte
  | 0, _ => []
  | n + 1, v => BitVec.ofNat 8 v :: leBytes n (v / 256)

/-- The instruction that the model's decoders read from a table word: 32 bits are a pier word; 64 bits a berth word, or a wharf
command where the scanner refuses them as a berth word. -/
def decodeTableWord (nbits w : Nat) : Option Instr :=
  if nbits = 32 then decodePier (leValue (leBytes 4 w))
  else if nbits = 64 then
    match decodeBerth (leValue (leBytes 8 w)) with
    | .ok i => some i
    | .error _ => decodeWharf (leValue (leBytes 8 w))
  else none

end Sys2Proof
end

