-- ==== Sys2Proof/Machine/Flags.lean ====
section
/-! DEFINITION. Codes, conditions and the bits that an instruction computes: fault codes (spec/23 R338), event codes (R355),
scalar compares (spec/11 R160), vector compares (spec/13 R191), lane-mask bits (spec/03 R44) and access kinds. -/

namespace Sys2Proof.Machine
open Sys2Proof

-- fault codes (R338)
def fcAlign : Nat := 0x01
def fcBound : Nat := 0x02
def fcFmtqEmpty : Nat := 0x04
def fcRingMisuse : Nat := 0x05
def fcConfBusy : Nat := 0x06
def fcStreamUnbound : Nat := 0x07
def fcLoopNest : Nat := 0x08
def fcPageMiss : Nat := 0x10
def fcPagePerm : Nat := 0x11
def fcPageTier : Nat := 0x12
def fcLayoutJob : Nat := 0x13
def fcTokenNone : Nat := 0x20
def fcTokenShared : Nat := 0x21
def fcTokenAtomic : Nat := 0x22
def fcTokenQuarantine : Nat := 0x23
def fcTokenLost : Nat := 0x24
def fcBarrierLost : Nat := 0x25
def fcLighterMiss : Nat := 0x30
def fcLighterPerm : Nat := 0x31
def fcLighterTier : Nat := 0x32
def fcLighterPoison : Nat := 0x33
def fcUnreachable : Nat := 0x34
def fcWharfChannel : Nat := 0x40
def fcWharfSemerr : Nat := 0x41
def fcWharfIllegal : Nat := 0x42
def fcWharfDesc : Nat := 0x43
def fcWharfBound : Nat := 0x44
def fcWharfPage : Nat := 0x45
def fcWharfToken : Nat := 0x46
def fcWharfPoison : Nat := 0x47
def fcWharfTimeout : Nat := 0x48
def fcWharfLocal : Nat := 0x49
def fcPierFlowmiss : Nat := 0x50
def fcPierCombine : Nat := 0x51
def fcPierTrapp : Nat := 0x52
def fcPierBound : Nat := 0x53
def fcPierVerify : Nat := 0x54
def fcPierUnload : Nat := 0x55
def fcTrap : Nat := 0x60
def fcBkpt : Nat := 0x61
def fcWatchdog : Nat := 0x62
def fcPrivilege : Nat := 0x63
def fcDouble : Nat := 0x64
def fcMachShadow : Nat := 0x70
def fcMachArray : Nat := 0x71
def fcMachVbus : Nat := 0x72
def fcMachHang : Nat := 0x73
def fcMachChannel : Nat := 0x74
def fcMachTokentable : Nat := 0x75
def fcMachImage : Nat := 0x76
def fcMachPower : Nat := 0x77

-- event codes (R355)
def evMboxOverflow : Nat := 0x80
def evReject : Nat := 0x81
def evQueue : Nat := 0x82
def evSpill : Nat := 0x83
def evFill : Nat := 0x84
def evEvict : Nat := 0x85
def evFabLane : Nat := 0x86
def evFabMode : Nat := 0x87
def evFabConfig : Nat := 0x88
def evFabDrop : Nat := 0x89
def evMemCorrected : Nat := 0x8A
def evMemRemap : Nat := 0x8B
def evHot : Nat := 0x8C
def evBerthRetired : Nat := 0x8D
def evQuarantined : Nat := 0x8E
def evVbusSpare : Nat := 0x8F
def evStatus : Nat := 0x90
def evPortrole : Nat := 0x91

/-- Scalar compares (spec/11 R160). -/
def cmpBits (eq ne lt ltu le leu : Bool) (a b : W64) : Bool :=
  (eq && a == b) || (ne && a != b) || (lt && a.slt b) || (ltu && a.ult b) || (le && a.sle b) || (leu && a.ule b)

/-- Whether a condition of VCMP holds, from the comparisons of its elements (spec/13 R191). -/
def condHolds (c : VCond) (lt eq uo : Bool) : Bool :=
  match c with
  | .eq => !uo && eq
  | .ne => uo || !eq
  | .lt => !uo && lt
  | .le => !uo && (lt || eq)
  | .gt => !uo && !lt && !eq
  | .ge => !uo && !lt
  | .uo => uo

/-- The lane-mask bit that governs element j at a width (spec/03 R44). -/
def maskBit (k : BitVec 512) (w : Width) (j : Nat) : Bool :=
  match w with
  | .w4 => k.getLsbD (j / 2)
  | _ => k.getLsbD j

/-- How an access uses memory: its permission bits and its token row (spec/09 R387, R135). -/
inductive Acc where
  | read | write | atomRead | atomWrite | instr
deriving DecidableEq, Repr

end Sys2Proof.Machine
end

