-- ==== Sys2Proof/Config.lean ====
section
/-! DEFINITION. What the specification leaves to the device: values that nothing in the specification fixes. Each is an opaque
constant, so no proof can see what it is. -/

namespace Sys2Proof

/-- A byte of HBM at a spread address after the module's n-th loss of power, while nothing has written it (spec/09 R151). -/
opaque Config.lostByte : Nat → Nat → Byte

/-- Byte `o` of the n-th context image, in the blocks whose encoding spec/23 R342 and R343 do not give. -/
opaque Config.imageByte : Nat → Nat → Byte

/-- Digest of the n-th key digest slot of the fuses (spec/25 R380). -/
opaque Config.fuseDigest : Nat → BitVec 384

/-- Whether key digest slot n is revoked (spec/25 R380). -/
opaque Config.fuseRevoked : Nat → Bool

/-- SHA-384 of the fuse values (spec/25 R381). -/
opaque Config.fuseHash : BitVec 384

/-- Serial number (spec/25 R381). -/
opaque Config.serial : BitVec 128

/-- Identity public key, X then Y (spec/25 R381). -/
opaque Config.identityKey : BitVec 768

/-- The identity key's ECDSA P-384 signature of a SHA-384 digest (spec/25 R381). -/
opaque Config.identitySign : BitVec 384 → BitVec 768

/-- Code of a port's mode in an event record: full, full with an erasure, half, half with an erasure, down (spec/23 R355). -/
opaque Config.modeCode : Nat → BitVec 2

/-- Phases that the berth-thread of a party number of another device has completed at a time: its device keeps the count, and no
packet of spec/19 carries it (spec/09 R134). -/
opaque Config.farPhases : Nat → Nat → Nat

/-- Whether a berth of another device, by its party number, holds a berth-thread of a job at a time: its harbourmaster alone knows
(spec/09 R132). -/
opaque Config.farThread : Nat → Nat → Nat → Bool

/-- Whether the second party is the keeper of a region that the first, a berth-thread of another device, held (spec/23 R351). -/
opaque Config.farKeeper : Nat → Nat → Bool

/-- Fault code of a token form that a berth-thread makes when the carve-out has no block for a new record: the spec names only the host's
result ARENA (spec/25 R365). -/
opaque Config.arenaFault : BitVec 8

/-- What the size of a region of another device's home depends on: its job, an address in it, and the time (spec/09 R133). -/
opaque Config.farSize : Nat → Nat → Nat → Nat

/-- Exponent of the first of the two consecutive roots of the column code (spec/19 R269). -/
opaque Config.rsFirst : Nat

/-- The n-th value that the specification leaves open (spec/21 R318: REDUCE of no row). -/
opaque Config.freeWord : Nat → W64

end Sys2Proof
end

