-- ==== Sys2Proof/Machine/Tab.lean ====
section
/-! DEFINITION. Sparse tables and byte memories, each in one canonical form: keys strictly rising, and no entry equal to what
an unlisted key reads as, so that equal contents are equal data. -/

namespace Sys2Proof.Machine
open Sys2Proof

/-- A sparse table: key and value pairs. -/
abbrev Tab (α : Type) := List (Nat × α)

/-- What a key holds; `z` where nothing is listed. -/
def Tab.get {α : Type} (z : α) : Tab α → Nat → α
  | [], _ => z
  | (k, v) :: t, i => if i = k then v else Tab.get z t i

/-- Remove a key. -/
def Tab.erase {α : Type} : Tab α → Nat → Tab α
  | [], _ => []
  | (k, v) :: t, i => if i = k then Tab.erase t i else (k, v) :: Tab.erase t i

/-- List a key. -/
def Tab.insert {α : Type} : Tab α → Nat → α → Tab α
  | [], i, x => [(i, x)]
  | (k, v) :: t, i, x =>
    if i = k then (i, x) :: t else if i < k then (i, x) :: (k, v) :: t else (k, v) :: Tab.insert t i x

/-- Write a key: the value `z` is not listed. -/
def Tab.set {α : Type} [DecidableEq α] (z : α) (t : Tab α) (i : Nat) (x : α) : Tab α :=
  if x = z then Tab.erase t i else Tab.insert t i x

/-- Apply a function to what a key holds. -/
def Tab.upd {α : Type} [DecidableEq α] (z : α) (t : Tab α) (i : Nat) (f : α → α) : Tab α :=
  Tab.set z t i (f (Tab.get z t i))

/-- Keys rise strictly from `lo`. -/
def Tab.rising {α : Type} : Nat → Tab α → Bool
  | _, [] => true
  | lo, (k, _) :: t => decide (lo ≤ k) && Tab.rising (k + 1) t

/-- The canonical form of a table. -/
def Tab.wf {α : Type} [DecidableEq α] (z : α) (t : Tab α) : Bool :=
  Tab.rising 0 t && t.all fun p => decide (p.2 ≠ z)

/-- A byte memory: cells at rising addresses. -/
abbrev Memory := List Host.Cell

/-- A byte; `u` gives what unlisted addresses read as. -/
def Memory.get (u : Nat → Byte) : Memory → Nat → Byte
  | [], a => u a
  | (k, v) :: m, a => if a = k then v else Memory.get u m a

/-- Remove an address from the list. -/
def Memory.erase : Memory → Nat → Memory
  | [], _ => []
  | (k, v) :: m, a => if a = k then Memory.erase m a else (k, v) :: Memory.erase m a

/-- List an address. -/
def Memory.insert : Memory → Nat → Byte → Memory
  | [], a, x => [(a, x)]
  | (k, v) :: m, a, x =>
    if a = k then (a, x) :: m else if a < k then (a, x) :: (k, v) :: m else (k, v) :: Memory.insert m a x

/-- Write one byte: a byte equal to what an unlisted address reads as is not listed. -/
def Memory.set (u : Nat → Byte) (m : Memory) (a : Nat) (x : Byte) : Memory :=
  if x = u a then Memory.erase m a else Memory.insert m a x

/-- Addresses rise strictly from `lo`. -/
def Memory.rising : Nat → Memory → Bool
  | _, [] => true
  | lo, (k, _) :: m => decide (lo ≤ k) && Memory.rising (k + 1) m

/-- The canonical form of a byte memory. -/
def Memory.wf (u : Nat → Byte) (m : Memory) : Bool :=
  Memory.rising 0 m && m.all fun c => decide (c.2 ≠ u c.1)

/-- n bytes from an address. -/
def Memory.read (u : Nat → Byte) (m : Memory) (a : Nat) : Nat → List Byte
  | 0 => []
  | n + 1 => Memory.get u m a :: Memory.read u m (a + 1) n

/-- Write bytes from an address, in increasing order. -/
def Memory.write (u : Nat → Byte) (m : Memory) (a : Nat) : List Byte → Memory
  | [] => m
  | b :: bs => Memory.write u (Memory.set u m a b) (a + 1) bs

/-- Write listed cells in order. -/
def Memory.writeCells (u : Nat → Byte) (m : Memory) : List Host.Cell → Memory
  | [] => m
  | c :: cs => Memory.writeCells u (Memory.set u m c.1 c.2) cs

/-- What an unlisted byte of every memory but HBM after a power loss reads as. -/
def zeroByte : Nat → Byte := fun _ => 0

end Sys2Proof.Machine
end

