-- ==== Sys2Proof/Machine/State.lean ====
section
/-! DEFINITION. The state of the module, its faults and refusals, and the state after reset. Every piece of state the
specification names is a field; sparse tables (Machine/Tab) list only what differs from the value at reset. -/

namespace Sys2Proof.Machine
open Sys2Proof

-- parties and regions -------------------------------------------------------------------------------------------

/-- A token party (spec/09 R132). A berth-thread is named through its team and rank, never through its berth. -/
inductive Party where
  | bt (team rank : Nat)
  | lighter (b : Nat)
  | unit (u : Nat)
  | pier (p : Nat)
  | host
  | hm
  | tug
  /-- A party of another device, in the 26 bits of R132. -/
  | remote (n : Nat)
  /-- Reserved numbers, and berths that hold no berth-thread. -/
  | nobody
deriving DecidableEq, Repr

/-- State of a region (spec/09 R134). -/
inductive RState where
  | owned | shared | atomic | exec | quarantined
deriving DecidableEq, Repr

/-- A token record (spec/09 R133, R134). `exporter` is the berth-thread whose scratchpad holds the region, none for a region of
the job's global space. `stack` has its top first; `shares` holds each grantee with its grants. -/
structure Region where
  job      : Nat
  exporter : Option Party
  base     : Nat
  log2     : Nat
  st       : RState
  owner    : Party
  stack    : List Party
  phasecnt : Nat
  shares   : List (Party × Nat)
  /-- The record holds an uncorrectable error not yet found (spec/23 R351). -/
  lost     : Bool
deriving DecidableEq, Repr

/-- A failure kept until its consuming group (spec/15 R217, R218). -/
structure Fail where
  code : Nat
  addr : W64
  tag  : Nat
  /-- The operation that failed: operations are numbered in issue order. -/
  op   : Nat
deriving DecidableEq, Repr

-- a berth-thread's context --------------------------------------------------------------------------------------

/-- What an in-flight M-class MMUL needs to retire (spec/17 R253). Times count the issuing berth's unfrozen ck. -/
structure MRec where
  t0     : Nat
  slot   : Nat
  row0   : Nat
  mrow0  : Nat
  z      : Bool
  /-- The mask block in force at issue; none when the MMUL is not masked or the block is CLEAR. -/
  mask   : Option (List Byte)
  masked : Bool
  afmt   : Fmt
  wfmt   : Fmt
  rows   : Nat
  qa     : Nat
  aslot  : Nat
  sq     : Option Nat
  sslot  : Nat
  /-- Members of the gang: berth, physical bank read, and the format of that bank. -/
  members : List (Nat × Nat × Fmt)
  /-- Activation rows captured so far: codes of a row, and its scale entries. -/
  acts   : List (List Nat × List Nat)
deriving DecidableEq, Repr

/-- A WLOAD in flight (spec/17 R249). -/
structure WRec where
  t0     : Nat
  qb     : Nat
  wslot  : Nat
  sq     : Option Nat
  sslot  : Nat
  fmt    : Fmt
  members : List (Nat × Nat)
deriving DecidableEq, Repr

/-- Where a remote load's data goes (spec/11 R162, spec/13 R205). -/
inductive LoadDest where
  | sreg (d : Nat)
  /-- A register of which a later word's result keeps the bits that the mask leaves out (spec/03 R46). -/
  | bits (d : Nat) (mask : W64)
  /-- Resolved cells with the mask of bits written, lane by lane. -/
  | cells (l : List (Nat × W32))
deriving DecidableEq, Repr

/-- A result, a store or a state change in flight (spec/03 R45, R61). -/
inductive Eff where
  | sreg (d : Nat) (v : W64)
  /-- One bit, merged at landing (spec/11 R154). -/
  | sbit (d p : Nat) (v : Bool)
  | kmask (k : Nat) (v : BitVec 512)
  /-- MRF cells: physical cell, bits written, value. -/
  | cells (l : List (Nat × W32 × W32))
  /-- The same from an ACCREAD, which is M-class work in flight. -/
  | mcells (l : List (Nat × W32 × W32))
  /-- Scratchpad bytes of path P or V. -/
  | store (path : Nat) (l : List Host.Cell)
  | sysreg (n : Nat) (v : W64)
  | rot (n : Nat)
  | depth (n : Nat)
  | accRow (c r : Nat) (l : List W32)
  | accZero (c : Nat) (members : List Nat)
  | accFree (c : Nat) (members : List Nat)
  /-- ACCDRAIN's scratchpad bytes (path M), and the members whose slots it reads. -/
  | drain (l : List Host.Cell) (members : List Nat)
  | mpb (b : List Byte)
  | mmul (r : MRec)
  | wload (r : WRec)
  /-- A remote load: its operation, and its data once returned. -/
  | rload (op : Nat) (dst : LoadDest) (data : Option (List Byte))
  /-- A remote load that failed at the peer: the failure is raised when its result is due (spec/09 R123). -/
  | rfail (op : Nat) (dst : LoadDest) (f : Fail)
deriving DecidableEq, Repr

/-- A flight: unfrozen ck until its landing, what lands, and whether its operation names plane m3 (spec/03 R43). -/
structure Flight where
  rem : Nat
  eff : Eff
  m3  : Bool
deriving DecidableEq, Repr

/-- Destination slot of a completion (spec/15 R214). -/
inductive Route where
  | count
  | stream (x : Nat)
  | ring (q slot : Nat)
deriving DecidableEq, Repr

/-- A layout record (spec/09 R128). -/
structure Layout where
  job     : Nat
  valid   : Bool
  log2e   : Nat
  ext     : List Nat
  strides : List Int
deriving DecidableEq, Repr

/-- Form of a copy (spec/15 R213). -/
inductive CopyForm where
  | cp | cpw | cpg | cps
deriving DecidableEq, Repr

/-- A copy as issued (spec/15 R212-R214). `layout` is the record found at issue. -/
structure CopyReq where
  form   : CopyForm
  g      : Nat
  l      : Nat
  count  : Nat
  layout : Option Layout
  log2row : Nat
  nidx   : Nat
  list   : Nat
  q      : CopyQ
  out    : Bool
  /-- The global side, fixed when the copy first went to another home: segments of address and length. -/
  segs   : Option (List (Nat × Nat))
deriving DecidableEq, Repr

/-- An atomic as issued (spec/15 R228, R229). -/
structure AtomReq where
  va    : Nat
  op    : AtomOp
  w64   : Bool
  b     : W64
  c     : W64
  ord   : Nat
  scope : Nat
deriving DecidableEq, Repr

/-- A token form (spec/09 R136). -/
inductive TokForm where
  | lend | ret | split | join | share | unshare | atom (back : Bool) | query | claim
deriving DecidableEq, Repr

/-- A token form as issued: the region's address, the target parties, and where the region lies. -/
structure TokReq where
  form    : TokForm
  g       : W64
  /-- g is a local address: in the own export or in a window. -/
  sp      : Bool
  /-- Parties granted or lent to (26-bit numbers). -/
  targets : List Nat
deriving DecidableEq, Repr

/-- A semaphore wait (spec/15 R233). -/
structure SemReq where
  va   : Nat
  t    : Nat
  cond : SCond
  sub  : Bool
deriving DecidableEq, Repr

/-- Kind of an operation of a berth that is performed outside it (spec/09 R143). -/
inductive OpKind where
  | copy (c : CopyReq)
  /-- Probe fill of the block of n bytes at `block` into entry e of table t, whose slot is at `slot`. -/
  | fill (t e : Nat) (block n slot : Nat)
  | imload (va word n : Nat)
  | atom (a : AtomReq)
  | atomnr (a : AtomReq)
  | sempost (va inc : Nat)
  | semwait (r : SemReq)
  | token (r : TokReq)
  /-- Window store: window, local address of its first byte, bytes at window offsets. -/
  | wstore (w : Nat) (addr : Nat) (l : List Host.Cell)
  /-- Remote load: window, local address, bytes. -/
  | rload (w : Nat) (addr n : Nat)
  | whpush (u : Nat) (l n : Nat)
  | launch (q : Nat) (man : List Byte)
  | mboxack
deriving DecidableEq, Repr

/-- A window (spec/09 R122, R123). -/
structure Window where
  valid : Bool
  label : Nat
  berth : Nat
  lbase : Nat
  out   : Nat
  limit : Nat
  /-- The peer berth-thread: bound at the first access on this device, by its number at WCONF on another. -/
  bound : Option Party
deriving DecidableEq, Repr

/-- How far an operation is. -/
inductive Stage where
  /-- Not yet at its home. -/
  | sent
  /-- Passed every check; data read, to be written at completion (destination cells in the own scratchpad, or elements). -/
  | passed (data : List Byte)
  /-- Requests on the fabric or to a pool port: each key with an offset and length that it covers; data gathered so far. A key is a
  fabric tag, or the 256-byte block of a UIO request with bit 56 set; bit 57 marks a write, bit 58 a request that only has a range
  checked. -/
  | remote (tags : List (Nat × Nat × Nat)) (data : List Host.Cell)
  /-- Performed; a reply has not been delivered yet. -/
  | replied (data : List W64)
  /-- Failed; the failure has not been delivered or raised yet. -/
  | failed (f : Fail)
deriving DecidableEq, Repr

/-- An operation outstanding outside the berth. -/
structure Op where
  id    : Nat
  kind  : OpKind
  route : Route
  tag   : Nat
  stage : Stage
  /-- Unfrozen ck until its release under step 2 of spec/09 R144. -/
  held  : Nat
  /-- Unfrozen ck until every store issued before a `.rel` atomic is visible (spec/15 R230). -/
  rel   : Nat
  /-- Whether the operation has been journalled as issued (spec/09 R150). -/
  logged : Bool
  /-- The window it goes through, as it stood at issue. -/
  win : Window
  /-- Its word names plane m3 (spec/03 R43). -/
  m3 : Bool
  /-- Requests that have failed: address, offset and code (spec/15 R217). -/
  errs : List (Nat × Nat × Nat)
  /-- Bytes of its scratchpad side that have moved before the rest, by offset: read of a source, or landed (spec/09 R140). -/
  moved : List Host.Cell
  /-- Device counter when its requests to pool ports were sent (spec/25 R375, R389). -/
  uioAt : Nat
deriving DecidableEq, Repr

/-- What waits behind a stream register's arrived elements: the operations routed to it, in issue order. -/
structure SItem where
  op    : Nat
  /-- Elements delivered by the operation and not yet arrived. -/
  elems : List (List Byte)
  /-- The operation is performed; no more elements follow. -/
  done  : Bool
  fail  : Option Fail
deriving DecidableEq, Repr

/-- A stream register (spec/09 R130): element bytes 0, 8 or 512. -/
structure Stream where
  es      : Nat
  arrived : List (List Byte)
  items   : List SItem
deriving DecidableEq, Repr

/-- State of a ring slot (spec/09 R129). -/
inductive SlotSt where
  | empty | filling | full | draining
deriving DecidableEq, Repr

/-- A ring slot: its state, the publishing operation, a failure mark, and the outbound operations that still read it. -/
structure Slot where
  st      : SlotSt
  pub     : Bool
  fail    : Option Fail
  /-- RREL was issued; the operations that still have to read the slot. -/
  releasing : Option (List Nat)
  /-- RPUB was issued: unfrozen ck until the slot is full. -/
  filling : Option Nat
deriving DecidableEq, Repr

/-- An empty slot. -/
def Slot.empty : Slot := ⟨.empty, false, none, none, none⟩

/-- A ring (spec/09 R129, spec/15 R222): slots of z bytes from base; n = 0 when unconfigured. -/
structure Ring where
  base  : Nat
  z     : Nat
  n     : Nat
  acq   : Nat
  take  : Nat
  slots : Tab Slot
deriving DecidableEq, Repr

/-- A probe way (spec/09 R131, spec/15 R226). -/
structure Way where
  valid : Bool
  tag   : Nat
  /-- Fills whose failure is this slot's: the way's own, and those of ways that it replaced (spec/15 R226). -/
  fills : List Nat
  fail  : Option Fail
  /-- Order of last use. -/
  used  : Nat
deriving DecidableEq, Repr

/-- A version of one weight row (spec/17 R244, R250): visible from a ck of the issuing berth. -/
structure WRow where
  since  : Nat
  codes  : List Nat
  scales : List Nat
deriving DecidableEq, Repr

/-- A weight bank: format, rows with their recent versions (newest first). -/
structure Bank where
  fmt  : Option Fmt
  rows : Tab (List WRow)
deriving DecidableEq, Repr

/-- Engine mode (spec/17 R244). -/
inductive EMode where
  | own | pair | quad
deriving DecidableEq, Repr, Inhabited

/-- Levels of a hardware loop (spec/03 R56, R57). -/
structure Loop where
  lc : Nat
  lb : Nat
  le : Nat
  beg : Nat
  fin : Nat
deriving DecidableEq, Repr

/-- A pending branch: target and delay groups still to issue (spec/03 R55). -/
structure Branch where
  target : W64
  delay  : Nat
deriving DecidableEq, Repr

/-- A capture of the pipeline (spec/03 R61). -/
structure Snap where
  flights : List Flight
  branch  : Option Branch
  /-- Held operations with their remaining ck. -/
  held    : List (Nat × Nat)
  /-- FENCEs in force at the capture. -/
  fences  : List (Nat × Nat)
  /-- Publications still counting (spec/15 R224): ring, slot, remaining ck, and whether the handler's own word asked for it. -/
  pubs    : List (Nat × Nat × Nat × Bool)
  /-- Delay groups still to issue of a PROBE that hit (spec/15 R226). -/
  quiet   : Nat
  /-- The interrupted context's MBOXREG request and its answer (spec/03 R54). -/
  mbox    : Option (Nat × Nat × Nat × Bool) × Option W64
  /-- The interrupted context's polls with SUB (spec/03 R54). -/
  polls   : List Nat
deriving DecidableEq, Repr

/-- A capture of nothing. -/
def Snap.empty : Snap := ⟨[], none, [], [], [], 0, (none, none), []⟩

/-- A trap to be taken at a boundary: code, TADDR, SITE, TAG (spec/23 R333-R335). -/
structure TrapInfo where
  code : Nat
  addr : W64
  site : Nat
  tag  : Nat
deriving DecidableEq, Repr

/-- What the pilot does between groups. -/
inductive Pilot where
  | run
  /-- RETT waits for the handler's results (spec/11 R171). -/
  | rett
  /-- EXIT has issued; the berth-thread retires once the operations of EXIT's own group are performed (spec/11 R180). -/
  | exit
  /-- Retired; nothing more issues. -/
  | retired
deriving DecidableEq, Repr, Inhabited

/-- A berth-thread's context: the state of spec/03 R38, spec/17 R244, spec/23 R333 and what it has outstanding. -/
structure Ctx where
  team    : Nat
  rank    : Nat
  sregs   : Tab W64
  pc      : Nat
  branch  : Option Branch
  /-- Delay groups still to issue of a PROBE that hit: no transfer follows them (spec/15 R226). -/
  quiet   : Nat
  loops   : Tab Loop
  kmasks  : Tab (BitVec 512)
  streams : Tab Stream
  rings   : Tab Ring
  windows : Tab Window
  fq      : List W64
  sq      : Option Nat
  rb      : Nat
  ld      : Nat
  mrf     : Tab W32
  acc     : Tab W32
  live    : List Nat
  banks   : Tab Bank
  active  : Nat
  mode    : EMode
  /-- The mask parameter block; none when CLEAR. -/
  mpb     : Option (List Byte)
  spad    : Memory
  ways    : Tab Way
  tcause  : W64
  tpc     : W64
  taddr   : W64
  tvec    : W64
  tscratch : W64
  spexp   : W64
  ptconf  : Tab W64
  /-- Handler state and the other fields of TSTATE. -/
  hs      : Bool
  drop    : Bool
  site    : Nat
  ttag    : Nat
  /-- The held-aside snapshot of the interrupted context. -/
  aside   : Option Snap
  flights : List Flight
  /-- Unfrozen ck for which the array, weight, accumulator read and mask ports are still held (spec/17 R251). -/
  ports   : Tab Nat
  ops     : List Op
  /-- FENCEs in force: remaining ck, second mask (spec/09 R144). -/
  fences  : List (Nat × Nat)
  /-- Failures of count-route operations, ATOMNRs and SEMPOSTs, in issue order of their operations (spec/15 R218). -/
  cfails  : List Fail
  nfails  : List Fail
  /-- Refusals to raise at the next boundary (spec/15 R236, spec/09 R123), in issue order. -/
  refusals : List Fail
  /-- Completed barriers of each level, the count that serves as epoch (spec/03 R54). -/
  epochs  : Tab Nat
  phases  : Nat
  /-- MBOXREG: the request sent (base, slots, log2 of the slot size, local), and the answer (spec/03 R54). -/
  mboxReq : Option (Nat × Nat × Nat × Bool)
  mboxAns : Option W64
  /-- A trap of TRAP or BKPT to take at the next boundary (spec/11 R170). -/
  pending : Option TrapInfo
  pilot   : Pilot
  /-- This ck is unfrozen: results land at its end. -/
  open_   : Bool
  /-- The landings of this ck have begun. -/
  landed  : Bool
  /-- A group issued in this ck. -/
  went    : Bool
  /-- Unfrozen ck of this berth-thread so far. -/
  uck     : Nat
  /-- The persist of the PFENCE now held has begun; it is complete (spec/11 R174). -/
  persisting : Bool
  persisted  : Bool
  /-- Frozen ck of the group now held, for planned gating (spec/25 R382). -/
  frozenFor : Nat
deriving DecidableEq, Repr, Inhabited

/-- A loop level at start. -/
def Loop.zero : Loop := ⟨0, 0, 0, 0, 0⟩
/-- A stream register at start. -/
def Stream.unbound : Stream := ⟨0, [], []⟩
/-- A ring at start. -/
def Ring.none : Ring := ⟨0, 0, 0, 0, 0, []⟩
/-- A window at start. -/
def Window.none : Window := ⟨false, 0, 0, 0, 0, 0, Option.none⟩
/-- A way at start. -/
def Way.invalid : Way := ⟨false, 0, [], none, 0⟩
/-- A bank at start. -/
def Bank.none : Bank := ⟨Option.none, []⟩

/-- The context a berth-thread starts with, before its start values (spec/01 R25, spec/03 R38). -/
def Ctx.start : Ctx where
  team := 0
  rank := 0
  sregs := []
  pc := 0
  branch := none
  quiet := 0
  loops := []
  kmasks := []
  streams := []
  rings := []
  windows := []
  fq := []
  sq := none
  rb := 0
  ld := 128
  mrf := []
  acc := []
  live := []
  banks := []
  active := 0
  mode := .own
  mpb := none
  spad := []
  ways := []
  tcause := 0
  tpc := 0
  taddr := 0
  tvec := 0
  tscratch := 0
  spexp := 0
  ptconf := []
  hs := false
  drop := false
  site := 0
  ttag := 0
  aside := none
  flights := []
  ports := []
  ops := []
  fences := []
  cfails := []
  nfails := []
  refusals := []
  epochs := []
  phases := 0
  mboxReq := none
  mboxAns := none
  pending := none
  pilot := .run
  open_ := false
  landed := false
  went := false
  uck := 0
  persisting := false
  persisted := false
  frozenFor := 0

-- a berth -------------------------------------------------------------------------------------------------------

/-- A context image in a dry-dock pool or in the dock store (spec/23 R340-R342). -/
structure Image where
  ctx    : Ctx
  seq    : Nat
  /-- REASON of the debug halt it records. -/
  halted : Option Nat
  /-- Berth in whose pool it lies. -/
  berth  : Nat
  order  : Nat
  /-- The address breakpoint it was halted at does not fire again for its group (spec/23 R358). -/
  skip   : Bool
deriving DecidableEq, Repr

/-- A follower's matrix state, which belongs to its leader (spec/17 R262). -/
structure MxState where
  berth : Nat
  acc   : Tab W32
  live  : List Nat
  banks : Tab Bank
  active : Nat
deriving DecidableEq, Repr

/-- The state of a berth-thread at a boundary, with that of its followers' engines. -/
structure Saved where
  ctx  : Ctx
  gang : List MxState
  /-- Journal entries since the commit at that boundary. -/
  mark : Nat
deriving DecidableEq, Repr

/-- A record copy of the shadow (spec/23 R345). -/
structure Record where
  saved : Saved
  seq : Nat
  ok  : Bool
deriving DecidableEq, Repr

/-- The outcome of an operation that is a persist point, kept for the berth's journal (spec/23 R347). -/
inductive Reply where
  | done (ws : List W64)
  | failed (f : Fail)
deriving DecidableEq, Repr

/-- A berth's shadow (spec/23 R344-R346): copies A and B, three commit words, and the journal since the commit. -/
structure Shadow where
  copyA   : Option Record
  copyB   : Option Record
  words   : List (Nat × Nat)
  entries : Nat
  /-- Number of the latest of those entries with its block flag set; 0 when none has. -/
  flagged : Nat
  /-- The context at the boundary of the last entry. -/
  last    : Option Saved
  /-- A persist of the state at the boundary after this ck begins there (spec/09 R150, spec/11 R172). -/
  want    : Bool
  /-- Persists that have begun, oldest first. -/
  queue   : List Saved
  /-- Outcomes that homes and the harbourmaster keep, by operation (R347). -/
  kept    : List (Nat × Reply)
deriving DecidableEq, Repr

/-- What a berth is doing. -/
inductive BerthSt where
  /-- No berth-thread. -/
  | idle
  /-- A team is placed and not yet started. -/
  | starting
  | run
  /-- Pre-empted at its boundary; the drain of spec/23 R339 goes on. -/
  | draining
  | spilling
  | filling
  /-- Debug-halted at a boundary (spec/23 R357). -/
  | halted
  /-- Power-gated (spec/23 R349). -/
  | gated
  /-- Without tile power (spec/23 R344). -/
  | off
deriving DecidableEq, Repr

/-- A berth. -/
structure Berth where
  st      : BerthSt
  retired : Bool
  im      : Tab W64
  codelen : Nat
  ctx     : Ctx
  /-- Spare wires used: group and wire (spec/03 R65). -/
  spares  : List (Nat × Nat)
  /-- A burst is being replayed: frozen ck left (spec/03 R51, R65). -/
  replay  : Option Nat
  dbgctl  : W64
  imgbusy : Option (Nat × Bool)
  /-- Matrix state that an image has brought a follower, until its leader's image is restored (spec/17 R262). -/
  imgHeld : Option MxState
  reason  : Nat
  bps     : Tab W64
  dbgimg  : W64
  /-- A step is in progress; calls open under OVER (spec/23 R358). -/
  stepping : Option Nat
  /-- The address breakpoint just taken does not fire again. -/
  bpSkip  : Bool
  /-- Pre-emption due at the next boundary; at the next phase boundary under GRACE (spec/01 R20). -/
  preempt : Bool
  /-- The berth-thread being pre-empted, or filled, is debug-halted (spec/23 R357). -/
  wasHalted : Bool
  /-- A planned gate is due at the next boundary. -/
  gate    : Bool
  shadow  : Shadow
  pool    : List Image
deriving DecidableEq, Repr

/-- A shadow with nothing committed. -/
def Shadow.none : Shadow := ⟨Option.none, Option.none, [], 0, 0, Option.none, false, [], []⟩

/-- An idle berth. -/
def Berth.idle : Berth where
  st := .idle
  retired := false
  im := []
  codelen := 0
  ctx := Ctx.start
  spares := []
  replay := none
  dbgctl := 0
  imgbusy := none
  imgHeld := none
  reason := 0
  bps := []
  dbgimg := 0
  stepping := none
  bpSkip := false
  preempt := false
  wasHalted := false
  gate := false
  shadow := Shadow.none
  pool := []

-- the harbourmaster ---------------------------------------------------------------------------------------------

/-- State of a manifest taken from a queue (spec/01). -/
inductive ManSt where
  | waiting | eligible
  /-- A handler template of a mailbox. -/
  | template
  /-- Chosen for its berths, units or ports; then STATE 2, its token table and code applied, its staging under way. -/
  | placed | starting | running
  /-- Pre-empted, or being so. -/
  | preempting | preempted
  /-- A subcube team whose images are back and that waits for its start time. -/
  | resuming
  | retiring | retired
deriving DecidableEq, Repr

/-- A barrier of one level instance at one epoch (spec/01 R26, spec/03 R54). -/
structure Barrier where
  level : Nat
  inst  : Nat
  epoch : Nat
  ranks : List Nat
  done  : Bool
  lost  : Bool
  /-- Subcube arrivals of children (spec/19 R276). -/
  kids  : List Nat
  up    : Bool
deriving DecidableEq, Repr

/-- What the home of an address on another device has said of its region (spec/01 R10): nothing yet, or the code of a refusal (0 for
none) and the two elements of the token record (spec/09 R134). -/
structure HomeAns where
  addr : Nat
  code : Option Nat
  e0   : W64
  e1   : W64
deriving DecidableEq, Repr

/-- A manifest and, once placed, its team. -/
structure Man where
  id     : Nat
  raw    : List Byte
  queue  : Nat
  job    : Nat
  /-- Virtual address of its slot; a copy of a mailbox template writes no STATUS. -/
  slotVa : Nat
  writes : Bool
  /-- Enqueuing party (spec/01 R10). -/
  by_    : Party
  /-- When it was accepted (spec/01 R17). -/
  accepted : Nat
  /-- What other devices have said of the regions that it names (spec/01 R10). -/
  seen   : List HomeAns
  mbox   : Option (Nat × Nat)
  /-- The template that a handler copy copies (spec/01 R28, R29). -/
  tmpl   : Option Nat
  st     : ManSt
  /-- Waits homed on other devices that a poll has found satisfied. -/
  waitsOk : List Nat
  /-- Effective priority; periods of 2 ms spent eligible and counted; time spent eligible before, and since when it is now. -/
  eprio  : Nat
  ages   : Nat
  waited : Nat
  since  : Nat
  base   : Nat
  ranks  : Nat
  /-- First rank of this device (0 unless a subcube team). -/
  rank0  : Nat
  exited : List Nat
  failed : List Nat
  barriers : List Barrier
  /-- A berth-thread of the handler has executed MBOXACK. -/
  acked  : Bool
  /-- Bases at which the team was placed before (spec/09 R123). -/
  past   : List Nat
  used   : Nat
  /-- Ending code: 0 while none. -/
  code   : Nat
  ended  : Bool
  /-- GRACE runs since this ck; none when no pre-emption is pending. -/
  grace  : Option Nat
  start  : Option Nat
  /-- Subcube: origin label, launch responses awaited, and the parent's answer owed (spec/19 R277). -/
  origin : Option Nat
  awaits : List Nat
  /-- A replica has been asked to reserve its die and has not answered; the other devices know that the team has ended. -/
  asked  : Bool
  told   : Bool
  /-- STATE 2 has been written (spec/01 R9, R22). -/
  begun  : Bool
  /-- Its tokens are returned here, and only answers of other devices are awaited (spec/01 R30). -/
  closing : Bool
  /-- A notice of pre-emption came before this device's part had started (spec/01 R21). -/
  owed   : Bool
  /-- Steps of the token table that are done, an entry for a region of another device counting one for each of its forms, and the first
  refusal (R22, R390). -/
  forms  : Nat
  refusal : Option Nat
  /-- WHARF: units whose part is not yet done, and the first nonzero status by unit. Subcube TEAM: labels of the devices whose part
  is done, as far as this device has been told or has told its parent. -/
  units  : List Nat
  wcode  : Tab Nat
  /-- Subcube barriers (spec/01 R27, spec/19 R276): levels and children below which every member has exited, levels of which this device
  has said so to its parent, and levels that are LOST. -/
  still  : List (Nat × Nat)
  stood  : List Nat
  lostLv : List Nat
deriving DecidableEq, Repr

/-- A launch queue's registers (spec/01 R14), with what its slots hold in use. -/
structure LQ where
  ctl  : W64
  base : W64
  tail : Nat
  head : Nat
  /-- Enqueuing parties of the slots between HEAD and TAIL, by index; unlisted the host (R10). -/
  by_  : Tab Party
  /-- What other devices have said of the regions that the manifest at HEAD names (R10). -/
  seen : List HomeAns
deriving DecidableEq, Repr

/-- A mailbox (spec/01 R28, spec/11 R178). -/
structure Mailbox where
  id     : Nat
  job    : Nat
  base   : Nat
  n      : Nat
  log2s  : Nat
  /-- The registering berth-thread of a local mailbox. -/
  local_ : Option Party
  pend   : List Nat
  template : Option Nat
deriving DecidableEq, Repr

/-- A mapping made by MAPX (spec/25 R372). -/
structure CodeMap where
  job  : Nat
  va   : Nat
  len  : Nat
  kind : Nat
  count : Nat
deriving DecidableEq, Repr

-- wharf units ---------------------------------------------------------------------------------------------------

/-- An entry of a command ring (spec/21 R297, R300): word, job, pushing party, and the WHARF manifest it belongs to. -/
structure Entry where
  word : W64
  job  : Nat
  by_  : Party
  /-- Berth of the pusher's LOCAL destinations. -/
  man  : Option Nat
  last : Bool
  /-- The WHPUSH that pushed it, by operation number; 0 for a manifest's. -/
  push : Nat
deriving DecidableEq, Repr

/-- A descriptor with the JOB of the SETD that last wrote it (spec/21 R304). -/
structure Desc where
  w   : Tab W32
  job : Nat
deriving DecidableEq, Repr

/-- How far the executing command of a unit is (spec/21 R309). -/
inductive WPhase where
  | fresh
  /-- Its wait is satisfied. -/
  | waited
  /-- BARRIER has added 1 and waits. -/
  | added
  /-- SPLIT pooling: partials are being handed over. -/
  | split
deriving DecidableEq, Repr

/-- A wharf unit (spec/21 R297-R310). -/
structure WUnit where
  en     : Bool
  stop   : Bool
  wrlog2 : Nat
  done   : Nat
  stat   : W64
  ring   : List Entry
  descs  : Tab Desc
  phase  : WPhase
  /-- Device counter when the executing command began to wait. -/
  since  : Option Nat
  /-- A SPLIT partial kept at the leader: unit and FP32 row. -/
  parts  : List (Nat × List W32 × Nat)
  /-- Once the executing command has started: the LOCAL descriptors whose ring slots it publishes (R306). -/
  claims : Option (List Nat)
deriving DecidableEq, Repr

def Desc.zero : Desc := ⟨[], 0⟩
def WUnit.reset : WUnit := ⟨false, false, 0, 0, 0, [], [], .fresh, none, [], none⟩

-- the fabric ----------------------------------------------------------------------------------------------------

/-- A pier kernel in a slot (spec/19 R281). -/
structure Kernel where
  man   : Nat
  job   : Nat
  out   : Bool
  types : Nat
  body  : Nat
  drop  : Bool
  abase : Nat
  alog2 : Nat
  code  : List W32
deriving DecidableEq, Repr

/-- Disposition of a packet (spec/19 R284). -/
inductive Disp where
  | hold | fwd | drop | redirect
deriving DecidableEq, Repr

/-- A combine buffer (spec/19 R287): 16 flits of 64 lanes with INIT bits, and the packets that contributed, with their slots. -/
structure Comb where
  flits : Tab (List W32)
  held  : List (Nat × Nat)
deriving DecidableEq, Repr

/-- The run in a slot (spec/19 R284): the packet as received and as changed, run number (0 header), word offset, registers,
disposition, buffers marked by EMIT (with DST), and a trap. -/
structure Run where
  kern  : Kernel
  orig  : Packet
  pkt   : Packet
  pid   : Nat
  run   : Nat
  off   : Nat
  ps    : Tab W32
  pv    : Tab (List W32)
  ps0   : Tab W32
  pv0   : Tab (List W32)
  disp  : Disp
  marks : List (Nat × Option Nat)
  contrib : List Nat
deriving DecidableEq, Repr

/-- A held packet (spec/19 R287): who is owed an answer, the buffers whose emission it waits for, and the first refusal. -/
structure HeldPkt where
  pid   : Nat
  pkt   : Packet
  bufs  : List Nat
  emits : List Nat
  code  : Nat
deriving DecidableEq, Repr

/-- A fabric port with its pier processor. -/
structure Port where
  /-- Failed lanes (spec/19 R270). -/
  bad     : List Nat
  used    : List Nat
  down    : Bool
  retrain : Bool
  /-- Columns at which symbols were corrected, per lane, newest first; and columns received. -/
  corr    : Tab (List Nat)
  cols    : Nat
  /-- Receiver: next expected sequence number; sender: next number and replay buffer. -/
  rxSeq   : Nat
  /-- Retry requests sent: sequence numbers. -/
  asks    : List Nat
  txSeq   : Nat
  replay  : List (Nat × List Byte)
  /-- The next frame to go on the link, and the frame that went last. -/
  sent    : Nat
  line    : Option Frame
  fails   : Nat × Nat
  /-- Flits of a packet being received; packets received and not yet acted on. -/
  rx      : List (List Byte)
  inq     : List Packet
  /-- Packets waiting to be sent, each with whether it originates here and no kernel of DIR 1 has had it. -/
  outq    : List (Bool × Packet)
  slots   : Tab (Option Kernel)
  /-- The run of each slot, and the runs that wait in its buffer (spec/19 R284). -/
  runs    : Tab (Option Run)
  bufs    : Tab (List Run)
  /-- Flow entries: entry, word. -/
  flow    : Tab W32
  combs   : Tab Comb
  held    : List HeldPkt
  traps   : Tab Nat
  /-- When timestamps were last exchanged since training, and the lowest label that the neighbour reaches (spec/19 R275). -/
  stamp   : Option Nat
  heard   : Option Nat
deriving DecidableEq, Repr

/-- A port at reset. -/
def Port.reset : Port where
  bad := []
  used := List.range 18
  down := false
  retrain := false
  corr := []
  cols := 0
  rxSeq := 0
  asks := []
  txSeq := 0
  replay := []
  sent := 0
  line := none
  fails := (0, 0)
  rx := []
  inq := []
  outq := []
  slots := []
  runs := []
  bufs := []
  flow := []
  combs := []
  held := []
  traps := []
  stamp := none
  heard := none

/-- Who waits for the answer to a packet this device sent. -/
inductive Waiter where
  /-- Operation of a berth. -/
  | op (b id : Nat)
  /-- A multicast: its number, and the dimension. -/
  | mcast (id dim : Nat)
  /-- The device across a port, for which this one passes a flow write or a multicast on (spec/19 R279, R287). -/
  | pass (port : Nat)
  /-- A buffer emitted at a port. -/
  | emit (port id : Nat)
  /-- The harbourmaster, for a manifest. -/
  | hm (man : Nat)
  /-- The harbourmaster, for the manifest at the head of a launch queue (spec/01 R10). -/
  | lq (q : Nat)
  /-- The host's TOKEN request at the head of its ring (spec/25 R373). -/
  | host
deriving DecidableEq, Repr

/-- A request unanswered (spec/19 R268), with the device counter when it was sent, if it has been. -/
structure Req where
  tag   : Nat
  who   : Waiter
  since : Option Nat
  /-- Offset and length of the operation that the request covers; for an emitted packet, a multicast copy, and a packet passed on, its
  SPARTY. -/
  off   : Nat
  len   : Nat
deriving DecidableEq, Repr

/-- A multicast being answered (spec/19 R279). -/
structure Mcast where
  id    : Nat
  port  : Nat
  pkt   : Packet
  /-- Results by position: 0 the local delivery, then dimensions. -/
  waits : List Nat
  codes : List (Nat × Nat)
deriving DecidableEq, Repr

-- events, host and module ---------------------------------------------------------------------------------------

/-- An event record before it is written (spec/23 R353). -/
structure EvRec where
  source : Nat
  seq    : Nat
  time   : Nat
  code   : Nat
  job    : Option Nat
  data   : W64
deriving DecidableEq, Repr

/-- A firmware slot (spec/25 R379): header fields and body; none when empty. -/
structure Firmware where
  svn  : Nat
  key  : BitVec 768
  body : List Byte
  /-- The image checked valid when it was written (spec/25 R380). -/
  ok   : Bool
deriving DecidableEq, Repr

/-- The reverse-map entry of a 4 KiB granule (spec/25 R366). -/
inductive RevMap where
  | none
  | job (j va : Nat)
  | tug
deriving DecidableEq, Repr

/-- How the last word issued ended. -/
inductive Iss where
  | issued
  | frozen
  /-- Waits under spec/09 R388, in an unfrozen ck. -/
  | waiting
  /-- A trap was taken; for a failure raised at its consuming group, the operation that failed. -/
  | trapped (op : Option Nat)
deriving DecidableEq, Repr

/-- The agent whose turn it is. -/
inductive Agent where
  | issue (b : Nat)
  | land (b : Nat)
  | release (b : Nat)
  | wharf (u : Nat)
  | pier (p k : Nat)
  | clock
deriving DecidableEq, Repr

/-- What a step without operands acts on: a berth, an operation of it, a port, and an item (a queue, manifest, unit, channel,
request or slot; of a copy, 1 more than the offset of a byte that moves alone). -/
structure Subject where
  berth : Nat
  op    : Nat
  port  : Nat
  item  : Nat
deriving DecidableEq, Repr

/-- A turn of the agenda: a step and what it acts on. -/
structure Turn where
  instr : Instr
  subj  : Subject
deriving DecidableEq, Repr

/-- The state of the module. -/
structure State where
  /-- Turns to come, none for the turn of the agent in `agent` (the model's own field, log entry 1). -/
  agenda  : List (Option Turn)
  /-- The agent that acts next when no other turn comes first (the model's own field, log entry 1). -/
  agent   : Agent
  /-- What the current step acts on (the model's own field, log entry 1). -/
  subj    : Subject
  /-- The berth whose words issue; the unit whose command runs; the port and slot whose run executes. -/
  cur     : Nat
  wcur    : Nat
  pcur    : Nat × Nat
  /-- Word offset of the berth word that issues; the group that a LOOP with count 0 chooses next (the model's own fields). -/
  woff    : Nat
  skip    : Option Nat
  iss     : Iss
  /-- Free values used so far (the model's own field, log entry 8). -/
  free    : Nat
  nextId  : Nat
  /-- The value and poison of the last host read. -/
  reply   : Option (List Byte × Bool)
  berths  : Tab Berth
  -- memory
  hbm     : Memory
  /-- Losses of module power so far: what an unlisted byte of HBM reads as depends on it. -/
  losses  : Nat
  poison  : List Nat
  /-- Granules with an uncorrectable error not yet found. -/
  bad     : List Nat
  pool    : Memory
  /-- Granules of pool memory, by their UIO address, that hold poison (spec/25 R376). -/
  poolPoison : List Nat
  hmem    : Memory
  regions : List Region
  layouts : Tab Layout
  mboxes  : List Mailbox
  codeMaps : List CodeMap
  revmap  : Tab RevMap
  filter  : List (Nat × Nat)
  /-- Ports and lines whose back-invalidation awaits the host's answer. -/
  binv    : List (Nat × Nat)
  /-- Job and address of the page whose regions the tug has taken for the MIGRATE under way (spec/25 R376). -/
  moving  : Option (Nat × Nat)
  carveNext : Nat
  /-- Roots made by JOBINIT. -/
  roots   : List Nat
  tokBlocks : Nat
  -- harbourmaster
  mans    : List Man
  lqs     : Tab LQ
  jobsched : Tab W64
  jobpt   : Tab W64
  pierjob : Tab W64
  /-- The reservation: manifest, base (spec/01 R19). -/
  reserve : List (Nat × Nat)
  dock    : List Image
  codeStore : List (Nat × Nat × Tab W64 × Nat)
  /-- Images that IMGOUT has written, by number (log entry 11). -/
  images  : List (Nat × Ctx)
  -- wharf units and channels
  units   : Tab WUnit
  wtimeout : W64
  wshare  : Tab W64
  wtemp   : Tab W64
  ckset   : Tab W64
  remap   : Tab (Bool × Bool)
  failedCh : List Nat
  postponed : Tab Nat
  scrubbed : List Nat
  scrubNext : Nat
  -- fabric
  fabctl  : W64
  portmap : W64
  mctree  : Tab W64
  ports   : Tab Port
  reqs    : List Req
  mcasts  : List Mcast
  nextTag : Nat
  fabtime : Nat
  /-- Increments owed by slewing: added when positive, held when negative (spec/19 R275). -/
  slew    : Int
  slewed  : Nat
  -- events
  evbase  : W64
  evtail  : Nat
  evhead  : Nat
  lost    : Nat
  evOnce  : Bool
  evHeld  : List EvRec
  evSeq   : Tab Nat
  msi     : Nat × Nat
  -- host and module
  hrqbase : W64
  hrqtail : Nat
  hrqhead : Nat
  /-- The answer of another device to the TOKEN request at HRQHEAD: fault code and elements (spec/25 R373). -/
  hostAns : Option (Nat × List W64)
  /-- Between steps 4 and 5 of boot: no team is placed and no host request is taken (spec/25 R377). -/
  raising : Bool
  cxlcfg  : W64
  svc     : W64
  carve   : W64
  poolwin : Tab W64
  pooltgt : Tab W64
  pwrctl  : W64
  pwrstat : W64
  time    : Nat
  -- kept without power
  flashRoles : List Nat
  slotA   : Option Firmware
  slotB   : Option Firmware
  cfgSector : List Byte
  minsvn  : Nat
  booted  : Option Bool
deriving DecidableEq, Repr

/-- A launch queue at reset (spec/01 R14). -/
def LQ.reset : LQ := ⟨0, 0, 0, 0, [], []⟩
/-- A layout record not written (spec/09 R128). -/
def Layout.invalid : Layout := ⟨0, false, 0, [], []⟩
/-- No combine buffer in use. -/
def Comb.free : Comb := ⟨[], []⟩

/-- Why the machine stops. -/
inductive Fault where
  /-- A word that the scanner refuses reached a berth's decoder (spec/05 R86 assumes it cannot). Raised by GROUP_ISSUE; safe:
  the specification gives such a word no effect. -/
  | undecodable (code : Nat)
  /-- A pier word that verification rejects reached a pier processor (spec/19 R282). Raised by a pier turn; safe. -/
  | badPierWord
deriving DecidableEq, Repr

/-- Why a step has no meaning. -/
inductive Refusal where
  /-- No meaning yet. Raised by an arm of exec that is not modelled; safe. -/
  | notModelled (mnemonic : String)
deriving DecidableEq, Repr

/-- An outcome of this machine. -/
abbrev Out := Host.Outcome State Fault Refusal

/-- The state right after reset (spec/25 R377 level 0): every register at its value at reset, memory with nothing listed, no
berth-thread placed. -/
def State.reset : State where
  agenda := []
  agent := .clock
  subj := ⟨0, 0, 0, 0⟩
  cur := 0
  wcur := 0
  pcur := (0, 0)
  woff := 0
  skip := none
  iss := .issued
  free := 0
  nextId := 1
  reply := none
  berths := []
  hbm := []
  losses := 0
  poison := []
  bad := []
  pool := []
  poolPoison := []
  hmem := []
  regions := []
  layouts := []
  mboxes := []
  codeMaps := []
  revmap := []
  filter := []
  binv := []
  moving := none
  carveNext := 0
  roots := []
  tokBlocks := 0
  mans := []
  lqs := []
  jobsched := []
  jobpt := []
  pierjob := []
  reserve := []
  dock := []
  codeStore := []
  images := []
  units := []
  wtimeout := 0x800
  wshare := []
  wtemp := []
  ckset := []
  remap := []
  failedCh := []
  postponed := []
  scrubbed := []
  scrubNext := 0
  fabctl := 0
  portmap := 0x9876543210
  mctree := []
  ports := []
  reqs := []
  mcasts := []
  nextTag := 0
  fabtime := 0
  slew := 0
  slewed := 0
  evbase := 0
  evtail := 0
  evhead := 0
  lost := 0
  evOnce := false
  evHeld := []
  evSeq := []
  msi := (0, 0)
  hrqbase := 0
  hrqtail := 0
  hrqhead := 0
  hostAns := none
  raising := false
  cxlcfg := 0xA9
  svc := 0
  carve := 0
  poolwin := []
  pooltgt := []
  pwrctl := BitVec.ofNat 64 (2 ^ 63 + 16 * 2 ^ 32 + 2400)
  pwrstat := 0
  time := 0
  flashRoles := [1, 2, 2, 2]
  slotA := some ⟨0, 0, [], true⟩
  slotB := none
  cfgSector := []
  minsvn := 0
  booted := none

end Sys2Proof.Machine
end

