-- ==== Sys2Proof/Machine/Operands.lean ====
section
/-! DEFINITION. Operand forms: scalar registers and guards (spec/03 R38, R39, spec/05 R68), immediates (spec/05 R71), MRF names
and their lanes (spec/03 R40-R43), elements of a vector (R40, spec/13 R182), bits of registers, and bytes. -/

namespace Sys2Proof.Machine
open Sys2Proof

-- words and fields ----------------------------------------------------------------------------------------------

/-- Bits lo .. lo + n - 1 of a word. -/
def bf (w : W64) (lo n : Nat) : Nat := fld w.toNat lo n

/-- One bit of a word. -/
def bt (w : W64) (i : Nat) : Bool := w.getLsbD i

/-- A word with bits lo .. lo + n - 1 replaced. -/
def bput (w : W64) (lo n v : Nat) : W64 :=
  BitVec.ofNat 64 (w.toNat - fld w.toNat lo n * 2 ^ lo + v % 2 ^ n * 2 ^ lo)

/-- A natural number as a word. -/
abbrev w64 (n : Nat) : W64 := BitVec.ofNat 64 n

/-- imm31 sign-extended (spec/05 R71). -/
def sx31 (imm : Nat) : W64 := (BitVec.ofNat 31 imm).signExtend 64
/-- imm21 sign-extended. -/
def sx21 (imm : Nat) : W64 := (BitVec.ofNat 21 imm).signExtend 64
/-- imm10 sign-extended to a lane (spec/19 R290). -/
def sx10 (imm : Nat) : W32 := (BitVec.ofNat 10 imm).signExtend 32
/-- imm6 sign-extended to a lane (spec/19 R290, SELP). -/
def sx6 (imm : Nat) : W32 := (BitVec.ofNat 6 imm).signExtend 32

/-- Word offset of a branch: base plus a signed offset of n bits, as the 64-bit value that TADDR would show (R71). -/
def relTarget (pc n off : Nat) : W64 := w64 pc + (BitVec.ofNat n off).signExtend 64

-- scalar registers ----------------------------------------------------------------------------------------------

/-- A scalar register: s0 reads zero (spec/03 R38). -/
def Ctx.reg (c : Ctx) (r : Nat) : W64 := if r = 0 then 0 else Tab.get 0 c.sregs r

/-- Write a scalar register: writes to s0 are discarded (R38). -/
def Ctx.setReg (c : Ctx) (r : Nat) (v : W64) : Ctx := if r = 0 then c else { c with sregs := Tab.set 0 c.sregs r v }

/-- Whether a word's guard holds (spec/05 R68). -/
def Ctx.guard (c : Ctx) (h : Hd) : Bool := h.gr == 0 || (c.reg h.gr).getLsbD h.gb == h.e

/-- A lane mask: k0 is all ones (R38). -/
def Ctx.kmask (c : Ctx) (k : Nat) : BitVec 512 := if k = 0 then BitVec.allOnes 512 else Tab.get 0 c.kmasks k

/-- Write a lane mask: writes to k0 are discarded. -/
def Ctx.setKmask (c : Ctx) (k : Nat) (v : BitVec 512) : Ctx :=
  if k = 0 then c else { c with kmasks := Tab.set 0 c.kmasks k v }

/-- TSTATE's entry count, and whether the aside snapshot holds matrix work (spec/23 R333). -/
def Eff.isM : Eff → Bool
  | .accRow _ _ _ | .accZero _ _ | .accFree _ _ | .drain _ _ | .mpb _ | .mmul _ | .wload _ | .mcells _ => true
  | _ => false
/-- An effect of M-class work with the berths of its gang renumbered (spec/23 R343). -/
def Eff.rebase (f : Nat → Nat) : Eff → Eff
  | .mmul r => .mmul { r with members := r.members.map fun m => (f m.1, m.2) }
  | .wload r => .wload { r with members := r.members.map fun m => (f m.1, m.2) }
  | .accZero c l => .accZero c (l.map f)
  | .accFree c l => .accFree c (l.map f)
  | .drain bs l => .drain bs (l.map f)
  | e => e
def Snap.mseq (s : Snap) : Bool := s.flights.any fun f => f.eff.isM
def Snap.nent (s : Snap) : Nat :=
  Nat.min 64 ((s.flights.filter fun f => !f.eff.isM).length + (if s.mseq then 1 else 0)
    + (if s.branch.isSome then 1 else 0) + (s.held.filter fun h => h.2 != 0).length)

-- MRF names -----------------------------------------------------------------------------------------------------

/-- Key of a cell: plane, physical row, column. -/
def cellKey (p r c : Nat) : Nat := p * 16384 + r * 128 + c

/-- Row and column of a name's lane (spec/03 R40). -/
def nameCell (m : MName) (i : Nat) : Nat × Nat :=
  match m.dir with
  | .h => (m.idx, i)
  | .v => (i, m.idx)
  | .d => (i, (i + m.idx) % 128)
  | .a => (i, (m.idx + 128 - i) % 128)

/-- The physical cell of a name's lane under RB and LD; none when the row is dead (R42, R43). -/
def laneCell (rb ld : Nat) (m : MName) (i : Nat) : Option Nat :=
  let rc := nameCell m i
  if m.plane = 3 then
    if rc.1 < ld then some (cellKey 3 ((rc.1 + rb) % 128) rc.2) else none
  else some (cellKey m.plane rc.1 rc.2)

/-- Whether a physical row of m3 is dead (R42). -/
def rowDead (rb ld p : Nat) : Bool := decide (ld ≤ (p + 128 - rb) % 128)

/-- A lane as read at issue: dead rows read zero (R42). -/
def Ctx.lane (c : Ctx) (m : MName) (i : Nat) : W32 :=
  match laneCell c.rb c.ld m i with
  | some k => Tab.get 0 c.mrf k
  | none => 0

/-- The 128 lanes of a name. -/
def Ctx.lanes (c : Ctx) (m : MName) : List W32 := (List.range 128).map (c.lane m)

-- elements ------------------------------------------------------------------------------------------------------

/-- Elements of one lane at w bits, least significant first (R40). -/
def laneElems (w : Nat) : Nat → Nat → List Nat
  | 0, _ => []
  | n + 1, v => v % 2 ^ w :: laneElems w n (v / 2 ^ w)

/-- Elements of a vector at a width. -/
def elemsOf (w : Width) (ls : List W32) : List Nat := ls.flatMap fun l => laneElems w.bits (32 / w.bits) l.toNat

/-- One number from elements of w bits. -/
def packElems (w : Nat) : List Nat → Nat
  | [] => 0
  | e :: es => e % 2 ^ w + 2 ^ w * packElems w es

/-- Lists of n elements each; `fuel` bounds their number. -/
def chunks {α : Type} (n : Nat) : Nat → List α → List (List α)
  | 0, _ => []
  | f + 1, l => l.take n :: chunks n f (l.drop n)

/-- Lanes from elements. -/
def lanesOf (w : Width) (es : List Nat) : List W32 :=
  (chunks (32 / w.bits) 128 es).map fun l => BitVec.ofNat 32 (packElems w.bits l)

/-- Lanes of bits written, from the elements that are. -/
def lanesMask (w : Width) (ms : List Bool) : List W32 :=
  (chunks (32 / w.bits) 128 ms).map fun l => BitVec.ofNat 32 (packElems w.bits (l.map fun b => if b then 2 ^ w.bits - 1 else 0))

/-- The cells a result writes: resolved at issue (R43), with the bits written and the value. -/
def Ctx.cellsOf (c : Ctx) (m : MName) (masks vals : List W32) : List (Nat × W32 × W32) :=
  ((List.range 128).zip (masks.zip vals)).filterMap fun (i, k, v) =>
    if k = 0 then none else (laneCell c.rb c.ld m i).map fun j => (j, k, v)

/-- Which of the n elements at a width a lane mask selects. -/
def maskElems (k : BitVec 512) (w : Width) (n : Nat) : List Bool := (List.range n).map (maskBit k w)

/-- Number of elements at a width (spec/13 R182). -/
def widthCount (w : Width) : Nat := 4096 / w.bits

-- bytes ---------------------------------------------------------------------------------------------------------

/-- Bytes of a vector, lane i at 4i, little-endian (spec/13 R205). -/
def lanesBytes (ls : List W32) : List Byte := ls.flatMap fun l => leBytes 4 l.toNat

/-- Lanes from bytes. -/
def bytesLanes (bs : List Byte) : List W32 := (chunks 4 128 bs).map fun l => BitVec.ofNat 32 (leValue l)

/-- Number addresses from a. -/
def cellsFrom (a : Nat) : List Byte → List Host.Cell
  | [] => []
  | b :: bs => (a, b) :: cellsFrom (a + 1) bs

end Sys2Proof.Machine
end

