-- ==== Sys2Proof/Machine/Ops.lean ====
section
/-! DEFINITION. Named operations over the state: berths, contexts and their accessors, manifests and teams (spec/01), parties
(spec/09 R132), the event log (spec/23 R353, R354), taking a trap and returning from one (R335-R337), the issue of a word and of
operations performed outside the berth (spec/09 R144, R388, spec/15 R211). -/

namespace Sys2Proof.Machine
open Sys2Proof

-- accessors -----------------------------------------------------------------------------------------------------

def State.berth (s : State) (b : Nat) : Berth := Tab.get Berth.idle s.berths b
def State.setBerth (s : State) (b : Nat) (x : Berth) : State := { s with berths := Tab.set Berth.idle s.berths b x }
def State.modBerth (s : State) (b : Nat) (f : Berth → Berth) : State := s.setBerth b (f (s.berth b))
def State.ctxAt (s : State) (b : Nat) : Ctx := (s.berth b).ctx
def State.modCtxAt (s : State) (b : Nat) (f : Ctx → Ctx) : State := s.modBerth b fun x => { x with ctx := f x.ctx }
/-- The context whose words issue. -/
def State.ctx (s : State) : Ctx := s.ctxAt s.cur
def State.modCtx (s : State) (f : Ctx → Ctx) : State := s.modCtxAt s.cur f

def State.unit (s : State) (u : Nat) : WUnit := Tab.get WUnit.reset s.units u
def State.modUnit (s : State) (u : Nat) (f : WUnit → WUnit) : State := { s with units := Tab.upd WUnit.reset s.units u f }
def State.port (s : State) (p : Nat) : Port := Tab.get Port.reset s.ports p
def State.modPort (s : State) (p : Nat) (f : Port → Port) : State := { s with ports := Tab.upd Port.reset s.ports p f }
def State.lq (s : State) (q : Nat) : LQ := Tab.get LQ.reset s.lqs q
def State.modLq (s : State) (q : Nat) (f : LQ → LQ) : State := { s with lqs := Tab.upd LQ.reset s.lqs q f }

def State.man (s : State) (id : Nat) : Option Man := s.mans.find? fun m => m.id == id
def State.modMan (s : State) (id : Nat) (f : Man → Man) : State :=
  { s with mans := s.mans.map fun m => if m.id = id then f m else m }

/-- Own device label (spec/19 R265). -/
def State.label (s : State) : Nat := bf s.fabctl 0 10
/-- Service level (spec/25 R378). -/
def State.level (s : State) : Nat := bf s.svc 0 4

-- manifests and teams (spec/01 R6, R7, R11-R13) -------------------------------------------------------------------

/-- n bytes of the manifest at an offset, as a number. -/
def Man.num (m : Man) (off n : Nat) : Nat := leValue ((m.raw.drop off).take n)
def Man.ctl (m : Man) : Nat := m.num 0 8
def Man.kind (m : Man) : Nat := fld m.ctl 0 4
def Man.prio (m : Man) : Nat := fld m.ctl 8 4
def Man.nlev (m : Man) : Nat := fld m.ctl 18 4
def Man.nstage (m : Man) : Nat := fld m.ctl 22 5
def Man.ntoken (m : Man) : Nat := fld m.ctl 27 5
def Man.nwait (m : Man) : Nat := fld m.ctl 32 3
def Man.posts (m : Man) : Bool := m.ctl.testBit 35
def Man.code_ (m : Man) : Nat := m.num 0x08 8
def Man.codelen (m : Man) : Nat := fld (m.num 0x10 8) 0 16
def Man.entry (m : Man) : Nat := fld (m.num 0x10 8) 16 15
def Man.budget (m : Man) : Nat := fld (m.num 0x18 8) 0 48
def Man.args (m : Man) : Nat := m.num 0x20 8
def Man.mailbox (m : Man) : Nat := fld (m.num 0x38 8) 0 16
/-- Domain code of a level (R11). -/
def Man.domain (m : Man) (l : Nat) : Nat := fld (m.num (0x40 + l) 1) 0 5
def Man.top (m : Man) : Nat := m.domain (m.nlev - 1)
def Man.fixed (m : Man) : Bool := (m.num 0x48 8).testBit 7
def Man.fixBase (m : Man) : Nat := fld (m.num 0x48 8) 0 7
/-- Berth-threads in one instance of a domain (R11). -/
def domSize (d : Nat) : Nat := if d ≤ 7 then 2 ^ d else 128 * 2 ^ (d - 8)
/-- Berths of one device in an instance of a domain. -/
def domBerths (d : Nat) : Nat := if d ≤ 7 then 2 ^ d else 128
/-- Berth-threads of a level's team. -/
def Man.size (m : Man) (l : Nat) : Nat := domSize (m.domain l)
/-- Instance of a level that holds a rank. -/
def Man.inst (m : Man) (l r : Nat) : Nat := r / m.size l
/-- Index of a rank in its team of a level (R13). -/
def Man.index (m : Man) (l r : Nat) : Nat := r % m.size l
/-- The berth on which a rank of this device is placed. -/
def Man.berthOf (m : Man) (r : Nat) : Nat := m.base + (r - m.rank0)
/-- Ranks of this device. -/
def Man.local_ (m : Man) (r : Nat) : Bool := decide (m.rank0 ≤ r ∧ r < m.rank0 + domBerths m.top)

/-- The manifest of the berth-thread in a context. -/
def State.teamOf (s : State) (c : Ctx) : Option Man := s.man c.team
/-- The job of the berth-thread on a berth. -/
def State.jobAt (s : State) (b : Nat) : Nat := ((s.man (s.ctxAt b).team).map Man.job).getD 0
def State.job (s : State) : Nat := s.jobAt s.cur
/-- NLEV of the running team. -/
def State.nlev (s : State) : Nat := ((s.teamOf s.ctx).map Man.nlev).getD 1

/-- Whether a berth holds a berth-thread. -/
def Berth.placed (x : Berth) : Bool :=
  match x.st with
  | .idle | .starting => false
  | _ => true

-- parties (spec/09 R132) ------------------------------------------------------------------------------------------

/-- The berth on which a berth-thread is placed. -/
def State.berthOf (s : State) (t r : Nat) : Option Nat :=
  (s.berths.find? fun p => p.2.placed && p.2.ctx.team == t && p.2.ctx.rank == r).map Prod.fst

/-- The berth that numbers a berth-thread's party: where it is placed, or where it stood when its berth failed; 0xFFFF otherwise, as
while its team is pre-empted (spec/09 R134, log entry 21). -/
def State.partyBerth (s : State) (t r : Nat) : Nat :=
  match s.berthOf t r with
  | some b => b
  | none => match s.mans.find? fun m => m.id == t with
    | some m => if m.failed.contains r && (m.st == .running || m.st == .retired) then m.base + (r - m.rank0) else 0xFFFF
    | none => 0xFFFF

/-- SVCLEVEL as it reads: a retired berth is out of service (spec/25 R378, spec/23 R350, log entry 21). -/
def State.svcRead (s : State) : W64 :=
  let n := bf s.svc 32 8
  bput s.svc 32 8 (n - (s.berths.filter fun e => decide (e.1 < n) && e.2.retired).length)

/-- The party that a 26-bit number names now. -/
def State.party (s : State) (n : Nat) : Party :=
  let loc := n % 65536
  if n / 65536 % 1024 ≠ s.label then
    -- the host is one party at every label (spec/09 R132, spec/25 R362)
    if loc = 600 then .host else if loc < 523 ∨ loc = 601 ∨ loc = 602 then .remote (n % 2 ^ 26) else .nobody
  else if loc < 128 then
    let x := s.berth loc
    if x.placed then .bt x.ctx.team x.ctx.rank else .nobody
  else if loc < 256 then .lighter (loc - 128)
  else if loc < 512 then .unit (loc - 256)
  else if loc < 523 then .pier (loc - 512)
  else if loc = 600 then .host
  else if loc = 601 then .hm
  else if loc = 602 then .tug
  else .nobody

/-- The 26-bit number of a party (R132, R134: 0xFFFF for a berth-thread that is not placed). -/
def State.partyNum (s : State) (p : Party) : Nat :=
  let l := s.label * 65536
  match p with
  | .bt t r => l + s.partyBerth t r
  | .lighter b => l + 128 + b
  | .unit u => l + 256 + u
  | .pier p => l + 512 + p
  | .host => l + 600
  | .hm => l + 601
  | .tug => l + 602
  -- a pre-empted berth-thread of another device (log entry 23)
  | .remote n => if n < 2 ^ 26 then n else n / 65536 % 1024 * 65536 + 0xFFFF
  | .nobody => l + 0xFFFF

/-- The berth-thread on a berth, as a party. -/
def Ctx.self (c : Ctx) : Party := .bt c.team c.rank

-- events (spec/23 R353-R355) --------------------------------------------------------------------------------------

/-- Sources: class and index. -/
def srcBerth (b : Nat) : Nat := b
def srcHm : Nat := 0x1000
def srcUnit (u : Nat) : Nat := 0x2000 + u
def srcPort (p : Nat) : Nat := 0x3000 + p
def srcChannel (c : Nat) : Nat := 0x4000 + c
def srcOffice : Nat := 0x5000
def srcHost (p : Nat) : Nat := 0x6000 + p
def srcTug : Nat := 0x7000

/-- The 32 bytes of a record. -/
def EvRec.bytes (r : EvRec) : List Byte :=
  leBytes 8 (r.source + r.seq % 2 ^ 32 * 2 ^ 32) ++ leBytes 8 r.time ++
  leBytes 8 (r.code % 256 + (match r.job with | some j => j % 64 * 256 + 2 ^ 14 | none => 0)) ++ leBytes 8 r.data.toNat

/-- Address in host memory of the record that is written next (R354). -/
def State.evSlot (s : State) : Nat := bf s.evbase 12 45 * 4096 + 32 * (s.evtail % 2 ^ bf s.evbase 0 5)

/-- Write a record into the ring, or count it as lost (R354). -/
def State.evPut (s : State) (r : EvRec) : State :=
  if 2 ^ bf s.evbase 0 5 < (s.evtail + 1 + 2 ^ 32 - s.evhead) % 2 ^ 32 then { s with lost := (s.lost + 1) % 2 ^ 32 }
  else { s with
    hmem := Memory.write zeroByte s.hmem s.evSlot r.bytes
    evtail := (s.evtail + 1) % 2 ^ 32
    msi := (s.msi.1, s.msi.2 + 1) }

/-- Log an event: written, held until EN is first set, or lost (R354). -/
def State.event (s : State) (source code : Nat) (job : Option Nat) (data : W64) : State :=
  let seq := (Tab.get 0 s.evSeq source + 1) % 2 ^ 32
  let r : EvRec := ⟨source, seq, s.time, code, job, data⟩
  let s := { s with evSeq := Tab.set 0 s.evSeq source seq }
  if bt s.evbase 63 then s.evPut r
  else if !s.evOnce && decide (s.evHeld.length < 256) then { s with evHeld := s.evHeld ++ [r] }
  else { s with lost := (s.lost + 1) % 2 ^ 32 }

-- flights -----------------------------------------------------------------------------------------------------------

/-- Put a result in flight with latency l (spec/03 R45). -/
def Ctx.fly (c : Ctx) (l : Nat) (e : Eff) (m3 : Bool := false) : Ctx := { c with flights := c.flights ++ [⟨l, e, m3⟩] }

/-- The path mask bit of a flight's effect on memory (spec/09 R141): P 1, V 2, M 4. -/
def Eff.path : Eff → Nat
  | .store p _ => 2 ^ p
  | .drain _ _ | .mpb _ | .mmul _ | .wload _ => 4
  | _ => 0

/-- Capture of the pipeline (spec/03 R61). -/
def Ctx.capture (c : Ctx) : Snap where
  flights := c.flights
  branch := c.branch
  held := c.ops.filterMap fun o => if 0 < o.held ∨ 0 < o.rel then some (o.id, o.held) else none
  fences := c.fences
  pubs := (c.rings.flatMap fun r => r.2.slots.filterMap fun x => x.2.filling.map fun n => (r.1, x.1, n, false))
    ++ (c.aside.map Snap.pubs).getD []
  quiet := c.quiet
  mbox := (c.mboxReq, c.mboxAns)
  polls := c.ops.filterMap fun o => match o.kind with | .semwait _ => some o.id | _ => none

/-- The matrix sequencer's record: the M-class operations in flight, held aside ones among them (spec/03 R61). -/
def Ctx.matrixWork (c : Ctx) : List Flight := (c.flights ++ (c.aside.map Snap.flights).getD []).filter fun f => f.eff.isM

/-- A context whose work in flight names the berths of its gang where it now stands (spec/23 R343). -/
def Ctx.rebase (f : Nat → Nat) (c : Ctx) : Ctx :=
  let move := fun x : Flight => { x with eff := x.eff.rebase f }
  { c with flights := c.flights.map move, aside := c.aside.map fun a => { a with flights := a.flights.map move } }

/-- Whether an operation is held aside with the interrupted context. -/
def Ctx.parked (c : Ctx) (o : Op) : Bool :=
  match c.aside with
  | none => false
  | some a => a.held.any (fun h => h.1 == o.id) || a.flights.any fun f =>
    match f.eff with
    | .rload i _ none => i == o.id
    | _ => false

/-- Remove an operation that is discarded before it was sent: it publishes, delivers and acknowledges nothing. -/
def Ctx.discardOp (c : Ctx) (o : Op) : Ctx :=
  let slot := fun (q i : Nat) (x : Slot) =>
    let x := if o.route = .ring q i then { x with pub := false } else x
    match x.releasing with
    | some l => if l.contains o.id then (if l.all (· == o.id) then Slot.empty else { x with releasing := some (l.filter (· != o.id)) }) else x
    | none => x
  let ring := fun (q : Nat) (r : Ring) =>
    { r with slots := (r.slots.map fun e => (e.1, slot q e.1 e.2)).filter fun e => e.2 != Slot.empty }
  let takes : Bool := match o.kind with
    | .wstore _ _ _ => true
    | .copy r => r.form == .cpw && r.out
    | _ => false
  let w := match o.kind with
    | .wstore w _ _ => w
    | .copy r => (r.g - 0x100000) / 0x100000
    | _ => 0
  let streams := c.streams.map fun e => (e.1, { e.2 with items := e.2.items.filter fun i => i.op != o.id })
  let rings := c.rings.map fun e => (e.1, ring e.1 e.2)
  let ops := c.ops.filter fun x => x.id != o.id
  { c with
    ops := ops
    rings := rings
    streams := streams
    windows := if takes then Tab.upd Window.none c.windows w fun x => { x with out := x.out - 1 } else c.windows }

/-- Whether an operation is held under step 2 of spec/09 R144 now. -/
def Ctx.holding (c : Ctx) : Bool := c.ops.any fun o => decide (0 < o.held) && !c.parked o

-- taking a trap and returning (spec/23 R335-R337) -------------------------------------------------------------------

/-- A remote load not returned, or failed, is issued again on replay (spec/03 R61). -/
def Ctx.abandonLoads (c : Ctx) : Ctx :=
  let ops := c.ops.map fun o => match o.kind with
    | .rload _ _ _ => { o with stage := .sent }
    | _ => o
  let flights := c.flights.map fun f => match f.eff with
    | .rfail i d _ => { f with eff := .rload i d none }
    | _ => f
  { c with ops := ops, flights := flights }

/-- Whether an operation is a poll that a SEMWAIT issued afresh repeats (R53): one without SUB (R54). -/
def Op.repolls (o : Op) : Bool :=
  match o.kind with
  | .semwait r => !r.sub
  | _ => false

/-- What a boundary taken while a group is held leaves (R53, R54, R61): its conditions are tested again, so neither the success of a
poll without SUB nor a persist that a PFENCE has begun counts for it; loads not returned are issued again. -/
def Ctx.atBoundary (c : Ctx) : Ctx :=
  let c := c.abandonLoads
  { c with ops := c.ops.filter (fun o => !o.repolls), persisting := false, persisted := false }

/-- Stop the count of every publication. -/
def holdPubs (r : Ring) : Ring :=
  let hold := fun x : Slot => { x with filling := Option.none }
  { r with slots := r.slots.map fun x => (x.1, hold x.2) }

/-- Trap entry (R335). -/
def Ctx.enterTrap (c : Ctx) (t : TrapInfo) : Ctx :=
  let c := c.atBoundary
  { c with
    aside := some c.capture
    flights := []
    branch := none
    quiet := 0
    fences := []
    rings := c.rings.map fun r => (r.1, holdPubs r.2)
    mboxReq := none
    mboxAns := none
    tcause := w64 (t.code % 256)
    tpc := w64 (c.pc % 32768)
    taddr := t.addr
    site := t.site
    ttag := t.tag
    drop := false
    hs := true
    pending := none
    pc := bf c.tvec 0 15 }

/-- A berth-thread of a team that ends proceeds as if by EXIT (R336, spec/01 R31): one that drains, waits for its spill, or is
debug-halted stands at a group boundary and goes on from there. -/
def Berth.endNow (x : Berth) : Berth :=
  match x.st with
  | .draining | .spilling => { x with st := .run, preempt := true, wasHalted := false }
  | .halted => { x with st := .run }
  | _ => x

/-- End of a team by a fault: every berth-thread stops at its next boundary (R336). -/
def State.endTeam (s : State) (t code : Nat) : State :=
  let s := s.modMan t fun m => if m.ended then m else { m with ended := true, code := code }
  { s with berths := s.berths.map fun e => (e.1, if e.2.placed && e.2.ctx.team == t then e.2.endNow else e.2) }

/-- A fault at a boundary (R335, R336). A breakpoint that was just taken fires again for any later group (R358). -/
def State.takeTrap (s : State) (t : TrapInfo) : State :=
  let c := s.ctx
  if bt c.tvec 63 && !c.hs then s.modBerth s.cur fun x => { x with bpSkip := false, ctx := x.ctx.enterTrap t }
  else
    let code := if c.hs then fcDouble else t.code
    let s' := s.modCtx fun c => { c with pending := none }
    (s'.endTeam c.team code).event (srcBerth s.cur) code (some s.job)
      (w64 (t.code % 256 + c.pc % 32768 * 256 + t.addr.toNat % 2 ^ 32 * 2 ^ 32))

/-- A publication counts on. -/
def Ctx.fillOn (c : Ctx) (p : Nat × Nat × Nat × Bool) : Ctx :=
  let slot := fun x : Slot => if x.st = .filling ∧ x.filling.isNone then { x with filling := some p.2.2.1 } else x
  let ring := fun r : Ring => { r with slots := Tab.upd Slot.empty r.slots p.2.1 slot }
  { c with rings := Tab.upd Ring.none c.rings p.1 ring }

/-- Return from a trap (R337): HS cleared, fetch at TPC, the held-aside snapshot replayed or discarded. -/
def Ctx.leaveTrap (c : Ctx) : Ctx :=
  let a := c.aside.getD Snap.empty
  let gone := c.ops.filter fun o => a.held.any (fun h => h.1 == o.id && h.2 != 0) || a.flights.any fun f =>
    match f.eff with
    | .rload i _ _ => i == o.id
    | _ => false
  let c := { c with hs := false, aside := none, pilot := .run, pc := bf c.tpc 0 15, mboxReq := a.mbox.1, mboxAns := a.mbox.2 }
  if c.drop then
    let c := gone.foldl Ctx.discardOp { c with fences := [] }
    -- the handler's own publications wait for no discarded store
    let c := (a.pubs.filter fun p => p.2.2.2).foldl (fun c p => c.fillOn (p.1, p.2.1, 1, true)) c
    -- a release that waited for the discarded stores waits no longer
    { c with ops := c.ops.map fun o => { o with rel := 0 } }
  else a.pubs.foldl Ctx.fillOn { c with flights := a.flights, branch := a.branch, quiet := a.quiet, fences := a.fences ++ c.fences }

-- issue of a word ---------------------------------------------------------------------------------------------------

/-- What the checks of a word say: it issues, it faults, it holds the freeze line, or it waits in unfrozen ck (R388); the last
two with what it has sent outside the berth meanwhile (spec/03 R54). -/
inductive Verdict where
  | go
  | trap (t : TrapInfo)
  /-- A failure raised at a consuming group, and the state without it. -/
  | raise (s : State) (t : TrapInfo) (op : Nat)
  | freeze (s : State)
  | wait

/-- A fault raised at issue. -/
def flt (code : Nat) (addr : W64) : Verdict := .trap ⟨code, addr, 0, 0⟩
/-- A failure raised at a consuming group (spec/15 R218). -/
def Fail.raise (f : Fail) (site : Nat) (s : State) : Verdict := .raise s ⟨f.code, f.addr, site, f.tag⟩ f.op

/-- The first check that fails. -/
def checks : List (Option (Nat × W64)) → Option (Nat × W64)
  | [] => none
  | some x :: _ => some x
  | none :: l => checks l

/-- A check: the fault when the condition holds. -/
def chk (c : Bool) (code : Nat) (addr : W64) : Option (Nat × W64) := if c then some (code, addr) else none

/-- Checks at issue, then the rest. -/
def Verdict.of (l : List (Option (Nat × W64))) (k : Verdict) : Verdict :=
  match checks l with
  | some (code, addr) => flt code addr
  | none => k

/-- A freeze condition of R51: waits while an operation is held (R388), freezes while `ok` is false. -/
def freezeIf (s : State) (blocked : Bool) (k : Verdict) : Verdict :=
  if s.ctx.holding then .wait else if blocked then .freeze s else k

/-- A fault at issue that met an uncorrectable token record of the own export: its region becomes QUARANTINED (spec/23 R351). -/
def State.loseOwn (s : State) (t : TrapInfo) : State :=
  if t.code ≠ fcTokenLost then s
  else
    match s.regions.filter fun r => r.lost && r.exporter == some s.ctx.self && decide (t.addr.toNat < r.base + 2 ^ r.log2) with
    | [] => s
    | r :: l =>
      let r := l.foldl (fun a b => if b.base < a.base then b else a) r
      ({ s with regions := s.regions.map fun x => if x = r then { x with lost := false, st := .quarantined } else x }).event srcHm
        fcMachTokentable (some r.job) (w64 r.base)

/-- Issue of one word (spec/03 R35, R37, R64): with a false guard it does nothing. -/
def issue (h : Hd) (v : State → Verdict) (eff : State → State) (s : State) : Out :=
  if s.ctx.guard h then
    match v s with
    | .go => .next { eff s with iss := .issued }
    | .trap t => .next { (s.loseOwn t).takeTrap t with iss := .trapped none }
    | .raise s' t op => .next { s'.takeTrap t with iss := .trapped (some op) }
    | .freeze s' => .next { s' with iss := .frozen }
    | .wait => .next { s with iss := .waiting }
  else .next { s with iss := .issued }

/-- A word that has no check and whose results fly. -/
def issueFly (h : Hd) (l : Nat) (e : Ctx → Eff) (s : State) : Out :=
  issue h (fun _ => .go) (fun s => s.modCtx fun c => c.fly l (e c)) s

-- operations performed outside the berth ---------------------------------------------------------------------------

/-- Paths, as bits of a FENCE mask (spec/05 R71). -/
def pathL : Nat := 8
def pathF : Nat := 32

/-- Unfrozen ck for which the FENCEs in force hold an operation on a path (spec/09 R144). -/
def Ctx.fenceHold (c : Ctx) (path : Nat) : Nat :=
  c.fences.foldl (fun m f => if (f.2 &&& path) ≠ 0 then Nat.max m f.1 else m) 0

/-- Unfrozen ck until the accesses of a flight's word to the scratchpad are performed (spec/09 R143, R144): an MMUL reads its rows in
the ck of their passes, 395 ck and more before it retires, and an MPBLD reads in its issue ck (spec/17 R253, R259). -/
def Flight.accessTime (f : Flight) : Nat :=
  match f.eff with
  | .mmul _ => f.rem - 395
  | .mpb _ => 0
  | _ => f.rem

/-- Unfrozen ck until every access of words in flight on the paths of a mask is performed. -/
def accessesDue (mask : Nat) (l : List Flight) : Nat :=
  l.foldl (fun m f => if (f.eff.path &&& mask) ≠ 0 then Nat.max m f.accessTime else m) 0

/-- The same for the words of an interrupted context that are held aside: it stands until they are replayed (spec/03 R63). -/
def Ctx.asideDue (c : Ctx) (mask : Nat) : Nat := accessesDue mask ((c.aside.map Snap.flights).getD [])

/-- Unfrozen ck until every access of the berth's earlier words on the paths of a mask is performed; in a trap handler, those of the
interrupted context too, counted from its replay on. -/
def Ctx.drainTime (c : Ctx) (mask : Nat) : Nat := Nat.max (accessesDue mask c.flights) (c.asideDue mask)

/-- The window that a local address names (spec/09 R120). -/
def winOf (a : Nat) : Nat := (a - 0x100000) / 0x100000
/-- Whether an address lies in a window. -/
def isWin (a : Nat) : Bool := decide (0x100000 ≤ a ∧ a < 0x1100000)

/-- The local window address that an operation goes through. -/
def OpKind.winAddr : OpKind → Option Nat
  | .copy c => if c.form = .cpw then some c.g else none
  | .wstore _ a _ | .rload _ a _ => some a
  | .token r => if r.sp && isWin r.g.toNat then some r.g.toNat else none
  | _ => none

/-- Issue an operation (spec/15 R211). -/
def State.pushOp (s : State) (path : Nat) (kind : OpKind) (route : Route) (tag rel : Nat) : State :=
  let s' := { s with nextId := s.nextId + 1 }
  s'.modCtx fun c =>
    let w := match kind.winAddr with
      | some a => Tab.get Window.none c.windows (winOf a)
      | none => Window.none
    { c with ops := c.ops ++ [⟨s.nextId, kind, route, tag, .sent, c.fenceHold path, rel, false, w, false, [], [], 0⟩] }

def Ctx.op (c : Ctx) (id : Nat) : Option Op := c.ops.find? fun o => o.id == id
def Ctx.modOp (c : Ctx) (id : Nat) (f : Op → Op) : Ctx :=
  { c with ops := c.ops.map fun o => if o.id = id then f o else o }
def Ctx.dropOp (c : Ctx) (id : Nat) : Ctx := { c with ops := c.ops.filter fun o => o.id != id }

/-- Whether an operation takes an entry of the lighter queue (R211). -/
def OpKind.queued : OpKind → Bool
  | .copy _ | .fill _ _ _ _ _ | .imload _ _ _ | .atom _ | .atomnr _ | .sempost _ _ => true
  | _ => false

/-- Whether the 64-entry queue is full (R211). -/
def Ctx.queueFull (c : Ctx) : Bool := decide (64 ≤ (c.ops.filter fun o => o.kind.queued).length)

/-- Whether a copy or IMLOAD counts for LWAIT (R219). -/
def Op.counts (o : Op) : Bool :=
  match o.kind with
  | .copy _ | .imload _ _ _ => o.route == .count
  | _ => false

/-- A stage at which nothing has been performed or has failed. -/
def Op.open_ (o : Op) : Bool :=
  match o.stage with
  | .sent | .passed _ | .remote _ _ => true
  | _ => false

end Sys2Proof.Machine
end

