-- ==== Sys2Proof/Machine/Mem.lean ====
section
/-! DEFINITION. Global memory: HBM bytes with poison and rebuild (spec/09 R127, spec/21 R312, R327, R328), page tables (spec/09
R124-R126, R387), regions and token checks (R133-R135), and mailbox arrivals (spec/01 R28). -/

namespace Sys2Proof.Machine
open Sys2Proof

-- HBM -----------------------------------------------------------------------------------------------------------

/-- Bytes of a channel and of the HBM-spread space (R127). -/
def chanBytes : Nat := 0xA8000000
def hbmBytes : Nat := 256 * chanBytes

/-- What an unlisted byte of HBM reads as (log entry 4). -/
def State.hbmByte (s : State) : Nat → Byte := if s.losses = 0 then zeroByte else Config.lostByte s.losses

/-- Channel of a spread address (R127). -/
def chanOf (pa : Nat) : Nat :=
  let g := pa / 4096
  ((g % 256) ^^^ (g / 256 % 256) ^^^ (g / 65536 % 256) ^^^ (g / 2 ^ 24 % 16)) % 256
/-- Channel offset of a spread address (R127). -/
def offOf (pa : Nat) : Nat := pa / 2 ^ 20 * 4096 + pa % 4096
/-- The spread address of a channel offset (spec/25 R366). -/
def spreadOf (c co : Nat) : Nat :=
  let h := co / 4096
  (h * 256 + (c ^^^ (h % 256) ^^^ (h / 256 % 256) ^^^ (h / 65536 % 16)) % 256) * 4096 + co % 4096

/-- DRAM coordinates of a channel offset (R127): stack, channel, pseudo channel, bank group, bank, sid, raw row, column, byte. -/
structure Coord where
  stack : Nat
  channel : Nat
  pseudo : Nat
  bankgroup : Nat
  bank : Nat
  sid : Nat
  row : Nat
  column : Nat
  byte : Nat
deriving DecidableEq, Repr

def coordOf (c co : Nat) : Coord :=
  let u := co / 2 ^ 20
  let k := u % 7
  { stack := c / 32, channel := c % 32, pseudo := co / 2 ^ 11 % 2, bankgroup := co / 2 ^ 12 % 4, bank := co / 2 ^ 14 % 4,
    sid := co / 2 ^ 16 % 16, row := 8 * (u / 7) + (if c % 8 ≤ k then k + 1 else k), column := co / 64 % 32, byte := co % 64 }

/-- Whether a channel is in service (spec/25 R378). -/
def State.chanUp (s : State) (c : Nat) : Bool := (s.svc).getLsbD (24 + c / 32)

/-- Raw row that holds the parity of a granule of channel c: row x with x mod 8 = c mod 8 of another channel. Two granules of a
group protect each other when they share every coordinate but the channel (R127). -/
def parityMates (pa : Nat) : List Nat :=
  let c := chanOf pa
  let co := offOf pa
  let r := (coordOf c co).row
  (List.range 8).filterMap fun j =>
    let c' := c / 8 * 8 + j
    -- the usable row of channel c' that is raw row r; the channel whose raw row r is parity has none
    if c' = c ∨ r % 8 = j then none
    else
      let k := if j < r % 8 then r % 8 - 1 else r % 8
      some (spreadOf c' ((r / 8 * 7 + k) * 2 ^ 20 + co % 2 ^ 20))

/-- Whether ECC cannot correct a granule: marked bad, or in a failed channel. -/
def State.uncorr (s : State) (g : Nat) : Bool :=
  s.bad.contains g || s.failedCh.contains (chanOf (64 * g))
/-- Whether the rebuild of a granule fails (spec/21 R328, R329). -/
def State.unbuilt (s : State) (g : Nat) : Bool :=
  let c := chanOf (64 * g)
  s.uncorr g && ((parityMates (64 * g)).any (fun a => s.uncorr (a / 64))
    || s.failedCh.contains (c / 8 * 8 + (coordOf c (offOf (64 * g))).row % 8))
/-- Whether a read of a granule fails: poison, or a failed rebuild. -/
def State.dead (s : State) (g : Nat) : Bool := s.poison.contains g || s.unbuilt g

/-- Granules of a range of spread addresses. -/
def granules (pa n : Nat) : List Nat :=
  if n = 0 then [] else (List.range ((pa + n - 1) / 64 - pa / 64 + 1)).map (pa / 64 + ·)

/-- HBM bytes as they stand. -/
def State.hbmRaw (s : State) (pa n : Nat) : List Byte := Memory.read s.hbmByte s.hbm pa n

/-- A read of HBM: none when a granule is poisoned or cannot be rebuilt. -/
def State.hbmRead (s : State) (pa n : Nat) : Option (List Byte) :=
  if (granules pa n).any s.dead then none else some (s.hbmRaw pa n)

/-- Whether a granule lies in an enabled checkpoint region (spec/21 R330), by its reverse-map entry. -/
def State.checkpointed (s : State) (g : Nat) : Bool :=
  match Tab.get RevMap.none s.revmap (g / 64) with
  | .job j v => s.ckset.any fun e =>
      let w := e.2
      let n := 2 ^ bf w 0 6
      let base := bf w 12 45 * 4096 / n * n
      let a := (v + g % 64 * 64) % 2 ^ 57
      bt w 63 && bf w 57 6 == j && decide (12 ≤ bf w 0 6 ∧ bf w 0 6 ≤ 36 ∧ base ≤ a ∧ a < base + n)
  | _ => false

/-- An uncorrectable granule that is rebuilt is written back and logged (spec/21 R328). -/
def State.healOne (s : State) (g : Nat) : State :=
  if s.bad.contains g && !s.unbuilt g then
    ({ s with bad := s.bad.filter (· != g) }).event (srcChannel (chanOf (64 * g))) evMemCorrected none
      (w64 (chanOf (64 * g) + offOf (64 * g) * 256))
  else s

/-- What a read leaves: its granules healed, and those of a checkpoint region scrubbed in this pass (spec/21 R330). -/
def State.heal (s : State) (pa n : Nat) : State :=
  (granules pa n).foldl (fun s g =>
    let s := s.healOne g
    if s.checkpointed g && !s.scrubbed.contains g then { s with scrubbed := s.scrubbed ++ [g] } else s) s

/-- A write of HBM: whole granules lose their poison (spec/21 R312). -/
def State.hbmWrite (s : State) (pa : Nat) (bs : List Byte) : State :=
  let whole := fun g => decide (pa ≤ 64 * g ∧ 64 * g + 64 ≤ pa + bs.length)
  { s with
    hbm := Memory.write s.hbmByte s.hbm pa bs
    poison := s.poison.filter fun g => !whole g
    bad := s.bad.filter fun g => !whole g }

/-- A granule has been written whole, in more than one piece (spec/21 R312, R315). -/
def State.coverGranule (s : State) (g : Nat) : State := { s with poison := s.poison.filter (· != g), bad := s.bad.filter (· != g) }

/-- Poison granules. -/
def State.poisonRange (s : State) (pa n : Nat) : State :=
  { s with poison := (granules pa n).foldl (fun l g => if l.contains g then l else l ++ [g]) s.poison }

-- page tables -----------------------------------------------------------------------------------------------------

/-- Where a byte of a job lives. -/
inductive Loc where
  /-- HBM at a spread address; the channel when the page is channel-local. -/
  | hbm (pa : Nat) (chan : Option Nat)
  | pool (pa : Nat)
  | peer (label : Nat)
deriving DecidableEq, Repr

/-- First spread address of the carve-out (spec/25 R365). -/
def State.carveBase (s : State) : Nat :=
  if bt s.carve 63 then 256 * (chanBytes - bf s.carve 0 12 * 2 ^ 20) else hbmBytes

/-- The enabled pool window that holds a range (spec/25 R374). -/
def State.poolPort (s : State) (pa n : Nat) : Option Nat :=
  [0, 1, 2, 3].find? fun i =>
    let w := Tab.get (0 : W64) s.poolwin i
    let base := bf w 30 18 * 2 ^ 30
    bt w 63 && decide (base ≤ pa ∧ pa + n ≤ base + 2 ^ bf w 48 8)

/-- UIO address of a tier-10 physical address: its window moves PBASE to TGT (spec/25 R374). -/
def State.uioAddr (s : State) (pa : Nat) : Nat :=
  match s.poolPort pa 1 with
  | some i => bf (Tab.get (0 : W64) s.pooltgt i) 30 34 * 2 ^ 30 + (pa - bf (Tab.get (0 : W64) s.poolwin i) 30 18 * 2 ^ 30)
  | none => pa

/-- Whether a leaf of a page of 2^lg bytes is malformed (R125, R365, R374). -/
def State.leafBad (s : State) (e lg : Nat) : Bool :=
  let pa := fld e 16 38 * 2 ^ 16
  let chan := fld e 8 8
  let lab := fld e 54 10
  let tier := fld e 6 2
  tst (fld e 2 1) || pa % 2 ^ lg != 0 || (chan != 0 && tier != 1) || (lab != 0 && tier != 3)
  || (match tier with
    | 0 => decide (hbmBytes < pa + 2 ^ lg ∨ s.carveBase < pa + 2 ^ lg)
    | 1 => lg == 36 || decide (chanBytes < pa + 2 ^ lg)
        || (bt s.carve 63 && decide (chanBytes - bf s.carve 0 12 * 2 ^ 20 < pa + 2 ^ lg))
    | 2 => (s.poolPort pa (2 ^ lg)).isNone
    | _ => pa != 0 || lab == s.label)

/-- Levels below the root: low index bit and index bits (R124). -/
def walkLevels : List (Nat × Nat) := [(29, 7), (21, 8), (16, 5)]

/-- Codes of a failed translation, from the first code of a group: MISS, PERM, TIER. -/
def pgMiss : Nat := 0
def pgPerm : Nat := 1
def pgTier : Nat := 2

/-- An entry as a walk reads it: one in a granule that cannot be rebuilt maps nothing (log entry 101). -/
def State.walkEntry (s : State) (a : Nat) : Nat := if s.dead (a / 64) then 0 else leValue (s.hbmRaw a 8)

/-- Walk on from an entry whose page would have 2^lg bytes: the leaf, its size, and the address of the entry. -/
def State.walkGo (s : State) (va : Nat) (at_ e lg : Nat) : List (Nat × Nat) → Except Nat (Nat × Nat × Nat)
  | [] =>
    if e % 2 = 0 then .error pgMiss
    else if !e.testBit 1 || s.leafBad e lg then .error pgTier else .ok (e, lg, at_)
  | (lo, n) :: ls =>
    if e % 2 = 0 then .error pgMiss
    else if e.testBit 1 then (if s.leafBad e lg then .error pgTier else .ok (e, lg, at_))
    else if tst (fld e 54 10) || tst (fld e 2 6) then .error pgTier
    else
      let a := fld e 8 46 * 256 + 8 * fld va lo n
      s.walkGo va a (s.walkEntry a) lo ls

/-- Walk of a job's tables (R124, R125, spec/25 R372): the leaf, its page size, and where the leaf stands. -/
def State.walk (s : State) (job va : Nat) : Except Nat (Nat × Nat × Nat) :=
  let pt := Tab.get (0 : W64) s.jobpt job
  let root := bf pt 12 42 * 4096
  if !bt pt 63 || !s.roots.contains root then .error pgMiss
  else if fld va 57 7 ≠ (if va.testBit 56 then 127 else 0) then .error pgMiss
  else
    let i := fld va 36 21
    if 2 ^ Nat.min 21 (bf pt 0 5) ≤ i then .error pgMiss
    else s.walkGo va (root + 8 * i) (s.walkEntry (root + 8 * i)) 36 walkLevels

/-- Addresses of the entries that a walk reads from one on. -/
def State.walkPath (s : State) (va at_ e : Nat) : List (Nat × Nat) → List Nat
  | [] => [at_]
  | (lo, n) :: ls =>
    if e % 2 = 0 ∨ e.testBit 1 then [at_]
    else
      let a := fld e 8 46 * 256 + 8 * fld va lo n
      at_ :: s.walkPath va a (s.walkEntry a) ls

/-- What the walk of an address leaves: the granules of its entries healed (spec/21 R328, R330). -/
def State.healWalk (s : State) (job va : Nat) : State :=
  let pt := Tab.get (0 : W64) s.jobpt job
  let a := bf pt 12 42 * 4096 + 8 * fld va 36 21
  if bt pt 63 then (s.walkPath va a (s.walkEntry a) walkLevels).foldl (fun s a => s.heal a 8) s else s

/-- Whether a leaf's permissions allow an access (R387). -/
def permits (e : Nat) (a : Acc) : Bool :=
  match a with
  | .read | .atomRead => e.testBit 3
  | .write => e.testBit 4
  | .atomWrite => e.testBit 3 && e.testBit 4
  | .instr => e.testBit 5

/-- Where a leaf puts a byte. -/
def leafLoc (e lg va : Nat) : Loc :=
  let pa := fld e 16 38 * 2 ^ 16 + va % 2 ^ lg
  match fld e 6 2 with
  | 0 => .hbm pa none
  | 1 => .hbm (spreadOf (fld e 8 8) pa) (some (fld e 8 8))
  | 2 => .pool pa
  | _ => .peer (fld e 54 10)

/-- Translation of one address for an access; `none` needs no permission (the harbourmaster's own rights, spec/01 R10). An entry that is
malformed and permits too little raises PAGE.TIER (DESIGN CHOICE, log entry 113: R125 gives no order). -/
def State.translate (s : State) (job va : Nat) (a : Option Acc) : Except Nat Loc :=
  match s.walk job va with
  | .error e => .error e
  | .ok (e, lg, _) =>
    match a with
    | some a => if permits e a then .ok (leafLoc e lg va) else .error pgPerm
    | none => .ok (leafLoc e lg va)

/-- Pieces of a range that no 4 KiB boundary cuts: address and length. A range of no byte has one piece. -/
def piecesGo : Nat → Nat → Nat → List (Nat × Nat)
  | 0, _, _ => []
  | f + 1, va, n =>
    let k := Nat.min n (4096 - va % 4096)
    if n ≤ k then [(va, n)] else (va, k) :: piecesGo f (va + k) (n - k)
def pieces (va n : Nat) : List (Nat × Nat) := piecesGo (n / 4096 + 2) va n

/-- The pieces of a range with their places, or the first failure and its address. -/
def State.plan (s : State) (job : Nat) (a : Option Acc) : List (Nat × Nat) → Except (Nat × Nat) (List (Nat × Nat × Loc))
  | [] => .ok []
  | (va, n) :: ps =>
    match s.translate job va a with
    | .error e => .error (e, va)
    | .ok l =>
      match s.plan job a ps with
      | .error e => .error e
      | .ok r => .ok ((va, n, l) :: r)

-- regions and tokens ------------------------------------------------------------------------------------------------

/-- The region that holds an address: of a job, or of a berth-thread's export. -/
def Region.holds (r : Region) (job : Nat) (ex : Option Party) (a : Nat) : Bool :=
  r.exporter == ex && (ex.isSome || r.job == job) && decide (r.base ≤ a ∧ a < r.base + 2 ^ r.log2)
def State.region (s : State) (job : Nat) (ex : Option Party) (a : Nat) : Option Region :=
  s.regions.find? fun r => r.holds job ex a

/-- Rewrite the region that holds an address. -/
def State.modRegion (s : State) (job : Nat) (ex : Option Party) (a : Nat) (f : Region → Region) : State :=
  { s with regions := s.regions.map fun r => if r.holds job ex a then f r else r }

/-- Bytes of the carve-out, and those in use: tables, records, layouts, code copies and the dock store. Under low-water service one
channel in eight is there to hold them (spec/25 R365, R378). -/
def State.carveBytes (s : State) : Nat := if bt s.carve 63 then bf s.carve 0 12 * 2 ^ 28 else 0
def State.carveUsed (s : State) : Nat :=
  s.carveNext + (s.tokBlocks * 4096 + s.layouts.length * 64 + s.codeStore.length * 2 ^ 18 + s.dock.length * 2 ^ 21) * (if s.level = 1 then 8 else 1)

/-- Blocks of 128 records that overflow the 262,144 held on die (spec/25 R365). -/
def recordBlocks (n : Nat) : Nat := (n - 262144 + 127) / 128

/-- Set the token records; none when they need a new block of the carve-out and it has none (spec/25 R365). -/
def State.setRecords (s : State) (rs : List Region) : Option State :=
  let t := { s with regions := rs, tokBlocks := Nat.max s.tokBlocks (recordBlocks rs.length) }
  if s.tokBlocks < t.tokBlocks ∧ t.carveBytes < t.carveUsed then none else some t

/-- Grants of a party. -/
def Region.grants (r : Region) (p : Party) : Nat := ((r.shares.find? fun x => x.1 == p).map Prod.snd).getD 0
/-- SHARES of a record (R134). -/
def Region.nshares (r : Region) : Nat := r.shares.foldl (fun n x => n + x.2) 0
/-- Add grants to a party. -/
def grantTo (p : Party) (n : Nat) : List (Party × Nat) → List (Party × Nat)
  | [] => [(p, n)]
  | (q, k) :: l => if q = p then (q, k + n) :: l else (q, k) :: grantTo p n l

/-- The token check of an access (R135): the fault of the first failing row. -/
def tokenFault (r : Option Region) (ps : List Party) (a : Acc) : Option Nat :=
  match r with
  | none => some (match a with | .atomRead | .atomWrite => fcTokenAtomic | _ => fcTokenNone)
  | some r =>
    if r.st = .quarantined then some fcTokenQuarantine
    else
      let owner := ps.contains r.owner
      match a with
      | .read =>
        if (owner && (r.st == .owned || r.st == .shared)) || ps.any (fun p => decide (0 < r.grants p)) || r.st == .exec then none
        else if r.st = .atomic then some fcTokenAtomic else some fcTokenNone
      | .write =>
        if owner && r.st == .owned then none
        else if r.st = .exec then some fcPagePerm
        else if r.st = .atomic then some fcTokenAtomic
        else if owner && r.st == .shared then some fcTokenShared
        else some fcTokenNone
      | .atomRead | .atomWrite => if r.st = .atomic then none else some fcTokenAtomic
      | .instr => if r.st = .exec then none else some fcTokenNone

/-- A token check to make at a home. -/
structure TokChk where
  job : Nat
  ex  : Option Party
  at_ : Nat
  acc : Acc
deriving DecidableEq, Repr

/-- Token checks in order: the first failure with its address. A record found uncorrectable refuses with TOKEN.LOST and its region
becomes QUARANTINED (spec/23 R351). -/
def State.tokens (s : State) (ps : List Party) : List TokChk → State × Option (Nat × Nat)
  | [] => (s, none)
  | c :: cs =>
    match s.region c.job c.ex c.at_ with
    | some r =>
      if r.lost then
        let s := s.modRegion c.job c.ex c.at_ fun r => { r with lost := false, st := .quarantined }
        (s.event srcHm fcMachTokentable (some r.job) (w64 r.base), some (fcTokenLost, c.at_))
      else match tokenFault (some r) ps c.acc with
        | some e => (s, some (e, c.at_))
        | none => s.tokens ps cs
    | none =>
      match tokenFault none ps c.acc with
      | some e => (s, some (e, c.at_))
      | none => s.tokens ps cs

/-- Insert a number into a rising list. -/
def insertNat (x : Nat) : List Nat → List Nat
  | [] => [x]
  | y :: ys => if x < y then x :: y :: ys else if x = y then y :: ys else y :: insertNat x ys

/-- Addresses at which a range is checked: its first address, and the base of every further region it touches. -/
def State.points (s : State) (job : Nat) (ex : Option Party) (a n : Nat) : List Nat :=
  s.regions.foldl (fun l r =>
    if r.exporter = ex ∧ (ex.isSome ∨ r.job = job) ∧ a < r.base ∧ r.base < a + n then insertNat r.base l else l) [a]

/-- The checks of a range. -/
def State.chkRange (s : State) (job : Nat) (ex : Option Party) (acc : Acc) (a n : Nat) : List TokChk :=
  (s.points job ex a n).map fun p => ⟨job, ex, p, acc⟩

/-- The exported region of a berth-thread's scratchpad (R121): base and size, 0 when none. -/
def Ctx.export_ (c : Ctx) : Nat × Nat :=
  let l := bf c.spexp 24 5
  (bf c.spexp 0 20, if l = 0 then 0 else 2 ^ l)

/-- The part of a scratchpad range that lies in the export: its first address, none when it lies outside. -/
def Ctx.inExport (c : Ctx) (a n : Nat) : Option Nat :=
  let e := c.export_
  if e.2 = 0 ∨ e.1 + e.2 ≤ a ∨ a + Nat.max n 1 ≤ e.1 then none else some (Nat.max a e.1)

/-- The check of a berth-thread's own access to its scratchpad (R121): the fault and the address. -/
def State.ownFault (s : State) (a n : Nat) (acc : Acc) : Option (Nat × Nat) :=
  let c := s.ctx
  match c.inExport a n with
  | none => none
  | some a0 =>
    let e := c.export_
    let hi := Nat.min (a + n) (e.1 + e.2)
    (s.points s.job (some c.self) a0 (hi - a0)).findSome? fun p =>
      let r := s.region s.job (some c.self) p
      if r.any Region.lost then some (fcTokenLost, p) else (tokenFault r [c.self] acc).map fun e => (e, p)

-- mailboxes (spec/01 R28) ---------------------------------------------------------------------------------------------

/-- Slots of a mailbox that a write of n bytes at an address touches. -/
def Mailbox.touched (m : Mailbox) (a n : Nat) : List Nat :=
  (List.range m.n).filter fun i =>
    let b := m.base + i * 2 ^ m.log2s
    decide (0 < n ∧ b < a + n ∧ a < b + 2 ^ m.log2s)

/-- One arrival into a slot: the pending bit is set; with every slot pending, an event. -/
def State.arriveSlot (s : State) (id slot : Nat) : State :=
  match s.mboxes.find? fun m => m.id == id with
  | none => s
  | some m =>
    if m.pend.length = m.n then s.event srcHm evMboxOverflow (some m.job) (w64 (id + slot * 65536))
    else
      { s with mboxes := s.mboxes.map fun m => if m.id = id then { m with pend := insertNat slot m.pend } else m }

/-- Arrival of a write of n bytes (spec/01 R28): into a job's memory, or into an export. An arrival that finds every slot pending,
its own included, overflows. -/
def State.arrive (s : State) (job : Nat) (ex : Option Party) (a n : Nat) : State :=
  s.mboxes.foldl (fun s m =>
    if m.local_ = ex ∧ (ex.isSome ∨ m.job = job) then (m.touched a n).foldl (fun s i => s.arriveSlot m.id i) s else s) s

/-- Add a range to a list of ranges (first address and bytes) that rise and do not touch. -/
def joinRun (x : Nat × Nat) : List (Nat × Nat) → List (Nat × Nat)
  | [] => [x]
  | y :: l =>
    if x.1 + x.2 < y.1 then x :: y :: l
    else if y.1 + y.2 < x.1 then y :: joinRun x l
    else
      let a := Nat.min x.1 y.1
      joinRun (a, Nat.max (x.1 + x.2) (y.1 + y.2) - a) l

/-- Runs of consecutive addresses: first address and bytes. -/
def cellRuns : List Nat → List (Nat × Nat)
  | [] => []
  | a :: l => match cellRuns l with
    | (x, n) :: r => if x = a + 1 then (a, n + 1) :: r else (a, 1) :: (x, n) :: r
    | [] => [(a, 1)]

-- places ----------------------------------------------------------------------------------------------------------

/-- Read pool memory; none when a granule is poisoned (spec/25 R375). -/
def State.poolRead (s : State) (pa n : Nat) : Option (List Byte) :=
  let a := s.uioAddr pa
  if (granules a n).any s.poolPoison.contains then none else some (Memory.read zeroByte s.pool a n)

/-- Write pool memory: whole granules lose their poison. -/
def State.poolWrite (s : State) (pa : Nat) (bs : List Byte) : State :=
  let a := s.uioAddr pa
  { s with
    pool := Memory.write zeroByte s.pool a bs
    poolPoison := s.poolPoison.filter fun g => !decide (a ≤ 64 * g ∧ 64 * g + 64 ≤ a + bs.length) }

/-- Read a place on this device. Peer places are read by packets. -/
def State.locRead (s : State) (l : Loc) (n : Nat) : Option (List Byte) :=
  match l with
  | .hbm pa _ => s.hbmRead pa n
  | .pool pa => s.poolRead pa n
  | .peer _ => some []

/-- Write a place on this device. -/
def State.locWrite (s : State) (l : Loc) (bs : List Byte) : State :=
  match l with
  | .hbm pa _ => s.hbmWrite pa bs
  | .pool pa => s.poolWrite pa bs
  | .peer _ => s

/-- Read a plan; none when a piece is poisoned. -/
def State.planRead (s : State) : List (Nat × Nat × Loc) → Option (List Byte)
  | [] => some []
  | (_, n, l) :: ps =>
    match s.locRead l n, s.planRead ps with
    | some a, some b => some (a ++ b)
    | _, _ => none

/-- What reading a place leaves. -/
def State.locHeal (s : State) (l : Loc) (n : Nat) : State :=
  match l with
  | .hbm pa _ => s.heal pa n
  | _ => s

/-- What the translation of a plan leaves. -/
def State.walkHeal (s : State) (job : Nat) (ps : List (Nat × Nat × Loc)) : State := ps.foldl (fun s p => s.healWalk job p.1) s

/-- What reading a plan leaves. -/
def State.planHeal (s : State) (job : Nat) (ps : List (Nat × Nat × Loc)) : State :=
  ps.foldl (fun s p => (s.healWalk job p.1).locHeal p.2.2 p.2.1) s

/-- Whether a write over a plan meets poison that it does not cover: a granule that cannot be read, written in part. -/
def State.planDead (s : State) (ps : List (Nat × Nat × Loc)) : Bool :=
  ps.any fun p => match p.2.2 with
    | .hbm pa _ => (granules pa p.2.1).any fun g => s.dead g && !decide (pa ≤ 64 * g ∧ 64 * g + 64 ≤ pa + p.2.1)
    | _ => false

/-- Whether an address lies in an executable page (spec/05 R86, spec/25 R372). -/
def State.executable (s : State) (job va : Nat) : Bool :=
  match s.walk job va with
  | .ok (e, _, _) => e.testBit 5
  | .error _ => false

/-- Write bytes over a plan, in order. -/
def State.planWrite (s : State) : List (Nat × Nat × Loc) → List Byte → State
  | [], _ => s
  | (_, n, l) :: ps, bs => (s.locWrite l (bs.take n)).planWrite ps (bs.drop n)

/-- Whether a plan has a piece on another device, in the pool. -/
def planPeer (ps : List (Nat × Nat × Loc)) : Bool := ps.any fun p => match p.2.2 with | .peer _ => true | _ => false
def planPool (ps : List (Nat × Nat × Loc)) : Bool := ps.any fun p => match p.2.2 with | .pool _ => true | _ => false

/-- Token checks of the pieces homed on this device (tier 11 is checked at the peer). -/
def State.planChecks (s : State) (job : Nat) (acc : Acc) (ps : List (Nat × Nat × Loc)) : List TokChk :=
  ps.flatMap fun (va, n, l) => match l with
    | .peer _ => []
    | _ => s.chkRange job none acc va n

/-- Bytes of a scratchpad. -/
def Ctx.spadRead (c : Ctx) (a n : Nat) : List Byte := Memory.read zeroByte c.spad a n
def Ctx.spadWrite (c : Ctx) (a : Nat) (bs : List Byte) : Ctx := { c with spad := Memory.write zeroByte c.spad a bs }

end Sys2Proof.Machine
end

