-- ==== Sys2Proof/Machine/Tokens.lean ====
section
/-! DEFINITION. Token records at their home: the token forms (spec/09 R134, R136, spec/15 R237), the return of a team's regions
(R137), the export of a scratchpad (R121), and quarantine (spec/23 R351). -/

namespace Sys2Proof.Machine
open Sys2Proof

/-- The image of a berth-thread, in a pool or in the dock store. -/
def State.findImage (s : State) (t r : Nat) : Option Image :=
  ((s.berths.flatMap fun e => e.2.pool) ++ s.dock).find? fun i => i.ctx.team == t && i.ctx.rank == r

/-- PHASECNT of a record that passes to a party (R134): the count of a berth-thread of another device is a free value. -/
def State.phasesOf (s : State) (p : Party) : Nat :=
  match p with
  | .bt t r => (match s.berthOf t r with
    | some b => (s.ctxAt b).phases
    | none => ((s.findImage t r).map fun i => i.ctx.phases).getD 0) % 2 ^ 32
  | .remote n => if n % 65536 < 128 ∨ 2 ^ 26 ≤ n then Config.farPhases n s.time % 2 ^ 32 else 0
  | _ => 0

/-- Number of the party of a rank: of a subcube team, on the device that holds it (spec/01 R21). -/
def State.rankNum (s : State) (m : Man) (r : Nat) : Nat :=
  if m.local_ r then s.label * 65536 + m.berthOf r else (s.label + r / 128 - m.rank0 / 128) * 65536 + r % 128

/-- Whether a party number is that of a berth of another device that a subcube team of this device holds (spec/01 R21). -/
def State.inCube (s : State) (n : Nat) (m : Man) : Bool :=
  decide (8 < m.top ∧ n % 65536 < 128 ∧ n / 65536 % 1024 ≠ s.label ∧ n / 65536 % 1024 / 2 ^ (m.top - 8) = s.label / 2 ^ (m.top - 8))
    && (m.st == .starting || m.st == .running || m.st == .preempting || m.st == .preempted || m.st == .resuming)

/-- Whether a party is the keeper of a region that a berth-thread held: rank 0 of its team (spec/23 R351). Which berth-threads of
another device make a team is known here of a subcube team alone; else it is a free value (log entry 102). -/
def State.keeper (s : State) (owner caller : Party) : Bool :=
  match owner, caller with
  | .bt t _, .bt t' r => t == t' && r == 0
  | .bt t _, .remote c => (s.man t).any fun m => s.rankNum m 0 == c
  | .remote k, .bt t r => r == 0 && (s.man t).any (s.inCube k)
  | .remote k, .remote c => match s.mans.find? (s.inCube k) with
    | some m => s.rankNum m 0 == c
    | none => Config.farKeeper k c
  | _, _ => false

/-- Whether a party can be the target of a form whose caller is of a job (R132). Whether a berth of another device holds a berth-thread
of the job is known here of a subcube team alone; else it is a free value (log entry 96). -/
def State.targetOk (s : State) (job : Nat) (p : Party) : Bool :=
  match p with
  | .nobody => false
  | .remote n => decide (128 ≤ n % 65536 ∨ 2 ^ 26 ≤ n) || (s.mans.any fun m => m.job == job && s.inCube n m)
      || Config.farThread n job s.time
  | .bt t _ => ((s.man t).map Man.job) == some job
  | .lighter b =>
    -- a lighter is named whether or not its berth is placed
    decide (b < 128)
  | _ => true

/-- Code of a state (R134). -/
def stCode (r : RState) : Nat :=
  match r with | .owned => 0 | .shared => 1 | .atomic => 2 | .exec => 3 | .quarantined => 4

/-- The two elements of a record (R134). -/
def State.record (s : State) (r : Region) : List W64 :=
  [w64 (r.log2 * 2 ^ 58 + r.stack.length * 2 ^ 55 + stCode r.st * 2 ^ 52
      + (match r.stack with | [] => 0 | p :: _ => s.partyNum p) * 2 ^ 26 + s.partyNum r.owner),
   w64 (r.phasecnt * 2 ^ 32 + r.nshares % 2 ^ 32)]

/-- The other half of a region's next larger block. -/
def Region.buddy (r : Region) : Nat := if r.base / 2 ^ r.log2 % 2 = 0 then r.base + 2 ^ r.log2 else r.base - 2 ^ r.log2

/-- Smallest and largest sizes (R133). -/
def minLog2 (ex : Option Party) : Nat := if ex.isSome then 9 else 12
def maxLog2 (ex : Option Party) : Nat := if ex.isSome then 20 else 36

/-- A fault when an OWNED region is required (R237). -/
def needOwned (r : Region) : Option Nat :=
  match r.st with
  | .owned => none
  | .shared => some fcTokenShared
  | .atomic => some fcTokenAtomic
  | .exec => some fcTokenNone
  | .quarantined => some fcTokenQuarantine

/-- Change a record's owner. -/
def State.giveTo (s : State) (p : Party) (stack : List Party) (r : Region) : Region :=
  { r with owner := p, stack := stack, phasecnt := s.phasesOf p }

/-- What a token form answers for want of a block of records: the request's ARENA (spec/25 R365). -/
def arenaErr : Nat := 256
/-- The fault code of a token form's refusal: of ARENA the spec gives none, a free value (log entry 132). -/
def tokFault (e : Nat) : Nat := if e = arenaErr then Config.arenaFault.toNat else e

/-- A token form at the home of the region that holds an address (R136, R237): the fault of the first reason that applies, or the
state after the change. The region that TKJOIN makes keeps the PHASECNT of the half that the form names (DESIGN CHOICE, log entry 136). -/
def State.tokenForm (s : State) (caller : Party) (job : Nat) (ex : Option Party) (a : Nat) (form : TokForm)
    (targets : List Party) : Except Nat State :=
  match s.region job ex a with
  | none => .error fcTokenNone
  | some r =>
    let upd := fun f => Except.ok (s.modRegion job ex a f)
    if r.job ≠ job then .error fcTokenNone
    else if form = .query then .ok s
    else if r.st = .quarantined ∧ form ≠ .claim then .error fcTokenQuarantine
    else if r.st = .exec then .error fcTokenNone
    else
      let mine : Bool := r.owner == caller
      match form with
      | .query => .ok s
      | .claim =>
        if caller ≠ .host ∧ !s.keeper r.owner caller then .error fcPrivilege
        else if r.st ≠ .quarantined then .error fcTokenNone
        else upd fun r => { s.giveTo caller [] r with st := .owned, shares := [] }
      | .lend =>
        if !mine || !(targets.all (s.targetOk job)) || targets.isEmpty then .error fcTokenNone
        else match needOwned r with
          | some e => .error e
          | none =>
            if 4 ≤ r.stack.length then .error fcBound
            else upd fun r => s.giveTo (targets.headD .nobody) (caller :: r.stack) r
      | .ret =>
        if !mine || r.stack.isEmpty then .error fcTokenNone
        else match needOwned r with
          | some e => .error e
          | none => upd fun r => s.giveTo (r.stack.headD .nobody) r.stack.tail r
      | .split =>
        if !mine then .error fcTokenNone
        else match needOwned r with
          | some e => .error e
          | none =>
            if r.log2 ≤ minLog2 ex then .error fcBound
            else
              let lo := { r with log2 := r.log2 - 1 }
              let hi := { lo with base := r.base + 2 ^ (r.log2 - 1) }
              match s.setRecords (s.regions.flatMap fun x => if x.holds job ex a then [lo, hi] else [x]) with
              | none => .error arenaErr
              | some s => .ok s
      | .join =>
        match s.region job ex r.buddy with
        | none => if !mine then .error fcTokenNone else .error ((needOwned r).getD fcBound)
        | some b =>
          if !mine || b.owner != caller then .error fcTokenNone
          -- SHARED before ATOMIC, whichever half it is
          else if r.st = .shared ∨ b.st = .shared then .error fcTokenShared
          else match needOwned r, needOwned b with
            | some e, _ => .error e
            | _, some e => .error e
            | none, none =>
              if b.log2 != r.log2 || b.base != r.buddy || b.stack != r.stack || decide (maxLog2 ex ≤ r.log2) then .error fcBound
              else
                let big := { r with base := Nat.min r.base b.base, log2 := r.log2 + 1 }
                let f := fun x : Region => if x.holds job ex a then [big] else if x.holds job ex r.buddy then [] else [x]
                .ok { s with regions := s.regions.flatMap f }
      | .share =>
        if !mine || !(targets.all (s.targetOk job)) then .error fcTokenNone
        else if r.st = .atomic then .error fcTokenAtomic
        else if targets.isEmpty then .ok s
        else upd fun r => { r with st := .shared, shares := targets.foldl (fun l p => grantTo p 1 l) r.shares }
      | .unshare =>
        if r.grants caller = 0 then .error fcTokenNone
        else upd fun r =>
          let l := (r.shares.map fun x => if x.1 = caller then (x.1, x.2 - 1) else x).filter fun x => x.2 != 0
          { r with shares := l, st := if l.isEmpty then .owned else .shared }
      | .atom back =>
        if !mine || (back && r.st != .atomic) then .error fcTokenNone
        else if back then upd fun r => { r with st := .owned }
        else match needOwned r with
          | some e => .error e
          | none => upd fun r => { r with st := .atomic }

/-- Whether a token form takes a right from the host. -/
def TokForm.narrows : TokForm → Bool
  | .lend | .ret | .share | .unshare => true
  | .atom back => !back
  | _ => false

/-- Drop every share of parties that a predicate picks. -/
def dropShares (p : Party → Bool) (r : Region) : Region :=
  if r.shares.any fun x => p x.1 then
    let l := r.shares.filter fun x => !p x.1
    { r with shares := l, st := if l.isEmpty ∧ r.st = .shared then .owned else r.st }
  else r

/-- Whether a party is a berth-thread of a team. -/
def ofTeam (t : Nat) (p : Party) : Bool :=
  match p with
  | .bt t' _ => t' == t
  | _ => false

/-- Whether a party is a berth-thread of one of `n` berths from `b` of another device, as its number there stands now. A number of
2^26 or more names a berth-thread that is pre-empted (log entry 23). -/
def ofBerths (first n : Nat) (p : Party) : Bool :=
  match p with
  | .remote k => decide (first ≤ k ∧ k < first + n)
  | _ => false

/-- Stack below the entries above the lowest one that is not of the team, and that entry. -/
def lowestOrigin (t : Party → Bool) : List Party → Option (Party × List Party)
  | [] => none
  | p :: ps =>
    match lowestOrigin t ps with
    | some x => some x
    | none => if t p then none else some (p, ps)

/-- Regions when a team retires (R137): a region whose owner or stack names one of its berth-threads goes to the lowest stack entry
that is not one of them, and the team's shares are dropped. Quarantined regions stay (spec/23 R351), and so does one with no such entry,
for which R137 names no receiver (DESIGN CHOICE, log entry 128). -/
def State.returnRegions (s : State) (t : Party → Bool) : State :=
  let f := fun r : Region =>
    let r := dropShares t r
    if r.st ≠ .quarantined ∧ (t r.owner || r.stack.any t) then
      match lowestOrigin t r.stack with
      | some (p, below) => s.giveTo p below r
      | none => r
    else r
  { s with regions := s.regions.map f }

/-- The last lend to each of the parties that a predicate picks is undone: the region is its lender's again (spec/01 R22). -/
def State.undoLends (s : State) (t : Party → Bool) : State :=
  let f := fun r : Region => match r.stack with
    | p :: below => if t r.owner && r.st != .quarantined then s.giveTo p below r else r
    | [] => r
  { s with regions := s.regions.map f }

/-- Rename the parties of every token record. -/
def State.renameParties (s : State) (f : Party → Party) : State :=
  let g := fun r : Region => { r with owner := f r.owner, stack := r.stack.map f, shares := r.shares.map fun x => (f x.1, x.2) }
  { s with regions := s.regions.map g }

/-- The berth-threads of `n` numbers from `a` of another device take the numbers from `b` (R132). -/
def moveParty (a n b : Nat) (p : Party) : Party :=
  match p with
  | .remote k => if a ≤ k ∧ k < a + n then .remote (b + (k - a)) else p
  | _ => p

/-- Delete the records of a berth-thread's export, with its local mailboxes. -/
def State.dropExport (s : State) (p : Party) : State :=
  { s with
    regions := s.regions.filter fun r => r.exporter != some p
    mboxes := s.mboxes.filter fun m => m.local_ != some p }

/-- Whether every token of a berth-thread's export is held by it, OWNED and without shares (R121). -/
def State.exportFree (s : State) (p : Party) : Bool :=
  s.regions.all fun r => r.exporter != some p || (r.owner == p && r.st == .owned && r.shares.isEmpty)

/-- A new export (R121): the old tokens are deleted and one is created. -/
def State.newExport (s : State) (p : Party) (job : Nat) (v : W64) : State :=
  let s := { s with regions := s.regions.filter fun r => r.exporter != some p }
  if bf v 24 5 = 0 then s
  else
    let rs := s.regions ++ [⟨job, some p, bf v 0 20, bf v 24 5, .owned, p, [], s.phasesOf p, [], false⟩]
    { s with regions := rs, tokBlocks := Nat.max s.tokBlocks (recordBlocks rs.length) }

/-- Quarantine after a failure of a berth-thread (spec/23 R351). -/
def State.quarantine (s : State) (p : Party) (phases : Nat) : State :=
  let s := s.dropExport p
  let hit := s.regions.filter fun r => r.owner == p
  let f := fun r : Region =>
    let r := dropShares (· == p) r
    if r.owner = p then { r with st := .quarantined, phasecnt := phases % 2 ^ 32 } else r
  let s := { s with regions := s.regions.map f }
  hit.foldl (fun s r => s.event srcHm evQuarantined (some r.job) (w64 r.base)) s

end Sys2Proof.Machine
end

