-- ==== Sys2Proof/Machine/Scalar.lean ====
section
/-! DEFINITION. Scalar forms (spec/11 R155-R163). -/

namespace Sys2Proof.Machine
open Sys2Proof

/-- NOP (spec/05 R69). -/
def execNop (h : Hd) (s : State) : Out := issue h (fun _ => .go) (fun s => s) s

/-- A scalar result of latency l from the context at issue (R153). -/
def scalar (h : Hd) (l d : Nat) (f : Ctx → W64) (s : State) : Out := issueFly h l (fun c => .sreg d (f c)) s

-- R155
def execAdd (h : Hd) (d a b : Nat) (s : State) : Out := scalar h 1 d (fun c => c.reg a + c.reg b) s
def execSub (h : Hd) (d a b : Nat) (s : State) : Out := scalar h 1 d (fun c => c.reg a - c.reg b) s
def execAnd (h : Hd) (d a b : Nat) (s : State) : Out := scalar h 1 d (fun c => c.reg a &&& c.reg b) s
def execOr (h : Hd) (d a b : Nat) (s : State) : Out := scalar h 1 d (fun c => c.reg a ||| c.reg b) s
def execXor (h : Hd) (d a b : Nat) (s : State) : Out := scalar h 1 d (fun c => c.reg a ^^^ c.reg b) s
def execAndn (h : Hd) (d a b : Nat) (s : State) : Out := scalar h 1 d (fun c => c.reg a &&& ~~~(c.reg b)) s
def execShl (h : Hd) (d a b : Nat) (s : State) : Out := scalar h 1 d (fun c => c.reg a <<< bf (c.reg b) 0 6) s
def execShr (h : Hd) (d a b : Nat) (s : State) : Out := scalar h 1 d (fun c => c.reg a >>> bf (c.reg b) 0 6) s
def execSar (h : Hd) (d a b : Nat) (s : State) : Out :=
  scalar h 1 d (fun c => (c.reg a).sshiftRight (bf (c.reg b) 0 6)) s
def execRol (h : Hd) (d a b : Nat) (s : State) : Out :=
  scalar h 1 d (fun c => (c.reg a).rotateLeft (bf (c.reg b) 0 6)) s
def execMin (h : Hd) (d a b : Nat) (s : State) : Out :=
  scalar h 1 d (fun c => if (c.reg b).slt (c.reg a) then c.reg b else c.reg a) s
def execMax (h : Hd) (d a b : Nat) (s : State) : Out :=
  scalar h 1 d (fun c => if (c.reg a).slt (c.reg b) then c.reg b else c.reg a) s
def execMinu (h : Hd) (d a b : Nat) (s : State) : Out :=
  scalar h 1 d (fun c => if (c.reg b).ult (c.reg a) then c.reg b else c.reg a) s
def execMaxu (h : Hd) (d a b : Nat) (s : State) : Out :=
  scalar h 1 d (fun c => if (c.reg a).ult (c.reg b) then c.reg b else c.reg a) s

/-- Number of leading zero bits, 0-64. -/
def clz64 (v : W64) : W64 := w64 (64 - bitLen v.toNat)
/-- Number of one bits of the n low bits. -/
def popcount : Nat → Nat → Nat
  | 0, _ => 0
  | n + 1, v => v % 2 + popcount n (v / 2)

def execClz (h : Hd) (d a : Nat) (s : State) : Out := scalar h 1 d (fun c => clz64 (c.reg a)) s
def execPopc (h : Hd) (d a : Nat) (s : State) : Out := scalar h 1 d (fun c => w64 (popcount 64 (c.reg a).toNat)) s
def execMov (h : Hd) (d a : Nat) (s : State) : Out := scalar h 1 d (fun c => c.reg a) s

-- R156
/-- Bits 127:64 of a signed product. -/
def mulHigh (a b : W64) : W64 := ((a.signExtend 128 * b.signExtend 128) >>> 64).truncate 64
/-- Bits 127:64 of an unsigned product. -/
def mulHighU (a b : W64) : W64 := ((a.zeroExtend 128 * b.zeroExtend 128) >>> 64).truncate 64
/-- Signed quotient: truncated toward zero; all ones for a zero divisor; the dividend when it overflows. -/
def divS (a b : W64) : W64 := if b = 0 then BitVec.allOnes 64 else BitVec.ofInt 64 (a.toInt.tdiv b.toInt)
/-- Signed remainder: the dividend for a zero divisor; the dividend's sign. -/
def remS (a b : W64) : W64 := if b = 0 then a else BitVec.ofInt 64 (a.toInt.tmod b.toInt)
/-- Unsigned quotient. -/
def divU (a b : W64) : W64 := if b = 0 then BitVec.allOnes 64 else w64 (a.toNat / b.toNat)
/-- Unsigned remainder. -/
def remU (a b : W64) : W64 := if b = 0 then a else w64 (a.toNat % b.toNat)

def execMul (h : Hd) (d a b : Nat) (s : State) : Out := scalar h 3 d (fun c => c.reg a * c.reg b) s
def execMulh (h : Hd) (d a b : Nat) (s : State) : Out := scalar h 3 d (fun c => mulHigh (c.reg a) (c.reg b)) s
def execMulhu (h : Hd) (d a b : Nat) (s : State) : Out := scalar h 3 d (fun c => mulHighU (c.reg a) (c.reg b)) s
def execDiv (h : Hd) (d a b : Nat) (s : State) : Out := scalar h 20 d (fun c => divS (c.reg a) (c.reg b)) s
def execDivu (h : Hd) (d a b : Nat) (s : State) : Out := scalar h 20 d (fun c => divU (c.reg a) (c.reg b)) s
def execRem (h : Hd) (d a b : Nat) (s : State) : Out := scalar h 20 d (fun c => remS (c.reg a) (c.reg b)) s
def execRemu (h : Hd) (d a b : Nat) (s : State) : Out := scalar h 20 d (fun c => remU (c.reg a) (c.reg b)) s

-- R157, R158
def execAddi (h : Hd) (d a imm : Nat) (s : State) : Out := scalar h 1 d (fun c => c.reg a + sx31 imm) s
def execMovi (h : Hd) (d imm : Nat) (s : State) : Out := scalar h 1 d (fun _ => sx31 imm) s
def execMovh (h : Hd) (d a imm : Nat) (s : State) : Out := scalar h 1 d (fun c => (c.reg a <<< 31) ||| w64 imm) s
def execShli (h : Hd) (d a n : Nat) (s : State) : Out := scalar h 1 d (fun c => c.reg a <<< n) s
def execShri (h : Hd) (d a n : Nat) (s : State) : Out := scalar h 1 d (fun c => c.reg a >>> n) s
def execSari (h : Hd) (d a n : Nat) (s : State) : Out := scalar h 1 d (fun c => (c.reg a).sshiftRight n) s

-- R159
/-- Field of w bits at lo, zeros beyond bit 63. -/
def bext64 (a : W64) (lo w : Nat) : W64 := (a >>> lo) &&& w64 (2 ^ w - 1)
/-- v with the field of w bits at lo replaced by a's low bits; bits beyond 63 are lost. -/
def bins64 (v a : W64) (lo w : Nat) : W64 :=
  let m : W64 := w64 (2 ^ w - 1) <<< lo
  (v &&& ~~~m) ||| ((a <<< lo) &&& m)

def execBext (h : Hd) (d a lo wm1 : Nat) (s : State) : Out := scalar h 1 d (fun c => bext64 (c.reg a) lo (wm1 + 1)) s
def execBins (h : Hd) (d a lo wm1 : Nat) (s : State) : Out :=
  scalar h 1 d (fun c => bins64 (c.reg d) (c.reg a) lo (wm1 + 1)) s
def execSetb (h : Hd) (d a p : Nat) (s : State) : Out := scalar h 1 d (fun c => c.reg a ||| (1 <<< p)) s
def execClrb (h : Hd) (d a p : Nat) (s : State) : Out := scalar h 1 d (fun c => c.reg a &&& ~~~((1 : W64) <<< p)) s

-- R160
/-- A compare: one bit of d lands at latency 1 (R154). -/
def cmpForm (h : Hd) (d p a b : Nat) (f : W64 → W64 → Bool) (s : State) : Out :=
  issueFly h 1 (fun c => .sbit d p (f (c.reg a) (c.reg b))) s

def execCmpeq (h : Hd) (d p a b : Nat) (s : State) : Out := cmpForm h d p a b (fun x y => x == y) s
def execCmpne (h : Hd) (d p a b : Nat) (s : State) : Out := cmpForm h d p a b (fun x y => x != y) s
def execCmplt (h : Hd) (d p a b : Nat) (s : State) : Out := cmpForm h d p a b (fun x y => x.slt y) s
def execCmpltu (h : Hd) (d p a b : Nat) (s : State) : Out := cmpForm h d p a b (fun x y => x.ult y) s
def execCmple (h : Hd) (d p a b : Nat) (s : State) : Out := cmpForm h d p a b (fun x y => x.sle y) s
def execCmpleu (h : Hd) (d p a b : Nat) (s : State) : Out := cmpForm h d p a b (fun x y => x.ule y) s

/-- SEL always executes; its guard field is the condition (R161). -/
def execSel (h : Hd) (d a b : Nat) (s : State) : Out :=
  issueFly Hd.plain 1 (fun c => .sreg d (if c.guard h then c.reg a else c.reg b)) s

-- local addresses (spec/09 R120, R123) ------------------------------------------------------------------------------

/-- Peer scratchpad address of a window address. -/
def Ctx.peerAddr (c : Ctx) (a : Nat) : Nat := (Tab.get Window.none c.windows (winOf a)).lbase + (a - 0x100000) % 0x100000

/-- BOUND of an access of n bytes at a local address (R120, R123). -/
def Ctx.localBad (c : Ctx) (addr : W64) (n : Nat) : Bool :=
  let a := addr.toNat
  if a < 0x100000 then decide (0x100000 < a + n)
  else if isWin a then
    decide (0x100000 < a % 0x100000 + n) || !(Tab.get Window.none c.windows (winOf a)).valid
      || decide (0x100000 < c.peerAddr a + n)
  else true

/-- The faults of a local access of n bytes with an alignment (R162, spec/13 R205). -/
def State.localChecks (s : State) (addr : W64) (n al : Nat) (acc : Acc) : List (Option (Nat × W64)) :=
  let a := addr.toNat
  [chk (s.ctx.localBad addr n) fcBound addr, chk (a % al != 0) fcAlign addr,
   if a < 0x100000 then (s.ownFault a n acc).map fun e => (e.1, w64 e.2) else none]

-- R162
/-- Address of LDS and STS. -/
def memAddr (c : Ctx) (a imm : Nat) : W64 := c.reg a + sx31 imm

/-- Issue of a remote load (spec/09 R123, spec/03 R49). -/
def State.remoteLoad (s : State) (addr n l : Nat) (dst : LoadDest) : State :=
  (s.pushOp pathF (.rload (winOf addr) addr n) .count 0 0).modCtx fun c => c.fly l (.rload s.nextId dst none)

def execLds (h : Hd) (d a imm : Nat) (s : State) : Out :=
  issue h (fun s => .of (s.localChecks (memAddr s.ctx a imm) 8 8 .read) .go)
    (fun s =>
      let addr := (memAddr s.ctx a imm).toNat
      if isWin addr then s.remoteLoad addr 8 4 (.sreg d)
      else s.modCtx fun c => c.fly 4 (.sreg d (w64 (leValue (c.spadRead addr 8))))) s

-- R163
/-- Whether a window has an allowance unit (R123). -/
def Ctx.allowed (c : Ctx) (a : Nat) : Bool :=
  let w := Tab.get Window.none c.windows (winOf a)
  decide (w.out < w.limit)

/-- A window store or an outbound CPW takes a unit. -/
def Ctx.takeUnit (c : Ctx) (a : Nat) : Ctx :=
  { c with windows := Tab.upd Window.none c.windows (winOf a) fun w => { w with out := w.out + 1 } }

/-- Issue of a window store of cells at local addresses (R123). -/
def State.windowStore (s : State) (addr : Nat) (l : List Host.Cell) (m3 : Bool := false) : State :=
  (s.pushOp pathF (.wstore (winOf addr) addr l) .count 0 0).modCtx fun c =>
    let c := c.takeUnit addr
    if m3 then c.modOp s.nextId fun o => { o with m3 := true } else c

/-- A store to the own scratchpad at issue + lat, or to a window. -/
def State.localStore (s : State) (path lat addr : Nat) (l : List Host.Cell) : State :=
  if isWin addr then s.windowStore addr l else s.modCtx fun c => c.fly lat (.store path l)

/-- Verdict of a store: its checks, then the allowance of a window. -/
def storeVerdict (addr : W64) (n al : Nat) (s : State) : Verdict :=
  .of (s.localChecks addr n al .write)
    (if isWin addr.toNat then freezeIf s (!s.ctx.allowed addr.toNat) .go else .go)

def execSts (h : Hd) (d a imm : Nat) (s : State) : Out :=
  issue h (fun s => storeVerdict (memAddr s.ctx a imm) 8 8 s)
    (fun s =>
      let addr := (memAddr s.ctx a imm).toNat
      s.localStore 0 2 addr (cellsFrom addr (leBytes 8 (s.ctx.reg d).toNat))) s

end Sys2Proof.Machine
end

