-- ==== Sys2Proof/Machine/Control.lean ====
section
/-! DEFINITION. Control forms: branches with two delay groups (spec/03 R55, spec/11 R164, R165), hardware loops (R56-R60, R166,
R167). -/

namespace Sys2Proof.Machine
open Sys2Proof

-- instruction memory --------------------------------------------------------------------------------------------------

/-- The stop-bit NOP (spec/05 R69). -/
def stopNop : W64 := w64 (2 ^ 63)
/-- A word of instruction memory; a word not loaded is the stop-bit NOP (spec/01 R22). -/
def Berth.word (x : Berth) (o : Nat) : W64 := Tab.get stopNop x.im o
/-- Word offset after the group that starts at o (spec/03 R35): up to and including the next word whose S bit is 1. -/
def Berth.groupEnd (x : Berth) : Nat → Nat → Nat
  | 0, o => o + 1
  | f + 1, o => if bt (x.word o) 63 then o + 1 else x.groupEnd f (o + 1)
/-- Bound on the words of a group that a run can need. -/
def groupFuel : Nat := 32768
/-- Offset after the group now issuing. -/
def State.groupEnd (s : State) : Nat := (s.berth s.cur).groupEnd groupFuel s.ctx.pc
/-- The link of CALL and JMP: the offset after the second delay group in sequential order (R55). -/
def State.link (s : State) : Nat :=
  let x := s.berth s.cur
  x.groupEnd groupFuel (x.groupEnd groupFuel s.groupEnd)

/-- Issue of a control transfer word: in a dynamic delay group it has no effect, as if guarded off (spec/05 R85). -/
def issueTransfer (h : Hd) (v : State → Verdict) (eff : State → State) (s : State) : Out :=
  if s.ctx.branch.isSome ∨ s.ctx.quiet ≠ 0 then .next { s with iss := .issued } else issue h v eff s

/-- A taken branch with its two delay groups (R55). -/
def Ctx.take (c : Ctx) (target : W64) : Ctx := { c with branch := some ⟨target, 2⟩ }

def execBr (h : Hd) (off : Nat) (s : State) : Out :=
  issueTransfer h (fun _ => .go) (fun s => s.modCtx fun c => c.take (relTarget s.woff 37 off)) s
def execCall (h : Hd) (d off : Nat) (s : State) : Out :=
  issueTransfer h (fun _ => .go)
    (fun s => s.modCtx fun c => (c.take (relTarget s.woff 37 off)).fly 1 (.sreg d (w64 s.link))) s
def execJmp (h : Hd) (d a : Nat) (s : State) : Out :=
  issueTransfer h (fun _ => .go) (fun s => s.modCtx fun c => (c.take (c.reg a)).fly 1 (.sreg d (w64 s.link))) s
def execRet (h : Hd) (a : Nat) (s : State) : Out :=
  issueTransfer h (fun _ => .go) (fun s => s.modCtx fun c => c.take (c.reg a)) s

-- loops ---------------------------------------------------------------------------------------------------------------

def Ctx.loop (c : Ctx) (l : Nat) : Loop := Tab.get Loop.zero c.loops l
def Ctx.modLoop (c : Ctx) (l : Nat) (f : Loop → Loop) : Ctx := { c with loops := Tab.upd Loop.zero c.loops l f }

/-- LOOP.NEST (R56): the level is active, or the body ends beyond the end of another active level whose body contains the group. -/
def Ctx.nestBad (c : Ctx) (l at_ le : Nat) : Bool :=
  decide ((c.loop l).lc ≠ 0) || (List.range 4).any fun m =>
    let x := c.loop m
    decide (m ≠ l ∧ x.lc ≠ 0 ∧ x.beg ≤ at_ ∧ at_ ≤ x.fin ∧ x.fin < le)

/-- Checks of LOOP and LOOPI (R56, spec/23 R336). -/
def loopVerdict (l off : Nat) (s : State) : Verdict :=
  .of [chk s.ctx.hs fcPrivilege 0, chk (s.ctx.nestBad l s.woff (s.groupEnd + off)) fcLoopNest (w64 l)] .go

/-- Start of a loop (R56): with count 0 the group after the body is next. -/
def State.startLoop (s : State) (l count off : Nat) : State :=
  let lb := s.groupEnd
  let le := lb + off
  let s' := s.modCtx fun c => c.modLoop l fun _ => ⟨count, lb, le, lb, le⟩
  if count = 0 then { s' with skip := some (le + 1) } else s'

def execLoop (h : Hd) (l c off : Nat) (s : State) : Out :=
  issueTransfer h (loopVerdict l off) (fun s => s.startLoop l (s.ctx.reg c).toNat off) s
def execLoopi (h : Hd) (l n off : Nat) (s : State) : Out :=
  issueTransfer h (loopVerdict l off) (fun s => s.startLoop l n off) s

/-- Write of a loop register (R58, R167): a level that becomes active latches lb and le. -/
def Ctx.setLoop (c : Ctx) (r : LoopReg) (l : Nat) (v : Nat) : Ctx :=
  c.modLoop l fun x =>
    match r with
    | .lc => if x.lc = 0 ∧ v ≠ 0 then { x with lc := v, beg := x.lb, fin := x.le } else { x with lc := v }
    | .lb => { x with lb := v }
    | .le => { x with le := v }

def execMtl (h : Hd) (r : LoopReg) (l a : Nat) (s : State) : Out :=
  issue h (fun s =>
      let v := s.ctx.reg a
      .of [chk s.ctx.hs fcPrivilege 0, chk (r != .lc && decide (32767 < v.toNat)) fcBound v] .go)
    (fun s => s.modCtx fun c => c.setLoop r l (c.reg a).toNat) s

/-- Architectural value of a loop register (R58). -/
def Ctx.getLoop (c : Ctx) (r : LoopReg) (l : Nat) : Nat :=
  match r with | .lc => (c.loop l).lc | .lb => (c.loop l).lb | .le => (c.loop l).le

def execMfl (h : Hd) (d : Nat) (r : LoopReg) (l : Nat) (s : State) : Out :=
  issueFly h 1 (fun c => .sreg d (w64 (c.getLoop r l))) s

/-- Active levels whose latched end lies in a group, in the order of their tests (R59). -/
def Ctx.endLevels (c : Ctx) (start stop : Nat) : List Nat :=
  let act := (List.range 4).filter fun l => decide ((c.loop l).lc ≠ 0 ∧ start ≤ (c.loop l).fin ∧ (c.loop l).fin < stop)
  act.foldl (fun acc l =>
    let before := fun m => decide ((c.loop m).beg > (c.loop l).beg)
    acc.filter before ++ [l] ++ acc.filter fun m => !before m) []

/-- End-of-body tests (R57): the first that branches decides the next group. -/
def Ctx.loopTests (c : Ctx) : List Nat → Ctx × Option Nat
  | [] => (c, none)
  | l :: ls =>
    let x := c.loop l
    if x.lc ≤ 1 then (c.modLoop l fun x => { x with lc := 0 }).loopTests ls
    else (c.modLoop l fun x => { x with lc := x.lc - 1, beg := x.lb, fin := x.le }, some x.lb)

end Sys2Proof.Machine
end

