-- ==== Sys2Proof/Machine/System.lean ====
section
/-! DEFINITION. System forms: system registers (spec/11 R168, R169), traps, breakpoints and return (R170, R171), phases and barriers
(R172, spec/01 R26, R27, spec/03 R54), fences (R173, R174, spec/09 R144), identity and time (R175, R176), LAUNCH, mailboxes and EXIT
(R177-R180). -/

namespace Sys2Proof.Machine
open Sys2Proof

-- persists (spec/09 R149, R150, spec/23 R344, R345) ---------------------------------------------------------------------

/-- Followers of a leader: the other berths of its quad that hold a berth-thread of its team in a follower mode that it leads. -/
def State.followers (s : State) (b : Nat) : List Nat :=
  ((List.range 4).map (b / 4 * 4 + ·)).filter fun m =>
    let y := s.berth m
    m != b && y.placed && y.ctx.team == (s.ctxAt b).team &&
      match y.ctx.mode with
      | .own => false
      | .pair => b % 2 == 0 && m == b + 1
      | .quad => b % 4 == 0

/-- What a persist of a berth saves at a boundary (R149, spec/17 R262). -/
def State.saved (s : State) (b : Nat) : Saved :=
  ⟨s.ctxAt b, (s.followers b).map fun m => ⟨m, (s.ctxAt m).acc, (s.ctxAt m).live, (s.ctxAt m).banks, (s.ctxAt m).active⟩,
    (s.berth b).shadow.entries⟩

/-- A persist of the state at the boundary now begins. -/
def State.beginPersist (s : State) (b : Nat) : State :=
  let v := s.saved b
  s.modBerth b fun x => { x with shadow := { x.shadow with queue := x.shadow.queue ++ [v] } }

/-- A persist of the state at the boundary after this group begins there. -/
def State.wantPersist (s : State) : State := s.modBerth s.cur fun x => { x with shadow := { x.shadow with want := true } }

/-- Whether a persist is not yet complete. -/
def Berth.persistBusy (x : Berth) : Bool := x.shadow.want || !x.shadow.queue.isEmpty

/-- Issue of an operation that is a persist point (R150). -/
def State.pushPersist (s : State) (path : Nat) (kind : OpKind) (route : Route) (tag rel : Nat) : State :=
  (s.pushOp path kind route tag rel).wantPersist

-- system registers ---------------------------------------------------------------------------------------------------------

/-- TSTATE (spec/23 R333). -/
def Ctx.tstate (c : Ctx) : W64 :=
  let a := c.aside.getD Snap.empty
  w64 (bit c.hs * 2 ^ 63 + bit a.branch.isSome * 2 ^ 62 + bit c.drop * 2 ^ 61 + bit a.mseq * 2 ^ 60 + a.nent * 2 ^ 48
    + c.site * 2 ^ 32 + c.ttag % 256)

/-- WBASEw: the berth on which the peer is now placed (spec/09 R122, R123). -/
def State.wbase (s : State) (w : Window) : W64 :=
  let b := match w.bound with
    | some (.bt t r) => (s.berthOf t r).getD w.berth
    | some (.remote n) => if n < 2 ^ 26 then n else w.berth
    | _ => w.berth
  w64 (bit w.valid * 2 ^ 63 + w.label * 2 ^ 32 + b % 128 * 2 ^ 24 + w.lbase)
/-- WALLOWw. -/
def Window.wallow (w : Window) : W64 := w64 (w.out * 256 + w.limit)

/-- A system register as it stands (R169). -/
def State.sysreg (s : State) (c : Ctx) (n : Nat) : W64 :=
  if n = 0 then c.tcause
  else if n = 1 then c.tpc
  else if n = 2 then c.tstate
  else if n = 3 then c.taddr
  else if n = 4 then c.tvec
  else if n = 5 then c.tscratch
  else if n = 8 then s.svcRead
  else if n = 0x40 then c.spexp
  else if 0x50 ≤ n ∧ n < 0x60 then s.wbase (Tab.get Window.none c.windows (n - 0x50))
  else if 0x60 ≤ n ∧ n < 0x70 then (Tab.get Window.none c.windows (n - 0x60)).wallow
  else if 0x70 ≤ n ∧ n < 0x74 then Tab.get 0 c.ptconf (n - 0x70)
  else 0

def execMfsys (h : Hd) (d n : Nat) (s : State) : Out :=
  issue h (fun _ => .go) (fun s => s.modCtx fun c => c.fly 2 (.sreg d (s.sysreg c n))) s

/-- Entries of a probe table. -/
def ptEntries (v : W64) : Nat := if bf v 20 4 = 0 then 0 else 2 ^ bf v 20 4
/-- Number of a table's first entry among those of the enabled tables (spec/23 R342). -/
def Ctx.ptFirst (c : Ctx) (t : Nat) : Nat := (List.range t).foldl (fun n i => n + ptEntries (Tab.get 0 c.ptconf i)) 0
/-- Key of entry e of table t. -/
def wayKey (t e : Nat) : Nat := t * 4096 + e
/-- Fills outstanding for a table. -/
def Ctx.ptFilling (c : Ctx) (t : Nat) : Bool :=
  c.ops.any fun o => o.open_ && match o.kind with | .fill t' _ _ _ _ => t' == t | _ => false

/-- BOUND of a PTCONF write (spec/09 R131); LOG2BLK 0, its value at reset, is in range in a table that is disabled (log entry
98). -/
def Ctx.ptBad (c : Ctx) (t : Nat) (v : W64) : Bool :=
  let ent := bf v 20 4
  let blk := bf v 24 4
  let base := bf v 0 20
  let others := ((List.range 4).filter (· != t)).foldl (fun n i => n + ptEntries (Tab.get 0 c.ptconf i)) 0
  (!(ent == 0 && blk == 0) && decide (ent = 1 ∨ 12 < ent ∨ blk < 9 ∨ 13 < blk)) || base % 2 ^ blk != 0
    || (ent != 0 && decide (0x100000 < base + 2 ^ (ent + blk) ∨ 4096 < others + 2 ^ ent))

/-- BOUND of a SPEXP write (spec/09 R121). -/
def spexpBad (v : W64) : Bool :=
  let l := bf v 24 5
  decide ((1 ≤ l ∧ l ≤ 8) ∨ 20 < l) || (l != 0 && bf v 0 20 % 2 ^ l != 0)

/-- Whether MTSYS may write a register (R169). -/
def sysWritable (hs : Bool) (n : Nat) : Bool :=
  (decide (n ≤ 3) && hs) || n == 4 || n == 5 || n == 0x40 || decide (0x70 ≤ n ∧ n < 0x74)

def execMtsys (h : Hd) (a n : Nat) (s : State) : Out :=
  issue h (fun s =>
      let c := s.ctx
      let v := c.reg a
      .of [chk (!sysWritable c.hs n) fcPrivilege (w64 n),
        chk (n == 0x40 && spexpBad v) fcBound v,
        chk (n == 0x40 && !s.exportFree c.self) fcConfBusy v,
        chk (decide (0x70 ≤ n ∧ n < 0x74) && c.ptBad (n - 0x70) v) fcBound v,
        chk (decide (0x70 ≤ n ∧ n < 0x74) && c.ptFilling (n - 0x70)) fcConfBusy v] .go)
    (fun s => s.modCtx fun c => c.fly 2 (.sysreg n (c.reg a))) s

/-- Landing of a system register write: read-only fields keep their values (spec/23 R333). -/
def State.landSysreg (s : State) (b n : Nat) (v : W64) : State :=
  if n = 0x40 then
    let c := s.ctxAt b
    let v := w64 (bf v 24 5 * 2 ^ 24 + bf v 0 20)
    (s.newExport c.self (s.jobAt b) v).modCtxAt b fun c => { c with spexp := v }
  else s.modCtxAt b fun c =>
    if n = 0 then { c with tcause := w64 (bf v 0 8) }
    else if n = 1 then { c with tpc := w64 (bf v 0 15) }
    else if n = 2 then { c with drop := bt v 61 }
    else if n = 3 then { c with taddr := v }
    else if n = 4 then { c with tvec := w64 (bit (bt v 63) * 2 ^ 63 + bf v 0 15) }
    else if n = 5 then { c with tscratch := v }
    else if 0x70 ≤ n ∧ n < 0x74 then
      { c with
        ptconf := Tab.set 0 c.ptconf (n - 0x70) (w64 (bf v 0 28))
        ways := c.ways.filter fun w => w.1 / 4096 != n - 0x70 }
    else c

-- traps ----------------------------------------------------------------------------------------------------------------------

def execTrap (h : Hd) (imm : Nat) (s : State) : Out :=
  issue h (fun _ => .go) (fun s => s.modCtx fun c => { c with pending := some ⟨fcTrap, sx31 imm, 0, 0⟩ }) s
def execBkpt (h : Hd) (imm : Nat) (s : State) : Out :=
  issue h (fun _ => .go) (fun s => s.modCtx fun c => { c with pending := some ⟨fcBkpt, w64 imm, 0, 0⟩ }) s

/-- RETT (R171): outside handler state SYS.PRIVILEGE; otherwise the pilot waits for the handler's results. -/
def execRett (h : Hd) (s : State) : Out :=
  issueTransfer h (fun s => .of [chk (!s.ctx.hs) fcPrivilege 0] .go)
    (fun s => s.modCtx fun c => { c with pilot := .rett }) s

-- what an operation of a berth has to do still ---------------------------------------------------------------------------------

/-- Whether an operation still outstanding is performed or has failed, as far as the berth's fences see it (spec/09 R143): a window
store when acknowledged, a token form when its outcome is in, a copy to a stream when its last element has arrived (spec/15 R211). -/
def Op.settled (o : Op) : Bool :=
  let performed := match o.stage with
    | .replied _ | .failed _ => true
    | _ => false
  match o.kind with
  | .wstore _ _ _ | .token _ => false
  | .copy _ => match o.route with
    | .stream _ => false
    | _ => performed
  | _ => performed

/-- The path of an operation (spec/09 R141). -/
def OpKind.path : OpKind → Nat
  | .copy c => if c.form = .cpw then pathF else pathL
  | .wstore _ _ _ | .rload _ _ _ => pathF
  | .launch _ _ | .mboxack => 0
  -- the accesses of the pushed commands are on path W (spec/21 R323)
  | .whpush _ _ _ => pathL + 16
  | _ => pathL

/-- Whether an operation writes memory, as PHASE and a flush count it. -/
def Op.writes (o : Op) : Bool :=
  match o.kind with
  | .copy _ => match o.route with
    | .stream _ => false
    | _ => true
  | .atom _ | .atomnr _ | .sempost _ _ | .wstore _ _ _ | .whpush _ _ _ => true
  | .token r => r.form != .query
  | .semwait r => r.sub
  | _ => false

/-- The path of an ATOM or ATOMNR: F when its home is another device (R141). SEMWAIT and SEMPOST are on L wherever the word's home is, as
R141's table lists them (log entry 114). -/
def State.opPath (s : State) (job : Nat) (o : Op) : Nat :=
  let at_ := fun va => match s.translate job va none with
    | .ok (.peer _) => pathF
    | _ => pathL
  match o.kind with
  | .atom r | .atomnr r => at_ r.va
  | k => k.path

/-- Whether a wharf command that the berth-thread pushed is not complete (path W). -/
def State.wharfOpen (s : State) (p : Party) : Bool := s.units.any fun u => u.2.ring.any fun e => e.by_ == p

/-- Whether every operation of the paths of a mask that lie outside the berth is performed (R144 step 1). -/
def State.fenceDone (s : State) (mask : Nat) : Bool :=
  let c := s.ctx
  c.ops.all (fun o => o.settled || (s.opPath s.job o &&& mask) == 0)
    && ((mask &&& 16) == 0 || !s.wharfOpen c.self)

-- barriers (spec/01 R26, R27, spec/03 R54) ----------------------------------------------------------------------------------------

/-- Ranks of an instance of a level. -/
def Man.members (m : Man) (l inst : Nat) : List Nat := (List.range (m.size l)).map (inst * m.size l + ·)

def Barrier.is (x : Barrier) (l inst e : Nat) : Bool := x.level == l && x.inst == inst && x.epoch == e
/-- The barrier of a level instance at an epoch. -/
def Man.barrier (m : Man) (l inst e : Nat) : Barrier :=
  (m.barriers.find? fun x => x.is l inst e).getD ⟨l, inst, e, [], false, false, [], false⟩
def Man.setBarrier (m : Man) (x : Barrier) : Man :=
  { m with barriers := (m.barriers.filter fun y => !y.is x.level x.inst x.epoch) ++ [x] }

/-- An arrival counts each rank once (R54). A failed member makes the barrier LOST for everyone else (R27). -/
def Man.arrive (m : Man) (l r e : Nat) : Man :=
  let inst := m.inst l r
  let x := m.barrier l inst e
  let x := { x with ranks := insertNat r x.ranks }
  m.setBarrier (if m.lostLv.contains l || (m.members l inst).any fun q => m.failed.contains q then { x with lost := true } else x)

/-- Whether every member of this device has arrived or exited (R27). -/
def Man.localDone (m : Man) (x : Barrier) : Bool :=
  (m.members x.level x.inst).all fun r => !m.local_ r || x.ranks.contains r || m.exited.contains r

/-- Whether a level spans devices. -/
def Man.wide (m : Man) (l : Nat) : Bool := decide (8 < m.domain l)

-- PHASE, FENCE, PFENCE --------------------------------------------------------------------------------------------------------------

/-- Whether every write of the berth outside it has settled (R172). -/
def State.writesSettled (s : State) : Bool := s.ctx.ops.all fun o => o.settled || !o.writes

/-- Whether a store of path P, V or M is in flight (R172, spec/09 R139). -/
def Ctx.storing (c : Ctx) : Bool := c.flights.any fun f => match f.eff with | .store _ _ | .drain _ _ => true | _ => false

/-- Whether a token form's outcome, which may be a refusal to raise first, is not in (spec/15 R236). -/
def Op.unruled (o : Op) : Bool :=
  match o.kind with
  | .token r => r.form != .query
  | _ => false

/-- The arrival of PHASE and its outcome (R172). Stores in flight land in the unfrozen ck that it waits for them (log entry 99). -/
def State.phaseVerdict (s : State) (l : Nat) : Verdict :=
  let c := s.ctx
  if (s.berth s.cur).persistBusy ∨ c.ops.any Op.unruled then .freeze s
  else if l = 0 then .go
  else if c.storing then .wait
  else if !s.writesSettled then .freeze s
  else
    let e := Tab.get 0 c.epochs l
    match s.teamOf c with
    | none => .go
    | some m =>
      let x := m.barrier l (m.inst l c.rank) e
      if x.done then .go
      else if x.lost then .trap ⟨fcBarrierLost, 0, 0, 0⟩
      else .freeze (s.modMan c.team fun m => m.arrive l c.rank e)

/-- A completed PHASE: counted (spec/09 R134), its epoch advanced, and its persist begun (R149). Within the window of GRACE it is
the boundary at which the berth-thread is pre-empted (spec/01 R20). -/
def State.phaseDone (s : State) (l : Nat) : State :=
  let s := (s.modCtx fun c => { c with
    phases := c.phases + 1
    epochs := if l = 0 then c.epochs else Tab.upd 0 c.epochs l (· + 1) }).wantPersist
  if ((s.teamOf s.ctx).bind Man.grace).isSome then s.modBerth s.cur fun x => { x with preempt := true } else s

def execPhase (h : Hd) (l : Nat) (s : State) : Out :=
  issue h (fun s => .of [chk (decide (s.nlev ≤ l)) fcBound (w64 l)]
      (if (l ≠ 0 ∨ s.ctx.ops.any Op.unruled) ∧ s.ctx.holding then .wait else s.phaseVerdict l))
    (fun s => s.phaseDone l) s

def execFence (h : Hd) (ma mb : Nat) (s : State) : Out :=
  issue h (fun s => if ma = 0 ∨ mb = 0 then .go else freezeIf s (!s.fenceDone ma) .go)
    (fun s => s.modCtx fun c =>
      let t := c.drainTime ma
      if ma = 0 ∨ mb = 0 ∨ t = 0 then c else { c with fences := c.fences ++ [(t, mb)] }) s

/-- PFENCE (R174): the persist of the state at its boundary begins once, and the berth freezes until it is complete. At die scope
the token table, the launch queues and the mailbox bits, which this model keeps outside the tiles, need no further wait. -/
def execPfence (h : Hd) (_die : Bool) (s : State) : Out :=
  issue h (fun s =>
      if s.ctx.holding then .wait
      else if s.ctx.persisted then .go
      else if s.ctx.persisting || (s.berth s.cur).persistBusy then .freeze s
      else .freeze ((s.beginPersist s.cur).modCtx fun c => { c with persisting := true }))
    (fun s => s.modCtx fun c => { c with persisting := false, persisted := false }) s

-- identity and time ---------------------------------------------------------------------------------------------------------------------

/-- The value that ID returns (R175). -/
def State.idValue (s : State) (key : Nat) : W64 :=
  let c := s.ctx
  match s.teamOf c with
  | none => 0
  | some m =>
    if key < 8 then w64 (m.index key c.rank)
    else if key < 16 then w64 (m.size (key - 8))
    else if key = 0x10 then w64 c.rank
    else if key = 0x11 then w64 s.label
    else if key = 0x12 then w64 m.job
    else if key = 0x13 then w64 m.nlev
    else if key = 0x14 then w64 s.cur
    else match m.mbox with
      | some (_, slot) => w64 slot
      | none => BitVec.allOnes 64

def execId (h : Hd) (d key : Nat) (s : State) : Out :=
  issue h (fun s => .of [chk (decide (key < 16 ∧ s.nlev ≤ key % 8)) fcBound (w64 (key % 8))] .go)
    (fun s => s.modCtx fun c => c.fly 1 (.sreg d (s.idValue key))) s

def execTime (h : Hd) (d : Nat) (fabric : Bool) (s : State) : Out :=
  issue h (fun _ => .go)
    (fun s => s.modCtx fun c => c.fly 1 (.sreg d (w64 (if fabric then s.fabtime else s.time)))) s

-- LAUNCH, mailboxes, EXIT ------------------------------------------------------------------------------------------------------------------

/-- LAUNCH (R177): the manifest is read at issue and enqueued after every earlier operation is performed. -/
def execLaunch (h : Hd) (a q : Nat) (s : State) : Out :=
  issue h (fun s =>
      let addr := s.ctx.reg a
      let ctl := (s.lq q).ctl
      .of [chk (decide (0xFFFFF < addr.toNat)) fcBound addr,
        chk (addr.toNat % 256 != 0) fcAlign addr,
        chk (!bt ctl 63 || bf ctl 32 6 != s.job) fcPrivilege (w64 q),
        (s.ownFault addr.toNat 256 .read).map fun e => (e.1, w64 e.2)] .go)
    (fun s =>
      let c := s.ctx
      s.pushPersist 0 (.launch q (c.spadRead (c.reg a).toNat 256)) .count 0 (c.drainTime 7)) s

/-- Whether a range overlaps a mailbox of the job in the same space (R178). -/
def State.mboxOverlap (s : State) (job : Nat) (ex : Option Party) (a n : Nat) : Bool :=
  s.mboxes.any fun m => m.job == job && m.local_ == ex && decide (m.base < a + n ∧ a < m.base + m.n * 2 ^ m.log2s)

/-- Faults of the pages of a global mailbox (R178). -/
def State.mboxPages (s : State) (job a n : Nat) : Option (Nat × W64) :=
  (pieces a n).findSome? fun p =>
    match s.translate job p.1 none with
    | .error e => some (fcPageMiss + e, w64 p.1)
    | .ok (.hbm _ _) => none
    | .ok _ => some (fcPageTier, w64 p.1)

def execMboxreg (h : Hd) (d a nm1 sm6 : Nat) (loc : Bool) (s : State) : Out :=
  issue h (fun s =>
      let c := s.ctx
      let base := c.reg a
      let n := (nm1 + 1) * 2 ^ (sm6 + 6)
      let ex := if loc then some c.self else none
      .of [chk (base.toNat % 2 ^ (sm6 + 6) != 0) fcAlign base,
        if loc then none else s.mboxPages s.job base.toNat n,
        chk (loc && decide (base.toNat < c.export_.1 ∨ c.export_.1 + c.export_.2 < base.toNat + n)) fcBound base,
        chk (c.mboxReq != some (base.toNat, nm1 + 1, sm6 + 6, loc) && s.mboxOverlap s.job ex base.toNat n) fcBound base]
        (if c.holding then .wait
        else if c.mboxReq = some (base.toNat, nm1 + 1, sm6 + 6, loc) then (if c.mboxAns.isSome then .go else .freeze s)
        else if (s.berth s.cur).persistBusy then .freeze s
        else .freeze ((s.modCtx fun c =>
          { c with mboxReq := some (base.toNat, nm1 + 1, sm6 + 6, loc), mboxAns := none }).beginPersist s.cur)))
    (fun s => s.modCtx fun c =>
      { c with mboxReq := none, mboxAns := none }.fly 1 (.sreg d (c.mboxAns.getD 0))) s

/-- MBOXACK (R179). -/
def execMboxack (h : Hd) (s : State) : Out :=
  issue h (fun s => .of [chk (((s.teamOf s.ctx).bind Man.mbox).isNone) fcPrivilege 0] .go)
    (fun s => s.pushPersist 0 .mboxack .count 0 0) s

/-- Whether an MMUL or WLOAD or another M-class operation of a leader is in flight on a follower's engine (spec/17 R264). -/
def State.leaderBusy (s : State) (b : Nat) : Bool :=
  s.berths.any fun y => y.1 != b && (s.followers y.1).contains b &&
      (y.2.ctx.flights ++ (y.2.ctx.aside.map Snap.flights).getD []).any fun f => match f.eff with
    | .mmul r => r.members.any fun m => m.1 == b
    | .wload r => r.members.any fun m => m.1 == b
    | .accZero _ l | .accFree _ l | .drain _ l => l.contains b
    | _ => false

/-- Operations that EXIT does not wait for: a SEMWAIT never taken, and remote loads, whose results are discarded (R30, R180). -/
def OpKind.isPoll : OpKind → Bool
  | .semwait _ | .rload _ _ _ => true
  | _ => false

/-- Whether EXIT may retire the berth-thread (R30, R180, spec/17 R264). -/
def State.exitReady (s : State) : Bool :=
  let c := s.ctx
  c.ops.all (fun o => o.kind.isPoll || c.parked o) && c.windows.all (fun w => w.2.out == 0)
    && !(s.berth s.cur).persistBusy && !(c.mode != .own && s.leaderBusy s.cur)

/-- The earlier issued of two failures. -/
def earlier (b : Option Fail) (f : Fail) : Option Fail :=
  match b with
  | none => some f
  | some g => if f.op < g.op then some f else some g

/-- Failures not yet raised (spec/15 R218). -/
def Ctx.fails (c : Ctx) : List Fail :=
  c.cfails ++ c.nfails ++ (c.streams.flatMap fun x => x.2.items.filterMap fun i => i.fail)
    ++ (c.rings.flatMap fun r => r.2.slots.filterMap fun x => x.2.fail) ++ (c.ways.filterMap fun w => w.2.fail)
    ++ (c.ops.filterMap fun o => match o.kind, o.stage with
        | .semwait _, .failed f => some f
        | _, _ => none)

/-- The earliest of them. -/
def Ctx.unraised (c : Ctx) : Option Fail := c.fails.foldl earlier none

/-- Raising a failure removes it. -/
def Ctx.removeFail (c : Ctx) (f : Fail) : Ctx :=
  let clear := fun q : Nat × Slot => (q.1, if q.2.fail = some f then { q.2 with fail := none } else q.2)
  { c with
    cfails := c.cfails.filter (· != f)
    nfails := c.nfails.filter (· != f)
    streams := c.streams.map fun p => (p.1, { p.2 with items := p.2.items.filter fun i => i.fail != some f })
    rings := c.rings.map fun p => (p.1, { p.2 with slots := p.2.slots.map clear })
    ways := c.ways.map fun w => (w.1, if w.2.fail = some f then { w.2 with fail := none } else w.2)
    ops := c.ops.filter fun o => o.stage != .failed f }

def execExit (h : Hd) (s : State) : Out :=
  issue h (fun s =>
      if s.ctx.holding then .wait
      else if !s.exitReady then .freeze s
      else match s.ctx.unraised with
        | some f => f.raise 8 (s.modCtx fun c => c.removeFail f)
        | none => .go)
    (fun s => s.modCtx fun c => { c with pilot := .exit }) s

end Sys2Proof.Machine
end

