-- ==== Sys2Proof/Machine/Vector.lean ====
section
/-! DEFINITION. Vector and local-memory forms (spec/13). -/

namespace Sys2Proof.Machine
open Sys2Proof

-- elements --------------------------------------------------------------------------------------------------------------

/-- Elements of a name at a width, as read at issue (R182, R184). -/
def Ctx.elems (c : Ctx) (m : MName) (w : Width) : List Nat := elemsOf w (c.lanes m)
/-- Elements of a name at a number of bits. -/
def Ctx.elemsAt (c : Ctx) (m : MName) (bits : Nat) : List Nat :=
  (c.lanes m).flatMap fun l => laneElems bits (32 / bits) l.toNat
/-- The elements that a write mask selects (R183). -/
def Ctx.writeMask (c : Ctx) (k : Nat) (w : Width) : List Bool := maskElems (c.kmask k) w (widthCount w)
/-- Every element. -/
def allMask (w : Width) : List Bool := List.replicate (widthCount w) true

/-- A vector result. -/
def Ctx.vecEff (c : Ctx) (d : MName) (w : Width) (ms : List Bool) (es : List Nat) : Eff :=
  .cells (c.cellsOf d (lanesMask w ms) (lanesOf w es))

/-- Whether one of the names lies in the rotating plane. -/
def names3 (l : List MName) : Bool := l.any fun m => m.plane == 3

/-- Issue of a vector word: its result from the context at issue; `ns` are the names it uses. -/
def vector (h : Hd) (l : Nat) (ns : List MName) (e : Ctx → Eff) (s : State) : Out :=
  issue h (fun _ => .go) (fun s => s.modCtx fun c => c.fly l (e c) (names3 ns)) s

/-- The floating-point layout of a width (R182). -/
def vecFF (w : Width) (f16 : Bool) : FF :=
  match w with
  | .w32 => .fp32
  | _ => if f16 then .fp16 else .bf16

/-- Elementwise form of two operands and d, under a write mask. -/
def elementwise (h : Hd) (l : Nat) (d a b : MName) (w : Width) (k : Nat) (f : Nat → Nat → Nat → Nat) (s : State) : Out :=
  vector h l [d, a, b] (fun c => c.vecEff d w (c.writeMask k w)
    (((c.elems a w).zip ((c.elems b w).zip (c.elems d w))).map fun (x, y, z) => f x y z)) s

/-- Elementwise form of one operand. -/
def elementwise1 (h : Hd) (l : Nat) (d a : MName) (w : Width) (k : Nat) (f : Nat → Nat) (s : State) : Out :=
  vector h l [d, a] (fun c => c.vecEff d w (c.writeMask k w) ((c.elems a w).map f)) s

-- R185 --------------------------------------------------------------------------------------------------------------------

/-- A value with its sign inverted, NaNs apart: a NaN operand is returned as it is (spec/07 R103). -/
def FV.minus (x : FV) : FV := if x.isNan then x else x.neg

/-- A rounding floating-point operation on codes. -/
def fop (w : Width) (f16 : Bool) (rm : RM) (f : FV → FV → FV → FV) (x y z : Nat) : Nat :=
  let t := vecFF w f16
  t.encode rm false 0 0 (f (t.decode x) (t.decode y) (t.decode z))

/-- Minimum and maximum never round: the code of one operand, or the NaN. -/
def fsel (w : Width) (f16 : Bool) (f : FV → FV → FV) (x y : Nat) : Nat :=
  let t := vecFF w f16
  t.rne (f (t.decode x) (t.decode y))

def execVadd (h : Hd) (d a b : MName) (f16 : Bool) (rm : RM) (w : Width) (k : Nat) (s : State) : Out :=
  elementwise h 3 d a b w k (fop w f16 rm fun x y _ => FV.add rm x y) s
def execVsub (h : Hd) (d a b : MName) (f16 : Bool) (rm : RM) (w : Width) (k : Nat) (s : State) : Out :=
  elementwise h 3 d a b w k (fop w f16 rm fun x y _ => FV.add rm x y.minus) s
def execVmul (h : Hd) (d a b : MName) (f16 : Bool) (rm : RM) (w : Width) (k : Nat) (s : State) : Out :=
  elementwise h 5 d a b w k (fop w f16 rm fun x y _ => FV.mul x y) s
def execVfma (h : Hd) (d a b : MName) (f16 : Bool) (rm : RM) (w : Width) (k : Nat) (s : State) : Out :=
  elementwise h 5 d a b w k (fop w f16 rm fun x y z => FV.fma rm x y z) s
def execVfms (h : Hd) (d a b : MName) (f16 : Bool) (rm : RM) (w : Width) (k : Nat) (s : State) : Out :=
  elementwise h 5 d a b w k (fop w f16 rm fun x y z => FV.fma rm x y z.minus) s
def execVmin (h : Hd) (d a b : MName) (f16 : Bool) (w : Width) (k : Nat) (s : State) : Out :=
  elementwise h 3 d a b w k (fun x y _ => fsel w f16 FV.min x y) s
def execVmax (h : Hd) (d a b : MName) (f16 : Bool) (w : Width) (k : Nat) (s : State) : Out :=
  elementwise h 3 d a b w k (fun x y _ => fsel w f16 FV.max x y) s

-- R186, R187 ----------------------------------------------------------------------------------------------------------------

def execVabs (h : Hd) (d a : MName) (_f16 : Bool) (w : Width) (k : Nat) (s : State) : Out :=
  elementwise1 h 3 d a w k (fun x => x % 2 ^ (w.bits - 1)) s
def execVneg (h : Hd) (d a : MName) (_f16 : Bool) (w : Width) (k : Nat) (s : State) : Out :=
  elementwise1 h 3 d a w k (fun x => x ^^^ 2 ^ (w.bits - 1)) s

/-- A special function on a code, correctly rounded to nearest. -/
def fun1 (w : Width) (f16 : Bool) (f : FV → FV) (x : Nat) : Nat := (vecFF w f16).rne (f ((vecFF w f16).decode x))

def execVexp2 (h : Hd) (d a : MName) (f16 : Bool) (w : Width) (k : Nat) (s : State) : Out :=
  elementwise1 h 9 d a w k (fun1 w f16 FV.exp2) s
def execVlog2 (h : Hd) (d a : MName) (f16 : Bool) (w : Width) (k : Nat) (s : State) : Out :=
  elementwise1 h 9 d a w k (fun1 w f16 FV.log2) s
def execVrsq (h : Hd) (d a : MName) (f16 : Bool) (w : Width) (k : Nat) (s : State) : Out :=
  elementwise1 h 9 d a w k (fun1 w f16 FV.rsq) s
def execVrcp (h : Hd) (d a : MName) (f16 : Bool) (w : Width) (k : Nat) (s : State) : Out :=
  elementwise1 h 9 d a w k (fun1 w f16 FV.rcp) s

-- R188 --------------------------------------------------------------------------------------------------------------------------

/-- An element as an integer (R188). -/
def extElem (w : Width) (u : Bool) (x : Nat) : Int := if u then (x % 2 ^ w.bits : Nat) else toSigned w.bits x

/-- The result of an exact integer: high half, saturated, or wrapped. -/
def intResult (w : Width) (hi u sat : Bool) (v : Int) : Nat :=
  let n := w.bits
  if hi then ofSigned n (v / ((2 ^ n : Nat) : Int))
  else if sat then
    ofSigned n (if u then clampI 0 (2 ^ n - 1) v else clampI (-(2 ^ (n - 1))) (2 ^ (n - 1) - 1) v)
  else ofSigned n v

def execViadd (h : Hd) (d a b : MName) (u sat : Bool) (w : Width) (k : Nat) (s : State) : Out :=
  elementwise h 3 d a b w k (fun x y _ => intResult w false u sat (extElem w u x + extElem w u y)) s
def execVisub (h : Hd) (d a b : MName) (u sat : Bool) (w : Width) (k : Nat) (s : State) : Out :=
  elementwise h 3 d a b w k (fun x y _ => intResult w false u sat (extElem w u x - extElem w u y)) s
def execVimul (h : Hd) (d a b : MName) (hi u sat : Bool) (w : Width) (k : Nat) (s : State) : Out :=
  elementwise h 5 d a b w k (fun x y _ => intResult w hi u sat (extElem w u x * extElem w u y)) s

-- R189, R190 -----------------------------------------------------------------------------------------------------------------------

def execVand (h : Hd) (d a b : MName) (w : Width) (k : Nat) (s : State) : Out :=
  elementwise h 3 d a b w k (fun x y _ => x &&& y) s
def execVor (h : Hd) (d a b : MName) (w : Width) (k : Nat) (s : State) : Out :=
  elementwise h 3 d a b w k (fun x y _ => x ||| y) s
def execVxor (h : Hd) (d a b : MName) (w : Width) (k : Nat) (s : State) : Out :=
  elementwise h 3 d a b w k (fun x y _ => x ^^^ y) s

def execVshl (h : Hd) (d a b : MName) (w : Width) (k : Nat) (s : State) : Out :=
  elementwise h 3 d a b w k (fun x y _ => x * 2 ^ (y % w.bits) % 2 ^ w.bits) s
def execVshr (h : Hd) (d a b : MName) (w : Width) (k : Nat) (s : State) : Out :=
  elementwise h 3 d a b w k (fun x y _ => x / 2 ^ (y % w.bits)) s
def execVsar (h : Hd) (d a b : MName) (w : Width) (k : Nat) (s : State) : Out :=
  elementwise h 3 d a b w k (fun x y _ => ofSigned w.bits (toSigned w.bits x / ((2 ^ (y % w.bits) : Nat) : Int))) s

-- R191, R192 -----------------------------------------------------------------------------------------------------------------------

/-- Whether a condition holds of two elements (R191). -/
def cmpElems (t : CmpType) (cd : VCond) (w : Width) (x y : Nat) : Bool :=
  match t with
  | .sgn => condHolds cd (decide (toSigned w.bits x < toSigned w.bits y)) (x == y) false
  | .uns => condHolds cd (decide (x < y)) (x == y) false
  | .flt | .fp16 =>
    let f := vecFF w (t == .fp16)
    let a := f.decode x
    let b := f.decode y
    condHolds cd (a.lt b) (a.eq b) (a.isNan || b.isNan)

/-- A lane mask from its low bits. -/
def maskOf (bs : List Bool) : BitVec 512 := BitVec.ofNat 512 (packElems 1 (bs.map bit))

def execVcmp (h : Hd) (kd : Nat) (a b : MName) (t : CmpType) (cd : VCond) (w : Width) (k : Nat) (s : State) : Out :=
  vector h 3 [a, b] (fun c => .kmask kd (maskOf
    (((c.writeMask k w).zip ((c.elems a w).zip (c.elems b w))).map fun (m, x, y) => m && cmpElems t cd w x y))) s

def execVsel (h : Hd) (d a b : MName) (w : Width) (k : Nat) (s : State) : Out :=
  vector h 3 [d, a, b] (fun c => c.vecEff d w (allMask w)
    (((c.writeMask k w).zip ((c.elems a w).zip (c.elems b w))).map fun (m, x, y) => if m then x else y)) s

-- R193, R194 -----------------------------------------------------------------------------------------------------------------------

/-- Width of a number of bits. -/
def widthOf (bits : Nat) : Width := if bits = 32 then .w32 else if bits = 16 then .w16 else if bits = 8 then .w8 else .w4

/-- The destination's elements and which of them are written (R194). -/
def convElems (c : Ctx) (d a : MName) (src dst : Fmt) (rm : RM) (sat : Bool) (nm1 p k : Nat) : List Bool × List Nat :=
  let ws := src.bits
  let wd := dst.bits
  let nc := 4096 / Nat.max ws wd
  let es := c.elemsAt a ws
  let ds := c.elemsAt d wd
  let mask := c.kmask k
  let js := if ws < wd then es.drop (nc * p) else es
  let lo := if wd < ws then nc * p else 0
  let conv := (js.take nc).zip ((ds.drop lo).take nc)
  let out := conv.map fun (x, r) => convTo dst rm sat (nm1 + 1) r (elemFV src x)
  let ms := (List.range (4096 / wd)).map fun j => decide (lo ≤ j ∧ j < lo + nc) && maskBit mask (widthOf wd) j
  (ms, List.replicate lo 0 ++ out ++ List.replicate (4096 / wd - lo - nc) 0)

def execVcvt (h : Hd) (d a : MName) (src dst : Fmt) (rm : RM) (sat : Bool) (nm1 p : Nat) (k : Nat) (s : State) : Out :=
  vector h 3 [d, a] (fun c =>
    let r := convElems c d a src dst rm sat nm1 p k
    c.vecEff d (widthOf dst.bits) r.1 r.2) s

-- R195, R196 -----------------------------------------------------------------------------------------------------------------------

/-- The key of an element (R195). -/
def keyOf (desc : Bool) (t : KeyType) (f16 : Bool) (w : Width) (x : Nat) : Nat :=
  let top := 2 ^ (w.bits - 1)
  let inv := fun v => if desc then 2 ^ w.bits - 1 - v else v
  match t with
  | .flt =>
    if ((vecFF w f16).decode x).isNan then 0
    else inv (if top ≤ x then 2 ^ w.bits - 1 - x else x + top)
  | .sgn => inv (x ^^^ top)
  | .uns => inv x

def execVkey (h : Hd) (d a : MName) (desc : Bool) (t : KeyType) (f16 : Bool) (w : Width) (k : Nat) (s : State) : Out :=
  elementwise1 h 3 d a w k (keyOf desc t f16 w) s

/-- Bucket counts (R196). -/
def histOf (lo dbm1 : Nat) (half : Bool) (l : List (Bool × Nat)) : List Nat :=
  let gs := l.filterMap fun (m, x) =>
    let g := x / 2 ^ lo % 2 ^ (dbm1 + 1)
    if m ∧ (g / 128 = bit half) then some (g % 128) else none
  (List.range 128).map fun i => gs.count i

def execVhist (h : Hd) (d a : MName) (lo dbm1 : Nat) (half acc : Bool) (w : Width) (k : Nat) (s : State) : Out :=
  vector h 8 [d, a] (fun c => c.vecEff d .w32 (allMask .w32)
    (((histOf lo dbm1 half ((c.writeMask k w).zip (c.elems a w))).zip (c.elems d .w32)).map fun (n, z) =>
      if acc then (z + n) % 2 ^ 32 else n)) s

-- R197, R198 -----------------------------------------------------------------------------------------------------------------------

/-- Sum of two FP32 codes. -/
def faddCode (rm : RM) (x y : Nat) : Nat := FF.fp32.encode rm false 0 0 (FV.add rm (FF.fp32.decode x) (FF.fp32.decode y))

/-- Doubling steps of the inclusive scan (spec/07 R116). -/
def scanGo (f : Nat → Nat → Nat) : Nat → Nat → List Nat → List Nat
  | 0, _, l => l
  | n + 1, dist, l =>
    if l.length ≤ dist then l else scanGo f n (2 * dist) (l.take dist ++ (l.zip (l.drop dist)).map fun (x, y) => f x y)

def execVscan (h : Hd) (d a : MName) (rev int : Bool) (rm : RM) (w : Width) (k : Nat) (s : State) : Out :=
  vector h 6 [d, a] (fun c =>
    let ident := if int then 0 else 0x80000000
    let xs := ((c.writeMask k w).zip (c.elems a w)).map fun (m, x) => if m then x else ident
    let f := if int then fun x y => (x + y) % 2 ^ w.bits else faddCode rm
    let out := if rev then (scanGo f 10 1 xs.reverse).reverse else scanGo f 10 1 xs
    c.vecEff d w (allMask w) out) s

/-- The pairwise tree (spec/07 R115). -/
def treeGo (f : Nat → Nat → Nat) : Nat → List Nat → Nat
  | 0, l => l.headD 0
  | n + 1, l =>
    if l.length ≤ 1 then l.headD 0
    else
      let st := l.length / 2
      treeGo f n (((l.take st).zip (l.drop st)).map fun (x, y) => f x y)

/-- Identity of a reduction (R198). -/
def redIdent : RedKind → Nat
  | .fsum => 0x80000000
  | .fmax => 0xFF800000
  | .fmin => 0x7F800000
  | .isum => 0
  | .smax => 0x80000000
  | .smin => 0x7FFFFFFF
  | .umax => 0
  | .umin => 0xFFFFFFFF

/-- An element widened to 32 bits (R198). -/
def redWiden (kind : RedKind) (u f16 : Bool) (w : Width) (x : Nat) : Nat :=
  match kind with
  | .fsum | .fmax | .fmin => FF.fp32.rne ((vecFF w f16).decode x)
  | .isum => ofSigned 32 (extElem w u x)
  | .smax | .smin => ofSigned 32 (extElem w false x)
  | .umax | .umin => x

/-- One combination of a reduction. -/
def redOp (kind : RedKind) (rm : RM) (x y : Nat) : Nat :=
  match kind with
  | .fsum => faddCode rm x y
  | .fmax => fsel .w32 false FV.max x y
  | .fmin => fsel .w32 false FV.min x y
  | .isum => (x + y) % 2 ^ 32
  | .smax => if toSigned 32 x < toSigned 32 y then y else x
  | .smin => if toSigned 32 y < toSigned 32 x then y else x
  | .umax => Nat.max x y
  | .umin => Nat.min x y

def execVred (h : Hd) (d a : MName) (kind : RedKind) (u f16 : Bool) (rm : RM) (w : Width) (k : Nat) (s : State) : Out :=
  vector h 7 [d, a] (fun c =>
    let xs := ((c.writeMask k w).zip (c.elems a w)).map fun (m, x) => if m then redWiden kind u f16 w x else redIdent kind
    c.vecEff d .w32 (allMask .w32) (List.replicate 128 (treeGo (redOp kind rm) 10 xs))) s

-- R199, R200 -----------------------------------------------------------------------------------------------------------------------

def execVcomp (h : Hd) (d a : MName) (w : Width) (k : Nat) (s : State) : Out :=
  vector h 4 [d, a] (fun c =>
    let xs := ((c.writeMask k w).zip (c.elems a w)).filterMap fun (m, x) => if m then some x else none
    c.vecEff d w (allMask w) (xs ++ List.replicate (widthCount w - xs.length) 0)) s

/-- Expand (R199): the next element where the mask selects, zero elsewhere. -/
def expandGo : List Bool → List Nat → List Nat
  | [], _ => []
  | false :: ms, xs => 0 :: expandGo ms xs
  | true :: ms, xs => xs.headD 0 :: expandGo ms xs.tail

def execVexpd (h : Hd) (d a : MName) (w : Width) (k : Nat) (s : State) : Out :=
  vector h 4 [d, a] (fun c => c.vecEff d w (allMask w) (expandGo (c.writeMask k w) (c.elems a w))) s

def execVperm (h : Hd) (d a b : MName) (z hi : Bool) (w : Width) (k : Nat) (s : State) : Out :=
  vector h 4 [d, a, b] (fun c =>
    let xs := c.elems a w
    let n := widthCount w
    c.vecEff d w (c.writeMask k w) ((c.elems b w).map fun y =>
      let i := y + if hi then 256 else 0
      if z ∧ n ≤ i then 0 else xs.getD (i % n) 0)) s

-- R201, R202 -----------------------------------------------------------------------------------------------------------------------

def execVbcast (h : Hd) (d : MName) (a : Nat) (w : Width) (imm : Nat) (s : State) : Out :=
  vector h 3 [d] (fun c => c.vecEff d w (allMask w)
    (List.replicate (widthCount w) ((c.reg a + sx21 imm).toNat % 2 ^ w.bits))) s

/-- VMOVS (R202): DIR 1 (`toVec`) writes one element, DIR 0 a scalar register. -/
def execVmovs (h : Hd) (m : MName) (r : Nat) (sx toVec : Bool) (w : Width) (j : Nat) (s : State) : Out :=
  vector h 4 [m] (fun c =>
    if toVec then
      c.vecEff m w ((List.range (widthCount w)).map (· == j)) (List.replicate (widthCount w) ((c.reg r).toNat % 2 ^ w.bits))
    else
      let x := (c.elems m w).getD j 0
      .sreg r (if sx then BitVec.ofInt 64 (toSigned w.bits x) else w64 x)) s

-- R203 -----------------------------------------------------------------------------------------------------------------------------

/-- Whether an operation in flight, or held in a snapshot, names plane m3 (spec/03 R43). -/
def Ctx.m3Busy (c : Ctx) : Bool :=
  c.flights.any (fun f => f.m3) || c.ops.any (fun o => o.m3) || match c.aside with
    | some a => a.flights.any fun f => f.m3
    | none => false

/-- Value of a rotating-region operand: imm21 zero-extended. -/
def rotValue (c : Ctx) (a imm : Nat) : W64 := c.reg a + w64 imm

def execVrot (h : Hd) (a imm : Nat) (s : State) : Out :=
  vector h 1 [] (fun c => .rot ((rotValue c a imm).toNat % 128)) s

def execVmconf (h : Hd) (a imm : Nat) (s : State) : Out :=
  issue h (fun s =>
      let v := rotValue s.ctx a imm
      .of [chk (decide (v.toNat < 1 ∨ 128 < v.toNat)) fcBound v, chk s.ctx.m3Busy fcConfBusy 0] .go)
    (fun s => s.modCtx fun c => c.fly 1 (.depth (rotValue c a imm).toNat)) s

/-- Rows that are dead lose their contents (spec/03 R42). -/
def Ctx.clearDead (c : Ctx) : Ctx :=
  { c with mrf := c.mrf.filter fun e => decide (e.1 < 49152) || !rowDead c.rb c.ld ((e.1 - 49152) / 128) }

-- R204 -----------------------------------------------------------------------------------------------------------------------------

def execKand (h : Hd) (kd ka kb : Nat) (s : State) : Out :=
  vector h 1 [] (fun c => .kmask kd (c.kmask ka &&& c.kmask kb)) s
def execKor (h : Hd) (kd ka kb : Nat) (s : State) : Out :=
  vector h 1 [] (fun c => .kmask kd (c.kmask ka ||| c.kmask kb)) s
def execKnot (h : Hd) (kd ka : Nat) (s : State) : Out := vector h 1 [] (fun c => .kmask kd (~~~(c.kmask ka))) s
def execKpopc (h : Hd) (d ka : Nat) (s : State) : Out :=
  vector h 2 [] (fun c => .sreg d (w64 (popcount 512 (c.kmask ka).toNat))) s

end Sys2Proof.Machine
end

