-- ==== Sys2Proof/Machine/LocalMem.lean ====
section
/-! DEFINITION. Vector loads and stores of the own scratchpad and of windows (spec/13 R205-R207). -/

namespace Sys2Proof.Machine
open Sys2Proof

/-- Address of VLD and VST. -/
def vmemAddr (c : Ctx) (a imm : Nat) : W64 := c.reg a + sx21 imm

/-- VLD (R205). -/
def execVld (h : Hd) (m : MName) (a k : Nat) (w : Width) (imm : Nat) (s : State) : Out :=
  issue h (fun s => .of (s.localChecks (vmemAddr s.ctx a imm) 512 64 .read) .go)
    (fun s =>
      let c := s.ctx
      let addr := (vmemAddr c a imm).toNat
      let masks := lanesMask w (c.writeMask k w)
      if isWin addr then
        -- the 128 lanes in order; a lane that is not written has mask zero
        let dst := ((List.range 128).zip masks).map fun (i, x) =>
          ((laneCell c.rb c.ld m i).getD 0, if (laneCell c.rb c.ld m i).isSome then x else 0)
        (s.pushOp pathF (.rload (winOf addr) addr 512) .count 0 0).modCtx fun c =>
          c.fly 6 (.rload s.nextId (.cells dst) none) (names3 [m])
      else s.modCtx fun c => c.fly 6 (.cells (c.cellsOf m masks (bytesLanes (c.spadRead addr 512)))) (names3 [m])) s

/-- Bytes of a vector that a mask selects, at an address. -/
def Ctx.maskedBytes (c : Ctx) (m : MName) (w : Width) (k addr : Nat) : List Host.Cell :=
  let sel := lanesBytes (lanesMask w (c.writeMask k w))
  ((cellsFrom addr (lanesBytes (c.lanes m))).zip sel).filterMap fun (x, b) => if b = 0 then none else some x

/-- VST (R205). -/
def execVst (h : Hd) (m : MName) (a k : Nat) (w : Width) (imm : Nat) (s : State) : Out :=
  issue h (fun s => storeVerdict (vmemAddr s.ctx a imm) 512 64 s)
    (fun s =>
      let c := s.ctx
      let addr := (vmemAddr c a imm).toNat
      let l := c.maskedBytes m w k addr
      if isWin addr then s.windowStore addr l (names3 [m]) else s.modCtx fun c => c.fly 2 (.store 1 l) (names3 [m])) s

/-- Lanes that take part in VLDX or VSTX: lane j with its address and whether element 128p + j is masked in (R206). -/
def Ctx.indexed (c : Ctx) (a : MName) (p : Nat) (w : Width) (k : Nat) : List (Nat × Nat × Bool) :=
  let mk := c.kmask k
  ((List.range 128).zip (c.lanes a)).map fun (j, x) => (j, x.toNat, maskBit mk w (128 * p + j))

/-- The fault of one indexed element (R206): a window address raises BOUND, though spec/03 R49 names VLDX among the loads that go
through a window (log entry 97). -/
def State.indexFault (s : State) (n : Nat) (acc : Acc) (x : Nat) : Option (Nat × W64) :=
  checks [chk (decide (0x100000 ≤ x)) fcBound (w64 x), chk (x % n != 0) fcAlign (w64 x),
    (s.ownFault x n acc).map fun e => (e.1, w64 x)]

def execVldx (h : Hd) (d a : MName) (p : Nat) (w : Width) (k : Nat) (s : State) : Out :=
  issue h (fun s => .of ((s.ctx.indexed a p w k).map fun (_, x, m) => if m then s.indexFault (w.bits / 8) .read x else none) .go)
    (fun s => s.modCtx fun c =>
      let l := c.indexed a p w k
      let n := w.bits / 8
      let lo := 128 * p
      let rest := widthCount w - lo - 128
      let ms := List.replicate lo false ++ l.map (fun e => e.2.2) ++ List.replicate rest false
      let es := List.replicate lo 0 ++ l.map (fun e => if e.2.2 then leValue (c.spadRead e.2.1 n) else 0) ++ List.replicate rest 0
      c.fly 8 (c.vecEff d w ms es) (names3 [d, a])) s

def execVstx (h : Hd) (a b : MName) (p : Nat) (w : Width) (k : Nat) (s : State) : Out :=
  issue h (fun s =>
      let l := s.ctx.indexed a p w k
      let none_ := l.all fun e => !e.2.2
      .of (l.map fun (j, x, m) => if m || (none_ && j == 0) then s.indexFault (w.bits / 8) .write x else none) .go)
    (fun s => s.modCtx fun c =>
      let es := (c.elems b w).drop (128 * p)
      let cells := ((c.indexed a p w k).zip es).flatMap fun (e, v) =>
        if e.2.2 then cellsFrom e.2.1 (leBytes (w.bits / 8) v) else []
      c.fly 3 (.store 1 cells) (names3 [a, b])) s

end Sys2Proof.Machine
end

