-- ==== Sys2Proof/Machine/Lighter.lean ====
section
/-! DEFINITION. Copy, ring, stream, probe, atomic and semaphore forms at issue (spec/15 R210-R234, R238-R243). What becomes of an
operation outside the berth is in Machine/Homes. -/

namespace Sys2Proof.Machine
open Sys2Proof

-- rings (spec/09 R129, spec/15 R222-R225) -----------------------------------------------------------------------------

def Ctx.ring (c : Ctx) (q : Nat) : Ring := Tab.get Ring.none c.rings q
def Ctx.modRing (c : Ctx) (q : Nat) (f : Ring → Ring) : Ctx := { c with rings := Tab.upd Ring.none c.rings q f }
def Ring.slot (r : Ring) (i : Nat) : Slot := Tab.get Slot.empty r.slots i
def Ring.modSlot (r : Ring) (i : Nat) (f : Slot → Slot) : Ring := { r with slots := Tab.upd Slot.empty r.slots i f }
/-- Scratchpad address of a slot. -/
def Ring.addr (r : Ring) (i : Nat) : Nat := r.base + i * r.z
/-- The slot that holds an address; none outside the ring or when it is not configured. -/
def Ring.holding (r : Ring) (a : Nat) : Option Nat :=
  if r.n = 0 ∨ a < r.base ∨ r.base + r.n * r.z ≤ a then .none else some ((a - r.base) / r.z)
/-- The oldest draining slot that is not being released. -/
def Ring.oldest (r : Ring) : Option Nat :=
  ((List.range r.n).map fun i => (r.take + i) % r.n).find? fun i => (r.slot i).st == .draining && (r.slot i).releasing.isNone
/-- Whether a slot is filling or draining. -/
def Ring.busy (r : Ring) : Bool := r.slots.any fun x => x.2.st == .filling || x.2.st == .draining

/-- RCONF (R222): x is 16 plus the ring number q. -/
def execRconf (h : Hd) (q l n : Nat) (s : State) : Out :=
  issue h (fun s =>
      let c := s.ctx
      let a := c.reg l
      let v := c.reg n
      .of [chk (a.toNat % 512 != 0) fcAlign a,
        chk (decide (2 ^ 20 ≤ v.toNat ∨ 2048 < bf v 8 12 ∨ 0x100000 < a.toNat + (bf v 0 8 + 1) * (bf v 8 12 * 512))) fcBound a,
        chk (c.ring q).busy fcConfBusy (w64 (16 + q))] .go)
    (fun s => s.modCtx fun c =>
      let v := c.reg n
      let zb := bf v 8 12
      c.modRing q fun _ => if zb = 0 then Ring.none else ⟨(c.reg l).toNat, zb * 512, bf v 0 8 + 1, 0, 0, []⟩) s

/-- RACQ (R223). -/
def execRacq (h : Hd) (q l : Nat) (s : State) : Out :=
  issue h (fun s =>
      let r := s.ctx.ring q
      .of [chk (r.n == 0) fcRingMisuse (w64 (16 + q))] (freezeIf s ((r.slot r.acq).st != .empty) .go))
    (fun s => s.modCtx fun c =>
      let r := c.ring q
      let c := c.modRing q fun r =>
        { r.modSlot r.acq (fun _ => { Slot.empty with st := .filling }) with acq := (r.acq + 1) % r.n }
      c.fly 1 (.sreg l (w64 (r.addr r.acq)))) s

/-- Taking the next slot of a ring (R129, R218): it freezes until the slot is full, and raises a failure mark. -/
def takeVerdict (s : State) (q : Nat) : Verdict :=
  let r := s.ctx.ring q
  let x := r.slot r.take
  freezeIf s (x.st != .full)
    (match x.fail with
    | some f => f.raise 3 (s.modCtx fun c => c.modRing q fun r => r.modSlot r.take fun x => { x with fail := none })
    | none => .go)

/-- Take the next slot. -/
def Ctx.takeSlot (c : Ctx) (q : Nat) : Ctx :=
  c.modRing q fun r => { r.modSlot r.take (fun x => { x with st := .draining }) with take := (r.take + 1) % r.n }

/-- RTAKE (R223). -/
def execRtake (h : Hd) (q l : Nat) (s : State) : Out :=
  issue h (fun s => .of [chk ((s.ctx.ring q).n == 0) fcRingMisuse (w64 (16 + q))] (takeVerdict s q))
    (fun s => s.modCtx fun c =>
      let r := c.ring q
      (c.takeSlot q).fly 1 (.sreg l (w64 (r.addr r.take)))) s

/-- The slot of a ring that an address publishes: filling, with no publishing copy outstanding. -/
def Ring.publishable (r : Ring) (a : Nat) : Option Nat :=
  match r.holding a with
  | some i => if (r.slot i).st = .filling ∧ !(r.slot i).pub then some i else .none
  | .none => .none

/-- Whether cells lie in a range. -/
def cellsIn (a n : Nat) (l : List Host.Cell) : Bool := l.any fun x => decide (a ≤ x.1 ∧ x.1 < a + n)

/-- Ck until the stores among flights on paths P and V to a range are visible. -/
def storesIn (a n : Nat) (l : List Flight) : Nat :=
  l.foldl (fun m f => match f.eff with
    | .store _ l => if cellsIn a n l then Nat.max m f.rem else m
    | _ => m) 0

/-- Unfrozen ck until every store in flight on paths P and V to a range is visible. -/
def Ctx.storesDue (c : Ctx) (a n : Nat) : Nat :=
  storesIn a n c.flights

/-- RPUB (R224): the slot is full at issue + 1, or when the stores to it issued earlier are visible; where an interrupted context's
store to it is held aside, the publication counts from its replay on (spec/03 R63). -/
def execRpub (h : Hd) (q l : Nat) (s : State) : Out :=
  issue h (fun s => .of [chk ((s.ctx.ring q).publishable (s.ctx.reg l).toNat).isNone fcRingMisuse (s.ctx.reg l)] .go)
    (fun s => s.modCtx fun c =>
      let r := c.ring q
      let i := (r.holding (c.reg l).toNat).getD 0
      let k := Nat.max 1 (c.storesDue (r.addr i) r.z)
      let held := storesIn (r.addr i) r.z ((c.aside.map Snap.flights).getD [])
      if held = 0 then c.modRing q fun r => r.modSlot i fun x => { x with filling := some ((x.filling).getD k) }
      else { c with aside := c.aside.map fun a => { a with pubs := a.pubs ++ [(q, i, held, true)] } }) s

/-- Whether an operation has still to read a scratchpad range that it sends out (R225). -/
def Op.reads (o : Op) (a n : Nat) : Bool :=
  o.stage == .sent && match o.kind with
    | .copy c =>
        let meets := fun (x len : Nat) => decide (0 < len ∧ x < a + n ∧ a < x + len)
        let list : Bool := c.form == .cps && c.segs.isNone && meets c.list (4 * c.nidx)
        let len := if c.form = .cps then c.nidx * 2 ^ c.log2row else c.count
        c.out && (list || (c.q != .zero && meets c.l len))
    | .whpush _ l k => decide (l < a + n ∧ a < l + 8 * k)
    | _ => false

/-- Release the oldest draining slot of a ring (R129): empty once the operations that still read it have read it. -/
def Ctx.releaseOldest (c : Ctx) (q : Nat) : Ctx :=
  let r := c.ring q
  match r.oldest with
  | some i =>
    let ids := (c.ops.filter fun o => o.reads (r.addr i) r.z).map Op.id
    c.modRing q fun r => r.modSlot i fun x => if ids.isEmpty then Slot.empty else { x with releasing := some ids }
  | none => c

/-- RREL (R225, R243). -/
def execRrel (h : Hd) (q : Nat) (s : State) : Out :=
  issue h (fun s => .of [chk (s.ctx.ring q).oldest.isNone fcRingMisuse (w64 (16 + q))] .go)
    (fun s => s.modCtx fun c => c.releaseOldest q) s

/-- An operation has read its source: a slot that waited for it alone is empty. -/
def Ctx.hasRead (c : Ctx) (id : Nat) : Ctx :=
  let f := fun x : Slot => match x.releasing with
    | some l => if l.contains id then (if l.all (· == id) then Slot.empty else { x with releasing := some (l.filter (· != id)) }) else x
    | none => x
  let g := fun r : Ring => { r with slots := (r.slots.map fun x => (x.1, f x.2)).filter fun x => x.2 != Slot.empty }
  { c with rings := c.rings.map fun r => (r.1, g r.2) }

-- streams (spec/09 R130, spec/15 R220, R221) -----------------------------------------------------------------------------

def Ctx.stream (c : Ctx) (x : Nat) : Stream := Tab.get Stream.unbound c.streams x
def Ctx.modStream (c : Ctx) (x : Nat) (f : Stream → Stream) : Ctx := { c with streams := Tab.upd Stream.unbound c.streams x f }

/-- Operations that are performed, deliver nothing more and did not fail have no place any longer. -/
def trimItems : List SItem → List SItem
  | [] => []
  | i :: l => if i.done && i.elems.isEmpty && i.fail.isNone then trimItems l else i :: l

/-- An operation takes its place in a stream (R130). -/
def Ctx.queueItem (c : Ctx) (x id : Nat) : Ctx := c.modStream x fun t => { t with items := t.items ++ [⟨id, [], false, none⟩] }

/-- Change the place of an operation. -/
def Stream.modItem (t : Stream) (id : Nat) (f : SItem → SItem) : Stream :=
  { t with items := trimItems (t.items.map fun i => if i.op = id then f i else i) }

/-- A failed operation at the head of a stream. -/
def Stream.headFail (t : Stream) : Option Fail :=
  if t.arrived.isEmpty then match t.items with | i :: _ => (if i.elems.isEmpty then i.fail else none) | [] => none else none

/-- STBIND (R220). -/
def execStbind (h : Hd) (x es : Nat) (s : State) : Out :=
  issue h (fun s =>
      let t := s.ctx.stream x
      .of [chk (!t.arrived.isEmpty || !t.items.isEmpty) fcConfBusy (w64 x)] .go)
    (fun s => s.modCtx fun c =>
      c.modStream x fun t => { t with es := if es = 0 then 0 else if es = 1 then 8 else 512 }) s

/-- STREL (R221). -/
def execStrel (h : Hd) (g l x : Nat) (s : State) : Out :=
  issue h (fun s =>
      let c := s.ctx
      let t := c.stream x
      let a := c.reg l
      let big := t.es == 512
      .of [chk (t.es == 0) fcStreamUnbound (w64 x),
        chk (big && decide (0xFFE00 < a.toNat)) fcBound a,
        chk (big && a.toNat % 512 != 0) fcAlign a,
        if big then (s.ownFault a.toNat 512 .write).map fun e => (e.1, w64 e.2) else none]
        (freezeIf s (t.arrived.isEmpty && t.headFail.isNone)
          (match t.headFail with
          | some f => f.raise 2 (s.modCtx fun c => c.modStream x fun t => { t with items := trimItems t.items.tail })
          | none => .go)))
    (fun s => s.modCtx fun c =>
      let t := c.stream x
      let e := t.arrived.headD []
      let c := c.modStream x fun t => { t with arrived := t.arrived.tail }
      if t.es = 512 then c.fly 2 (.store 1 (cellsFrom (c.reg l).toNat e)) else c.fly 1 (.sreg g (w64 (leValue e)))) s

-- copies (R212-R219) -------------------------------------------------------------------------------------------------------

def State.layout (s : State) (job handle : Nat) : Layout := Tab.get Layout.invalid s.layouts (job * 65536 + handle)

/-- Bytes of a copy through a layout record (R212). -/
def Layout.bytes (y : Layout) : Nat := y.ext.foldl (· * ·) 1 * 2 ^ y.log2e

/-- Indices of a record's elements, the first dimension fastest (spec/09 R128), as byte offsets. -/
def offsetsOf : List (Nat × Int) → List Int
  | [] => [0]
  | (n, st) :: ds =>
    (offsetsOf ds).flatMap fun o => (List.range n).map fun i => o + Int.ofNat i * st
def Layout.offsets (y : Layout) : List Int :=
  offsetsOf (y.ext.zip ((2 ^ y.log2e : Int) :: y.strides))

/-- Width of a transpose (R214). -/
def transposeBits : CopyQ → Option Nat
  | .t8 => some 8
  | .t16 => some 16
  | _ => none

/-- A copy from its operand fields. -/
def copyReq (form : CopyForm) (c : Ctx) (lay : Option Layout) (g l n : Nat) (q : CopyQ) (out : Bool) : CopyReq :=
  let v := c.reg n
  let cps := form == .cps
  { form := form, g := (c.reg g).toNat, l := (c.reg l).toNat,
    count := if cps then 0 else match lay with
      | some y => y.bytes
      | none => bf v 0 32,
    layout := lay, log2row := if cps then bf v 36 4 else 0, nidx := if cps then bf v 20 16 else 0,
    list := if cps then bf v 0 20 else 0, q := q, out := out, segs := none }

/-- Bytes on the scratchpad side. -/
def CopyReq.bytes (r : CopyReq) : Nat := if r.form = .cps then r.nidx * 2 ^ r.log2row else r.count

/-- Route of a copy (R214): `x` is the stream register, or 16 plus the ring. -/
def copyRoute (c : Ctx) (r : CopyReq) (x : Nat) (st : Bool) : Route :=
  if st then .stream x
  else if r.q = .publish then .ring (x - 16) (((c.ring (x - 16)).holding r.l).getD 0)
  else .count

/-- The checks of R215 in order; a handle names a record in CP only (R212, log entry 24). -/
def State.copyChecks (s : State) (r : CopyReq) (v : W64) (x : Nat) (st : Bool) : List (Option (Nat × W64)) :=
  let c := s.ctx
  let h := if r.form = .cps then 0 else bf v 48 16
  let y := s.layout s.job h
  let limit := if r.form = .cpg then 0x40000000 else 0x100000
  let spad := r.form != .cpg && !st
  let es := (c.stream x).es
  let ring := c.ring (x - 16)
  let t := ((transposeBits r.q).map fun w => 512 * (4096 / w)).getD 1
  [chk (r.form != .cps && h != 0 && (!y.valid || y.job != s.job)) fcLayoutJob (w64 h),
   chk (if r.form = .cps then bf v 40 24 != 0 || decide (bf v 36 4 < 6 ∨ 13 < bf v 36 4)
      else decide (limit < bf v 0 32) || bf v 32 16 != 0 || (h != 0 && (r.form != .cp || bf v 0 32 != 0))) fcBound v,
   chk (spad && decide (0x100000 < r.l + r.bytes)) fcBound (w64 r.l),
   chk (r.form == .cps && decide (0x100000 < r.list + 4 * r.nidx)) fcBound (w64 r.list),
   chk (r.form == .cpw && (!isWin r.g || c.localBad (w64 r.g) r.count)) fcBound (w64 r.g),
   chk ((transposeBits r.q).isSome && (r.l % 512 != 0 || r.count % t != 0)) fcAlign (w64 r.l),
   chk (st && es != 0 && r.bytes % es != 0) fcAlign (w64 r.g),
   chk (r.form == .cps && !st && r.l % 2 ^ r.log2row != 0) fcAlign (w64 r.l),
   chk (r.form == .cps && r.list % 4 != 0) fcAlign (w64 r.list),
   chk (st && es == 0) fcStreamUnbound (w64 x),
   chk (r.q == .publish && (match ring.publishable r.l with
      | some i => decide (ring.addr i + ring.z < r.l + r.bytes)
      | none => true)) fcRingMisuse (w64 r.l),
   if spad && !(r.out && r.q == .zero) then
      (s.ownFault r.l r.bytes (if r.out then .read else .write)).map fun e => (e.1, w64 e.2)
    else none]

/-- Issue of a copy: its checks, then the window's allowance and the queue (R211, R215). -/
def execCopy (form : CopyForm) (h : Hd) (g l n x : Nat) (q : CopyQ) (out st : Bool) (tag : Nat) (s : State) : Out :=
  let req := fun s : State =>
    let hd := if form = .cps then 0 else bf (s.ctx.reg n) 48 16
    copyReq form s.ctx (if hd = 0 then none else some (s.layout s.job hd)) g l n q out
  issue h (fun s =>
      let r := req s
      .of (s.copyChecks r (s.ctx.reg n) x st)
        (freezeIf s ((form == .cpw && out && !s.ctx.allowed r.g) || s.ctx.queueFull) .go))
    (fun s =>
      let r := req s
      let route := copyRoute s.ctx r x st
      let id := s.nextId
      let s := s.pushOp (if form = .cpw then pathF else pathL) (.copy r) route tag 0
      s.modCtx fun c =>
        let c := if form = .cpw ∧ out then c.takeUnit r.g else c
        match route with
        | .stream x => c.queueItem x id
        | .ring k i => c.modRing k fun y => y.modSlot i fun z => { z with pub := true }
        | .count => c) s

def execCp (h : Hd) (g l n x : Nat) (q : CopyQ) (out st : Bool) (tag : Nat) (s : State) : Out :=
  execCopy .cp h g l n x q out st tag s
def execCpw (h : Hd) (g l n x : Nat) (q : CopyQ) (out st : Bool) (tag : Nat) (s : State) : Out :=
  execCopy .cpw h g l n x q out st tag s
def execCpg (h : Hd) (g l n : Nat) (zero : Bool) (tag : Nat) (s : State) : Out :=
  execCopy .cpg h g l n 0 (if zero then .zero else .none) false false tag s
def execCps (h : Hd) (g l n x : Nat) (q : CopyQ) (out st : Bool) (tag : Nat) (s : State) : Out :=
  execCopy .cps h g l n x q out st tag s

/-- The earliest of a list of failures. -/
def firstFail (l : List Fail) : Option Fail := l.foldl earlier none

/-- LWAIT (R219). -/
def execLwait (h : Hd) (n : Nat) (s : State) : Out :=
  issue h (fun s =>
      let c := s.ctx
      freezeIf s (c.cfails.isEmpty && decide (n < (c.ops.filter Op.counts).length))
        (match firstFail c.cfails with
        | some f => f.raise 1 (s.modCtx fun c => { c with cfails := c.cfails.filter (· != f) })
        | none => .go))
    (fun s => s) s

-- probes (R226, R227, R242) ------------------------------------------------------------------------------------------------

def Ctx.way (c : Ctx) (t e : Nat) : Way := Tab.get Way.invalid c.ways (wayKey t e)
def Ctx.modWay (c : Ctx) (t e : Nat) (f : Way → Way) : Ctx := { c with ways := Tab.upd Way.invalid c.ways (wayKey t e) f }
/-- Block size and slot address of entry e of a table under its configuration. -/
def ptBlk (v : W64) : Nat := 2 ^ bf v 24 4
def ptSlot (v : W64) (e : Nat) : Nat := bf v 0 20 + e * ptBlk v
/-- Entries of the set that holds a block. -/
def ptSet (v : W64) (b : Nat) : List Nat :=
  let set := b / ptBlk v % (ptEntries v / 4)
  [4 * set, 4 * set + 1, 4 * set + 2, 4 * set + 3]
/-- The entry that holds a block. -/
def Ctx.ptHit (c : Ctx) (t b : Nat) : Option Nat :=
  if ptEntries (Tab.get 0 c.ptconf t) = 0 then none
  else (ptSet (Tab.get 0 c.ptconf t) b).find? fun e => (c.way t e).valid && (c.way t e).tag == b
/-- The entry that a miss takes: the lowest invalid one, else the least recently used. -/
def Ctx.ptVictim (c : Ctx) (t b : Nat) : Nat :=
  let es := ptSet (Tab.get 0 c.ptconf t) b
  match es.find? fun e => !(c.way t e).valid with
  | some e => e
  | none => es.foldl (fun m e => if (c.way t e).used < (c.way t m).used then e else m) (es.headD 0)
/-- One more than the last use in a set. -/
def Ctx.ptUse (c : Ctx) (t b : Nat) : Nat :=
  (ptSet (Tab.get 0 c.ptconf t) b).foldl (fun m e => Nat.max m (c.way t e).used) 0 + 1

/-- PROBE (R226): `off` is the signed miss offset. It has two delay groups, on a hit without a transfer after them; in a dynamic
delay group it has no effect (spec/05 R85). A fill whose way is replaced still answers for the slot (R218). -/
def execProbe (h : Hd) (g l pt off : Nat) (s : State) : Out :=
  let blk := fun c : Ctx => let v := (Tab.get 0 c.ptconf pt); (c.reg g).toNat - (c.reg g).toNat % ptBlk v
  issueTransfer h (fun s =>
      let c := s.ctx
      .of [chk (ptEntries (Tab.get 0 c.ptconf pt) == 0) fcBound (w64 pt)]
        (if (c.ptHit pt (blk c)).isSome then .go else freezeIf s c.queueFull .go))
    (fun s =>
      let c := s.ctx
      let v := Tab.get 0 c.ptconf pt
      let b := blk c
      let done := fun (e : Nat) (c : Ctx) => c.fly 2 (.sreg l (w64 (ptSlot v e + ((c.reg g).toNat - b))))
      match c.ptHit pt b with
      | some e => s.modCtx fun c => { done e (c.modWay pt e fun y => { y with used := c.ptUse pt b }) with quiet := 2 }
      | none =>
        let e := c.ptVictim pt b
        let id := s.nextId
        (s.pushOp pathL (.fill pt e b (ptBlk v) (ptSlot v e)) .count 0 0).modCtx fun c =>
          (done e (c.modWay pt e fun y => ⟨true, b, y.fills ++ [id], y.fail, c.ptUse pt b⟩)).take (relTarget s.woff 10 off)) s

/-- The table and entry whose slot holds a scratchpad address. -/
def Ctx.slotAt (c : Ctx) (a : W64) : Option (Nat × Nat) :=
  (List.range 4).findSome? fun t =>
    let v := Tab.get 0 c.ptconf t
    let n := ptEntries v
    if n ≠ 0 ∧ bf v 0 20 ≤ a.toNat ∧ a.toNat < bf v 0 20 + n * ptBlk v then some (t, (a.toNat - bf v 0 20) / ptBlk v) else none

/-- Whether a fill of an entry is outstanding. -/
def Ctx.wayFilling (c : Ctx) (t e : Nat) : Bool :=
  c.ops.any fun o => match o.kind with
    | .fill t' e' _ _ _ => t' == t && e' == e
    | _ => false

/-- PWAIT (R227). -/
def execPwait (h : Hd) (l : Nat) (s : State) : Out :=
  issue h (fun s =>
      let c := s.ctx
      let a := c.reg l
      match c.slotAt a with
      | none => flt fcBound a
      | some (t, e) =>
        let y := c.way t e
        freezeIf s (y.valid && c.wayFilling t e)
          (match y.fail with
          | some f => f.raise 4 (s.modCtx fun c => c.modWay t e fun _ => Way.invalid)
          | none => .go))
    (fun s => s) s

/-- PINV (R227). -/
def execPinv (h : Hd) (g pt : Nat) (all : Bool) (s : State) : Out :=
  issue h (fun _ => .go)
    (fun s => s.modCtx fun c =>
      let v := Tab.get 0 c.ptconf pt
      let b := (c.reg g).toNat - (c.reg g).toNat % ptBlk v
      if all then { c with ways := c.ways.filter fun y => y.1 / 4096 != pt }
      else match c.ptHit pt b with
        | some e => c.modWay pt e fun _ => Way.invalid
        | none => c) s

-- atomics and semaphores (R228-R234) -----------------------------------------------------------------------------------------

/-- Whether a device label lies in the devices of a scope (spec/09 R145). -/
def State.inScope (s : State) (scope label : Nat) : Bool :=
  let d := if scope < 8 then ((s.teamOf s.ctx).map fun m => m.domain scope).getD 0 else if scope = 8 then 8 else 31
  if d ≤ 8 then label == s.label else d == 31 || label / 2 ^ (d - 8) == s.label / 2 ^ (d - 8)

/-- The device on which an operation of the running berth other than a copy has its home. -/
def State.opHome (s : State) (o : Op) : Nat :=
  let at_ := fun va => match s.translate s.job va none with
    | .ok (.peer l) => l
    | _ => s.label
  match o.kind with
  | .wstore _ _ _ | .rload _ _ _ => o.win.label
  | .atom r | .atomnr r => at_ r.va
  | .sempost va _ => at_ va
  | .token r => if r.sp then (if isWin r.g.toNat then o.win.label else s.label) else at_ r.g.toNat
  | _ => s.label

/-- Whether an operation is performed at a scope (spec/09 R145): at its home, or, where the home lies outside the scope, accepted by
the first port. -/
def State.performedAt (s : State) (scope : Nat) (o : Op) : Bool :=
  o.settled || (match o.stage with
    | .remote _ _ => !s.inScope scope (s.opHome o)
    | _ => false)

/-- BOUND of a scope (R230). -/
def State.scopeBad (s : State) (scope : Nat) : Bool := decide (scope < 8 ∧ s.nlev ≤ scope)

/-- Bytes of an atomic. -/
def atomBytes (wide : Bool) : Nat := if wide then 8 else 4
/-- The low bits of an operand of an atomic. -/
def atomArg (wide : Bool) (v : W64) : W64 := if wide then v else w64 (bf v 0 32)

/-- Unfrozen ck until every earlier timed operation is performed, for a release (R230). -/
def relWait (c : Ctx) (ord : Nat) : Nat := if ord.testBit 1 then c.drainTime 7 else 0

/-- Path of an atomic by its home (spec/09 R141). -/
def State.atomPath (s : State) (va : Nat) : Nat :=
  match s.translate s.job va none with
  | .ok (.peer _) => pathF
  | _ => pathL

/-- ATOM (R228-R230): a persist point. -/
def execAtom (h : Hd) (g l n x : Nat) (op : AtomOp) (ord : Nat) (wide : Bool) (scope : Nat) (s : State) : Out :=
  issue h (fun s =>
      let c := s.ctx
      let a := c.reg g
      .of [chk (a.toNat % atomBytes wide != 0) fcAlign a, chk (s.scopeBad scope) fcBound (w64 scope),
        chk ((c.stream x).es != 8) fcStreamUnbound (w64 x)] (freezeIf s c.queueFull .go))
    (fun s =>
      let c := s.ctx
      let r : AtomReq := ⟨(c.reg g).toNat, op, wide, atomArg wide (c.reg n), atomArg wide (c.reg l), ord, scope⟩
      let id := s.nextId
      (s.pushPersist (s.atomPath r.va) (.atom r) (.stream x) 0 (relWait c ord)).modCtx fun c => c.queueItem x id) s

/-- ATOMNR. -/
def execAtomnr (h : Hd) (g l n : Nat) (op : AtomOp) (ord : Nat) (wide : Bool) (scope : Nat) (s : State) : Out :=
  issue h (fun s =>
      let a := s.ctx.reg g
      .of [chk (a.toNat % atomBytes wide != 0) fcAlign a, chk (s.scopeBad scope) fcBound (w64 scope)]
        (freezeIf s s.ctx.queueFull .go))
    (fun s =>
      let c := s.ctx
      let r : AtomReq := ⟨(c.reg g).toNat, op, wide, atomArg wide (c.reg n), atomArg wide (c.reg l), ord, scope⟩
      s.pushPersist (s.atomPath r.va) (.atomnr r) .count 0 (relWait c ord)) s

/-- Return-free atomics, and token forms whose outcome is not in (R231, R236). -/
def State.atomfenceWaits (s : State) (scope : Nat) : Bool :=
  s.ctx.ops.any fun o => match o.kind with
    | .atomnr _ | .sempost _ _ => !s.performedAt scope o
    | .token r => r.form != .query
    | _ => false

/-- ATOMFENCE (R231). -/
def execAtomfence (h : Hd) (scope : Nat) (s : State) : Out :=
  issue h (fun s =>
      .of [chk (s.scopeBad scope) fcBound (w64 scope)]
        (freezeIf s (s.atomfenceWaits scope)
          (match firstFail s.ctx.nfails with
          | some f => f.raise 5 (s.modCtx fun c => { c with nfails := c.nfails.filter (· != f) })
          | none => .go)))
    (fun s => s) s

/-- The poll that a SEMWAIT has sent (spec/03 R54); one of the interrupted context is not the handler's. -/
def Ctx.poll (c : Ctx) (r : SemReq) : Option Op :=
  let held := (c.aside.map Snap.polls).getD []
  c.ops.find? fun o => !held.contains o.id && match o.kind with
    | .semwait q => q == r
    | _ => false

/-- SEMWAIT (R233): the poll goes out when the word first freezes; one with SUB is a persist point of the boundary before its
group. -/
def execSemwait (h : Hd) (g n : Nat) (cond : SCond) (sub : Bool) (s : State) : Out :=
  let req := fun c : Ctx => (⟨(c.reg g).toNat, bf (c.reg n) 0 63, cond, sub⟩ : SemReq)
  issue h (fun s =>
      let c := s.ctx
      .of [chk ((c.reg g).toNat % 8 != 0) fcAlign (c.reg g), chk (bt (c.reg n) 63) fcBound (c.reg n)]
        (if c.holding then .wait
        else match c.poll (req c) with
          | none =>
            if sub ∧ (s.berth s.cur).persistBusy then .freeze s
            else
              let s' := s.pushOp pathL (.semwait (req c)) .count 0 0
              .freeze (if sub then s'.beginPersist s.cur else s')
          | some o => match o.stage with
            | .replied _ => .go
            | .failed f => f.raise 6 (s.modCtx fun c => c.dropOp o.id)
            | _ => .freeze s))
    (fun s => s.modCtx fun c => match c.poll (req c) with
      | some o => c.dropOp o.id
      | none => c) s

/-- SEMPOST (R234): a release at system scope, and a persist point. -/
def execSempost (h : Hd) (g n : Nat) (s : State) : Out :=
  issue h (fun s =>
      let c := s.ctx
      .of [chk ((c.reg g).toNat % 8 != 0) fcAlign (c.reg g), chk (bt (c.reg n) 63) fcBound (c.reg n)]
        (freezeIf s c.queueFull .go))
    (fun s =>
      let c := s.ctx
      let va := (c.reg g).toNat
      s.pushPersist pathL (.sempost va (bf (c.reg n) 0 63)) .count 0 (c.drainTime 7)) s

-- wharf pushes and code loads (R238, R239) -----------------------------------------------------------------------------------

/-- Whether a unit's ring has room for n words (spec/21 R298). -/
def WUnit.room (u : WUnit) (n : Nat) : Bool := decide (u.ring.length + n ≤ 2 ^ u.wrlog2)

/-- Whether a wharf unit is in service: under low-water service only units 0-31 are (spec/25 R378). -/
def State.unitServed (s : State) (u : Nat) : Bool := s.level != 1 || decide (u < 32)
/-- Whether a unit accepts new entries (spec/21 R298). -/
def State.unitOpen (s : State) (u : Nat) : Bool := (s.unit u).en && s.unitServed u

/-- WHPUSH (R238): a persist point. -/
def execWhpush (h : Hd) (g l n : Nat) (s : State) : Out :=
  issue h (fun s =>
      let c := s.ctx
      let u := c.reg g
      let a := c.reg l
      let k := c.reg n
      .of [chk (decide (255 < u.toNat)) fcBound u, chk (decide (k.toNat < 1 ∨ 64 < k.toNat)) fcBound k,
        chk (decide (0x100000 < a.toNat + 8 * k.toNat)) fcBound a, chk (a.toNat % 8 != 0) fcAlign a,
        chk (!s.unitOpen u.toNat || (s.unit u.toNat).stop) fcWharfChannel u]
        (freezeIf s (!(s.unit u.toNat).room k.toNat) .go))
    (fun s =>
      let c := s.ctx
      s.pushPersist (pathL + 16) (.whpush (c.reg g).toNat (c.reg l).toNat (c.reg n).toNat) .count 0 0) s

/-- IMLOAD (R239). -/
def execImload (h : Hd) (g l n tag : Nat) (s : State) : Out :=
  issue h (fun s =>
      let c := s.ctx
      let x := s.berth s.cur
      let a := c.reg l
      let k := c.reg n
      .of [chk (k.toNat == 0) fcBound k, chk (decide (32768 < a.toNat + k.toNat)) fcBound a,
        chk (decide (0 < a.toNat) && !bt (x.word (a.toNat - 1)) 63) fcBound a,
        chk ((c.reg g).toNat % 8 != 0) fcAlign (c.reg g)] (freezeIf s c.queueFull .go))
    (fun s =>
      let c := s.ctx
      s.pushOp pathL (.imload (c.reg g).toNat (c.reg l).toNat (c.reg n).toNat) .count tag 0) s

-- layouts and windows (R240, R241) ---------------------------------------------------------------------------------------------

/-- A layout record from its 64 bytes (spec/09 R128). -/
def layoutOf (job : Nat) (bs : List Byte) : Layout :=
  let w := fun i => leValue ((bs.drop (8 * i)).take 8)
  let nd := fld (w 0) 6 2 + 1
  { job := job, valid := (w 0).testBit 10, log2e := fld (w 0) 8 2,
    ext := (List.range nd).map fun d => fld (w 1) (16 * d) 16 + 1,
    strides := (List.range (nd - 1)).map fun d => (BitVec.ofNat 64 (w (2 + d))).toInt }

/-- Whether a record's bytes are out of form (R240). -/
def layoutBad (bs : List Byte) : Bool :=
  let w := fun i => leValue ((bs.drop (8 * i)).take 8)
  let nd := fld (w 0) 6 2 + 1
  w 0 / 2 ^ 11 != 0 || (List.range 4).any (fun d => decide (nd ≤ d) && fld (w 1) (16 * d) 16 != 0)
    || (List.range 3).any (fun d => decide (nd ≤ d + 1) && w (2 + d) != 0)
    || w 5 != 0 || w 6 != 0 || w 7 != 0

/-- LAYSET (R240). -/
def execLayset (h : Hd) (l n : Nat) (s : State) : Out :=
  issue h (fun s =>
      let c := s.ctx
      let a := c.reg l
      let k := c.reg n
      .of [chk (decide (k.toNat = 0 ∨ 0xFFFF < k.toNat)) fcBound k, chk (a.toNat % 64 != 0) fcAlign a,
        chk (decide (0xFFFC0 < a.toNat)) fcBound a,
        chk (layoutBad (c.spadRead a.toNat 64)) fcBound a] .go)
    (fun s =>
      let c := s.ctx
      let y := layoutOf s.job (c.spadRead (c.reg l).toNat 64)
      { s with layouts := Tab.set Layout.invalid s.layouts (s.job * 65536 + (c.reg n).toNat) (if y.valid then y else Layout.invalid) }) s

/-- WCONF (R241). -/
def execWconf (h : Hd) (w g l n : Nat) (s : State) : Out :=
  issue h (fun s =>
      let c := s.ctx
      let p := c.reg g
      let a := c.reg l
      let k := c.reg n
      .of [chk ((Tab.get Window.none c.windows w).out != 0) fcConfBusy (w64 w),
        chk (bf p 26 38 != 0 || bf p 7 9 != 0) fcBound p, chk (decide (0x100000 ≤ a.toNat)) fcBound a,
        chk (decide (255 < k.toNat)) fcBound k, chk (a.toNat % 512 != 0) fcAlign a] .go)
    (fun s => s.modCtx fun c =>
      let k := (c.reg n).toNat
      let y : Window :=
        if k = 0 then Window.none
        else ⟨true, bf (c.reg g) 16 10, bf (c.reg g) 0 7, (c.reg l).toNat, 0, k, none⟩
      { c with windows := Tab.set Window.none c.windows w y }) s

end Sys2Proof.Machine
end

