-- ==== Sys2Proof/Machine/TokenForms.lean ====
section
/-! DEFINITION. Token forms at issue (spec/15 R235, R236, spec/09 R136): their checks, the flush, and the operation sent to the
region's home. -/

namespace Sys2Proof.Machine
open Sys2Proof

/-- Global side of a copy in copy order: address and bytes of each segment (spec/15 R212, R213, R216). -/
def CopyReq.segments (r : CopyReq) (c : Ctx) : List (Nat × Nat) :=
  match r.segs, r.form with
  | some l, _ => l
  | none, .cps =>
    if r.nidx = 0 then [(r.g, 0)]
    else (List.range r.nidx).map fun i =>
      ((r.g + leValue (c.spadRead (r.list + 4 * i) 4) * 2 ^ r.log2row) % 2 ^ 64, 2 ^ r.log2row)
  | none, _ => match r.layout with
    | some y => y.offsets.map fun o => ((Int.ofNat r.g + o).emod (2 ^ 64 : Int) |>.toNat, 2 ^ y.log2e)
    | none => [(r.g, r.count)]

/-- Global ranges that an operation writes. -/
def Op.globalWrites (o : Op) (c : Ctx) : List (Nat × Nat) :=
  match o.kind with
  | .copy r => if r.form = .cpg then [(r.l, r.count)] else if r.form ≠ .cpw ∧ r.out then r.segments c else []
  | .atom a | .atomnr a => [(a.va, 8)]
  | .sempost va _ => [(va, 8)]
  | _ => []

/-- The range of the own scratchpad that an operation writes. -/
def Op.padWrites (o : Op) : Nat × Nat :=
  match o.kind, o.route with
  | .copy _, .stream _ => (0, 0)
  | .copy r, _ => if r.form != .cpg && !r.out then (r.l, r.bytes) else (0, 0)
  | .fill _ _ _ n slot, _ => (slot, n)
  | _, _ => (0, 0)

/-- The range of a window's peer that an operation writes, as window addresses. -/
def Op.winWrites (o : Op) : Nat × Nat :=
  match o.kind with
  | .copy r => if r.form == .cpw && r.out then (r.g, r.count) else (0, 0)
  | .wstore _ a l => match l with
    | [] => (a, 0)
    | x :: _ => (x.1, (l.getLastD x).1 + 1 - x.1)
  | _ => (0, 0)

/-- Whether two windows reach one peer. -/
def Window.same (a b : Window) : Bool :=
  a.label == b.label && (if a.bound.isSome && b.bound.isSome then a.bound == b.bound else a.berth == b.berth)

/-- Whether ranges overlap. -/
def overlaps (x : Nat × Nat) (a n : Nat) : Bool := decide (x.1 < a + n ∧ a < x.1 + x.2)

/-- The region of another device's home that holds an address, aligned to its size as R133 has it: the size, from 2^lo bytes on in
`n` sizes, is a free value (log entry 100). -/
def State.farRegion (s : State) (lo n a : Nat) : Nat × Nat :=
  let l := lo + Config.farSize s.job a s.time % n
  (a / 2 ^ l * 2 ^ l, 2 ^ l)

/-- Whether the flush of a token form still waits for an earlier write of the berth-thread to the region (R136, R236). -/
def State.flushWaits (s : State) (g : W64) (sp : Bool) : Bool :=
  let c := s.ctx
  let a := g.toNat
  let hit := fun o : Op =>
    if !sp then
      match s.region s.job none a, s.translate s.job a none with
      | some r, _ => (o.globalWrites c).any fun x => overlaps x r.base (2 ^ r.log2)
      | none, .ok (.peer _) => let r := s.farRegion 12 25 a; (o.globalWrites c).any fun x => overlaps x r.1 r.2
      | none, _ => false
    else if isWin a then
      let w := Tab.get Window.none c.windows (winOf a)
      let x := o.winWrites
      let at_ := w.lbase + a % 0x100000
      let r := match w.bound.bind fun p => s.region s.job (some p) at_ with
        | some r => (r.base, 2 ^ r.log2)
        | none => s.farRegion 9 12 at_
      x.2 != 0 && o.win.same w && overlaps (o.win.lbase + x.1 % 0x100000, x.2) r.1 r.2
    else match s.region s.job (some c.self) a with
      | some r => overlaps o.padWrites r.base (2 ^ r.log2)
          -- a window may lead to the berth itself
          || (o.win.bound == some c.self && overlaps (o.win.lbase + o.winWrites.1 % 0x100000, o.winWrites.2) r.base (2 ^ r.log2))
      | none => false
  c.ops.any fun o => !o.settled && hit o

/-- Which forms flush (R235). -/
def TokForm.flushes : TokForm → Bool
  | .lend | .ret | .share => true
  | _ => false
/-- Which forms invalidate the caller's probe entries in the region (spec/09 R131). -/
def TokForm.invalidates : TokForm → Bool
  | .lend | .ret | .unshare => true
  | _ => false

/-- Invalidate the probe entries in the region that holds a global address. -/
def State.dropProbes (s : State) (a : Nat) : State :=
  let hit := fun x : Nat × Nat => match s.region s.job none a, s.translate s.job a none with
    | some r, _ => overlaps x r.base (2 ^ r.log2)
    | none, .ok (.peer _) => let r := s.farRegion 12 25 a; overlaps x r.1 r.2
    | none, _ => false
  s.modCtx fun c => { c with ways := c.ways.filter fun y => !hit (y.2.tag, ptBlk (Tab.get 0 c.ptconf (y.1 / 4096))) }

/-- BOUND of a scratchpad form (R236). -/
def Ctx.spBad (c : Ctx) (g : W64) : Bool :=
  if isWin g.toNat then c.localBad g 1 else (c.inExport g.toNat 1).isNone

/-- Party numbers of the berth-threads of the caller's level-l team other than the caller, in rank order (R236). -/
def State.levelParties (s : State) (l : Nat) : List Nat :=
  match s.teamOf s.ctx with
  | none => []
  | some m =>
    ((m.members l (m.inst l s.ctx.rank)).filter (· != s.ctx.rank)).map (s.rankNum m)

/-- Issue of a token form: a persist point (R236). `x` is TKQUERY's stream register. The caller's probe entries in the region go at
issue, also where the home then refuses the form (DESIGN CHOICE, log entry 33). -/
def tokenForm (h : Hd) (form : TokForm) (g n : Nat) (lvl sp : Bool) (x : Nat) (s : State) : Out :=
  issue h (fun s =>
      let c := s.ctx
      .of [chk (sp && c.spBad (c.reg g)) fcBound (c.reg g),
        chk (lvl && decide (s.nlev ≤ (c.reg n).toNat)) fcBound (c.reg n),
        chk (form == .query && (c.stream x).es != 8) fcStreamUnbound (w64 x)]
        (if form.flushes then freezeIf s (s.flushWaits (c.reg g) sp) .go else .go))
    (fun s =>
      let c := s.ctx
      let targets := if lvl then s.levelParties (c.reg n).toNat
        else if form == .lend || form == .share then [bf (c.reg n) 0 26] else []
      let id := s.nextId
      let route := if form = .query then Route.stream x else .count
      let s := if form.invalidates && !sp then s.dropProbes (c.reg g).toNat else s
      let s := s.pushPersist pathL (.token ⟨form, c.reg g, sp, targets⟩) route 0 (if form.flushes then c.drainTime 7 else 0)
      if form = .query then s.modCtx fun c => c.queueItem x id else s) s

def execTklend (h : Hd) (g n : Nat) (sp : Bool) (s : State) : Out := tokenForm h .lend g n false sp 0 s
def execTkret (h : Hd) (g : Nat) (sp : Bool) (s : State) : Out := tokenForm h .ret g 0 false sp 0 s
def execTksplit (h : Hd) (g : Nat) (sp : Bool) (s : State) : Out := tokenForm h .split g 0 false sp 0 s
def execTkjoin (h : Hd) (g : Nat) (sp : Bool) (s : State) : Out := tokenForm h .join g 0 false sp 0 s
def execTkshare (h : Hd) (g n : Nat) (lvl sp : Bool) (s : State) : Out := tokenForm h .share g n lvl sp 0 s
def execTkunshare (h : Hd) (g : Nat) (sp : Bool) (s : State) : Out := tokenForm h .unshare g 0 false sp 0 s
def execTkatom (h : Hd) (g : Nat) (back sp : Bool) (s : State) : Out := tokenForm h (.atom back) g 0 false sp 0 s
def execTkquery (h : Hd) (g x : Nat) (sp : Bool) (s : State) : Out := tokenForm h .query g 0 false sp x s
def execTkclaim (h : Hd) (g : Nat) (sp : Bool) (s : State) : Out := tokenForm h .claim g 0 false sp 0 s

end Sys2Proof.Machine
end

