-- ==== Sys2Proof/Machine/Matrix.lean ====
section
/-! DEFINITION. The matrix engine (spec/17, spec/18 R263, R264): the matrix forms, what the sequencer reads in each unfrozen ck, and
the retirement of MMUL and WLOAD. -/

namespace Sys2Proof.Machine
open Sys2Proof

-- state of the engine (R244) ----------------------------------------------------------------------------------------------

/-- Key of an accumulator cell. -/
def accKey (c r n : Nat) : Nat := c * 32768 + r * 128 + n
def Ctx.accCell (c : Ctx) (k r n : Nat) : W32 := Tab.get 0 c.acc (accKey k r n)
/-- A slot with a cell written is LIVE. -/
def Ctx.liven (c : Ctx) (k : Nat) : Ctx := { c with live := insertNat k c.live }
/-- Write a row of a slot. -/
def Ctx.setAccRow (c : Ctx) (k r : Nat) (l : List W32) : Ctx :=
  { c.liven k with acc := ((List.range 128).zip l).foldl (fun t x => Tab.set 0 t (accKey k r x.1) x.2) c.acc }
/-- Drop every cell of a slot: they read +0. -/
def Ctx.dropAcc (c : Ctx) (k : Nat) : Ctx := { c with acc := c.acc.filter fun e => e.1 / 32768 != k }

def Ctx.bank (c : Ctx) (i : Nat) : Bank := Tab.get Bank.none c.banks i
def Ctx.modBank (c : Ctx) (i : Nat) (f : Bank → Bank) : Ctx := { c with banks := Tab.upd Bank.none c.banks i f }
/-- A row of a bank as read in a ck: the newest version visible then. -/
def Bank.row (b : Bank) (k ck : Nat) : WRow :=
  ((Tab.get [] b.rows k).find? fun v => decide (v.since ≤ ck)).getD ⟨0, [], []⟩
/-- Write a row, visible from a ck; the versions that a read may still need are kept. -/
def Bank.putRow (b : Bank) (k : Nat) (v : WRow) : Bank := { b with rows := Tab.upd [] b.rows k fun l => v :: l.take 7 }

/-- Matrix state as ACCCONF leaves it (R260). -/
def Ctx.matrixReset (c : Ctx) : Ctx := { c with acc := [], live := [], banks := [], mpb := none }

/-- Ports (R251). -/
def portArray : Nat := 0
def portWeight : Nat := 1
def portRead : Nat := 2
def portMask : Nat := 3
/-- Unfrozen ck for which a port is still held. -/
def Ctx.portHeld (c : Ctx) (p : Nat) : Nat := Tab.get 0 c.ports p
def Ctx.holdPort (c : Ctx) (p n : Nat) : Ctx := { c with ports := Tab.set 0 c.ports p n }
def Ctx.portChk (c : Ctx) (p : Nat) : Option (Nat × W64) := chk (c.portHeld p != 0) fcConfBusy (w64 (c.portHeld p))

/-- Whether low-water service restricts formats (spec/25 R378). -/
def State.lowWater (s : State) : Bool := s.level == 1
def lowWaterFmt : Fmt → Bool
  | .bf16 | .e4m3 | .e5m2 => true
  | _ => false

/-- Whether an MMUL with a mask, or an MPBLD, is in flight. -/
def Ctx.maskedFlight (c : Ctx) : Bool := c.flights.any fun f => match f.eff with | .mmul r => r.masked | _ => false
def Ctx.mpbFlight (c : Ctx) : Bool := c.flights.any fun f => match f.eff with | .mpb _ => true | _ => false

-- gangs (R261) ---------------------------------------------------------------------------------------------------------------

/-- Berths of a gang led by the running berth. -/
def State.gangOf (s : State) (g : Gang) : List Nat := (List.range g.size).map (s.cur + ·)
/-- The first member that is not a follower of the leader's team in the matching mode. -/
def State.badMember (s : State) (g : Gang) : Option Nat :=
  ((List.range g.size).drop 1).find? fun j =>
    let y := s.berth (s.cur + j)
    !(y.placed && y.ctx.team == s.ctx.team && y.ctx.mode == (match g with | .quad => EMode.quad | _ => .pair))

/-- Checks of every M-class word but ACCCONF: a snapshot with matrix work held aside (spec/03 R63), follower mode (R260), and the
gang (R261). -/
def State.matrixChecks (s : State) (g : Gang) : List (Option (Nat × W64)) :=
  let c := s.ctx
  [chk ((c.aside.map Snap.mseq).getD false || c.mode != .own) fcConfBusy 0,
   chk (s.cur % g.size != 0) fcBound (w64 s.cur),
   (s.badMember g).map fun j => (fcConfBusy, w64 j)]

/-- Members with the physical bank of a given role. -/
def State.gangBanks (s : State) (g : Gang) (shadow : Bool) : List (Nat × Nat) :=
  (s.gangOf g).map fun b => (b, if shadow then 1 - (s.ctxAt b).active else (s.ctxAt b).active)

/-- Members of an MMUL with the physical bank each reads, and its format. -/
def State.memberBanks (s : State) (g : Gang) : List (Nat × Nat × Fmt) :=
  (s.gangBanks g false).map fun x => (x.1, x.2, (((s.ctxAt x.1).bank x.2).fmt).getD .bf16)

-- rings named by MMUL and WLOAD (R248) ----------------------------------------------------------------------------------------

/-- The slots that a word takes, in order: of its ring, then of the scale ring. -/
def Ctx.slotsOf (c : Ctx) (q : Nat) (scale : Option Nat) : List (Nat × Nat) :=
  (q, (c.ring q).take) :: match scale with
    | some k => [(k, if k = q then ((c.ring q).take + 1) % (c.ring q).n else (c.ring k).take)]
    | none => []

/-- Freezes until the slots are full, then raises the failure mark issued earliest (spec/15 R218). -/
def slotsVerdict (s : State) (l : List (Nat × Nat)) : Verdict :=
  let c := s.ctx
  let slot := fun x : Nat × Nat => (c.ring x.1).slot x.2
  freezeIf s (l.any fun x => (slot x).st != .full)
    (match firstFail (l.filterMap fun x => (slot x).fail) with
    | some f => f.raise 3 (s.modCtx fun c => l.foldl (fun c x => c.modRing x.1 fun r => r.modSlot x.2 fun y =>
        if y.fail = some f then { y with fail := none } else y) c)
    | none => .go)

/-- Whether a format is scaled (R248). -/
def Fmt.scaled : Fmt → Bool
  | .mxfp4 | .zb4 => true
  | _ => false
/-- Bytes of a scale entry. -/
def scaleBytes (t : Fmt) : Nat := if t = .zb4 then 4 else 1

/-- RING.MISUSE and slot sizes (R249, R252): `need` bytes of ring q, `entries` scale entries when the format is scaled. -/
def Ctx.ringChecks (c : Ctx) (q need entries : Nat) (t : Fmt) : List (Option (Nat × W64)) :=
  let sq := c.sq.getD 0
  [chk ((c.ring q).n == 0) fcRingMisuse (w64 (16 + q)),
   chk (Fmt.scaled t && c.sq.isNone) fcRingMisuse (w64 (16 + q)),
   chk (Fmt.scaled t && (c.ring sq).n == 0) fcRingMisuse (w64 (16 + sq)),
   chk (decide ((c.ring q).z < need)) fcBound (w64 (c.ring q).z),
   chk (Fmt.scaled t && decide ((c.ring sq).z < entries * scaleBytes t)) fcBound (w64 (c.ring sq).z)]

-- MMUL (R246, R247, R252-R254) ----------------------------------------------------------------------------------------------------

/-- The format of a format word's AFMT: codes 1-8. -/
def afmtOf (v : W64) : Option Fmt := if bf v 0 4 = 0 then none else Fmt.ofCode? (bf v 0 4)
/-- Whether two formats pair (R247). -/
def fmtPair (a b : Fmt) : Bool := fmtInt a == fmtInt b
/-- The wider of two element widths. -/
def widerOf (a b : Fmt) : Nat := Nat.max a.bits b.bits
/-- Activation rows of m passes (R247). -/
def rowsOf (wide m : Nat) : Nat := if wide = 16 then m / 2 else if wide = 8 then m else 2 * m
/-- First pass of an activation row, and the pass that covers weight row k of it (R250). -/
def firstPass (wide i : Nat) : Nat := if wide = 16 then 2 * i else if wide = 8 then i else i / 2
def passOf (wide i k : Nat) : Nat := firstPass wide i + if wide = 16 ∧ 128 ≤ k then 1 else 0

/-- The head format word, its activation format, and the active bank's format. -/
def Ctx.mmulFmts (c : Ctx) : W64 × Option Fmt × Option Fmt :=
  let fw := c.fq.headD 0
  (fw, afmtOf fw, (c.bank c.active).fmt)

/-- Slots in the order taken, with the bytes that a word reads of each: whether the berth-thread may read those in its export (spec/09
R121). -/
def State.slotChecks (s : State) (l : List (Nat × Nat)) (ns : List Nat) : List (Option (Nat × W64)) :=
  (l.zip ns).map fun x => (s.ownFault ((s.ctx.ring x.1.1).addr x.1.2) x.2 .read).map fun e => (e.1, w64 e.2)

/-- Whether a member's active bank pairs with an activation format (R247, R252). -/
def State.memberPairs (s : State) (a : Fmt) (b : Nat) : Bool :=
  match ((s.ctxAt b).bank (s.ctxAt b).active).fmt with
  | some w => fmtPair a w
  | none => false

/-- The scale ring that a format takes a slot of. -/
def Ctx.scaleRing (c : Ctx) (t : Fmt) : Option Nat := if Fmt.scaled t then c.sq else none

/-- Checks of MMUL after the gang's (R252): the leader's bank and its followers'. -/
def State.mmulChecks (s : State) (qa m : Nat) (gang : Gang) (mask : Bool) : List (Option (Nat × W64)) :=
  let c := s.ctx
  let v := c.reg m
  let (fw, a, w) := c.mmulFmts
  let af := a.getD .bf16
  let wf := w.getD .bf16
  let wide := widerOf af wf
  let rows := rowsOf wide v.toNat
  [chk c.fq.isEmpty fcFmtqEmpty 0,
   chk (w.isNone || a.isNone || !fmtPair af wf || ((s.gangOf gang).drop 1).any fun b => !s.memberPairs af b) fcBound fw,
   chk (decide (v.toNat < 1 ∨ 256 < v.toNat) || (wide == 16 && v.toNat % 2 != 0) || decide (256 < bf fw 8 8 + rows)) fcBound v,
   c.portChk portArray, chk (mask && c.mpbFlight) fcConfBusy 0]
  ++ c.ringChecks qa (rows * 32 * af.bits) (rows * 8) af
  ++ s.slotChecks (c.slotsOf qa (c.scaleRing af)) [rows * 32 * af.bits, rows * 8 * scaleBytes af]

/-- MMUL: issue. Where the active banks of a gang differ in width, the leader's fixes the passes and the rows (DESIGN CHOICE, log entry
137). -/
def execMmul (h : Hd) (c qa m : Nat) (gang : Gang) (z mask : Bool) (s : State) : Out :=
  issue h (fun s =>
      let x := s.ctx
      .of (s.matrixChecks gang ++ s.mmulChecks qa m gang mask)
        (slotsVerdict s (x.slotsOf qa (x.scaleRing (x.mmulFmts.2.1.getD .bf16)))))
    (fun s =>
      let x := s.ctx
      let (fw, a, w) := x.mmulFmts
      let af := a.getD .bf16
      let wf := w.getD .bf16
      let p := (x.reg m).toNat
      let sq := x.scaleRing af
      let sl := x.slotsOf qa sq
      let addr := fun i => match sl[i]? with | some y => (x.ring y.1).addr y.2 | none => 0
      let rec_ : MRec := {
        t0 := x.uck, slot := c, row0 := bf fw 8 8, mrow0 := bf fw 16 8, z := z, mask := if mask then x.mpb else none,
        masked := mask, afmt := af, wfmt := wf, rows := rowsOf (widerOf af wf) p, qa := qa, aslot := addr 0,
        sq := sq, sslot := addr 1, members := s.memberBanks gang, acts := [] }
      s.modCtx fun x =>
        let x := sl.foldl (fun x y => x.takeSlot y.1) { x with fq := x.fq.tail }
        (x.holdPort portArray p).fly (p + 395) (.mmul rec_)) s

-- reading of operands ---------------------------------------------------------------------------------------------------------------

/-- Element codes packed in bytes (spec/07 R98). -/
def codesOf (bits : Nat) (bs : List Byte) : List Nat :=
  if bits = 4 then bs.flatMap fun b => [b.toNat % 16, b.toNat / 16]
  else if bits = 8 then bs.map fun b => b.toNat
  else (chunks 2 (bs.length / 2) bs).map leValue

/-- n scale entries of a slot from an entry on. -/
def Ctx.scalesAt (c : Ctx) (t : Fmt) (slot first n : Nat) : List Nat :=
  let b := scaleBytes t
  (List.range n).map fun i => leValue (c.spadRead (slot + (first + i) * b) b)

/-- The activation rows whose first pass is pass p. -/
def MRec.passRows (r : MRec) (p : Nat) : List Nat :=
  (List.range r.rows).filter fun i => firstPass (widerOf r.afmt r.wfmt) i == p

/-- Reads of an MMUL in the ck of pass p (R253): activation rows and their scales, on path M. -/
def MRec.readRows (r : MRec) (c : Ctx) (p : Nat) : MRec :=
  { r with acts := r.acts ++ (r.passRows p).map fun i =>
      (codesOf r.afmt.bits (c.spadRead (r.aslot + i * 32 * r.afmt.bits) (32 * r.afmt.bits)),
       if Fmt.scaled r.afmt then c.scalesAt r.afmt r.sslot (8 * i) 8 else []) }

/-- Row k of member j's tile of a WLOAD (R248, R249). -/
def WRec.readRow (r : WRec) (c : Ctx) (j k since : Nat) : WRow :=
  let tile := 256 * 16 * r.fmt.bits
  ⟨since, codesOf r.fmt.bits (c.spadRead (r.wslot + j * tile + k * 16 * r.fmt.bits) (16 * r.fmt.bits)),
   if Fmt.scaled r.fmt && k % 32 == 0 then c.scalesAt r.fmt r.sslot (j * 1024 + 4 * k) 128 else []⟩

/-- Whether a berth is still the follower that a ganged operation names (R261). -/
def State.inGang (s : State) (leader b : Nat) : Bool := b == leader || (s.followers leader).contains b

/-- A row written in the banks of a WLOAD's members. -/
def State.loadRow (s : State) (b : Nat) (r : WRec) (k since : Nat) : State :=
  let c := s.ctxAt b
  ((List.range r.members.length).zip r.members).foldl (fun s (j, m, i) =>
    if s.inGang b m then s.modCtxAt m fun y => y.modBank i fun x => x.putRow k (r.readRow c j k since) else s) s

/-- What the matrix sequencer of a berth reads and writes in one unfrozen ck, by the ck each flight was issued. -/
def State.matrixTick (s : State) (b : Nat) : State :=
  let c := s.ctxAt b
  let s' := c.flights.foldl (fun s f => match f.eff with
    | .wload r => s.loadRow b r (c.uck - r.t0) c.uck
    | _ => s) s
  s'.modCtxAt b fun x => { x with flights := x.flights.map fun f => match f.eff with
      | .mmul r => { f with eff := .mmul (r.readRows c (c.uck - r.t0)) }
      | _ => f }

-- retirement (R253, R254, R263) --------------------------------------------------------------------------------------------------------

/-- Whether a mask block allows a cell (R258). -/
def allowedCell (blk : List Byte) (row col : Nat) : Bool :=
  let num := fun o n => leValue ((blk.drop o).take n)
  let kt := num (0x1000 + 8 * col + 4) 1
  if kt ≤ 63 then (num (16 * row + 8) 8).testBit kt else decide (num (0x1000 + 8 * col) 4 ≤ num (16 * row) 4)

/-- The factors of block b of a cell: activation row, column n, weights in the format of the member's own bank, as read in their ck (R250, R113). -/
def MRec.factors (r : MRec) (bank : Bank) (fmt : Fmt) (i n b : Nat) : List ((FV × FV) × (FV × FV)) :=
  let wide := widerOf r.afmt r.wfmt
  let act := r.acts.getD i ([], [])
  let ck := fun k => r.t0 + 8 + passOf wide i k + k + n
  let sw := (bank.row (32 * b) (ck (32 * b))).scales.getD n 0
  (List.range 32).map fun d =>
    let k := 32 * b + d
    (scaledPair r.afmt (act.1.getD k 0) (act.2.getD b 0), scaledPair fmt ((bank.row k (ck k)).codes.getD n 0) sw)

/-- One cell of an MMUL (R253): member j, activation row i, column n, on the value it lands on. -/
def MRec.cell (r : MRec) (bank : Bank) (fmt : Fmt) (j i n : Nat) (old : W32) : W32 :=
  let masked := match r.mask with
    | some blk => !allowedCell blk ((r.mrow0 + i) % 256) (128 * j + n)
    | none => false
  if masked then 0xFF800000
  else BitVec.ofNat 32 ((List.range 8).foldl (fun acc b => accBlock (fmtInt r.afmt && fmtInt fmt) acc (r.factors bank fmt i n b)) (if r.z then 0 else old.toNat))

/-- Retirement of an MMUL in one member. -/
def Ctx.mmulLand (c : Ctx) (r : MRec) (j i : Nat) (fmt : Fmt) : Ctx :=
  let bank := c.bank i
  (List.range r.rows).foldl (fun c row =>
    let a := r.row0 + row
    c.setAccRow r.slot a ((List.range 128).map fun n => r.cell bank fmt j row n (c.accCell r.slot a n))) c

/-- Retirement of an MMUL: every cell lands, and the slots are released. -/
def State.retireMmul (s : State) (b : Nat) (r : MRec) : State :=
  let s := ((List.range r.members.length).zip r.members).foldl (fun s (j, m, i, fmt) =>
    if s.inGang b m then s.modCtxAt m fun c => c.mmulLand r j i fmt else s) s
  s.modCtxAt b fun c =>
    let c := c.releaseOldest r.qa
    match r.sq with
    | some k => c.releaseOldest k
    | none => c

/-- Retirement of a WLOAD: the slots are released (R249). -/
def State.retireWload (s : State) (b : Nat) (r : WRec) : State :=
  s.modCtxAt b fun c =>
    let c := c.releaseOldest r.qb
    match r.sq with
    | some k => c.releaseOldest k
    | none => c

/-- Whether a flight can land: a remote load that has not returned, or has failed, stays, and holds nothing else back (spec/03 R49). -/
def Flight.lands (f : Flight) : Bool :=
  match f.eff with
  | .rload _ _ none | .rfail _ _ _ => false
  | _ => true
/-- The first flight that is due to land. -/
def Ctx.firstDue (c : Ctx) : Option Flight := c.flights.find? fun f => f.rem == 0 && f.lands
/-- Remove the first flight that is due. -/
def dropDue : List Flight → List Flight
  | [] => []
  | f :: l => if f.rem = 0 ∧ f.lands then l else f :: dropDue l
def Ctx.dropDue (c : Ctx) : Ctx := { c with flights := Machine.dropDue c.flights }

/-- MMUL_RETIRE: the MMUL that is next to land in a berth retires. -/
def execMmulRetire (s : State) : Out :=
  let b := s.subj.berth
  match (s.ctxAt b).firstDue with
  | some ⟨_, .mmul r, _⟩ => .next ((s.modCtxAt b Ctx.dropDue).retireMmul b r)
  | _ => .next s

/-- WLOAD_RETIRE: the WLOAD that is next to retire in a berth releases its slots. -/
def execWloadRetire (s : State) : Out :=
  let b := s.subj.berth
  match (s.ctxAt b).firstDue with
  | some ⟨_, .wload r, _⟩ => .next ((s.modCtxAt b Ctx.dropDue).retireWload b r)
  | _ => .next s

-- the other forms --------------------------------------------------------------------------------------------------------------------------

/-- WLOAD (R249). -/
def execWload (h : Hd) (qb : Nat) (gang : Gang) (fmt : Fmt) (s : State) : Out :=
  issue h (fun s =>
      let c := s.ctx
      .of (s.matrixChecks gang ++ [c.portChk portWeight]
        ++ (c.ringChecks qb (gang.size * 256 * 16 * fmt.bits) (gang.size * 1024) fmt)
        ++ [chk (s.lowWater && !lowWaterFmt fmt) fcBound (w64 fmt.code)]
        ++ s.slotChecks (c.slotsOf qb (c.scaleRing fmt)) [gang.size * 256 * 16 * fmt.bits, gang.size * 1024 * scaleBytes fmt])
        (slotsVerdict s (c.slotsOf qb (c.scaleRing fmt))))
    (fun s =>
      let c := s.ctx
      let sq := c.scaleRing fmt
      let sl := c.slotsOf qb sq
      let addr := fun i => match sl[i]? with | some y => (c.ring y.1).addr y.2 | none => 0
      let ms := s.gangBanks gang true
      let r : WRec := ⟨c.uck, qb, addr 0, sq, addr 1, fmt, ms⟩
      let s := ms.foldl (fun s m => s.modCtxAt m.1 fun c => c.modBank m.2 fun x => { x with fmt := some fmt }) s
      s.modCtx fun c => ((sl.foldl (fun c y => c.takeSlot y.1) c).holdPort portWeight 256).fly 256 (.wload r)) s

/-- WSWAP (R250). -/
def execWswap (h : Hd) (gang : Gang) (s : State) : Out :=
  issue h (fun s => .of (s.matrixChecks gang) .go)
    (fun s => (s.gangOf gang).foldl (fun s b => s.modCtxAt b fun c => { c with active := 1 - c.active }) s) s

/-- FMTPUSH (R246). -/
def execFmtpush (h : Hd) (m : Nat) (s : State) : Out :=
  issue h (fun s =>
      let v := s.ctx.reg m
      .of (s.matrixChecks .single ++
        [chk (bf v 24 40 != 0 || bf v 4 4 != 0 || (afmtOf v).isNone || (s.lowWater && !lowWaterFmt ((afmtOf v).getD .bf16))) fcBound v,
         chk (decide (16 ≤ s.ctx.fq.length)) fcBound 16]) .go)
    (fun s => s.modCtx fun c => { c with fq := c.fq ++ [c.reg m] }) s

/-- FMTCLR (R246). -/
def execFmtclr (h : Hd) (s : State) : Out :=
  issue h (fun s => .of (s.matrixChecks .single) .go) (fun s => s.modCtx fun c => { c with fq := [] }) s

/-- Whether an operation in flight holds a slot of a ring as its scale ring. -/
def Ctx.sqBusy (c : Ctx) : Bool :=
  c.flights.any fun f => match f.eff with
    | .mmul r => c.sq.isSome && (r.sq == c.sq || some r.qa == c.sq)
    | .wload r => c.sq.isSome && (r.sq == c.sq || some r.qb == c.sq)
    | _ => false

/-- SQBIND (R248). -/
def execSqbind (h : Hd) (qb : Nat) (none_ : Bool) (s : State) : Out :=
  issue h (fun s => .of (s.matrixChecks .single ++ [chk s.ctx.sqBusy fcConfBusy 0]) .go)
    (fun s => s.modCtx fun c => { c with sq := if none_ then none else some qb }) s

/-- MPBCLR (R259). -/
def execMpbclr (h : Hd) (s : State) : Out :=
  issue h (fun s => .of (s.matrixChecks .single ++ [chk (s.ctx.maskedFlight || s.ctx.mpbFlight) fcConfBusy 0]) .go)
    (fun s => s.modCtx fun c => { c with mpb := none }) s

/-- ACCZERO (R255). -/
def execAcczero (h : Hd) (c : Nat) (gang : Gang) (s : State) : Out :=
  issue h (fun s => .of (s.matrixChecks gang) .go)
    (fun s => let ms := s.gangOf gang; s.modCtx fun x => x.fly 4 (.accZero c ms)) s

/-- Whether a write to slot c is in flight. -/
def Ctx.accBusy (x : Ctx) (c : Nat) : Bool :=
  x.flights.any fun f => match f.eff with
    | .mmul r => r.slot == c
    | .accRow k _ _ => k == c
    | .accZero k _ => k == c
    | _ => false

/-- ACCFREE (R255). -/
def execAccfree (h : Hd) (c : Nat) (gang : Gang) (s : State) : Out :=
  issue h (fun s => .of (s.matrixChecks gang ++ [chk (s.ctx.accBusy c) fcConfBusy (w64 c)]) .go)
    (fun s => let ms := s.gangOf gang; s.modCtx fun x => x.fly 4 (.accFree c ms)) s

/-- ACCCONF (R260): a persist point. -/
def execAccconf (h : Hd) (m : Nat) (s : State) : Out :=
  issue h (fun s =>
      let c := s.ctx
      let v := c.reg m
      let k := bf v 0 2
      .of [chk (decide (2 < v.toNat)) fcBound v,
        chk (k != 0 && s.cur % (2 ^ k) == 0) fcBound v,
        chk (c.flights.any (fun f => f.eff.isM) || s.leaderBusy s.cur || c.aside.isSome || !c.fq.isEmpty) fcConfBusy 0] .go)
    (fun s => (s.modCtx fun c =>
      { c.matrixReset with mode := match bf (c.reg m) 0 2 with | 1 => .pair | 2 => .quad | _ => .own }).wantPersist) s

/-- ACCREAD (R256). -/
def execAccread (h : Hd) (x : MName) (c m : Nat) (s : State) : Out :=
  issue h (fun s =>
      let y := s.ctx
      .of (s.matrixChecks .single ++ [chk (decide (255 < (y.reg m).toNat)) fcBound (y.reg m), y.portChk portRead]) .go)
    (fun s => s.modCtx fun y =>
      let vals := (List.range 128).map (y.accCell c (y.reg m).toNat)
      (y.holdPort portRead 1).fly 8 (.mcells (y.cellsOf x (List.replicate 128 (BitVec.allOnes 32)) vals)) (names3 [x])) s

/-- ACCWRITE (R256). -/
def execAccwrite (h : Hd) (c m : Nat) (x : MName) (s : State) : Out :=
  issue h (fun s =>
      .of (s.matrixChecks .single ++ [chk (decide (255 < (s.ctx.reg m).toNat)) fcBound (s.ctx.reg m)]) .go)
    (fun s => s.modCtx fun y => y.fly 8 (.accRow c (y.reg m).toNat (y.lanes x)) (names3 [x])) s

/-- Bytes of a row of ACCDRAIN. -/
def drainRow (gang : Gang) (fmt : Fmt) : Nat := 128 * gang.size * (fmt.bits / 8)

/-- One code of a drain (R257): f32 copies the code. -/
def drainCode (fmt : Fmt) (rm : RM) (sat : Bool) (v : W32) : Nat :=
  if fmt = .fp32 then v.toNat else convTo fmt rm sat 0 0 (FF.fp32.decode v.toNat)

/-- ACCDRAIN (R257). -/
def execAccdrain (h : Hd) (c m : Nat) (gang : Gang) (fmt : Fmt) (rm : RM) (sat : Bool) (ra rb : Nat) (s : State) : Out :=
  issue h (fun s =>
      let x := s.ctx
      let a := x.reg ra
      let b := x.reg rb
      let k := x.reg m
      let n := k.toNat * drainRow gang fmt
      .of (s.matrixChecks gang ++
        [chk (decide (k.toNat < 1 ∨ 256 < k.toNat ∨ 256 < b.toNat + k.toNat)) fcBound (b + k),
         chk (decide (0x100000 < a.toNat + n)) fcBound a, chk (a.toNat % 64 != 0) fcAlign a, x.portChk portRead,
         (s.ownFault a.toNat n .write).map fun e => (e.1, a)]) .go)
    (fun s =>
      let x := s.ctx
      let a := (x.reg ra).toNat
      let b := (x.reg rb).toNat
      let k := (x.reg m).toNat
      let eb := fmt.bits / 8
      let ms := s.gangOf gang
      let bytes := (List.range k).flatMap fun i => ms.flatMap fun j => (List.range 128).flatMap fun n =>
        leBytes eb (drainCode fmt rm sat ((s.ctxAt j).accCell c (b + i) n))
      s.modCtx fun x => (x.holdPort portRead k).fly (8 + k) (.drain (cellsFrom a bytes) ms)) s

/-- The first entry of a mask block that is out of form (R258, R259). -/
def mpbBad (blk : List Byte) : Option Nat :=
  let num := fun o n => leValue ((blk.drop o).take n)
  match (List.range 256).find? fun i => num (16 * i + 4) 4 != 0 with
  | some i => some (16 * i)
  | none => ((List.range 512).find? fun n =>
      num (0x1000 + 8 * n + 5) 3 != 0 || decide (64 ≤ num (0x1000 + 8 * n + 4) 1 ∧ num (0x1000 + 8 * n + 4) 1 ≤ 254)).map
        fun n => 0x1000 + 8 * n

/-- MPBLD (R259). -/
def execMpbld (h : Hd) (m : Nat) (s : State) : Out :=
  issue h (fun s =>
      let c := s.ctx
      let a := c.reg m
      .of (s.matrixChecks .single ++
        [chk (a.toNat % 512 != 0) fcAlign a, chk (decide (0x100000 < a.toNat + 0x2000)) fcBound a,
         (mpbBad (c.spadRead a.toNat 0x2000)).map fun o => (fcBound, a + w64 o),
         (s.ownFault a.toNat 0x2000 .read).map fun e => (e.1, w64 e.2),
         chk c.maskedFlight fcConfBusy 0, c.portChk portMask]) .go)
    (fun s => s.modCtx fun c => (c.holdPort portMask 16).fly 16 (.mpb (c.spadRead (c.reg m).toNat 0x2000))) s

end Sys2Proof.Machine
end

