-- ==== Sys2Proof/Machine/Words.lean ====
section
/-! DEFINITION. The meaning of one berth word, as the group that holds it issues it (spec/03 R35). -/

namespace Sys2Proof.Machine
open Sys2Proof

/-- The meaning of a berth word; nothing else is ever fetched by a pilot. -/
def berthWord (i : Instr) (t0 : State) : Out :=
  match i with
  | .nop h => execNop h t0
  | .add h d a b => execAdd h d a b t0
  | .sub h d a b => execSub h d a b t0
  | .and h d a b => execAnd h d a b t0
  | .or h d a b => execOr h d a b t0
  | .xor h d a b => execXor h d a b t0
  | .andn h d a b => execAndn h d a b t0
  | .shl h d a b => execShl h d a b t0
  | .shr h d a b => execShr h d a b t0
  | .sar h d a b => execSar h d a b t0
  | .rol h d a b => execRol h d a b t0
  | .min h d a b => execMin h d a b t0
  | .max h d a b => execMax h d a b t0
  | .minu h d a b => execMinu h d a b t0
  | .maxu h d a b => execMaxu h d a b t0
  | .clz h d a => execClz h d a t0
  | .popc h d a => execPopc h d a t0
  | .mov h d a => execMov h d a t0
  | .mul h d a b => execMul h d a b t0
  | .mulh h d a b => execMulh h d a b t0
  | .mulhu h d a b => execMulhu h d a b t0
  | .div h d a b => execDiv h d a b t0
  | .divu h d a b => execDivu h d a b t0
  | .rem h d a b => execRem h d a b t0
  | .remu h d a b => execRemu h d a b t0
  | .addi h d a imm => execAddi h d a imm t0
  | .movi h d imm => execMovi h d imm t0
  | .movh h d a imm => execMovh h d a imm t0
  | .shli h d a n => execShli h d a n t0
  | .shri h d a n => execShri h d a n t0
  | .sari h d a n => execSari h d a n t0
  | .bext h d a lo wm1 => execBext h d a lo wm1 t0
  | .bins h d a lo wm1 => execBins h d a lo wm1 t0
  | .setb h d a p => execSetb h d a p t0
  | .clrb h d a p => execClrb h d a p t0
  | .cmpeq h d p a b => execCmpeq h d p a b t0
  | .cmpne h d p a b => execCmpne h d p a b t0
  | .cmplt h d p a b => execCmplt h d p a b t0
  | .cmpltu h d p a b => execCmpltu h d p a b t0
  | .cmple h d p a b => execCmple h d p a b t0
  | .cmpleu h d p a b => execCmpleu h d p a b t0
  | .sel h d a b => execSel h d a b t0
  | .lds h d a imm => execLds h d a imm t0
  | .sts h d a imm => execSts h d a imm t0
  | .br h off => execBr h off t0
  | .call h d off => execCall h d off t0
  | .jmp h d a => execJmp h d a t0
  | .ret h a => execRet h a t0
  | .loop h l c off => execLoop h l c off t0
  | .loopi h l n off => execLoopi h l n off t0
  | .mtl h r l a => execMtl h r l a t0
  | .mfl h d r l => execMfl h d r l t0
  | .trap h imm => execTrap h imm t0
  | .bkpt h imm => execBkpt h imm t0
  | .rett h => execRett h t0
  | .exit h => execExit h t0
  | .mfsys h d n => execMfsys h d n t0
  | .mtsys h a n => execMtsys h a n t0
  | .phase h l => execPhase h l t0
  | .fence h ma mb => execFence h ma mb t0
  | .pfence h die => execPfence h die t0
  | .time h d fabric => execTime h d fabric t0
  | .id h d key => execId h d key t0
  | .launch h a q => execLaunch h a q t0
  | .mboxreg h d a nm1 sm6 loc => execMboxreg h d a nm1 sm6 loc t0
  | .mboxack h => execMboxack h t0
  | .tklend h g n sp => execTklend h g n sp t0
  | .tkret h g sp => execTkret h g sp t0
  | .tksplit h g sp => execTksplit h g sp t0
  | .tkjoin h g sp => execTkjoin h g sp t0
  | .tkshare h g n lvl sp => execTkshare h g n lvl sp t0
  | .tkunshare h g sp => execTkunshare h g sp t0
  | .tkatom h g back sp => execTkatom h g back sp t0
  | .tkquery h g x sp => execTkquery h g x sp t0
  | .tkclaim h g sp => execTkclaim h g sp t0
  | .vadd h d a b f16 rm w k => execVadd h d a b f16 rm w k t0
  | .vsub h d a b f16 rm w k => execVsub h d a b f16 rm w k t0
  | .vmul h d a b f16 rm w k => execVmul h d a b f16 rm w k t0
  | .vfma h d a b f16 rm w k => execVfma h d a b f16 rm w k t0
  | .vfms h d a b f16 rm w k => execVfms h d a b f16 rm w k t0
  | .vmin h d a b f16 w k => execVmin h d a b f16 w k t0
  | .vmax h d a b f16 w k => execVmax h d a b f16 w k t0
  | .vabs h d a f16 w k => execVabs h d a f16 w k t0
  | .vneg h d a f16 w k => execVneg h d a f16 w k t0
  | .vexp2 h d a f16 w k => execVexp2 h d a f16 w k t0
  | .vlog2 h d a f16 w k => execVlog2 h d a f16 w k t0
  | .vrsq h d a f16 w k => execVrsq h d a f16 w k t0
  | .vrcp h d a f16 w k => execVrcp h d a f16 w k t0
  | .viadd h d a b u sat w k => execViadd h d a b u sat w k t0
  | .visub h d a b u sat w k => execVisub h d a b u sat w k t0
  | .vimul h d a b hi u sat w k => execVimul h d a b hi u sat w k t0
  | .vand h d a b w k => execVand h d a b w k t0
  | .vor h d a b w k => execVor h d a b w k t0
  | .vxor h d a b w k => execVxor h d a b w k t0
  | .vshl h d a b w k => execVshl h d a b w k t0
  | .vshr h d a b w k => execVshr h d a b w k t0
  | .vsar h d a b w k => execVsar h d a b w k t0
  | .vcmp h kd a b t c w k => execVcmp h kd a b t c w k t0
  | .vsel h d a b w k => execVsel h d a b w k t0
  | .vcvt h d a src dst rm sat nm1 p k => execVcvt h d a src dst rm sat nm1 p k t0
  | .vkey h d a desc t f16 w k => execVkey h d a desc t f16 w k t0
  | .vhist h d a lo dbm1 half acc w k => execVhist h d a lo dbm1 half acc w k t0
  | .vscan h d a rev int rm w k => execVscan h d a rev int rm w k t0
  | .vred h d a kind u f16 rm w k => execVred h d a kind u f16 rm w k t0
  | .vcomp h d a w k => execVcomp h d a w k t0
  | .vexpd h d a w k => execVexpd h d a w k t0
  | .vperm h d a b z hi w k => execVperm h d a b z hi w k t0
  | .vbcast h d a w imm => execVbcast h d a w imm t0
  | .vmovs h m s_ sx toVec w j => execVmovs h m s_ sx toVec w j t0
  | .vrot h a imm => execVrot h a imm t0
  | .vmconf h a imm => execVmconf h a imm t0
  | .kand h kd ka kb => execKand h kd ka kb t0
  | .kor h kd ka kb => execKor h kd ka kb t0
  | .knot h kd ka => execKnot h kd ka t0
  | .kpopc h d ka => execKpopc h d ka t0
  | .vld h m a k w imm => execVld h m a k w imm t0
  | .vst h m a k w imm => execVst h m a k w imm t0
  | .vldx h d a p w k => execVldx h d a p w k t0
  | .vstx h a b p w k => execVstx h a b p w k t0
  | .cp h g l n x q out st tag => execCp h g l n x q out st tag t0
  | .cpw h g l n x q out st tag => execCpw h g l n x q out st tag t0
  | .cpg h g l n zero tag => execCpg h g l n zero tag t0
  | .cps h g l n x q out st tag => execCps h g l n x q out st tag t0
  | .lwait h c => execLwait h c t0
  | .stbind h x es => execStbind h x es t0
  | .strel h g l x => execStrel h g l x t0
  | .rconf h q l n => execRconf h q l n t0
  | .racq h q l => execRacq h q l t0
  | .rpub h q l => execRpub h q l t0
  | .rtake h q l => execRtake h q l t0
  | .rrel h q => execRrel h q t0
  | .probe h g l pt off => execProbe h g l pt off t0
  | .pwait h l => execPwait h l t0
  | .pinv h g pt all => execPinv h g pt all t0
  | .atom h g l n x op_ ord w64 scope => execAtom h g l n x op_ ord w64 scope t0
  | .atomnr h g l n op_ ord w64 scope => execAtomnr h g l n op_ ord w64 scope t0
  | .atomfence h scope => execAtomfence h scope t0
  | .semwait h g n cond sub => execSemwait h g n cond sub t0
  | .sempost h g n => execSempost h g n t0
  | .whpush h g l n => execWhpush h g l n t0
  | .imload h g l n tag => execImload h g l n tag t0
  | .layset h l n => execLayset h l n t0
  | .wconf h w g l n => execWconf h w g l n t0
  | .mmul h c qa m gang z mask => execMmul h c qa m gang z mask t0
  | .wload h qb gang fmt => execWload h qb gang fmt t0
  | .wswap h gang => execWswap h gang t0
  | .fmtpush h m => execFmtpush h m t0
  | .fmtclr h => execFmtclr h t0
  | .sqbind h qb none_ => execSqbind h qb none_ t0
  | .mpbclr h => execMpbclr h t0
  | .acczero h c gang => execAcczero h c gang t0
  | .accfree h c gang => execAccfree h c gang t0
  | .accconf h m => execAccconf h m t0
  | .accdrain h c m gang fmt rm sat ra rb => execAccdrain h c m gang fmt rm sat ra rb t0
  | .accread h x c m => execAccread h x c m t0
  | .accwrite h c m x => execAccwrite h c m x t0
  | .mpbld h m => execMpbld h m t0
  | _ => .next { t0 with iss := .issued }

end Sys2Proof.Machine
end

