-- ==== Sys2Proof/Machine/Group.lean ====
section
/-! DEFINITION. One ck of a berth: the boundary (spec/23 R334), fetch and issue of a group (spec/03 R35-R37, R51-R64), the landing
of results at its end (R45, R46), the release of held operations and the journal entry (spec/09 R388, spec/23 R344). -/

namespace Sys2Proof.Machine
open Sys2Proof

-- whose turn comes next ---------------------------------------------------------------------------------------------------

/-- The first active pier run from a port and slot on. -/
def State.pierFrom (s : State) (p k : Nat) : Agent :=
  let runs := s.ports.flatMap fun e => (e.2.runs.filter fun r => r.2.isSome).map fun r => (e.1, r.1)
  match runs.find? fun r => decide (p < r.1 ∨ (p = r.1 ∧ k ≤ r.2)) with
  | some r => .pier r.1 r.2
  | none => .clock
/-- The first wharf unit with an entry from u on. -/
def State.wharfFrom (s : State) (u : Nat) : Agent :=
  match s.units.find? fun e => decide (u ≤ e.1) && !e.2.ring.isEmpty && s.unitServed e.1 with
  | some e => .wharf e.1
  | none => s.pierFrom 0 0
/-- The first placed berth from b on. -/
def State.berthFrom (s : State) (b : Nat) : Agent :=
  match s.berths.find? fun e => decide (b ≤ e.1) && e.2.placed with
  | some e => .issue e.1
  | none => s.wharfFrom 0

-- fetch (R35, R36) -----------------------------------------------------------------------------------------------------------

/-- Whether a word offset lies in the range of an outstanding IMLOAD (spec/15 R239). -/
def Ctx.loading (c : Ctx) (o : Nat) : Bool :=
  c.ops.any fun p => match p.kind with
    | .imload _ l n => decide (l ≤ o ∧ o < l + n)
    | _ => false

/-- The words of a group from an offset on, or the offset at which the fetch raises BOUND. -/
def fetchGroup (x : Berth) : Nat → Nat → Except Nat (List (Nat × W64))
  | 0, o => .error o
  | f + 1, o =>
    if x.codelen ≤ o ∨ 32767 < o ∨ x.ctx.loading o then .error o
    else
      let w := x.word o
      if bt w 63 then .ok [(o, w)]
      else match fetchGroup x f (o + 1) with
        | .error e => .error e
        | .ok l => .ok ((o, w) :: l)

/-- A fetched word: offset, class and instruction. -/
structure Fetched where
  off : Nat
  cls : SlotClass
  ins : Instr
deriving DecidableEq, Repr

/-- Decode the words of a group; the scanner's code of the first word that has no meaning. -/
def decodeGroup : List (Nat × W64) → Except Nat (List Fetched)
  | [] => .ok []
  | (o, w) :: l =>
    match decodeBerth w.toNat, decodeGroup l with
    | .error e, _ => .error e
    | _, .error e => .error e
    | .ok i, .ok r => .ok (⟨o, slotClass (fld w.toNat 56 7), i⟩ :: r)

-- issue -----------------------------------------------------------------------------------------------------------------------

/-- A word of the group on a state. -/
def Fetched.run (w : Fetched) (s : State) : Out := berthWord w.ins { s with woff := w.off }

/-- What the words say, each on the state at the boundary. -/
inductive Probe where
  | all (l : List (Fetched × State))
  | stop (o : Out)

/-- Try every word. -/
def tryWords (s : State) : List Fetched → Probe
  | [] => .all []
  | w :: ws =>
    match w.run s with
    | .next t => match tryWords s ws with
      | .all l => .all ((w, t) :: l)
      | .stop o => .stop o
    | o => .stop o

/-- The fault that the group raises (R64, spec/15 R218): the first word in order that faults at issue; else the failure of the
operation issued earliest. -/
def groupFault (l : List (Fetched × State)) : Option State :=
  match l.find? fun x => x.2.iss == .trapped none with
  | some x => some x.2
  | none =>
    (l.foldl (fun (m : Option (Nat × State)) x => match x.2.iss, m with
      | .trapped (some op), none => some (op, x.2)
      | .trapped (some op), some (best, t) => if op < best then some (op, x.2) else some (best, t)
      | _, m => m) none).map Prod.snd

/-- Requests that the frozen words send (R54). -/
def sendRequests : List (Fetched × State) → State → State
  | [], s => s
  | (w, t) :: l, s =>
    if t.iss = .frozen then match w.run s with
      | .next u => sendRequests l (if u.iss = .frozen then u else s)
      | _ => sendRequests l s
    else sendRequests l s

/-- Run words in order; none when one of them does not issue after the others. -/
def runWords : List Fetched → State → Option State
  | [], s => some s
  | w :: ws, s =>
    match w.run s with
    | .next t => if t.iss = .issued then runWords ws t else none
    | _ => none

/-- Words of a class. -/
def ofClass (k : SlotClass) (l : List Fetched) : List Fetched := l.filter fun w => w.cls == k

/-- The FENCEs in force before a group hold the operations that it issues (spec/09 R144, R388). -/
def State.holdNew (s old : State) : State :=
  let c := old.ctx
  if c.fences = [] then s
  else
    let job := old.job
    let hold := fun o : Op => if old.nextId ≤ o.id then { o with held := c.fenceHold (s.opPath job o) } else o
    s.modCtx fun x => { x with ops := x.ops.map hold }

/-- A ring after a group: what the L word made of it, with what an MMUL or WLOAD took of the ring as it stood before (R47, spec/15
R222). A word that takes found a full slot; where the L word leaves none, it is an RCONF, which restarts the ring. -/
def mergeRing (old l t : Ring) : Ring :=
  if t = old ∨ l.slots = [] ∨ l.base ≠ old.base ∨ l.z ≠ old.z ∨ l.n ≠ old.n then l
  else
    let slot := fun (r : Ring) i => Tab.get Slot.empty r.slots i
    { l with
      take := t.take
      slots := (List.range l.n).foldl (fun k i => if slot t i = slot old i then k else Tab.set Slot.empty k i (slot t i)) l.slots }

/-- A window after a group: as the L word left it, with the units that the group's stores took through it (spec/15 R241). -/
def mergeWindow (old l t : Window) : Window := { l with out := l.out + (t.out - old.out) }

/-- What an L word does to rings and windows holds for words issued from the next ck on (R47, spec/15 R222, R241): `old` is the
context before the L word, `l` the one after it. -/
def Ctx.mergeL (u old l : Ctx) : Ctx :=
  if l.rings = old.rings ∧ l.windows = old.windows then u
  else
    let ring := fun (c : Ctx) q => Tab.get Ring.none c.rings q
    let win := fun (c : Ctx) w => Tab.get Window.none c.windows w
    { u with
      rings := (List.range 16).foldl (fun k q => Tab.set Ring.none k q (mergeRing (ring old q) (ring l q) (ring u q))) u.rings
      windows := (List.range 16).foldl (fun k w => Tab.set Window.none k w (mergeWindow (win old w) (win l w) (win u w))) u.windows }

/-- Whether the L word and a store of one group took more units of a window than it allows: the group then waits until both can be
taken (R51). -/
def overLimit (old l u : Ctx) : Bool :=
  (List.range 16).any fun w =>
    let at_ := fun c : Ctx => Tab.get Window.none c.windows w
    (at_ l).limit == (at_ old).limit && decide ((at_ old).out < (at_ l).out ∧ (at_ old).out < (at_ u).out
      ∧ (at_ l).limit < (mergeWindow (at_ old) (at_ l) (at_ u)).out)

/-- The whole group (R35): its C word, then its L word, so that what each of them covers holds no operation of its own group; the
other words see the rings and windows of before the L word, and its stores land after those of the S words (spec/15 R221, spec/13
R207). -/
def issueWords (s : State) (ws : List Fetched) : Option State :=
  match ws with
  | [w] => (runWords [w] s).map fun t => t.holdNew s
  | _ =>
    match runWords (ofClass .c ws) s with
    | none => none
    | some c =>
      let fences := c.ctx.fences
      match runWords (ofClass .l ws) (c.modCtx fun x => { x with fences := [] }) with
      | none => none
      | some l =>
        let keep := l.ctx.flights.take c.ctx.flights.length
        let late := l.ctx.flights.drop c.ctx.flights.length
        match runWords (ofClass .s ws) (l.modCtx fun x => { x with flights := keep, rings := c.ctx.rings, windows := c.ctx.windows }) with
        | none => none
        | some t =>
          match runWords (ofClass .v ws ++ ofClass .m ws) (t.modCtx fun x => { x with flights := x.flights ++ late }) with
          | none => none
          | some u => if overLimit c.ctx l.ctx u.ctx then none
            else some ((u.modCtx fun x => { x.mergeL c.ctx l.ctx with fences := fences }).holdNew s)

/-- End of the ck's issue part. -/
def State.toLand (s : State) : State := { s with agent := .land s.cur, woff := 0, skip := none }
/-- A ck in which nothing issues and results land. -/
def State.waitCk (s : State) : State := (s.modCtx fun c => { c with open_ := true }).toLand
/-- A frozen ck (R50). -/
def State.frozenCk (s : State) : State := (s.modCtx fun c => { c with frozenFor := c.frozenFor + 1 }).toLand

/-- Retirement of a berth-thread (spec/01 R30, spec/11 R180, spec/18 R264): what is in flight is discarded, its export's tokens are
deleted, and its engine is in mode OWN. -/
def State.retireThread (s : State) (b : Nat) : State :=
  let c := s.ctxAt b
  let s := (s.dropExport c.self).modMan c.team fun m => { m with exited := insertNat c.rank m.exited }
  s.modCtxAt b fun c =>
    { c.matrixReset with flights := [], branch := none, aside := none, ops := [], mode := .own, pilot := .retired, pending := none }

/-- An EXIT has issued: what is in flight is discarded, and the berth-thread retires at once, or when the operations that its own group
issued, numbered from `first` on, are performed (spec/11 R180). -/
def State.leave (s : State) (first : Nat) : State :=
  let stays := fun o : Op => decide (first ≤ o.id) && !o.kind.isPoll
  let s := s.modCtx fun c =>
    { c with flights := [], branch := none, aside := none, fences := []
             ops := (c.ops.filter stays).map fun o => { o with held := 0, rel := 0 } }
  if s.ctx.ops.isEmpty then s.retireThread s.cur else s

/-- Calls that are open while a debugger steps over them (spec/23 R358): 0 the group is still to issue, 1 halt at the next
boundary, 2 halt when no branch is pending, 3 + k halt when k + 1 calls have returned. -/
def stepNext (beyond : Bool) (calls rets : Nat) : Option Nat → Option Nat
  | none => none
  | some 0 => if beyond ∧ 0 < calls then some (2 + calls) else some 1
  | some (n + 1) =>
    if n < 2 then some (n + 1)
    else
      let k := n - 1 + calls
      if k ≤ rets then some 2 else some (k - rets + 2)

/-- Calls and returns that a group takes. -/
def callsOf (s : State) (ws : List Fetched) : Nat × Nat :=
  if s.ctx.branch.isSome ∨ s.ctx.quiet ≠ 0 then (0, 0)
  else ws.foldl (fun n w => match w.ins with
    | .call h _ _ => if s.ctx.guard h then (n.1 + 1, n.2) else n
    | .jmp h d _ => if s.ctx.guard h ∧ d ≠ 0 then (n.1 + 1, n.2) else n
    | .ret h _ => if s.ctx.guard h then (n.1, n.2 + 1) else n
    | _ => n) (0, 0)

/-- What follows the words of an issued group: end-of-body tests (R57, R59), a branch that falls due (R55), the next group, and an
EXIT (R180). `old` is the state before the group. -/
def State.afterWords (s old : State) (ws : List Fetched) (stop : Nat) : State :=
  let c := s.ctx
  let (c, back) := if c.hs then (c, none) else c.loopTests (c.endLevels c.pc stop)
  let seq := match s.skip, back with
    | some n, _ => n
    | none, some n => n
    | none, none => stop
  let c := match old.ctx.branch with
    | some ⟨t, d⟩ => if d ≤ 1 then { c with pc := t.toNat, branch := none } else { c with pc := seq, branch := some ⟨t, d - 1⟩ }
    | none => { c with pc := seq }
  let c := if old.ctx.quiet = 0 then c else { c with quiet := old.ctx.quiet - 1 }
  let n := callsOf old ws
  let s := s.modBerth s.cur fun x =>
    { x with
      ctx := { c with open_ := true, went := true, frozenFor := 0 }
      bpSkip := false
      stepping := stepNext (bt x.dbgctl 60) n.1 n.2 x.stepping }
  (if c.pilot = .exit then s.leave old.nextId else s).toLand

/-- Issue of the group at the PC. -/
def State.issueGroup (s : State) : Out :=
  let x := s.berth s.cur
  match fetchGroup x groupFuel x.ctx.pc with
  | .error o => .next (s.takeTrap ⟨fcBound, w64 o, 0, 0⟩)
  | .ok raw =>
    match decodeGroup raw with
    | .error code => .fault (.undecodable code)
    | .ok ws =>
      match tryWords s ws with
      | .stop o => o
      | .all l =>
        match groupFault l with
        | some t => .next { t with woff := 0, skip := none }
        | none =>
          if l.any fun y => y.2.iss == .waiting then .next s.waitCk
          else if l.any fun y => y.2.iss == .frozen then .next (sendRequests l s).frozenCk
          else match issueWords s ws with
            | some t => .next (t.afterWords s ws (x.ctx.pc + raw.length))
            | none => .next s.frozenCk

-- the boundary (spec/23 R334) ---------------------------------------------------------------------------------------------------

/-- Debug halt at a boundary (R357). -/
def State.debugHalt (s : State) (reason : Nat) : State :=
  (s.modBerth s.cur fun x =>
    { x with st := .halted, reason := reason, stepping := none, bpSkip := reason == 3, ctx := { x.ctx.atBoundary with pending := none } }).toLand

/-- Whether an enabled breakpoint names a word of the group about to issue (R358). -/
def Berth.breaks (x : Berth) : Bool :=
  !x.bpSkip && (let stop := x.groupEnd groupFuel x.ctx.pc
    x.bps.any fun e => bt e.2 63 && decide (x.ctx.pc ≤ bf e.2 0 15 ∧ bf e.2 0 15 < stop))

/-- Whether a step has to halt at this boundary. -/
def Berth.stepDone (x : Berth) : Bool :=
  match x.stepping with
  | some 1 => true
  | some 2 => x.ctx.branch.isNone
  | _ => false

/-- A berth-thread of a team that has ended proceeds as if by EXIT (R336, spec/01 R31); its failures end nothing further. -/
def State.endedCk (s : State) : State :=
  if s.ctx.holding then s.waitCk
  else if s.exitReady then (s.retireThread s.cur).toLand
  else s.frozenCk

/-- A result due whose remote load has not returned (R49): the berth freezes, or waits while the load is held (spec/09 R388). The
failure of a load is raised here (spec/09 R123). -/
def State.dueCk (s : State) : State :=
  let c := s.ctx
  let held := c.flights.any fun f => f.rem == 0 && match f.eff with
    | .rload i _ none => ((c.op i).map fun o => decide (0 < o.held)).getD false
    | _ => false
  match c.flights.find? fun f => f.rem == 0 with
  | some ⟨_, .rfail _ _ f, _⟩ => s.takeTrap ⟨f.code, f.addr, 7, 0⟩
  | _ => if held then s.waitCk else s.frozenCk

/-- The refusal to raise at a boundary: the earliest issued, once no token form issued before it is without an outcome (spec/15 R236). -/
def State.refusalDue (s : State) : Option Fail :=
  (firstFail s.ctx.refusals).filter fun f => !(s.ctx.ops.any fun o => o.unruled && decide (o.id < f.op))

/-- A ck in which the berth is frozen for the replay of a burst (R51); the replay is complete at its end when it was the last. -/
def State.replayCk (s : State) (b : Nat) : State :=
  (s.modBerth b fun x => { x with replay := x.replay.map (· - 1) }).frozenCk

/-- A turn of a berth. -/
def State.turn (i : Instr) (b : Nat) : Option Turn := some ⟨i, ⟨b, 0, 0, 0⟩⟩

/-- The items of a boundary in order, then the group. -/
def State.boundary (s : State) : Out :=
  let b := s.cur
  let x := s.berth b
  let c := x.ctx
  let ended := ((s.teamOf c).map Man.ended).getD true
  match c.pending with
  | some t =>
    if t.code = fcBkpt ∧ bt x.dbgctl 59 then .next (s.debugHalt 2) else .next (s.takeTrap t)
  | none =>
    if ended then .next s.endedCk
    else if bt x.dbgctl 63 ∧ x.stepping.isNone then .next (s.debugHalt 0)
    else if x.stepDone then .next (s.debugHalt 1)
    else if x.breaks then .next (s.debugHalt 3)
    else if x.preempt then
      .next ((s.modBerth b fun x =>
        { x with st := .draining, preempt := false, wasHalted := x.stepping.isSome, stepping := none, ctx := x.ctx.atBoundary }).toLand)
    else if x.gate then
      -- a poll goes on while the tile is gated; it is made afresh when the tile is ungated
      .next (((s.modBerth b fun x =>
        { x with st := .gated, gate := false, ctx := { x.ctx.abandonLoads with persisting := false, persisted := false } }).beginPersist b).toLand)
    else match s.refusalDue with
      | some f =>
        .next ((s.modCtx fun c => { c with refusals := c.refusals.filter (· != f) }).takeTrap ⟨f.code, f.addr, 7, f.tag⟩)
      | none =>
        if 1024 ≤ x.shadow.entries then
          -- the persist that spec/23 R344 forces; the berth is frozen until it is complete
          if x.persistBusy then .next s.frozenCk
          else .next { s with agenda := State.turn .journalForcedPersist b :: State.turn .groupIssue b :: s.agenda }
        else if x.replay.isSome then .next (s.replayCk b)
        else if c.flights.any fun f => f.rem == 0 then .next s.dueCk
        else s.issueGroup

/-- Ck in which the harbour office holds the freeze line while throttling is active (spec/25 R382): which they are is not given; the
model takes every other pair of steps of the device counter (log entry 17). -/
def State.throttled (s : State) : Bool := (bt s.pwrstat 16 || bt s.pwrstat 17) && s.time / 2 % 2 == 1

/-- GROUP_ISSUE: the first part of a berth's ck. -/
def execGroupIssue (s : State) : Out :=
  let b := s.subj.berth
  if s.agent ≠ .issue b then .next s
  else
    let s := { s with cur := b }
    let x := s.berth b
    if x.st ≠ .run ∨ s.throttled then .next s.toLand
    else if x.ctx.pilot = .retired then
      -- a retired berth-thread stands at its boundary
      .next (if x.preempt then s.modBerth b fun x => { x with st := .draining, preempt := false } else s).toLand
    else if x.ctx.pilot = .exit then .next s.endedCk
    else if x.ctx.pilot = .rett then
      if ((s.teamOf x.ctx).map Man.ended).getD true then .next s.endedCk
      else if x.ctx.flights.isEmpty then .next { s with agenda := State.turn .handlerResume b :: State.turn .groupIssue b :: s.agenda }
      else if x.replay.isSome then .next (s.replayCk b)
      else if x.ctx.flights.any fun f => f.rem == 0 then .next s.dueCk
      else .next s.waitCk
    else s.boundary

/-- HANDLER_RESUME (spec/11 R171, spec/23 R337). -/
def execHandlerResume (s : State) : Out :=
  let b := s.subj.berth
  let c := s.ctxAt b
  if c.pilot = .rett ∧ c.flights = [] then .next (s.modCtxAt b Ctx.leaveTrap) else .next s

-- landing (R45, R46) --------------------------------------------------------------------------------------------------------------

/-- Write the masked bits of a cell, unless its row is dead now (R43). -/
def Ctx.landCell (c : Ctx) (k : Nat) (mask v : W32) : Ctx :=
  if 49152 ≤ k ∧ rowDead c.rb c.ld ((k - 49152) / 128) then c
  else { c with mrf := Tab.upd 0 c.mrf k fun x => (x &&& ~~~mask) ||| (v &&& mask) }

/-- Write bytes of the scratchpad. -/
def Ctx.landStore (c : Ctx) (l : List Host.Cell) : Ctx := { c with spad := Memory.writeCells zeroByte c.spad l }

/-- Where the data of a remote load land. -/
def Ctx.landLoad (c : Ctx) (d : LoadDest) (bs : List Byte) : Ctx :=
  match d with
  | .sreg r => c.setReg r (w64 (leValue bs))
  | .bits r m => c.setReg r ((c.reg r &&& ~~~m) ||| (w64 (leValue bs) &&& m))
  | .cells l => (l.zip (bytesLanes bs)).foldl (fun c x => c.landCell x.1.1 x.1.2 x.2) c

/-- A berth-thread's own store lands, as a write of its scratchpad that a local mailbox counts (spec/01 R28, spec/11 R178). -/
def State.storeIn (s : State) (b : Nat) (l : List Host.Cell) : State :=
  let s := s.modCtxAt b fun c => c.landStore l
  if s.mboxes = [] then s
  else (cellRuns (l.map Prod.fst)).foldl (fun s r => s.arrive 0 (some (s.ctxAt b).self) r.1 r.2) s

/-- What is left of a load's destination once the result of a later word lands in the same ck (R46). -/
def LoadDest.minus (d : LoadDest) (e : Eff) : LoadDest :=
  let cut := fun (r : Nat) (m : W64) => match d with
    | .sreg q => if q = r then .bits q (~~~m) else d
    | .bits q k => if q = r then .bits q (k &&& ~~~m) else d
    | .cells _ => d
  let cover := fun l : List (Nat × W32) => match d with
    | .cells k => .cells (k.map fun x => (x.1, l.foldl (fun m y => if y.1 = x.1 then m &&& ~~~y.2 else m) x.2))
    | d => d
  match e with
  | .sreg r _ | .rload _ (.sreg r) _ => cut r (BitVec.allOnes 64)
  | .rload _ (.bits r m) _ => cut r m
  | .sbit r p _ => cut r (1 <<< p)
  | .cells l | .mcells l => cover (l.map fun x => (x.1, x.2.1))
  | .rload _ (.cells l) _ => cover l
  | _ => d

/-- A load whose result is due in this ck gives way to the later words' results due in it (R46, R49). -/
def yieldDue : List Flight → List Flight
  | [] => []
  | f :: fs => (match f.rem, f.eff with
    | 1, .rload i d x => { f with eff := .rload i (fs.foldl (fun d g => if g.rem = 1 then d.minus g.eff else d) d) x }
    | _, _ => f) :: yieldDue fs

/-- One effect lands in a berth. MMUL and WLOAD retire in steps of their own. -/
def State.landEff (s : State) (b : Nat) (e : Eff) : State :=
  let gang := fun (l : List Nat) (f : Ctx → Ctx) => l.foldl (fun s m => if s.inGang b m then s.modCtxAt m f else s) s
  match e with
  | .sreg d v => s.modCtxAt b fun c => c.setReg d v
  | .sbit d p v => s.modCtxAt b fun c =>
      c.setReg d (if v then c.reg d ||| (1 <<< p) else c.reg d &&& ~~~((1 : W64) <<< p))
  | .kmask k v => s.modCtxAt b fun c => c.setKmask k v
  | .cells l | .mcells l => s.modCtxAt b fun c => l.foldl (fun c x => c.landCell x.1 x.2.1 x.2.2) c
  | .store _ l | .drain l _ => s.storeIn b l
  | .sysreg n v => s.landSysreg b n v
  | .rot n => s.modCtxAt b fun c => { c with rb := (c.rb + 128 - n % 128) % 128 }.clearDead
  | .depth n => s.modCtxAt b fun c => { c with ld := n }.clearDead
  | .accRow k r l => s.modCtxAt b fun c => c.setAccRow k r l
  | .accZero k ms => gang ms fun c => (c.dropAcc k).liven k
  | .accFree k ms => gang ms fun c => { c.dropAcc k with live := c.live.filter (· != k) }
  | .mpb bs => s.modCtxAt b fun c => { c with mpb := some bs }
  | .mmul _ | .wload _ | .rfail _ _ _ => s
  | .rload op d data => s.modCtxAt b fun c => (c.landLoad d (data.getD [])).dropOp op

/-- Land what is due, in issue order. A remote load that has not returned, or has failed, is left and holds nothing else back (R49);
an MMUL or a WLOAD stops the landings, since its retirement is the next step. -/
def State.landDue (s : State) (b : Nat) : List Flight → List Flight → State × Option Instr
  | done, [] => (s.modCtxAt b fun c => { c with flights := done }, none)
  | done, f :: fs =>
    if f.rem ≠ 0 then s.landDue b (done ++ [f]) fs
    else
      let stop := s.modCtxAt b fun c => { c with flights := done ++ f :: fs }
      match f.eff with
      | .mmul _ => (stop, some .mmulRetire)
      | .wload _ => (stop, some .wloadRetire)
      | .rfail _ _ _ | .rload _ _ none => s.landDue b (done ++ [f]) fs
      | e => (s.landEff b e).landDue b done fs

/-- The first part of the landings of a ck: the matrix sequencer's reads, then one ck off every flight. -/
def State.countDown (s : State) (b : Nat) : State :=
  (s.matrixTick b).modCtxAt b fun c =>
    { c with landed := true, flights := (yieldDue c.flights).map fun f => { f with rem := f.rem - 1 } }

/-- RESULT_LAND: the landings at the end of a berth's ck. -/
def execResultLand (s : State) : Out :=
  let b := s.subj.berth
  let mine : Bool := s.agent == .land b
  let c := s.ctxAt b
  let s := if mine ∧ c.open_ ∧ !c.landed then s.countDown b else s
  let (s, r) := s.landDue b [] (s.ctxAt b).flights
  match r with
  | some i => .next { s with agenda := State.turn i b :: State.turn .resultLand b :: s.agenda }
  | none => .next (if mine then { s with agent := .release b } else s)

-- the end of a ck --------------------------------------------------------------------------------------------------------------------

/-- Count the ring slots that RPUB publishes (spec/15 R224). -/
def Slot.tick (x : Slot) : Slot :=
  match x.filling with
  | some n => if n ≤ 1 then { x with st := .full, filling := none } else { x with filling := some (n - 1) }
  | none => x

/-- Countdowns of an unfrozen ck: held operations (spec/09 R388), fences, publications, and the matrix clock, which stands while a
snapshot with matrix work is held aside. -/
def Ctx.tick (c : Ctx) : Ctx :=
  let mat := (c.aside.map Snap.mseq).getD false
  -- a release waits for the stores held aside, whose count begins with their replay
  let least := c.asideDue 7
  let op := fun o : Op => if c.parked o then o
    else { o with held := o.held - 1, rel := if o.rel = 0 then 0 else Nat.max (o.rel - 1) least }
  let ports := if mat then c.ports else (c.ports.map fun p => (p.1, p.2 - 1)).filter fun p => p.2 != 0
  let ring := fun r : Ring => { r with slots := r.slots.map fun x => (x.1, x.2.tick) }
  let fences := (c.fences.map fun f => (Nat.max (f.1 - 1) least, f.2)).filter fun f => f.1 != 0
  { c with
    ops := c.ops.map op
    fences := fences
    rings := c.rings.map fun r => (r.1, ring r.2)
    ports := ports
    uck := if mat then c.uck else c.uck + 1 }

/-- What a journal entry flags (R344): a block of the image layout that differs. -/
def blocksDiffer (a b : Saved) : Bool :=
  a.ctx.mrf != b.ctx.mrf || a.ctx.acc != b.ctx.acc || a.ctx.banks != b.ctx.banks || a.ctx.spad != b.ctx.spad
    || a.ctx.ways != b.ctx.ways || a.ctx.mpb != b.ctx.mpb || a.gang != b.gang
    || a.ctx.live != b.ctx.live || a.ctx.active != b.ctx.active || a.ctx.mode != b.ctx.mode || a.ctx.matrixWork != b.ctx.matrixWork

/-- A journal entry for the group just issued (R344). -/
def State.journal (s : State) (b : Nat) : State :=
  let v := s.saved b
  s.modBerth b fun x =>
    let h := x.shadow
    { x with shadow := { h with
        entries := h.entries + 1
        flagged := if (match h.last with | some l => blocksDiffer l v | none => true) then h.entries + 1 else h.flagged
        last := some v } }

/-- HELD_OP_RELEASE: the end of a berth's ck. Operations whose hold has run out may be sent; the persist that the group asked for
begins; the journal entry is written; the turn passes on. -/
def execHeldOpRelease (s : State) : Out :=
  let b := s.subj.berth
  if s.agent ≠ .release b then .next s
  else
    let c := s.ctxAt b
    let s := if c.open_ then s.modCtxAt b Ctx.tick else s
    let s := s.modCtxAt b fun c => { c with open_ := false, landed := false, went := false }
    let want := (s.berth b).shadow.want
    let s := if c.went && (s.berth b).placed then s.journal b else s
    let s := if want then (s.beginPersist b).modBerth b fun x => { x with shadow := { x.shadow with want := false } } else s
    .next { s with agent := s.berthFrom (b + 1) }

/-- What a returned load leaves in its flight. -/
def Flight.returned (o : Op) (f : Flight) : Flight :=
  match f.eff, o.stage with
  | .rload i d none, .replied ws =>
    if i = o.id then { f with eff := .rload i d (some ((ws.flatMap fun w => leBytes 8 w.toNat))) } else f
  | .rload i d none, .failed e => if i = o.id then { f with eff := .rfail i d e } else f
  | _, _ => f

/-- REMOTE_LOAD_RETURN (R49): the answer of a berth's load has come back; what waits behind it lands. -/
def execRemoteLoadReturn (s : State) : Out :=
  let b := s.subj.berth
  match (s.ctxAt b).op s.subj.op with
  | some o =>
    let back := match o.kind, o.stage with
      | .rload _ _ _, .replied _ => true
      | .rload _ _ _, .failed _ => true
      | _, _ => false
    if back then
      let drop := match o.stage with | .replied _ => true | _ => false
      let s := s.modCtxAt b fun c =>
        let c := { c with flights := c.flights.map (Flight.returned o) }
        if drop then c.dropOp o.id else c
      let (s, r) := s.landDue b [] (s.ctxAt b).flights
      match r with
      | some i => .next { s with agenda := State.turn i b :: State.turn .resultLand b :: s.agenda }
      | none => .next s
    else .next s
  | none => .next s

-- the vertical bus (R65) ------------------------------------------------------------------------------------------------------------------

/-- VBUS_REPLAY_DONE: the burst has been replayed, its 6 ck past. -/
def execVbusReplayDone (s : State) : Out :=
  let b := s.subj.berth
  if (s.berth b).replay = some 0 then .next (s.modBerth b fun x => { x with replay := none }) else .next s

/-- JOURNAL_FORCED_PERSIST (spec/23 R344). -/
def execJournalForcedPersist (s : State) : Out :=
  let b := s.subj.berth
  let x := s.berth b
  if 1024 ≤ x.shadow.entries ∧ !x.persistBusy then .next (s.beginPersist b) else .next s

end Sys2Proof.Machine
end

