-- ==== Sys2Proof/Machine/Packets.lean ====
section
/-! DEFINITION. Fabric packets (spec/19 R271, R390), routing (R266), the queues of a port, and requests that await an answer
(R268). -/

namespace Sys2Proof.Machine
open Sys2Proof

-- header fields (R271) ----------------------------------------------------------------------------------------------------

def pkW (p : Packet) (i : Nat) : Nat := (p.hdr.getD i 0).toNat
def pkType (p : Packet) : Nat := fld (pkW p 0) 0 4
def pkLen (p : Packet) : Nat := fld (pkW p 0) 4 5
def pkAck (p : Packet) : Bool := (pkW p 0).testBit 9
def pkPath (p : Packet) : Nat := fld (pkW p 0) 10 3
def pkTag (p : Packet) : Nat := fld (pkW p 0) 16 16
def pkDst (p : Packet) : Nat := fld (pkW p 1) 0 10
def pkSrc (p : Packet) : Nat := fld (pkW p 1) 16 10
def pkJob (p : Packet) : Nat := fld (pkW p 1) 26 6
def pkParty (p : Packet) : Nat := fld (pkW p 2) 0 26
def pkTree (p : Packet) : Nat := fld (pkW p 3) 0 12
def pkAddr (p : Packet) : Nat := fld (pkW p 4 + pkW p 5 * 2 ^ 32) 0 57
def pkBytes (p : Packet) : Nat := fld (pkW p 6) 0 13
/-- OPINFO, as the bits of h6 from 13 on. -/
def pkInfo (p : Packet) : Nat := pkW p 6 / 2 ^ 13
def pkOpA (p : Packet) : Nat := pkW p 7 + pkW p 8 * 2 ^ 32
def pkOpB (p : Packet) : Nat := pkW p 9 + pkW p 10 * 2 ^ 32
def pkStatus (p : Packet) : Nat := fld (pkW p 11) 0 8
/-- ADDR in canonical form (spec/09 R124). -/
def pkVa (p : Packet) : Nat := let a := pkAddr p; if a.testBit 56 then a + 127 * 2 ^ 57 else a
/-- The payload bytes that BYTES counts. -/
def pkData (p : Packet) : List Byte := p.pay.take (pkBytes p)

/-- A header before it is coded. -/
structure PkHdr where
  type  : Nat
  ack   : Bool := false
  path  : Nat := 0
  tag   : Nat := 0
  dst   : Nat
  src   : Nat
  job   : Nat
  party : Nat
  tree  : Nat := 0
  addr  : Nat := 0
  bytes : Nat := 0
  info  : Nat := 0
  opA   : Nat := 0
  opB   : Nat := 0
  status : Nat := 0
deriving DecidableEq, Repr

/-- A packet: the header's 64 words, and the payload in whole flits. -/
def mkPacket (h : PkHdr) (data : List Byte) : Packet :=
  let len := (data.length + 255) / 256
  let w := fun n : Nat => BitVec.ofNat 32 n
  let head := [w (h.type + len * 16 + bit h.ack * 512 + h.path * 1024 + h.tag * 65536),
    w (h.dst + h.src * 65536 + h.job * 2 ^ 26), w h.party, w h.tree, w h.addr, w (h.addr % 2 ^ 57 / 2 ^ 32),
    w (h.bytes + h.info * 2 ^ 13), w h.opA, w (h.opA / 2 ^ 32), w h.opB, w (h.opB / 2 ^ 32), w h.status]
  ⟨head ++ List.replicate 52 0, data ++ List.replicate (len * 256 - data.length) 0⟩

/-- Replace header words. -/
def pkSet (p : Packet) (i : Nat) (v : Nat) : Packet := { p with hdr := p.hdr.set i (BitVec.ofNat 32 v) }
/-- Replace DST. -/
def pkSetDst (p : Packet) (d : Nat) : Packet := pkSet p 1 (pkW p 1 / 1024 * 1024 + d % 1024)

/-- Whether TYPE is reserved or a reserved field is nonzero (R271, R390). Barrier and launch packets carry what R276 and R277 name in the
operand words, and a read that only has a write checked carries a 1 there; in every other type without a use for the operand words they
are a reserved field (DESIGN CHOICE, log entries 15 and 49: R271 does not say so). -/
def pkBad (p : Packet) : Bool :=
  let t := pkType p
  let i := pkInfo p
  let sem := fld i 8 3
  let tk := i.testBit 13
  decide (9 < t ∨ 16 < pkLen p ∨ 5 < pkPath p ∨ 4096 < pkBytes p) || p.hdr.length != 64 || p.pay.length != 256 * pkLen p
    || fld (pkW p 0) 13 3 != 0 || fld (pkW p 1) 10 6 != 0 || pkW p 2 / 2 ^ 26 != 0 || pkW p 3 / 2 ^ 12 != 0
    || pkW p 5 / 2 ^ 25 != 0 || (pkAck p && t != 2)
    || (pkTree p != 0 && t != 5)
    || (i != 0 && t != 3) || ((pkOpA p != 0 || pkOpB p != 0) && !([3, 4, 6, 8].contains t) && !(t == 1 && pkOpA p == 1 && pkOpB p == 0))
    || pkW p 11 / 256 != 0 || (pkStatus p != 0 && t != 2 && t != 4)
    || (List.range 4).any (fun k => pkW p (12 + k) != 0)
    || (t == 3 && (decide (3 < sem) || (sem == 0 && !tk && decide (13 < fld i 3 4)) || (tk && decide (8 < fld i 14 4))
      || (!tk && decide (fld i 14 4 ≠ 0 ∨ i.testBit 18))
      || (sem != 0 && (fld i 0 7 != 0 || tk)) || (tk && (fld i 0 7 != 0 || fld i 11 2 != 0))
      || (fld i 11 2 != 0 && sem != 1 && sem != 2) || (i.testBit 18 && pkAddr p / 2 ^ 27 != 0)))

-- routing (R265, R266) -----------------------------------------------------------------------------------------------------

/-- Lowest set bit of a number below 2^n; n when there is none. -/
def lowBit : Nat → Nat → Nat
  | 0, _ => 0
  | n + 1, x => if x % 2 = 1 then 0 else lowBit n (x / 2) + 1

/-- Whether a port is up: fabric enabled, full service, and the link not down (R265, spec/25 R377). -/
def State.portUp (s : State) (p : Nat) : Bool := bt s.fabctl 63 && s.level == 2 && decide (p < 11) && !(s.port p).down
def State.ndim (s : State) : Nat := bf s.fabctl 16 4
/-- Port of a logical dimension, as PORTMAP has it. -/
def State.dimPort (s : State) (d : Nat) : Nat := bf s.portmap (4 * d) 4
/-- Port towards a label; none when it is refused with LIGHTER.UNREACHABLE. -/
def State.route (s : State) (dst : Nat) : Option Nat :=
  if 2 ^ s.ndim ≤ dst then none
  else
    let p := s.dimPort (lowBit 10 (dst ^^^ s.label))
    if s.portUp p then some p else none

/-- Index of the queue of packets from this device to itself, beside the eleven ports (R266: "deliver locally"). -/
def selfPort : Nat := 11

/-- Virtual channel of a type (R272). -/
def pkChan (t : Nat) : Nat := if t = 2 ∨ t = 4 then 1 else if t = 6 ∨ t = 9 then 2 else 0
/-- Whether two packets are of one channel, from one device to one destination: such packets stay in the order sent (R273). -/
def sameFlow (p q : Packet) : Bool := pkSrc p == pkSrc q && pkDst p == pkDst q && pkChan (pkType p) == pkChan (pkType q)

/-- Queue a packet; `fresh` when it originates here (DIR 1 of R284). -/
def State.queuePacket (s : State) (p : Packet) (fresh : Bool) : Option State :=
  if pkDst p = s.label then some (s.modPort selfPort fun x => { x with inq := x.inq ++ [p] })
  else (s.route (pkDst p)).map fun q => s.modPort q fun x => { x with outq := x.outq ++ [(fresh, p)] }

/-- A tag no request uses. -/
def State.newTag (s : State) : Nat :=
  (((List.range (s.reqs.length + 1)).map fun i => (s.nextTag + i) % 65536).find? fun t => !(s.reqs.any fun r => r.tag == t)).getD 0

/-- Send a request and wait for its answer; none when the route is refused. The answer covers `len` bytes from `off` of what the
waiter gathers. -/
def State.request (s : State) (who : Waiter) (off len : Nat) (h : PkHdr) (data : List Byte) : Option (Nat × State) :=
  let tag := s.newTag
  (s.queuePacket (mkPacket { h with tag := tag, src := s.label } data) true).map fun s =>
    -- one that this device answers itself is sent at once
    let since := if h.dst = s.label then some s.time else none
    (tag, { s with nextTag := (tag + 1) % 65536, reqs := s.reqs ++ [⟨tag, who, since, off, len⟩] })

/-- Whether a request has gone unanswered for 1,048,576 steps of the device counter since it was sent (R268). -/
def Req.late (r : Req) (now : Nat) : Bool := r.since.any fun t => decide (t + 1048576 ≤ now)

/-- The header of an answer to a packet. -/
def State.answerHdr (s : State) (p : Packet) (type : Nat) (ack : Bool) (status opA opB n : Nat) : PkHdr where
  type := type
  ack := ack
  path := pkPath p
  tag := pkTag p
  dst := pkSrc p
  src := s.label
  job := pkJob p
  party := s.label * 65536 + 601
  bytes := n
  opA := opA
  opB := opB
  status := status

end Sys2Proof.Machine
end

