-- ==== Sys2Proof/Machine/Homes.lean ====
section
/-! DEFINITION. What becomes of an operation outside its berth: when it may be performed (spec/09 R142, R144, R146), its home
(R133, R152), its completion and its failure (spec/15 R213-R218, spec/09 R123, R136, R229). -/

namespace Sys2Proof.Machine
open Sys2Proof

-- when an operation may be performed ------------------------------------------------------------------------------------------

/-- Persist points among the operations (spec/09 R150). -/
def OpKind.persist : OpKind → Bool
  | .token _ | .atom _ | .atomnr _ | .sempost _ _ | .whpush _ _ _ | .launch _ _ | .mboxack => true
  | .semwait r => r.sub
  | _ => false

/-- The dword of an atomic. -/
def OpKind.word : OpKind → Option Nat
  | .atom r | .atomnr r => some (r.va / 8)
  | .sempost va _ => some (va / 8)
  | _ => none

/-- The window of an operation. -/
def OpKind.window : OpKind → Option Nat
  | .wstore w _ _ | .rload w _ _ => some w
  | .copy c => if c.form = .cpw then some (winOf c.g) else none
  | _ => none

/-- Whether an operation is performed at a scope (spec/09 R143, R145). A copy's homes are those of its destination: outside the scope,
they count once every byte has been accepted by the first port. -/
def State.doneAt (s : State) (scope : Nat) (o : Op) : Bool :=
  match o.kind, o.stage with
  | .copy r, .remote keys _ =>
    let far := if r.form = .cpw then r.out && !s.inScope scope o.win.label
      else let l := o.globalWrites s.ctx
        !l.isEmpty && l.all fun x => (pieces x.1 x.2).all fun p => match s.translate s.job p.1 none with
          | .ok (.peer lab) => !s.inScope scope lab
          | _ => false
    far && keys.all fun k => decide (k.1 / 2 ^ 20 = 1)
  | .copy _, _ => o.settled
  | _, _ => s.performedAt scope o

/-- The scope at which an atomic is performed: an atomic whose home lies outside its scope's devices has system scope (R145). -/
def State.scopeOf (s : State) (r : AtomReq) : Nat :=
  match s.translate s.job r.va none with
  | .ok (.peer l) => if s.inScope r.scope l then r.scope else 9
  | _ => r.scope

/-- The scope at which everything earlier is performed before an operation: none when it is no release (R146, R177). -/
def State.releases (s : State) (o : Op) : Option Nat :=
  match o.kind with
  | .atom r | .atomnr r => if r.ord.testBit 1 then some (s.scopeOf r) else none
  | .sempost _ _ | .launch _ _ => some 9
  | _ => none

/-- Whether an earlier operation p keeps an operation o of the running berth from being performed: an acquire or a MBOXACK (spec/15
R230, spec/11 R179), program order (spec/09 R142, R236, spec/15 R226, R238, spec/21 R323), or a release (R146, spec/11 R177). -/
def State.blocks (s : State) (o p : Op) : Bool :=
  let acquire := match p.kind with
    | .atom r | .atomnr r => p.open_ && r.ord.testBit 0
    | .mboxack => true
    | _ => false
  let word := match o.kind with
    | .semwait r => some (r.va / 8)
    | k => k.word
  let order := match o.kind, p.kind with
    | .token _, .token _ => p.open_
    | .fill t e _ _ _, .fill t' e' _ _ _ => t == t' && e == e'
    | .whpush u _ _, .whpush u' _ _ => u == u'
    | .whpush _ _ _, .token _ => p.open_
    | _, _ => (word.isSome && word == p.kind.word && p.open_)
        || (o.kind.window.isSome && p.kind.window.isSome && o.win.same p.win && p.stage == .sent)
  let poll := match p.kind with | .semwait _ => true | _ => false
  let release := match s.releases o with
    | some k => !s.doneAt k p
    | none => false
  acquire || order || (release && !poll)

/-- Whether an operation of the running berth may be performed now. -/
def State.ready (s : State) (o : Op) : Bool :=
  let c := s.ctx
  let load := match o.kind with | .rload _ _ _ => true | _ => false
  o.held == 0 && o.rel == 0 && !c.parked o && (!o.kind.persist || o.logged)
    -- a load that was not back when its berth-thread left its boundary is issued again when it goes on (spec/03 R61)
    && !(load && (s.berth s.cur).st != .run)
    -- path W: the commands that it pushed before are complete
    && !((s.releases o).isSome && s.units.any fun u => u.2.ring.any fun e => e.by_ == c.self && decide (e.push < o.id))
    && !(c.ops.any fun p => decide (p.id < o.id) && s.blocks o p)

/-- The operation of the running berth that a step acts on, when it may be performed. -/
def State.subjOp (s : State) : Option Op := s.ctx.op s.subj.op

/-- A step about an operation: the berth and the operation it names. -/
def withOp (s : State) (f : Op → State → State) : Out :=
  let s := { s with cur := s.subj.berth }
  match s.ctx.op s.subj.op with
  | some o => .next (f o s)
  | none => .next s

/-- An operation at a stage; one that is issued again has moved nothing and has no failed request. -/
def Op.at_ (o : Op) (g : Stage) : Op := if g = .sent then { o with stage := g, errs := [], moved := [] } else { o with stage := g }
def State.setStage (s : State) (b id : Nat) (g : Stage) : State := s.modCtxAt b fun c => c.modOp id fun o => o.at_ g

-- the bytes of a scratchpad side, which move in any order (spec/09 R140) ---------------------------------------------------------------

/-- A source's bytes: those that were read before, and the rest as they stand now. -/
def Op.mixed (o : Op) (now : List Byte) : List Byte := o.moved.foldl (fun l x => l.set x.1 x.2) now
/-- What completion leaves of a destination: bytes that landed before stay as they are now, and the rest is the data. -/
def Op.landing (o : Op) (now data : List Byte) : List Byte := o.moved.foldl (fun l x => l.set x.1 (now.getD x.1 0)) data
/-- Whether the byte at an offset has moved. -/
def Op.hasMoved (o : Op) (k : Nat) : Bool := o.moved.any fun x => x.1 == k

/-- Scratchpad source of an outbound operation: first address and bytes. -/
def Op.padSource (o : Op) : Nat × Nat :=
  match o.kind with
  | .copy r => if r.out && r.q != .zero then (r.l, r.bytes) else (0, 0)
  | .whpush _ l n => (l, 8 * n)
  | _ => (0, 0)

/-- Byte k of a source is read ahead of the rest (R140). -/
def State.readEarly (s : State) (b : Nat) (o : Op) (k : Nat) : State :=
  let (a, n) := o.padSource
  if n ≤ k ∨ o.hasMoved k then s
  else s.modCtxAt b fun c => c.modOp o.id fun o => { o with moved := o.moved ++ [(k, (c.spadRead (a + k) 1).headD 0)] }

/-- Byte k of the data for a destination lands ahead of the rest (R140). -/
def State.landEarly (s : State) (b : Nat) (o : Op) (a k : Nat) (data : List Byte) : State :=
  match data[k]? with
  | none => s
  | some v => if o.hasMoved k then s
    else s.modCtxAt b fun c => (c.spadWrite (a + k) [v]).modOp o.id fun o => { o with moved := o.moved ++ [(k, v)] }

/-- The data of an inbound operation land, but for what has landed (R140, R214). -/
def State.landRest (s : State) (b : Nat) (o : Op) (a : Nat) (data : List Byte) : State :=
  let c := s.ctxAt b
  (s.modCtxAt b fun c => c.spadWrite a (o.landing (c.spadRead a data.length) data)).arrive 0 (some c.self) a data.length

/-- The tag that a failure of an operation carries (spec/15 R217). -/
def Op.failTag (o : Op) : Nat :=
  match o.kind with
  | .copy _ | .imload _ _ _ => o.tag
  | _ => 0
/-- Keep the outcome of an operation that is a persist point until the berth's journal records it (spec/23 R347). -/
def State.keep (s : State) (b : Nat) (o : Op) (r : Reply) : State :=
  if o.kind.persist then s.modBerth b fun x => { x with shadow := { x.shadow with kept := x.shadow.kept ++ [(o.id, r)] } } else s

def State.failOp (s : State) (b : Nat) (o : Op) (code addr : Nat) : State :=
  let f : Fail := ⟨code, w64 addr, o.failTag, o.id⟩
  ((s.keep b o (.failed f)).modCtxAt b fun c => c.hasRead o.id).setStage b o.id (.failed f)

-- global sides ------------------------------------------------------------------------------------------------------------------

/-- What an operation reads in global memory. -/
def Op.source (o : Op) (c : Ctx) : Option (List (Nat × Nat) × Acc) :=
  match o.kind with
  | .copy r =>
    if r.form = .cpw ∨ r.q = .zero then none
    else if r.form = .cpg then some ([(r.g, r.count)], .read)
    else if r.out then none else some (r.segments c, .read)
  | .fill _ _ blk n _ => some ([(blk, n)], .read)
  | .imload va _ n => some ([(va, 8 * n)], .instr)
  | _ => none

/-- What it writes there. -/
def Op.dest (o : Op) (c : Ctx) : List (Nat × Nat) :=
  match o.kind with
  | .copy _ => o.globalWrites c
  | _ => []

/-- Bytes that it moves. -/
def Op.total (o : Op) : Nat :=
  match o.kind with
  | .copy r => r.bytes
  | .fill _ _ _ n _ => n
  | .imload _ _ n => 8 * n
  | .rload _ _ n => n
  | _ => 0

/-- The address of an offset into segments. -/
def segAddr : List (Nat × Nat) → Nat → Nat
  | [], _ => 0
  | [(a, _)], o => a + o
  | (a, n) :: l, o => if o < n then a + o else segAddr l (o - n)

/-- Pieces of segments. -/
def segPieces (l : List (Nat × Nat)) : List (Nat × Nat) := l.flatMap fun x => pieces x.1 x.2

/-- Tag of the copies that stage a team's bytes: the harbourmaster's, not the program's. -/
def stagingTag : Nat := 256
/-- Parties of a lighter's accesses: its berth-thread and itself; staging reads are those of the berth-thread alone (spec/09 R132). -/
def Ctx.copyParties (c : Ctx) (b : Nat) (staging : Bool := false) : List Party := if staging then [c.self] else [c.self, .lighter b]

/-- Marks of a request's key: to a pool port, a write, and a request that only has a range checked. -/
def keyUio : Nat := 2 ^ 56
def keyWrite : Nat := 2 ^ 57
def keyAsk : Nat := 2 ^ 58
def isUio (k : Nat) : Bool := k.testBit 56
def isWrite (k : Nat) : Bool := k.testBit 57
def isAsk (k : Nat) : Bool := k.testBit 58

/-- A pool range cut at 256 bytes (spec/25 R375): block, offset and length. All that an operation moves in one block is one request, so
that no granule is carried by two. -/
def uioCuts : Nat → Nat → Nat → Nat → List (Nat × Nat × Nat)
  | 0, _, _, _ => []
  | f + 1, off, pa, n =>
    if n = 0 then []
    else
      let k := Nat.min n (256 - pa % 256)
      (pa / 256, off, k) :: uioCuts f (off + k) (pa + k) (n - k)

/-- Header of a copy's request (R271). -/
def State.copyHdr (s : State) (b type va n : Nat) (dst : Nat) : PkHdr :=
  { type := type, path := 0, dst := dst, src := s.label, job := s.jobAt b, party := s.label * 65536 + b, addr := va, bytes := n }

/-- Requests for the pieces of a plan that lie elsewhere, from an offset on; with the data when they are writes. The keys with what
they cover, or the address that has no route. -/
def State.askPieces (s : State) (b id : Nat) (w : Option (List Byte)) :
    Nat → List (Nat × Nat × Loc) → Except Nat (State × List (Nat × Nat × Nat))
  | _, [] => .ok (s, [])
  | off, (va, n, l) :: ps =>
    let mark := if w.isSome then keyWrite else 0
    match l with
    | .peer lab =>
      let data := match w with | some d => (d.drop off).take n | none => []
      match s.request (.op b id) off n (s.copyHdr b (if w.isSome then 0 else 1) va n lab) data with
      | none => .error va
      | some (t, s) =>
        match s.askPieces b id w (off + n) ps with
        | .error e => .error e
        | .ok (s, k) => .ok (s, (mark + t, off, n) :: k)
    | .pool pa =>
      match s.askPieces b id w (off + n) ps with
      | .error e => .error e
      | .ok (s, k) => .ok (s, ((uioCuts (n / 256 + 2) off pa n).map fun (blk, o, m) => (mark + keyUio + blk, o, m)) ++ k)
    | .hbm _ _ => s.askPieces b id w (off + n) ps

/-- Bytes of the pieces in HBM, at their offsets; or the address of a piece with poison. -/
def State.gatherHbm (s : State) : Nat → List (Nat × Nat × Loc) → Memory → Except Nat Memory
  | _, [], m => .ok m
  | off, (va, n, l) :: ps, m =>
    match l with
    | .hbm pa _ => match s.hbmRead pa n with
      | none => .error va
      | some bs => s.gatherHbm (off + n) ps (Memory.write zeroByte m off bs)
    | _ => s.gatherHbm (off + n) ps m

/-- First address, in copy order, in the page of an address (spec/15 R217). -/
def State.firstInPage (s : State) (job va : Nat) (ps : List (Nat × Nat)) : Nat :=
  let lg := match s.walk job va with | .ok (_, lg, _) => lg | .error _ => 12
  ((ps.find? fun p => p.1 / 2 ^ lg == va / 2 ^ lg).map Prod.fst).getD va

/-- First address of a failed request's page among those that its operation moves (R217). -/
def State.copyStart (s : State) (b : Nat) (o : Op) (write : Bool) (va : Nat) : Nat :=
  let c := s.ctxAt b
  match o.kind with
  | .copy r => if r.form = .cpw then va
    else s.firstInPage (s.jobAt b) va (segPieces (if write then o.dest c else match o.source c with | some (l, _) => l | none => []))
  | .fill _ _ _ _ _ | .imload _ _ _ => match o.source c with
    | some (l, _) => s.firstInPage (s.jobAt b) va (segPieces l)
    | none => va
  | _ => va

/-- Requests that only have a range checked at its home, each with whether it is to be written and what it covers: the keys, or the
one that has no route. -/
def State.askChecks (s : State) (b id : Nat) : List (PkHdr × Bool × Nat × Nat) →
    Except (PkHdr × Bool × Nat × Nat) (State × List (Nat × Nat × Nat))
  | [] => .ok (s, [])
  | (h, w, off, n) :: l =>
    match s.request (.op b id) off n h [] with
    | none => .error (h, w, off, n)
    | some (t, s) => match s.askChecks b id l with
      | .error e => .error e
      | .ok (s, k) => .ok (s, (keyAsk + (if w then keyWrite else 0) + t, off, n) :: k)

/-- A request to check an address: a read of no byte, whose first operand is 1 when the check is that of a write (log entry 49). -/
def PkHdr.asking (h : PkHdr) (w : Bool) : PkHdr := { h with type := 1, bytes := 0, opA := bit w }

/-- Pieces of a plan on other devices: offset, address, bytes and label. -/
def planPeers : Nat → List (Nat × Nat × Loc) → List (Nat × Nat × Nat × Nat)
  | _, [] => []
  | off, (va, n, l) :: ps =>
    match l with
    | .peer lab => (off, va, n, lab) :: planPeers (off + n) ps
    | _ => planPeers (off + n) ps

/-- Write the pieces of a plan in HBM; those elsewhere are written by their requests. -/
def State.writeHbm (s : State) (data : List Byte) : Nat → List (Nat × Nat × Loc) → State
  | _, [] => s
  | off, (_, n, l) :: ps =>
    (match l with | .hbm pa _ => s.hbmWrite pa ((data.drop off).take n) | _ => s).writeHbm data (off + n) ps

/-- Arrivals of a job's writes into mailboxes. -/
def State.arriveAll (s : State) (job : Nat) (l : List (Nat × Nat)) : State := l.foldl (fun s x => s.arrive job none x.1 x.2) s

/-- The code of the lighter for a failed translation (spec/15 R217). -/
def lighterCode (e : Nat) : Nat := fcLighterMiss + e

-- the write phase of a copy ------------------------------------------------------------------------------------------------------

/-- Every other home of a copy's destination has passed: HBM is written. -/
def State.putRest (s : State) (b : Nat) (o : Op) (data : List Byte) : State :=
  let job := s.jobAt b
  let segs := o.dest (s.ctxAt b)
  match s.plan job (some .write) (segPieces segs) with
  | .error (e, va) => s.failOp b o (lighterCode e) va
  | .ok ps => ((s.writeHbm data 0 ps).arriveAll job segs).setStage b o.id (.replied [])

/-- The requests of an operation are on their way. -/
def State.sendOff (s : State) (b id : Nat) (keys : List (Nat × Nat × Nat)) (m : Memory) : State :=
  (s.setStage b id (.remote keys m)).modCtxAt b fun c => c.modOp id fun o => { o with uioAt := s.time }

/-- The bytes of a copy are sent to the other homes of its destination. -/
def State.sendData (s : State) (b : Nat) (o : Op) (data : List Byte) : State :=
  match s.plan (s.jobAt b) (some .write) (segPieces (o.dest (s.ctxAt b))) with
  | .error (e, va) => s.failOp b o (lighterCode e) va
  | .ok ps => match s.askPieces b o.id (some data) 0 ps with
    | .error va => s.failOp b o fcUnreachable (s.copyStart b o true va)
    | .ok (s, keys) => if keys.isEmpty then s.putRest b o data else s.sendOff b o.id keys (Memory.write zeroByte [] 0 data)

/-- Write data over the destinations of a copy, which every home has passed: at once when every home is HBM of this device; otherwise
the other homes come first, and HBM is written when all of them have answered (spec/09 R133). -/
def State.putData (s : State) (b : Nat) (o : Op) (data : List Byte) : State :=
  let job := s.jobAt b
  let segs := o.dest (s.ctxAt b)
  match s.plan job (some .write) (segPieces segs) with
  | .error (e, va) => s.failOp b o (lighterCode e) va
  | .ok ps =>
    if !planPeer ps && !planPool ps then ((s.writeHbm data 0 ps).arriveAll job segs).setStage b o.id (.replied [])
    else
      (s.modCtxAt b fun c => c.modOp o.id fun o =>
        { o with kind := match o.kind with
          | .copy r => .copy { r with segs := if r.form = .cpg then none else some segs }
          | k => k }).sendData b o data

/-- The source has been read: the data go on. IMLOAD checks the stop bit of its last word here (spec/15 R239). -/
def State.haveData (s : State) (b : Nat) (o : Op) (data : List Byte) : State :=
  match o.kind with
  | .copy r => if r.form = .cpg then s.putData b o data else s.setStage b o.id (.passed data)
  | .imload va _ n =>
    if leValue (data.drop (8 * n - 8)) < 2 ^ 63 then s.failOp b o fcBound (va + 8 * (n - 1)) else s.setStage b o.id (.passed data)
  | _ => s.setStage b o.id (.passed data)

/-- Token checks of the part of a scratchpad range that lies in the export of its berth-thread (spec/09 R121, R152). -/
def State.padChecks (s : State) (b : Nat) (acc : Acc) (a n : Nat) : List TokChk :=
  let c := s.ctxAt b
  match c.inExport a n with
  | none => []
  | some a0 => s.chkRange (s.jobAt b) (some c.self) acc a0 (Nat.min (a + n) (c.export_.1 + c.export_.2) - a0)

/-- Checks of the scratchpad side of an operation. -/
def State.ownChecks (s : State) (b : Nat) (o : Op) : List TokChk :=
  match o.kind, o.route with
  | .copy r, .stream _ => if r.form = .cps ∧ r.segs.isNone then s.padChecks b .read r.list (4 * r.nidx) else []
  | .copy r, _ =>
    (if r.form = .cps ∧ r.segs.isNone then s.padChecks b .read r.list (4 * r.nidx) else [])
      ++ (if r.form = .cpg ∨ (r.out ∧ r.q = .zero) then [] else s.padChecks b (if r.out then .read else .write) r.l r.bytes)
  | .fill _ _ _ n slot, _ => s.padChecks b .write slot n
  | _, _ => []

/-- What an operation asks the other homes of its pieces before it moves a byte: `ps` are read and `qs` written. An IMLOAD reads EXEC
regions only (spec/15 R239), and asks for their records. -/
def State.homeAsks (s : State) (b : Nat) (o : Op) (ps qs : List (Nat × Nat × Loc)) : List (PkHdr × Bool × Nat × Nat) :=
  let query := fun (a lab : Nat) => (⟨3, false, 0, 0, lab, s.label, s.jobAt b, s.label * 65536 + b, 0, a, 0, 2 ^ 13 + 7 * 2 ^ 14, 0, 0, 0⟩ : PkHdr)
  let ask := fun (w : Bool) (x : Nat × Nat × Nat × Nat) =>
    let h := match o.kind with
      | .imload _ _ _ => query x.2.1 x.2.2.2
      | _ => (s.copyHdr b 1 x.2.1 0 x.2.2.2).asking w
    (h, w, x.1, x.2.2.1)
  (planPeers 0 ps).map (ask false) ++ (planPeers 0 qs).map (ask true)

/-- Whether the other homes are asked first: where one of several pieces, or what has failed here, could refuse (spec/09 R133, spec/15
R213, log entry 49). A copy of one piece is checked where it goes. -/
def Op.asksFirst (o : Op) (pieces : Nat) (bad : Bool) : Bool :=
  bad || decide (1 < pieces) || (match o.kind with | .imload _ _ _ => true | _ => false)

/-- Ask them; `data` is what an outbound operation has read of its source. -/
def State.askHomesOf (s : State) (b : Nat) (o : Op) (l : List (PkHdr × Bool × Nat × Nat)) (data : List Byte) : State :=
  match s.askChecks b o.id l with
  | .error (h, w, _, _) => s.failOp b o fcUnreachable (s.copyStart b o w h.addr)
  | .ok (s, keys) => s.setStage b o.id (.remote keys (Memory.write zeroByte [] 0 data))

/-- The data of an operation's global source: from HBM, and then from the other homes. -/
def State.fetchData (s : State) (b : Nat) (o : Op) (ps : List (Nat × Nat × Loc)) : State :=
  match s.gatherHbm 0 ps [] with
  | .error va => s.failOp b o fcLighterPoison (s.firstInPage (s.jobAt b) va (ps.map fun p => (p.1, p.2.1)))
  | .ok m =>
    if !planPeer ps && !planPool ps then s.haveData b o (Memory.read zeroByte m 0 o.total)
    else match s.askPieces b o.id none 0 ps with
      | .error va => s.failOp b o fcUnreachable (s.copyStart b o false va)
      | .ok (s, keys) => if keys.isEmpty then s.haveData b o (Memory.read zeroByte m 0 o.total) else s.sendOff b o.id keys m

/-- Arrival of an operation with a global side at the homes of this device: translation, token checks, then data (spec/15 R213,
spec/09 R133, R152). An outbound copy reads here what it has not read of its source (R140). Where other homes can refuse too, they are
asked before any byte moves; a failure found here waits for their answers, since a page comes before a token. -/
def State.globalArrive (s : State) (b : Nat) (o : Op) : State :=
  let c := s.ctxAt b
  let job := s.jobAt b
  let src := o.source c
  let rd := match src with | some (l, _) => segPieces l | none => []
  let acc := match src with | some (_, a) => a | none => .read
  match s.plan job (some acc) rd, s.plan job (some .write) (segPieces (o.dest c)) with
  | .error (e, va), _ => s.failOp b o (lighterCode e) va
  | _, .error (e, va) => s.failOp b o (lighterCode e) va
  | .ok ps, .ok qs =>
    let x := (s.walkHeal job (ps ++ qs)).tokens (c.copyParties b (o.tag == stagingTag))
      (s.planChecks job acc ps ++ s.planChecks job .write qs ++ s.ownChecks b o)
    let s := x.1
    let asks := s.homeAsks b o ps qs
    let first := asks != [] && o.asksFirst (ps.length + qs.length) x.2.isSome
    let pad := match o.kind with
      | .copy r => if r.q = .zero then List.replicate o.total (0 : Byte) else if r.out then o.mixed (c.spadRead r.l r.bytes) else []
      | _ => []
    match x.2, first with
    | some (code, va), false => s.failOp b o code va
    | bad, true =>
      let errs := match bad with | some (code, va) => [(va, 0, code)] | none => []
      (s.modCtxAt b fun c => (c.hasRead o.id).modOp o.id fun o => { o with errs := errs }).askHomesOf b o asks pad
    | none, false =>
      let s := (s.planHeal job ps).modCtxAt b fun c => c.hasRead o.id
      match src, o.kind with
      | none, .copy r => if r.out ∨ r.form = .cpg then s.putData b o pad else s.setStage b o.id (.passed pad)
      | none, _ => s
      | some _, _ => s.fetchData b o ps

-- windows (spec/09 R122, R123) ------------------------------------------------------------------------------------------------------

/-- Where a window access on this device goes. -/
inductive PeerAt where
  | wait
  | refused (code : Nat)
  | at_ (b : Nat) (p : Party)
deriving DecidableEq, Repr

/-- Whether an SPEXP write of a berth is in flight: accesses to its export are held (spec/09 R121). -/
def Ctx.exportChanging (c : Ctx) : Bool := c.flights.any fun f => match f.eff with | .sysreg n _ => n == 0x40 | _ => false

/-- Where a berth-thread is reached: on its berth, or, while its team is pre-empted, not yet (R123). -/
def State.peerThread (s : State) (t r : Nat) : PeerAt :=
  match s.berthOf t r with
  | some pb =>
    if (s.man t).any fun m => m.failed.contains r then .refused fcUnreachable
    else if (s.ctxAt pb).pilot = .retired then .refused fcTokenNone
    -- a tile without power, or one whose berth-thread is coming back, is waited for
    else if (s.berth pb).st = .off ∨ (s.berth pb).st = .filling then .wait
    else if (s.ctxAt pb).exportChanging then .wait else .at_ pb (.bt t r)
  | none => match s.man t with
    | none => .refused fcTokenNone
    | some m => if m.failed.contains r then .refused fcUnreachable else if m.exited.contains r then .refused fcTokenNone else .wait

/-- The peer of a window whose home is this device, for a berth-thread of a job. -/
def State.peer (s : State) (job : Nat) (w : Window) : PeerAt :=
  match w.bound with
  | some (.bt t r) => s.peerThread t r
  | some _ => .refused fcTokenNone
  | none =>
    let x := s.berth w.berth
    if x.retired then .refused fcUnreachable
    else if x.placed ∧ s.jobAt w.berth = job then s.peerThread x.ctx.team x.ctx.rank else .refused fcTokenNone

/-- Number of the berth that a window to another device names. -/
def Window.farNumber (w : Window) : Nat := w.label * 65536 + w.berth

/-- Where the peer of a window to another device stands: its number there, which follows the berth-thread (R123, log entry 51). The first
access finds a berth-thread of the job there or none, which that device alone knows. -/
def State.farPeer (s : State) (job : Nat) (w : Window) : PeerAt :=
  match w.bound with
  | some (.remote n) => if n < 2 ^ 26 then .at_ (n % 65536) (.remote n) else .wait
  | some _ => .refused fcTokenNone
  | none => if Config.farThread w.farNumber job s.time then .at_ w.berth (.remote w.farNumber) else .refused fcTokenNone

/-- Berth of the peer of a window to another device. -/
def Window.farBerth (w : Window) : Nat :=
  match w.bound with
  | some (.remote n) => n % 128
  | _ => w.berth

/-- Bind the window of an operation to the peer that its first access reached, or to nothing when the berth held no berth-thread of the
job: window k as it stands, and every operation that went through it as it was. -/
def State.bindWindow (s : State) (b : Nat) (k : Nat) (w : Window) : State :=
  if w.bound.isSome then s
  else
    let p := if w.label ≠ s.label then (if Config.farThread w.farNumber (s.jobAt b) s.time then .remote w.farNumber else .nobody)
      else if (s.berth w.berth).placed ∧ s.jobAt w.berth = s.jobAt b then (s.ctxAt w.berth).self else .nobody
    let f := fun x : Window => if x.valid && x.label == w.label && x.berth == w.berth && x.lbase == w.lbase && x.bound.isNone
      then { x with bound := some p } else x
    s.modCtxAt b fun c =>
      { c with
        windows := c.windows.map fun e => (e.1, if e.1 = k then f e.2 else e.2)
        ops := c.ops.map fun o => if o.kind.winAddr.map winOf = some k then { o with win := f o.win } else o }

/-- Index of the window that an operation goes through. -/
def Op.winIndex (o : Op) : Nat := (o.kind.winAddr.map winOf).getD 0

/-- Token checks of a range of a peer's scratchpad: what lies outside its export has no token. -/
def State.peerChecks (s : State) (pb : Nat) (acc : Acc) (a n : Nat) : List TokChk :=
  let c := s.ctxAt pb
  let e := c.export_
  let job := s.jobAt pb
  s.chkRange job (some c.self) acc a n ++ (if e.1 + e.2 < a + n then [⟨job, some c.self, e.1 + e.2, acc⟩] else [])

/-- Peer scratchpad address of a window address. -/
def Window.at_ (w : Window) (a : Nat) : Nat := w.lbase + a % 0x100000

/-- Header of a request through a window to another device: ADDR as R390 codes a scratchpad address (log entry 13). -/
def State.winHdr (s : State) (b : Nat) (w : Window) (type a n : Nat) : PkHdr :=
  { type := type, path := 1, dst := w.label, src := s.label, job := s.jobAt b, party := s.label * 65536 + b,
    addr := w.farBerth * 2 ^ 20 + a, bytes := n }

/-- Requests of at most 4,096 bytes through a window to another device. -/
def State.askWindow (s : State) (b id : Nat) (w : Window) (type : Nat) (data : List Byte) :
    Nat → List (Nat × Nat) → Option (State × List (Nat × Nat × Nat))
  | _, [] => some (s, [])
  | off, (a, n) :: ps =>
    match s.request (.op b id) off n (s.winHdr b w type a n) (if type = 0 then (data.drop off).take n else []) with
    | none => none
    | some (t, s) =>
      (s.askWindow b id w type data (off + n) ps).map fun (s, k) => (s, ((if type = 0 then keyWrite else 0) + t, off, n) :: k)

/-- A scratchpad range cut at 512 bytes, the smallest region (spec/09 R133), each piece with its offset from the start. -/
def padCuts : Nat → Nat → Nat → Nat → List (Nat × Nat × Nat)
  | 0, _, _, _ => []
  | f + 1, off, a, n =>
    let k := Nat.min n (512 - a % 512)
    (off, a, k) :: (if n ≤ k then [] else padCuts f (off + k) (a + k) (n - k))

/-- The bytes of a CPW go to, or come from, a peer on another device: where they touch more than one region's smallest size, or the own
side has failed, each is asked first by a read of no byte (spec/09 R133, log entry 49). -/
def State.cpwAway (s : State) (b : Nat) (o : Op) (r : CopyReq) (data : List Byte) (asked : Bool) : State :=
  let w := o.win
  let a := w.at_ r.g
  let m := if r.out then Memory.write zeroByte [] 0 data else []
  let cuts := padCuts (r.count / 512 + 2) 0 a r.count
  let bad := (((s.ctxAt b).op o.id).map fun o => !o.errs.isEmpty).getD false
  if !asked && (bad || decide (1 < cuts.length)) then
    match s.askChecks b o.id (cuts.map fun (off, x, n) => ((s.winHdr b w 1 x 0).asking r.out, r.out, off, n)) with
    | .error (_, _, off, _) => s.failOp b o fcUnreachable (r.g + off)
    | .ok (s, k) => s.setStage b o.id (.remote k m)
  else match s.askWindow b o.id w (if r.out then 0 else 1) data 0 (pieces a r.count) with
    | none => s.failOp b o fcUnreachable r.g
    | some (s, k) => s.setStage b o.id (.remote k m)

/-- Arrival of a CPW at its peer (spec/15 R213). A failure names the window address of the first byte in the failing region (R217). -/
def State.cpwArrive (s : State) (b : Nat) (o : Op) (r : CopyReq) : State :=
  let w := o.win
  let c := s.ctxAt b
  let a := w.at_ r.g
  let data := if r.q = .zero then List.replicate r.count (0 : Byte) else o.mixed (c.spadRead r.l r.count)
  let own := s.tokens (c.copyParties b) (s.ownChecks b o)
  let s := own.1
  -- the own side's failure, at the window address of its first byte
  let bad := own.2.map fun x => (x.1, r.g + (x.2 - r.l))
  if !r.out && r.q == .zero then (match bad with
    | some (code, va) => s.failOp b o code va
    | none => s.setStage b o.id (.passed data))
  else if w.label ≠ s.label then
    match s.farPeer (s.jobAt b) w, bad with
    | .wait, _ => s
    | .refused code, none => (s.bindWindow b o.winIndex w).failOp b o code r.g
    | .refused _, some (code, va) => (s.bindWindow b o.winIndex w).failOp b o code va
    | .at_ _ _, _ =>
      let errs := match bad with | some (code, va) => [(va, 0, code)] | none => []
      let read := fun c : Ctx => if r.out then c.hasRead o.id else c
      ((s.modCtxAt b fun c => (read c).modOp o.id fun o => { o with errs := errs }).bindWindow b o.winIndex w).cpwAway b o r data false
  else
    let res := s.peer (s.jobAt b) w
    let s := s.bindWindow b o.winIndex w
    match res, bad with
    | .wait, _ => s
    | _, some (code, va) => s.failOp b o code va
    | .refused code, none => s.failOp b o code r.g
    | .at_ pb p, none =>
      match s.tokens (c.copyParties b) (s.peerChecks pb (if r.out then .write else .read) a r.count) with
      | (s, some (code, va)) => s.failOp b o code (r.g + (va - a))
      | (s, none) =>
        if r.out then
          ((((s.modCtxAt b fun c => c.hasRead o.id).modCtxAt pb fun c => c.spadWrite a data).arrive 0 (some p) a r.count)).setStage b o.id
            (.replied [])
        else s.setStage b o.id (.passed ((s.ctxAt pb).spadRead a r.count))

/-- WINDOW_STORE_ARRIVE (R123). -/
def execWindowStoreArrive (s : State) : Out :=
  withOp s fun o s =>
    let b := s.cur
    match o.kind, o.stage with
    | .wstore _ addr cells, .sent =>
      if !s.ready o then s
      else
        let w := o.win
        let lo := (cells.headD (addr, 0)).1
        let a := w.at_ lo
        let put := cells.map fun x => (w.at_ x.1, x.2)
        if w.label ≠ s.label then
          match s.farPeer (s.jobAt b) w with
          | .wait => s
          | .refused code => (s.bindWindow b o.winIndex w).failOp b o code addr
          | .at_ _ _ =>
          -- the bytes between the first and the last that are written travel whole only when every one of them is written
          match (s.bindWindow b o.winIndex w).askWindow b o.id w 0 (cells.map Prod.snd) 0
              (if cells.isEmpty then [(w.at_ addr, 0)] else cellRuns (cells.map fun x => w.at_ x.1)) with
          | none => s.failOp b o fcUnreachable addr
          | some (s, k) => s.setStage b o.id (.remote k [])
        else
          let res := s.peer (s.jobAt b) w
          let s := s.bindWindow b o.winIndex w
          match res with
          | .wait => s
          | .refused code => s.failOp b o code addr
          | .at_ pb p =>
            let n := ((cells.getLastD (lo, 0)).1 + 1) - lo
            match s.tokens [(s.ctxAt b).self] (s.peerChecks pb .write a (if cells.isEmpty then 0 else n)) with
            | (s, some (code, _)) => s.failOp b o code addr
            | (s, none) =>
              ((s.modCtxAt pb fun c => c.landStore put).arrive 0 (some p) a (if cells.isEmpty then 0 else n)).setStage b o.id (.replied [])
    | _, _ => s

/-- WINDOW_REPLY_RETURN (R123): the reply gives the unit back; a refusal is raised at the next boundary. -/
def execWindowReplyReturn (s : State) : Out :=
  withOp s fun o s =>
    let back := fun (w : Nat) (c : Ctx) =>
      { c.dropOp o.id with windows := Tab.upd Window.none c.windows w fun x => { x with out := x.out - 1 } }
    match o.kind, o.stage with
    | .wstore w _ _, .replied _ => s.modCtx (back w)
    | .wstore w _ _, .failed f => s.modCtx fun c => let c := back w c; { c with refusals := c.refusals ++ [f] }
    | _, _ => s

/-- 64-bit words of bytes. -/
def bytesWords (n : Nat) (bs : List Byte) : List W64 := (chunks 8 (n / 8) bs).map fun l => w64 (leValue l)

/-- REMOTE_LOAD_ARRIVE (R123). -/
def execRemoteLoadArrive (s : State) : Out :=
  withOp s fun o s =>
    let b := s.cur
    match o.kind, o.stage with
    | .rload _ addr n, .sent =>
      if !s.ready o then s
      else
        let w := o.win
        let a := w.at_ addr
        if w.label ≠ s.label then
          match s.farPeer (s.jobAt b) w with
          | .wait => s
          | .refused code => (s.bindWindow b o.winIndex w).failOp b o code addr
          | .at_ _ _ =>
          match (s.bindWindow b o.winIndex w).askWindow b o.id w 1 [] 0 [(a, n)] with
          | none => s.failOp b o fcUnreachable addr
          | some (s, k) => s.setStage b o.id (.remote k [])
        else
          let res := s.peer (s.jobAt b) w
          let s := s.bindWindow b o.winIndex w
          match res with
          | .wait => s
          | .refused code => s.failOp b o code addr
          | .at_ pb _ =>
            match s.tokens [(s.ctxAt b).self] (s.peerChecks pb .read a n) with
            | (s, some (code, _)) => s.failOp b o code addr
            | (s, none) => s.setStage b o.id (.replied (bytesWords n ((s.ctxAt pb).spadRead a n)))
    | _, _ => s

-- completion (spec/15 R214, R218) -----------------------------------------------------------------------------------------------------

/-- Transpose of blocks of 512-byte rows at w bits (R214). -/
def transposeBytes (w : Nat) (bs : List Byte) : List Byte :=
  let t := 4096 / w
  let k := w / 8
  let a := bs.toArray
  (List.range (bs.length / (512 * t))).flatMap fun blk =>
    (List.range t).flatMap fun j => (List.range t).flatMap fun i => (List.range k).map fun x =>
      a.getD (blk * 512 * t + i * 512 + j * k + x) 0

/-- Deliver elements to an operation's place in a stream. -/
def Ctx.deliver (c : Ctx) (x id : Nat) (es : List (List Byte)) (f : Option Fail) : Ctx :=
  c.modStream x fun t => t.modItem id fun i => { i with elems := i.elems ++ es, done := true, fail := f }

/-- A copy or IMLOAD completes or has failed: by its route. -/
def Ctx.complete (c : Ctx) (o : Op) (f : Option Fail) (es : List (List Byte)) : Ctx :=
  let c := match o.kind with
    | .copy r => if r.form == CopyForm.cpw && r.out then
        { c with windows := Tab.upd Window.none c.windows (winOf r.g) fun x => { x with out := x.out - 1 } } else c
    | _ => c
  match o.route with
  | .count =>
    let c := c.dropOp o.id
    match f with
    | some f => { c with cfails := c.cfails ++ [f] }
    | none => c
  | .ring q i => (c.dropOp o.id).modRing q fun r => r.modSlot i fun x => { x with st := .full, pub := false, fail := f }
  | .stream x =>
    let c := if es.isEmpty then c.dropOp o.id else c.modOp o.id fun o => { o with stage := .replied [] }
    c.deliver x o.id es f

/-- Words written into instruction memory, and the harbourmaster's code copy of the berth-thread (spec/15 R239, spec/23 R340). -/
def State.loadWords (s : State) (b l : Nat) (ws : List W64) : State :=
  let put := fun im : Tab W64 => ((List.range ws.length).zip ws).foldl (fun m x => Tab.set stopNop m (l + x.1) x.2) im
  let s := s.modBerth b fun x => { x with im := put x.im, codelen := Nat.max x.codelen (l + ws.length) }
  let c := s.ctxAt b
  let upd := fun e : Nat × Nat × Tab W64 × Nat =>
    if e.1 = c.team ∧ e.2.1 = c.rank then (e.1, e.2.1, put e.2.2.1, Nat.max e.2.2.2 (l + ws.length)) else e
  { s with codeStore := s.codeStore.map upd }

/-- COPY_COMPLETE (spec/15 R214, R218, R239). With a subject's item k + 1 the step only lands byte k of the data in the scratchpad, ahead
of the rest (spec/09 R140, log entry 10). -/
def execCopyComplete (s : State) : Out :=
  withOp s fun o s =>
    let b := s.cur
    let c := s.ctx
    match o.kind, o.stage with
    | .copy r, .passed data =>
      let data := match transposeBits r.q with | some w => transposeBytes w data | none => data
      if s.subj.item ≠ 0 then match o.route with
        | .stream _ => s
        | _ => s.landEarly b o r.l (s.subj.item - 1) data
      else match o.route with
      | .stream x =>
        -- elements already handed over leave the operation in its place until the last has arrived
        let es := (c.stream x).es
        s.modCtx fun c => c.complete o none (if es = 0 then [] else (chunks es (data.length / es) data))
      | _ => (s.landRest b o r.l data).modCtx fun c => c.complete o none []
    | .copy r, .replied _ =>
      match o.route with
      | .stream _ => s
      | _ => if r.out ∨ r.form = .cpg then s.modCtx fun c => c.complete o none [] else s
    | .copy _, .failed f => s.modCtx fun c => c.complete o (some f) []
    | .imload _ l n, .passed data => (s.loadWords b l (bytesWords (8 * n) data)).modCtx fun c => c.complete o none []
    | .imload _ _ _, .failed f => s.modCtx fun c => c.complete o (some f) []
    | _, _ => s

/-- STREAM_ELEMENT_ARRIVE (spec/09 R130): one element of the first operation in the register's order. -/
def execStreamElementArrive (b x : Nat) (s : State) : Out :=
  let c := s.ctxAt b
  let t := c.stream x
  match t.items with
  | [] => .next s
  | i :: l =>
    match i.elems with
    | [] => .next s
    | e :: es =>
      if 16 ≤ t.arrived.length ∨ i.fail.isSome then .next s
      else .next (s.modCtxAt b fun c =>
        let c := c.modStream x fun t =>
          { t with arrived := t.arrived ++ [e], items := trimItems ({ i with elems := es } :: l) }
        if es.isEmpty ∧ i.done then c.dropOp i.op else c)

/-- PROBE_FILL_COMPLETE (spec/15 R226, spec/09 R131): the fill is translated, checked and read as a copy, and writes its slot.
With a subject's item k + 1 it only lands byte k of what has been read (R140, log entry 10). -/
def execProbeFillComplete (s : State) : Out :=
  withOp s fun o s =>
    let b := s.cur
    match o.kind with
    | .fill t e _ _ slot =>
      let s := if o.stage = .sent ∧ s.ready o then s.globalArrive b o else s
      match (s.ctx.op o.id).map Op.stage with
      | some (.passed data) =>
        if s.subj.item ≠ 0 then s.landEarly b o slot (s.subj.item - 1) data
        else (s.landRest b o slot data).modCtx fun c =>
          (c.dropOp o.id).modWay t e fun y => { y with fills := y.fills.filter (· != o.id) }
      | some (.failed f) =>
        s.modCtx fun c => (c.dropOp o.id).modWay t e fun y =>
          if y.valid ∧ y.fills.contains o.id then { y with fail := earlier y.fail f, fills := y.fills.filter (· != o.id) } else y
      | _ => s
    | _ => s

-- atomics and semaphores at home (spec/15 R229, R232-R234) -------------------------------------------------------------------------------

/-- The new value of an atomic. -/
def atomNew (op : AtomOp) (wide : Bool) (old b c : W64) : W64 :=
  let w := if wide then 64 else 32
  let sg := fun x : W64 => toSigned w x.toNat
  let f := fun g : FV → FV → FV => w64 (FF.fp32.rne (g (FF.fp32.decode (bf old 0 32)) (FF.fp32.decode (bf b 0 32))))
  match op with
  | .read => old
  | .xchg => b
  | .add => w64 ((old.toNat + b.toNat) % 2 ^ w)
  | .fadd => f (FV.add .rne)
  | .min => if sg b < sg old then b else old
  | .max => if sg old < sg b then b else old
  | .minu => if b.toNat < old.toNat then b else old
  | .maxu => if old.toNat < b.toNat then b else old
  | .and => old &&& b
  | .or => old ||| b
  | .xor => old ^^^ b
  | .cas => if old = c then b else old
  | .fmax => f FV.max
  | .fmin => f FV.min

/-- The place of an atomic at this device, or its failure: translation, tier, token, poison (spec/09 R126, R135, spec/15 R230). -/
def State.atomPlace (s : State) (ps : List Party) (job va n : Nat) (rd : Bool) : State × Except Nat (Nat × W64) :=
  match s.translate job va (some (if rd then .atomRead else .atomWrite)) with
  | .error e => (s, .error (lighterCode e))
  | .ok (.pool _) | .ok (.peer _) => (s, .error fcLighterTier)
  | .ok (.hbm pa _) =>
    match s.tokens ps (s.chkRange job none (if rd then .atomRead else .atomWrite) va n) with
    | (s, some (code, _)) => (s, .error code)
    | (s, none) =>
      let s := (s.healWalk job va).heal pa n
      match s.hbmRead pa n with
      | none => (s, .error fcLighterPoison)
      | some bs => (s, .ok (pa, w64 (leValue bs)))

/-- An atomic at its home: the old value, or the failure. -/
def State.atomHome (s : State) (ps : List Party) (job va : Nat) (op : AtomOp) (wide : Bool) (b c : W64) : State × Except Nat W64 :=
  let n := atomBytes wide
  match s.atomPlace ps job va n (op == .read) with
  | (s, .error e) => (s, .error e)
  | (s, .ok (pa, old)) =>
    if op = .read then (s, .ok old)
    else ((s.hbmWrite pa (leBytes n (atomNew op wide old b c).toNat)).arrive job none va n, .ok old)

/-- Whether a semaphore condition holds. -/
def semHolds (c : SCond) (count t : Nat) : Bool :=
  match c with
  | .geu => decide (t ≤ count)
  | .eq => count == t
  | .ne => count != t

/-- A poll at the semaphore's home: the whole word; with `sub`, the target is subtracted when COUNT ≥ t and ERR is clear (R390). -/
def State.pollHome (s : State) (ps : List Party) (job va t : Nat) (sub : Bool) : State × Except Nat W64 :=
  match s.atomPlace ps job va 8 (!sub) with
  | (s, .error e) => (s, .error e)
  | (s, .ok (pa, old)) =>
    if sub ∧ t ≤ bf old 0 63 ∧ !bt old 63 then ((s.hbmWrite pa (leBytes 8 (old.toNat - t))).arrive job none va 8, .ok old)
    else (s, .ok old)

/-- A post at the semaphore's home: COUNT modulo 2^63, ERR kept, or set by a post that carries an error (R232, R234). -/
def State.postHome (s : State) (ps : List Party) (job va inc : Nat) (err : Bool) : State × Except Nat W64 :=
  match s.atomPlace ps job va 8 false with
  | (s, .error e) => (s, .error e)
  | (s, .ok (pa, old)) =>
    let new := (bf old 0 63 + inc) % 2 ^ 63 + (if bt old 63 || err then 2 ^ 63 else 0)
    ((s.hbmWrite pa (leBytes 8 new)).arrive job none va 8, .ok old)

/-- Device on which an address of a job has its home. -/
def State.homeOf (s : State) (job va : Nat) : Nat :=
  match s.translate job va none with
  | .ok (.peer l) => l
  | _ => s.label

/-- Header of a TYPE 3 packet (R390): OPINFO from its bit 13. -/
def State.opHdr (s : State) (b dst path va info opA opB : Nat) : PkHdr :=
  { type := 3, path := path, dst := dst, src := s.label, job := s.jobAt b, party := s.label * 65536 + b, addr := va, info := info,
    opA := opA, opB := opB }

/-- OPINFO of an atomic. -/
def atomInfo (r : AtomReq) (nr : Bool) : Nat := bit r.w64 + r.ord * 2 + r.op.code * 8 + bit nr * 128
/-- OPINFO of a semaphore operation. -/
def semInfo (sem cond : Nat) (nr : Bool) : Nat := bit nr * 128 + sem * 256 + cond * 2048

/-- Send an operation to its home on another device. -/
def State.sendOp (s : State) (b : Nat) (o : Op) (h : PkHdr) (addr : Nat) : State :=
  match s.request (.op b o.id) 0 0 h [] with
  | none => s.failOp b o fcUnreachable addr
  | some (t, s) => s.setStage b o.id (.remote [(t, 0, 0)] [])

/-- Translation failure of an atomic on the way to another device. -/
def State.atomReach (s : State) (job va : Nat) (rd : Bool) : Option Nat :=
  match s.translate job va (some (if rd then .atomRead else .atomWrite)) with
  | .error e => some (lighterCode e)
  | .ok _ => none

/-- What an ATOM, ATOMNR or SEMPOST leaves when it is performed or has failed (spec/15 R218, R229). -/
def State.atomDone (s : State) (b : Nat) (o : Op) (res : Except Nat W64) (addr : Nat) : State :=
  let f := match res with | .error e => some (⟨e, w64 addr, 0, o.id⟩ : Fail) | .ok _ => none
  (s.keep b o (match res with | .error e => .failed ⟨e, w64 addr, 0, o.id⟩ | .ok v => .done [v])).modCtxAt b fun c =>
    match o.route with
    | .stream x =>
      (c.dropOp o.id).deliver x o.id (match res with | .ok v => [leBytes 8 v.toNat] | .error _ => []) f
    | _ => match f with
      | some f => { c.dropOp o.id with nfails := c.nfails ++ [f] }
      | none => c.dropOp o.id

/-- ATOMIC_APPLY (R229, R234): an ATOM, ATOMNR or SEMPOST is applied at its home, or sent there. -/
def execAtomicApply (s : State) : Out :=
  withOp s fun o s =>
    let b := s.cur
    let job := s.job
    let ps := s.ctx.copyParties b
    if o.stage ≠ .sent ∨ !s.ready o then s
    else
      let go := fun (va : Nat) (rd : Bool) (info opA opB : Nat) (here : State × Except Nat W64) =>
        if s.homeOf job va ≠ s.label then
          match s.atomReach job va rd with
          | some e => s.atomDone b o (.error e) va
          | none => match s.request (.op b o.id) 0 0 (s.opHdr b (s.homeOf job va) 1 va info opA opB) [] with
            | none => s.atomDone b o (.error fcUnreachable) va
            | some (t, s) => s.setStage b o.id (.remote [(t, 0, 0)] [])
        else here.1.atomDone b o here.2 va
      match o.kind with
      | .atom r => go r.va (r.op == .read) (atomInfo r false) r.b.toNat r.c.toNat (s.atomHome ps job r.va r.op r.w64 r.b r.c)
      | .atomnr r => go r.va (r.op == .read) (atomInfo r true) r.b.toNat r.c.toNat (s.atomHome ps job r.va r.op r.w64 r.b r.c)
      | .sempost va inc => go va false (semInfo 3 0 true) inc 0 (s.postHome ps job va inc false)
      | _ => s

/-- What a poll's word makes of its SEMWAIT (R233). -/
def State.pollDone (s : State) (b : Nat) (o : Op) (r : SemReq) (res : Except Nat W64) : State :=
  match res with
  | .error e => s.failOp b o e r.va
  | .ok w =>
    if bt w 63 then s.failOp b o fcWharfSemerr r.va
    else if semHolds r.cond (bf w 0 63) r.t then (s.keep b o (.done [])).setStage b o.id (.replied [])
    else s.setStage b o.id .sent

/-- SEMAPHORE_POLL (R233, R390). -/
def execSemaphorePoll (s : State) : Out :=
  withOp s fun o s =>
    let b := s.cur
    let job := s.job
    match o.kind, o.stage with
    | .semwait r, .sent =>
      if !s.ready o then s
      else if s.homeOf job r.va ≠ s.label then
        match s.atomReach job r.va (!r.sub) with
        | some e => s.failOp b o e r.va
        | none => s.sendOp b o (s.opHdr b (s.homeOf job r.va) 1 r.va (semInfo (if r.sub then 2 else 1) r.cond.code false) r.t 0) r.va
      else
        let x := s.pollHome (s.ctx.copyParties b) job r.va r.t r.sub
        x.1.pollDone b o r x.2
    | _, _ => s

-- token forms at home (spec/09 R136, spec/15 R236, R237) --------------------------------------------------------------------------------------

/-- TKSEL and the flag of a token form (spec/15 R235). -/
def TokForm.sel : TokForm → Nat
  | .lend => 0 | .ret => 1 | .split => 2 | .join => 3 | .share => 4 | .unshare => 5 | .atom _ => 6 | .query => 7 | .claim => 8
/-- OPINFO of a token form. TKATOM's BACK has no place in R390; the model puts it in bit 0 of the second operand. -/
def tokInfo (f : TokForm) (sp : Bool) : Nat := 2 ^ 13 + f.sel * 2 ^ 14 + bit sp * 2 ^ 18
def TokForm.opB : TokForm → Nat
  | .atom true => 1
  | _ => 0

/-- The outcome of a token form at its home. -/
def State.tokenDone (s : State) (b : Nat) (o : Op) (r : TokReq) (res : Except Nat (List W64)) : State :=
  let res := res.mapError tokFault
  let s := s.keep b o (match res with | .error e => .failed ⟨e, r.g, 0, o.id⟩ | .ok es => .done es)
  match res with
  | .error e =>
    let f : Fail := ⟨e, r.g, 0, o.id⟩
    match o.route with
    | .stream x => s.modCtxAt b fun c => (c.dropOp o.id).deliver x o.id [] (some f)
    | _ => s.setStage b o.id (.failed f)
  | .ok es =>
    s.modCtxAt b fun c =>
      match o.route with
      | .stream x => (c.dropOp o.id).deliver x o.id (es.map fun e => leBytes 8 e.toNat) none
      | _ => c.dropOp o.id

/-- A token form on a region whose home is this device; TKQUERY's elements. A region that the harbourmaster holds comes back to the host
by the harbourmaster's own TKRET, or not at all (spec/25 R385). -/
def State.tokenHome (s : State) (caller : Party) (job : Nat) (ex : Option Party) (a : Nat) (form : TokForm) (targets : List Party) :
    State × Except Nat (List W64) :=
  match s.tokens [] (if (s.region job ex a).any fun r => r.lost then [⟨job, ex, a, .read⟩] else []) with
  | (s, some (code, _)) => (s, .error code)
  | (s, none) =>
    let hm := (s.region job ex a).filter fun r => caller == .host && form == .ret && r.owner == .hm
    if hm.any fun r => !(r.stack.head? == some .host && r.shares.isEmpty) then (s, .error fcTokenNone)
    else match s.tokenForm (if hm.isSome then .hm else caller) job ex a form targets with
    | .error e => (s, .error e)
    | .ok t => (t, .ok (if form = .query then (match t.region job ex a with | some r => t.record r | none => []) else []))

/-- Packets of a token form for another device: one, or one for each grantee (R390). -/
def State.sendToken (s : State) (b : Nat) (o : Op) (r : TokReq) (dst addr : Nat) : List Nat → Option (State × List (Nat × Nat × Nat))
  | [] => some (s, [])
  | n :: ns =>
    match s.request (.op b o.id) 0 0 (s.opHdr b dst (if isWin r.g.toNat && r.sp then 1 else 0) addr (tokInfo r.form r.sp) n r.form.opB) [] with
    | none => none
    | some (t, s) => (s.sendToken b o r dst addr ns).map fun (s, k) => (s, (t, 0, 0) :: k)

/-- TOKEN_FORM_AT_HOME (R136, R236, R237). -/
def execTokenFormAtHome (s : State) : Out :=
  withOp s fun o s =>
    let b := s.cur
    let job := s.job
    let c := s.ctx
    match o.kind, o.stage with
    | .token r, .sent =>
      if !s.ready o then s
      else
        let a := r.g.toNat
        let s := if r.sp then s else s.healWalk job a
        let home := fun (s : State) (ex : Option Party) (a : Nat) =>
          let x := s.tokenHome c.self job ex a r.form (r.targets.map s.party)
          x.1.tokenDone b o r x.2
        let away := fun (s : State) (dst addr : Nat) =>
          -- a grant to no party: one message for each grantee (R390), so none
          if r.form = .share ∧ r.targets = [] then s.tokenDone b o r (.ok [])
          else match s.sendToken b o r dst addr (if r.targets.isEmpty then [0] else r.targets) with
            | none => s.tokenDone b o r (.error fcUnreachable)
            | some (s, k) => s.setStage b o.id (.remote k [])
        if !r.sp then
          match s.translate job a none with
          | .error e => s.tokenDone b o r (.error (lighterCode e))
          | .ok (.peer l) => away s l a
          | .ok _ => home s none a
        else if !isWin a then (if c.exportChanging then s else home s (some c.self) a)
        else if o.win.label ≠ s.label then
          match s.farPeer job o.win with
          | .wait => s
          | .refused code => (s.bindWindow b o.winIndex o.win).tokenDone b o r (.error code)
          | .at_ _ _ => away (s.bindWindow b o.winIndex o.win) o.win.label (o.win.farBerth * 2 ^ 20 + o.win.at_ a)
        else
          let res := s.peer job o.win
          let s := s.bindWindow b o.winIndex o.win
          match res with
          | .wait => s
          | .refused code => s.tokenDone b o r (.error code)
          | .at_ _ p => home s (some p) (o.win.at_ a)
    | _, _ => s

/-- TOKEN_REFUSAL_RETURN (R236): the refusal is raised at the next boundary. -/
def execTokenRefusalReturn (s : State) : Out :=
  withOp s fun o s =>
    match o.kind, o.stage with
    | .token _, .failed f => s.modCtx fun c => { c.dropOp o.id with refusals := c.refusals ++ [f] }
    | _, _ => s

-- answers to requests of an operation --------------------------------------------------------------------------------------------------------

/-- Whether a code is that of a translation or of a token check. -/
def tokenOrPage (e : Nat) : Bool := decide (fcLighterMiss ≤ e ∧ e ≤ fcLighterTier) || decide (fcTokenNone ≤ e ∧ e ≤ fcTokenNone + 15)

/-- The failure that counts of several requests: translation before tokens before the rest (spec/15 R213), each at the first address
in copy order (R217). -/
def worstErr (l : List (Nat × Nat × Nat)) : Option (Nat × Nat) :=
  let rank := fun e : Nat => if fcLighterMiss ≤ e ∧ e ≤ fcLighterTier then 0 else if tokenOrPage e then 1 else 2
  (l.foldl (fun (m : Option (Nat × Nat × Nat)) x => match m with
    | none => some x
    | some y => if rank x.2.2 < rank y.2.2 ∨ (rank x.2.2 = rank y.2.2 ∧ x.2.1 < y.2.1) then some x else m) none).map
      fun x => (x.1, x.2.2)

/-- Bytes that a request returned, put where the operation gathers its data; what is missing reads as zero. -/
def putFrags (bs : List Byte) : List (Nat × Nat × Nat) → Memory → Memory
  | [], m => m
  | (_, off, n) :: l, m => putFrags (bs.drop n) l (Memory.write zeroByte m off ((bs ++ List.replicate (n - bs.length) 0).take n))

/-- Every home of an operation has passed it: its source is read, or what it has read of its source is written. -/
def State.homesPass (s : State) (b : Nat) (o : Op) (data : List Byte) : State :=
  match o.source (s.ctxAt b) with
  | none => s.putData b o data
  | some (l, acc) => match s.plan (s.jobAt b) (some acc) (segPieces l) with
    | .error (e, va) => s.failOp b o (lighterCode e) va
    | .ok ps => (s.planHeal (s.jobAt b) ps).fetchData b o ps

/-- One request of an operation has been answered: with data, or with a fault code (spec/15 R217, spec/25 R375). -/
def State.opAnswered (s : State) (b id key : Nat) (res : Except Nat (List Byte)) : State :=
  match (s.ctxAt b).op id with
  | none => s
  | some o =>
    match o.stage with
    | .remote keys data =>
      match keys.filter fun k => k.1 == key with
      | [] => s
      | (_, off, len) :: more =>
        let rest := keys.filter fun k => k.1 != key
        let word := match res with | .ok bs => .ok (w64 (leValue (bs.take 8))) | .error e => .error e
        match o.kind with
        | .atom r | .atomnr r => s.atomDone b o word r.va
        | .sempost va _ => s.atomDone b o word va
        | .semwait r => s.pollDone b o r word
        -- an acknowledgement that did not come through is sent again
        | .mboxack => match res with
          | .ok _ => (s.keep b o (.done [])).modCtxAt b fun c => c.dropOp o.id
          | .error _ => s.setStage b o.id .sent
        | .token r =>
          match o.route, res with
          | .stream _, .ok bs => s.tokenDone b o r (.ok (bytesWords 16 bs))
          | .stream _, .error e => s.tokenDone b o r (.error e)
          | _, _ =>
            let s := match res with
              | .error e =>
                let f : Fail := ⟨e, r.g, 0, o.id⟩
                (s.keep b o (.failed f)).modCtxAt b fun c => { c with refusals := c.refusals ++ [f] }
              | .ok _ => if rest.isEmpty then s.keep b o (.done []) else s
            if rest.isEmpty then s.modCtxAt b fun c => c.dropOp o.id else s.setStage b id (.remote rest data)
        | _ =>
          let write := isWrite key
          let addr : Nat → Nat := match o.kind with
            | .copy r => if r.form = .cpw then (r.g + ·) else segAddr (if write then o.dest (s.ctxAt b)
                else match o.source (s.ctxAt b) with | some (l, _) => l | none => [])
            | .fill _ _ blk _ _ => (blk + ·)
            | .imload va _ _ => (va + ·)
            | .wstore _ a _ | .rload _ a _ => fun _ => a
            | _ => fun _ => 0
          let asked := isAsk key
          -- an IMLOAD's words lie in EXEC regions (spec/09 R134)
          let res : Except Nat (List Byte) := match o.kind, res with
            | .imload _ _ _, .ok bs => if asked ∧ fld (leValue (bs.take 8)) 52 3 ≠ 3 then .error fcTokenNone else .ok bs
            | _, r => r
          let s := match res with
            | .error e => s.modCtxAt b fun c => c.modOp id fun o => { o with errs := o.errs ++ [(addr off, off, e)] }
            | .ok _ => s
          let got := match res with | .ok bs => bs | .error _ => []
          let data := if write || asked then data else putFrags got ((key, off, len) :: more) data
          let errs := (((s.ctxAt b).op id).map Op.errs).getD []
          if !rest.isEmpty then s.setStage b id (.remote rest data)
          else match worstErr errs with
            | some (va, e) => s.failOp b o e (if tokenOrPage e then va else s.copyStart b o write va)
            | none =>
              let all := Memory.read zeroByte data 0 o.total
              match o.kind with
              | .copy r =>
                if r.form = .cpw then (if asked then s.cpwAway b o r all true else s.setStage b id (if r.out then .replied [] else .passed all))
                else if asked then s.homesPass b o all
                else if write then s.putRest b o all else s.haveData b o all
              | .imload _ _ _ => if asked then s.homesPass b o all else s.haveData b o all
              | .wstore _ _ _ => s.setStage b id (.replied [])
              | .rload _ _ n => s.setStage b id (.replied (bytesWords n all))
              | _ => s.haveData b o all
    | _ => s

/-- Place of an offset of an operation in pool memory. -/
def State.poolAt (s : State) (b : Nat) (o : Op) (write : Bool) (off : Nat) : Option Nat :=
  let c := s.ctxAt b
  let va := match o.kind with
    | .fill _ _ blk _ _ => blk + off
    | .imload va _ _ => va + off
    | _ => segAddr (if write then o.dest c else match o.source c with | some (l, _) => l | none => []) off
  match s.translate (s.jobAt b) va none with
  | .ok (.pool pa) => some pa
  | _ => none

/-- What an ok completion of a UIO request shows of the pool (spec/25 R374, R375): the bytes written, or those returned. -/
def State.poolSeen (s : State) (b : Nat) (o : Op) (write : Bool) (data : List Byte) : List (Nat × Nat × Nat) → State
  | [] => s
  | (_, off, n) :: l =>
    let bs := match o.stage, write with
      | .remote _ m, true => Memory.read zeroByte m off n
      | _, _ => (data ++ List.replicate (n - data.length) 0).take n
    (match s.poolAt b o write off with
      | some pa => s.poolWrite pa bs
      | none => s).poolSeen b o write (data.drop n) l

/-- The oldest UIO request of an operation: its key. -/
def uioKey (keys : List (Nat × Nat × Nat)) : Option Nat := (keys.find? fun k => isUio k.1).map Prod.fst

/-- UIO_COMPLETION (spec/25 R375): the oldest UIO request of an operation completes. -/
def execUioCompletion (b id : Nat) (data : List Byte) (poison ok : Bool) (s : State) : Out :=
  match (s.ctxAt b).op id with
  | some o =>
    match o.stage with
    | .remote keys _ =>
      match uioKey keys with
      | some k =>
        let s := if ok ∧ !poison then s.poolSeen b o (isWrite k) data (keys.filter fun x => x.1 == k) else s
        .next (s.opAnswered b id k (if !ok then .error fcUnreachable else if poison then .error fcLighterPoison else .ok data))
      | none => .next s
    | _ => .next s
  | none => .next s

/-- UIO_COMPLETION_TIMEOUT (spec/25 R375, R389): once 1,048,576 steps of the device counter have passed since the requests were sent. -/
def execUioCompletionTimeout (s : State) : Out :=
  let late := match (s.ctxAt s.subj.berth).op s.subj.op with
    | some o => decide (o.uioAt + 1048576 ≤ s.time)
    | none => false
  if late then execUioCompletion s.subj.berth s.subj.op [] false false s else .next s

-- wharf pushes, launches, acknowledgements ---------------------------------------------------------------------------------------------------------

/-- Read with the harbourmaster's rights (spec/01 R10): the bytes, or the fault code. -/
def State.hmRead (s : State) (job va n : Nat) : Except Nat (List Byte) :=
  match s.plan job none (pieces va n) with
  | .error (e, _) => .error (fcPageMiss + e)
  | .ok ps => if planPeer ps then .error fcPageTier else match s.planRead ps with
    | none => .error fcLighterPoison
    | some bs => .ok bs

/-- What a read of the harbourmaster leaves (spec/21 R328, R330). -/
def State.hmHeal (s : State) (job va n : Nat) : State :=
  match s.plan job none (pieces va n) with
  | .error _ => s
  | .ok ps => s.planHeal job ps

/-- Write with the harbourmaster's rights, which arrives in a mailbox like any other (spec/01 R28): a write into part of a poisoned
granule fails (spec/01 R9, spec/21 R312), and one to an executable page (spec/05 R86). -/
def State.hmWrite (s : State) (job va : Nat) (bs : List Byte) : Except Nat State :=
  match s.plan job none (pieces va bs.length) with
  | .error (e, _) => .error (fcPageMiss + e)
  | .ok ps =>
    if planPeer ps then .error fcPageTier
    else if ps.any fun p => s.executable job p.1 then .error fcPagePerm
    else if s.planDead ps then .error fcLighterPoison
    else .ok (((s.walkHeal job ps).planWrite ps bs).arrive job none va bs.length)

/-- Slots of a launch queue. -/
def LQ.slots (q : LQ) : Nat := 2 ^ bf q.ctl 16 5
def LQ.job (q : LQ) : Nat := bf q.ctl 32 6
/-- Address of the slot of an index. -/
def LQ.slotVa (q : LQ) (i : Nat) : Nat := bf q.base 0 57 + 256 * (i % q.slots)
/-- Slots between HEAD and TAIL. -/
def LQ.used (q : LQ) : Nat := (q.tail + 2 ^ 32 - q.head) % 2 ^ 32

/-- An HM.QUEUE event (spec/23 R355). -/
def State.queueEvent (s : State) (q v : Nat) : State :=
  s.event srcHm evQueue (some (s.lq q).job) (w64 (q + v % 2 ^ 32 * 2 ^ 32))

/-- Whether the manifest of a slot has no final STATE yet (spec/01 R15). -/
def State.slotInUse (s : State) (job va : Nat) : Bool :=
  s.mans.any fun m => m.writes && m.job == job && m.slotVa == va && m.st != .retired

/-- Enqueue of a launched manifest (spec/11 R177, spec/01 R15). A queue disabled since the issue drops it with an event; one enabled again
takes it (DESIGN CHOICE, log entry 115). -/
def State.enqueue (s : State) (q : Nat) (m : List Byte) (by_ : Party) : State :=
  let x := s.lq q
  let va := x.slotVa x.tail
  if x.slots ≤ x.used || s.slotInUse x.job va || !bt x.ctl 63 then s.queueEvent q x.tail
  else match s.hmWrite x.job va m with
    | .error _ => s.queueEvent q x.tail
    | .ok s => s.modLq q fun x => { x with tail := (x.tail + 1) % 2 ^ 32, by_ := Tab.set .host x.by_ x.tail by_ }

/-- Kinds of notice between harbourmasters: a berth-thread of a handler has executed MBOXACK (spec/01 R28), and the answer to it. -/
def noticeAck : Nat := 11
def noticeAckDone : Nat := 12

/-- A slot of a mailbox stops pending. -/
def State.clearSlot (s : State) (id slot : Nat) : State :=
  { s with mboxes := s.mboxes.map fun m => if m.id = id then { m with pend := m.pend.filter (· != slot) } else m }

/-- MBOXACK (spec/11 R179): the harbourmaster clears the bit of the handler's slot. The mailbox of a subcube handler is the origin's: its
other devices ask the origin to, and the MBOXACK is performed when it has answered. -/
def State.ackMailbox (s : State) (b : Nat) (o : Op) : State :=
  let done := fun s : State => (s.keep b o (.done [])).modCtxAt b fun c => c.dropOp o.id
  match s.man (s.ctxAt b).team with
  | none => done s
  | some m =>
    let s := s.modMan m.id fun m => { m with acked := true }
    match m.mbox, m.origin with
    | some (id, slot), none => done (s.clearSlot id slot)
    | some (_, _), some root =>
      let r : EvRec := ⟨srcHm, noticeAck, s.time, 0, some m.job, w64 (root * 2 ^ 32 + m.slotVa)⟩
      let h : PkHdr := { type := 9, path := 4, dst := root, src := s.label, job := m.job, party := s.label * 65536 + 601 }
      (match s.request (.op b o.id) 0 0 { h with bytes := 32 } r.bytes with
      | some (t, s) => s.setStage b o.id (.remote [(t, 0, 0)] [])
      | none => s)
    | none, _ => done s

/-- COPY_HOME_ARRIVAL (spec/09 R152, spec/15 R213): a copy, an IMLOAD or a fill arrives at its homes. A WHPUSH, a LAUNCH and a
MBOXACK are performed by the same step, since they have none of their own (log entry 1). With a subject's item k + 1 the step only reads
byte k of the source, ahead of the rest (R140, log entry 10). -/
def execCopyHomeArrival (s : State) : Out :=
  withOp s fun o s =>
    let b := s.cur
    if o.stage ≠ .sent ∨ !s.ready o then s
    else if s.subj.item ≠ 0 then s.readEarly b o (s.subj.item - 1)
    else match o.kind with
      | .copy r => if r.form = .cpw then s.cpwArrive b o r else s.globalArrive b o
      | .fill _ _ _ _ _ | .imload _ _ _ => s.globalArrive b o
      | .whpush u l n =>
        -- a unit whose EN is 0 by now accepts nothing (spec/21 R298): the words wait
        if !s.unitOpen u || !(s.unit u).room n then s
        else
          let c := s.ctx
          let ws := bytesWords (8 * n) (o.mixed (c.spadRead l (8 * n)))
          let job := s.job
          let es := ws.map fun w => (⟨w, job, c.self, none, false, o.id⟩ : Entry)
          ((s.modUnit u fun x => { x with ring := x.ring ++ es }).keep b o (.done [])).modCtx fun c => (c.hasRead o.id).dropOp o.id
      | .launch q m => ((s.enqueue q m s.ctx.self).keep b o (.done [])).modCtx fun c => c.dropOp o.id
      | .mboxack => s.ackMailbox b o
      | _ => s

/-- A number for a mailbox, of the 4,096 that the device holds (spec/11 R178): the lowest from 1 that no mailbox has, nor a handler that
one has left behind (DESIGN CHOICE, log entry 129: R178 gives only the range); 0 when there is none. -/
def State.freeMbox (s : State) : Nat :=
  let old := s.mans.filterMap fun m => if m.st = .retired then none else m.mbox.map Prod.fst
  let used := fun i : Nat => (s.mboxes.any fun m => m.id == i) || old.contains i
  if 4096 ≤ s.mboxes.length then 0
  else (((List.range (s.mboxes.length + old.length + 1)).map (· + 1)).find? (fun i => !used i)).getD 0

/-- MBOXREG_ANSWER (spec/11 R178, spec/03 R54): after the persist of the boundary before its group. -/
def execMboxregAnswer (s : State) : Out :=
  let b := s.subj.berth
  let c := s.ctxAt b
  -- a request that is not answered: of the running context, or of the one held aside
  let own : Bool := c.mboxReq.isSome && c.mboxAns.isNone
  let held := (c.aside.map Snap.mbox).getD (none, none)
  match (if own then c.mboxReq else if held.2.isNone then held.1 else none) with
  | some (base, n, lg, loc) =>
    if (s.berth b).persistBusy then .next s
    else
      let ex := if loc then some c.self else none
      let job := s.jobAt b
      -- the answer kept for a request that a resumed berth asks for again (spec/23 R347)
      let old := s.mboxes.find? fun m => m.job == job && m.local_ == ex && m.base == base && m.n == n && m.log2s == lg
      let id := match old with | some m => m.id | none => s.freeMbox
      let m : Mailbox := ⟨id, job, base, n, lg, ex, [], none⟩
      let s := if id = 0 ∨ old.isSome then s else { s with mboxes := s.mboxes ++ [m] }
      .next (s.modCtxAt b fun c =>
        if own then { c with mboxAns := some (w64 id) }
        else { c with aside := c.aside.map fun a => { a with mbox := (a.mbox.1, some (w64 id)) } })
  | none => .next s

end Sys2Proof.Machine
end

