-- ==== Sys2Proof/Machine/Harbour.lean ====
section
/-! DEFINITION. The harbourmaster (spec/01): launch queues, validation, choosing and placing, starting, pre-emption and retirement
of teams, mailboxes, and the dry dock (spec/23 R339-R341, R361). -/

namespace Sys2Proof.Machine
open Sys2Proof

-- launch queues (spec/01 R14, R15) --------------------------------------------------------------------------------------------

/-- LQTAIL_DOORBELL: `v` is the new TAIL. -/
def execLqtailDoorbell (q v : Nat) (s : State) : Out :=
  let x := s.lq q
  if !bt x.ctl 63 then .next s
  else if x.slots < (v % 2 ^ 32 + 2 ^ 32 - x.head) % 2 ^ 32 then .next (s.queueEvent q v)
  else .next (s.modLq q fun x => { x with tail := v % 2 ^ 32 })

/-- LQCTL_WRITE. -/
def execLqctlWrite (q v : Nat) (s : State) : Out :=
  let x := s.lq q
  let w := w64 v
  if bt x.ctl 63 then
    if bt w 63 then .next s
    else
      let s' := if x.used = 0 then s else s.queueEvent q x.tail
      -- the homes that were asked for it are asked no more
      let s' := { s' with reqs := s'.reqs.filter fun r : Req => r.who != Waiter.lq q }
      .next (s'.modLq q fun x => { x with ctl := bput x.ctl 63 1 0, head := x.tail, by_ := [], seen := [] })
  else
    let fields := bf w 32 6 * 2 ^ 32 + bf w 16 5 * 2 ^ 16
    if bt w 63 ∧ 4 ≤ bf w 16 5 ∧ bf w 16 5 ≤ 16 then
      .next (s.modLq q fun x => { x with ctl := w64 (2 ^ 63 + fields), head := 0, tail := 0, by_ := [], seen := [] })
    else .next (s.modLq q fun x => { x with ctl := w64 fields })

-- filter and carve-out (spec/25 R365, R367) ---------------------------------------------------------------------------------------

/-- Back-invalidation of the filter lines that a predicate picks: they are asked back; none once every answer is in. -/
def State.backInvLines (s : State) (hit : Nat → Bool) : Option State :=
  let ask := s.filter.filter fun f => hit f.2
  if ask.isEmpty && !(s.binv.any fun f => hit f.2) then none
  else some { s with filter := s.filter.filter fun f => !hit f.2, binv := s.binv ++ ask }

/-- Back-invalidation of a range of spread addresses. -/
def State.backInv (s : State) (pa n : Nat) : Option State := s.backInvLines fun l => decide (pa / 64 ≤ l ∧ 64 * l < pa + n)

/-- Whether a line holds bytes of a range of a job, by its granule's reverse-map entry (spec/25 R366). -/
def State.lineOf (s : State) (job va n l : Nat) : Bool :=
  match Tab.get RevMap.none s.revmap (l / 64) with
  | .job j v => j == job && decide (v + l % 64 * 64 < va + n ∧ va < v + l % 64 * 64 + 64)
  | _ => false

/-- Back-invalidation of a range of a job's addresses. -/
def State.backInvVa (s : State) (job va n : Nat) : Option State := s.backInvLines (s.lineOf job va n)

/-- Back-invalidation before a token form of the host at the home of its region (R367); none when nothing is to be asked back. -/
def State.hostFlush (s : State) (job a : Nat) (form : TokForm) : Option State :=
  match s.region job none a with
  | some x => if form.narrows ∧ (x.owner = .host ∨ 0 < x.grants .host) then s.backInvVa job x.base (2 ^ x.log2) else none
  | none => none

-- STATUS and POST (spec/01 R8, R9) --------------------------------------------------------------------------------------------------

def Man.statusVa (m : Man) : Nat := m.slotVa + 0xF8

/-- Back-invalidation before a STATUS write (spec/25 R384). -/
def State.statusHeld (s : State) (m : Man) : Option State :=
  if !m.writes then none
  else match s.translate m.job m.statusVa none with
    | .ok (.hbm pa _) => s.backInv pa 8
    | _ => none

/-- Write STATUS; a write that fails is lost with an event. -/
def State.status (s : State) (m : Man) (st code : Nat) : State :=
  if !m.writes then s
  else match s.hmWrite m.job m.statusVa (leBytes 8 (code * 256 + st)) with
    | .ok s => s
    | .error e => s.event srcHm evStatus (some m.job) (w64 (m.slotVa % 2 ^ 57 + e * 2 ^ 57))

/-- What another device has said of the region that holds an address: elements of its record (spec/09 R134). -/
def HomeAns.fact (l : List HomeAns) (va : Nat) : Option (W64 × W64) :=
  match l.find? fun x => x.addr == va with
  | some x => if x.code = some 0 then some (x.e0, x.e1) else none
  | none => none

/-- Whether an address lies in an ATOMIC region of a job; `seen` is what other devices have said of theirs. -/
def State.atomicAt (s : State) (seen : List HomeAns) (job va : Nat) : Bool :=
  match s.translate job va none with
  | .error _ => false
  | .ok (.peer _) => ((HomeAns.fact seen va).map fun e => bf e.1 52 3) == some 2
  | .ok _ => ((s.region job none va).map Region.st) == some .atomic

/-- Header of a semaphore operation of the harbourmaster on another device (spec/19 R390). -/
def State.semHdr (s : State) (job va info opA : Nat) : PkHdr :=
  { type := 3, path := 4, dst := s.homeOf job va, src := s.label, job := job, party := s.label * 65536 + 601, addr := va, info := info,
    opA := opA }

/-- POST of a manifest (R8). -/
def State.post (s : State) (m : Man) : State :=
  let va := m.num 0x90 8
  let inc := m.num 0x98 8 % 2 ^ 63
  if !m.posts || va % 8 != 0 || !s.atomicAt m.seen m.job va then s
  else if s.homeOf m.job va ≠ s.label then
    match s.request (.hm m.id) 16 0 (s.semHdr m.job va (semInfo 3 0 true) inc) [] with
    | some (_, s) => s
    | none => s
  else (s.postHome [.hm] m.job va inc false).1

-- validation (R10) ----------------------------------------------------------------------------------------------------------------------

/-- Domain codes of a team's levels. -/
def Man.domains (m : Man) : List Nat := (List.range m.nlev).map fun l => m.num (0x40 + l) 1
def strictRise : List Nat → Bool
  | a :: b :: l => decide (a < b) && strictRise (b :: l)
  | _ => true
/-- A domain code that exists on this cube (R11, spec/19 R265). -/
def State.domainOk (s : State) (d : Nat) : Bool := decide (d ≤ 7) || (decide (9 ≤ d ∧ d ≤ 18) && decide (d - 8 ≤ s.ndim))

/-- Entries of 16 bytes as two dwords. -/
def dwordPairs (bs : List Byte) : List (Nat × Nat) :=
  (chunks 16 (bs.length / 16) bs).map fun e => (leValue (e.take 8), leValue (e.drop 8))

/-- Staging and token tables, when they can be read. -/
def State.stages (s : State) (m : Man) : Option (List (Nat × Nat)) :=
  if m.nstage = 0 then some [] else (s.hmRead m.job (m.num 0x28 8) (16 * m.nstage)).toOption.map dwordPairs
def State.tokTable (s : State) (m : Man) : Option (List (Nat × Nat)) :=
  if m.ntoken = 0 then some [] else (s.hmRead m.job (m.num 0x30 8) (16 * m.ntoken)).toOption.map dwordPairs

/-- Berth-threads of a team, and the alignment of its base. -/
def Man.threads (m : Man) : Nat := domSize m.top
def Man.aligned (m : Man) : Nat := domBerths m.top

/-- Whether any aligned instance is free of retired berths (R10 0x08, R386). -/
def State.everFits (s : State) (m : Man) : Bool :=
  let n := m.aligned
  let ok := fun b => (List.range n).all fun i => !(s.berth (b + i)).retired
  if m.fixed then m.fixBase % n == 0 && ok m.fixBase else (List.range (128 / n)).any fun i => ok (i * n)

/-- The enqueuing party's number at a home: the host is one party at every label (spec/09 R132, spec/25 R362). -/
def State.enqueuer (s : State) (m : Man) (home : Nat) : Nat := if m.by_ = .host then home * 65536 + 600 else s.partyNum m.by_

/-- A token-table entry that R23 or R10 refuses. -/
def State.tokEntryBad (s : State) (m : Man) (e : Nat × Nat) : Bool :=
  let lg := fld e.2 0 6
  let mode := fld e.2 6 2
  let rank := fld e.2 8 17
  e.1 / 2 ^ 57 != 0 || e.2 / 2 ^ 25 != 0 || decide (lg < 12 ∨ 36 < lg) || e.1 % 2 ^ lg != 0 || decide (1 < mode)
  || (mode == 0 && decide (m.threads ≤ rank)) || (mode == 1 && rank != 0)
  || (match s.translate m.job e.1 none with
    | .ok (.peer l) => match HomeAns.fact m.seen e.1 with
      | none => true
      | some x =>
        let owner := bf x.1 0 26
        bf x.1 58 6 != lg || !(owner == s.enqueuer m l || owner % 65536 == 601
          || (owner % 65536 == 602 && bf x.1 55 3 != 0 && bf x.1 26 16 == 601))
    | _ => match s.region m.job none e.1 with
      | none => true
      | some r => r.base != e.1 || r.log2 != lg
          || !(r.owner == m.by_ || r.owner == .hm || (r.owner == .tug && r.stack.head? == some .hm)))

/-- Reserved fields, and fields of other kinds (R6, R7, R24). -/
def State.reservedBad (s : State) (m : Man) : Bool :=
  let z := fun off n => m.num off n != 0
  let team := m.kind == 1
  m.ctl / 2 ^ 36 != 0 || z 0xE0 24 || m.num 0x38 8 / 65536 != 0
  || (if team then m.num 0x10 8 / 2 ^ 31 != 0 || m.num 0x18 8 / 2 ^ 48 != 0 || m.num 0x48 8 / 2 ^ 8 != 0 || z 0xA0 64
        || (List.range 8).any (fun l => decide (31 < m.num (0x40 + l) 1) || (decide (m.nlev ≤ l) && z (0x40 + l) 1))
        -- a count out of range is 0x04, and the entries beyond it are not entries
        || (match if m.nstage ≤ 16 then s.stages m else none with
          | some l => l.any fun e => e.1 / 2 ^ 57 != 0 || e.2 / 2 ^ 62 != 0
          | none => false)
      else m.nlev != 0 || m.nstage != 0 || m.ntoken != 0 || z 0x18 8 || z 0x20 8 || z 0x28 8 || z 0x30 8 || z 0x38 8 || z 0x40 8 || z 0x48 8
        || (if m.kind = 2 then m.num 0x10 8 / 2 ^ 24 != 0 || z 0xC0 32
            else m.num 0x10 8 / 2 ^ 8 != 0 || z 0xA8 56
              || fld (m.num 0xA0 8) 11 5 != 0 || fld (m.num 0xA0 8) 18 6 != 0 || m.num 0xA0 8 / 2 ^ 32 != 0))

/-- Units of a WHARF manifest, ports, operation and slot of a PIER manifest. -/
def Man.unitSet (m : Man) : List Nat := (List.range 256).filter fun i => (m.num 0xA0 32).testBit i
def Man.portSet (m : Man) : List Nat := (List.range 11).filter fun i => (m.num 0xA0 8).testBit i
def Man.pierOp (m : Man) : Nat := fld (m.num 0xA0 8) 16 2
def Man.kslot (m : Man) : Nat := fld (m.num 0xA0 8) 24 8
def Man.count (m : Man) : Nat := if m.kind = 2 then fld (m.num 0x10 8) 0 24 else fld (m.num 0x10 8) 0 8

/-- Whether a range lies in mappings of a kind made by MAPX. -/
def State.mapped (s : State) (job kind va n : Nat) : Bool :=
  (pieces va n).all fun p => s.codeMaps.any fun c =>
    c.job == job && c.kind == kind && decide (c.va ≤ p.1 ∧ p.1 + p.2 ≤ c.va + c.len)

/-- CODE and CODEINFO (R10 0x05, spec/21 R301, spec/19 R283). -/
def State.codeBad (s : State) (m : Man) : Bool :=
  let z := m.code_
  z % 8 != 0 ||
  (if m.kind = 1 then
      decide (m.codelen = 0 ∨ 32768 < m.codelen ∨ m.codelen ≤ m.entry) || !s.mapped m.job 0 z (8 * m.codelen)
      || (m.nstage != 0 && m.num 0x28 8 % 16 != 0) || (m.ntoken != 0 && m.num 0x30 8 % 16 != 0)
    else if m.kind = 2 then
      m.count == 0 || !s.mapped m.job 1 z (8 * m.count) || m.unitSet.any fun u => decide (2 ^ (s.unit u).wrlog2 < m.count)
    else decide (m.count = 0 ∨ 128 < m.count) || !(s.codeMaps.any fun c => c.job == m.job && c.kind == 2 && c.va == z && c.count == m.count))

/-- Wait addresses and targets. -/
def Man.waits (m : Man) : List (Nat × Nat) := (List.range m.nwait).map fun i => (m.num (0x50 + 16 * i) 8, m.num (0x58 + 16 * i) 8)

/-- The addresses of a manifest that are homed on other devices and that validation asks about: waits, POST, and the regions of the
token table (R10). -/
def State.farNames (s : State) (m : Man) : List Nat :=
  ((m.waits.take (Nat.min 4 m.nwait)).map Prod.fst ++ (if m.posts then [m.num 0x90 8] else [])
    ++ (if m.kind = 1 then ((s.tokTable m).getD []).map Prod.fst else [])).filter fun a => match s.translate m.job a none with
      | .ok (.peer _) => true
      | _ => false

/-- The reject code; 0 when the manifest is accepted. The codes are tried in rising order (log entry 14). `m` carries the queue's job,
in whose tables everything is read. -/
def State.rejectCode (s : State) (m : Man) : Nat :=
  let team := m.kind == 1
  if !([1, 2, 3].contains m.kind) || fld m.ctl 4 4 != 1 then 1
  else if s.reservedBad m then 2
  else if fld m.ctl 12 6 ≠ m.job then 3
  else if decide (4 < m.nwait) || (team && (decide (m.nlev = 0 ∨ 8 < m.nlev ∨ 16 < m.nstage) || m.num 0x40 1 != 0
      || !strictRise m.domains || !(m.domains.all s.domainOk))) then 4
  else if s.codeBad m then 5
  else if m.waits.any (fun w => w.1 % 8 != 0 || !s.atomicAt m.seen m.job w.1 || decide (2 ^ 63 ≤ w.2))
      || (m.posts && (m.num 0x90 8 % 8 != 0 || !s.atomicAt m.seen m.job (m.num 0x90 8))) then 6
  else if (match s.tokTable m with | some l => l.any (s.tokEntryBad m) | none => false) then 7
  else if team && !s.everFits m then 8
  else if m.mailbox ≠ 0 ∧ !(s.mboxes.any fun b => b.id == m.mailbox && b.job == m.job) then 9
  else if team && m.budget == 0 && bf (Tab.get 0 s.jobsched m.job) 0 40 == 0 then 10
  else if (m.kind == 2 && (m.unitSet.isEmpty || m.unitSet.any fun u => !s.unitOpen u || (s.unit u).stop))
      || (m.kind == 3 && (m.portSet.isEmpty || !([1, 2].contains m.pierOp) || decide (7 < m.kslot))) then 11
  else if team && ((s.stages m).isNone || (s.tokTable m).isNone) then 12
  else 0

/-- A manifest as taken from a slot. -/
def newMan (id : Nat) (raw : List Byte) (q job va : Nat) (by_ : Party) : Man :=
  { id := id, raw := raw, queue := q, job := job, slotVa := va, writes := true, by_ := by_, accepted := 0, seen := [], mbox := none,
    tmpl := none, st := .waiting,
    waitsOk := [], eprio := 0, ages := 0, waited := 0, since := 0, base := 0, ranks := 0, rank0 := 0, exited := [], failed := [],
    barriers := [], acked := false, past := [], used := 0, code := 0, ended := false, grace := none,
    start := none, origin := none, awaits := [], asked := false, told := false,
    begun := false, closing := false, owed := false, forms := 0, refusal := none, units := [], wcode := [], still := [], stood := [], lostLv := [] }

/-- Whether a copy of a template is in choice or running. -/
def State.copiesOf (s : State) (m : Man) : Bool := s.mans.any fun c => c.tmpl == some m.id && c.st != .retired

/-- Whether a template has been replaced, or its mailbox released, and its last copy is gone (R29). -/
def State.templateOver (s : State) (m : Man) : Bool :=
  m.st == .template && !(s.mboxes.any fun b => b.template == some m.id) && !s.copiesOf m

/-- Ask the homes of the addresses that validation needs and has not asked about, by TKQUERY (spec/19 R390, log entry 103); a home that
cannot be reached counts as having refused. -/
def State.askHomes (s : State) (q : Nat) (m : Man) (l : List Nat) : State :=
  l.foldl (fun s a =>
    if (s.lq q).seen.any fun x => x.addr == a then s
    else
      let h : PkHdr := { s.semHdr m.job a (2 ^ 13 + TokForm.query.sel * 2 ^ 14) 0 with opB := 0 }
      let put := fun (s : State) (code : Option Nat) => s.modLq q fun x => { x with seen := x.seen ++ [⟨a, code, 0, 0⟩] }
      match s.request (.lq q) (s.lq q).seen.length 0 h [] with
      | some (_, s) => put s none
      | none => put s (some fcUnreachable)) s

/-- Put a manifest in queue order (R17): after every one accepted before it, and of those accepted in the same ck before those from
higher-numbered queues. -/
def enlist (m : Man) : List Man → List Man
  | [] => [m]
  | k :: l => if k.accepted = m.accepted ∧ m.queue < k.queue then m :: k :: l else k :: enlist m l

/-- Lines that the reads of a validation correct (spec/21 R328, R330). -/
def State.healTables (s : State) (m : Man) : State :=
  let s := s.hmHeal m.job m.slotVa 256
  if m.kind ≠ 1 then s
  else
    let s := if m.nstage = 0 then s else s.hmHeal m.job (m.num 0x28 8) (16 * m.nstage)
    if m.ntoken = 0 then s else s.hmHeal m.job (m.num 0x30 8) (16 * m.ntoken)

/-- Lines that the reads of a team's start correct: its tables and its code (R22). -/
def State.healStart (s : State) (m : Man) : State := (s.healTables m).hmHeal m.job m.code_ (8 * m.codelen)

/-- MANIFEST_VALIDATE (R10, R15). -/
def execManifestValidate (s : State) : Out :=
  let q := s.subj.item
  let x := s.lq q
  if !bt x.ctl 63 ∨ x.used = 0 then .next s
  else
    let va := x.slotVa x.head
    let by_ := Tab.get .host x.by_ x.head
    let raw := s.hmRead x.job va 256
    let m := { newMan s.nextId (raw.toOption.getD []) q x.job va by_ with accepted := s.time, seen := x.seen }
    let far := match raw with | .error _ => [] | .ok _ => s.farNames m
    if far.any (fun a => !x.seen.any fun y => y.addr == a) then .next (s.askHomes q m far)
    else if x.seen.any fun y => y.code.isNone then .next s
    else match s.statusHeld m with
    | some s => .next s
    | none =>
      let s := s.modLq q fun x => { x with head := (x.head + 1) % 2 ^ 32, by_ := Tab.erase x.by_ x.head, seen := [] }
      let s := match raw with | .error _ => s | .ok _ => s.healTables m
      let code := match raw with | .error _ => 12 | .ok _ => s.rejectCode m
      if code ≠ 0 then
        let s := (s.status m 4 code).event srcHm evReject (some x.job) (w64 (va % 2 ^ 57 + code * 2 ^ 57))
        .next (match raw with | .ok _ => s.post m | .error _ => s)
      else
        let tmpl : Bool := m.kind == 1 && m.mailbox != 0
        let m := { m with eprio := m.prio, st := if tmpl then .template else .waiting }
        let s := ({ s with nextId := s.nextId + 1, mans := enlist m s.mans }).status m 1 0
        if tmpl then
          let set := fun b : Mailbox => if b.id = m.mailbox ∧ b.job = m.job then { b with template := some m.id } else b
          .next { s with mboxes := s.mboxes.map set }
        else .next s

-- eligibility (R8, R17) -------------------------------------------------------------------------------------------------------------------

/-- A step about a manifest. -/
def withMan (s : State) (f : Man → State → State) : Out :=
  match s.man s.subj.item with
  | some m => .next (f m s)
  | none => .next s

/-- Whether a wait homed on this device is satisfied. -/
def State.waitHolds (s : State) (m : Man) (w : Nat × Nat) : Bool :=
  match s.pollHome [.hm] m.job w.1 0 false with
  | (_, .ok v) => decide (w.2 ≤ v.toNat)
  | _ => false

/-- Polls for waits homed elsewhere that are not known to hold and have none outstanding. -/
def State.pollWaits (s : State) (m : Man) : State :=
  ((List.range m.nwait).zip m.waits).foldl (fun s (i, w) =>
    if s.homeOf m.job w.1 = s.label ∨ m.waitsOk.contains i ∨ s.reqs.any (fun r => r.who == .hm m.id && r.off == i) then s
    else
      match s.request (.hm m.id) i 0 (s.semHdr m.job w.1 (semInfo 1 0 false) w.2) [] with
      | some (_, s) => s
      | none => s) s

/-- MANIFEST_ELIGIBLE (R8, R17). The waits whose words are on this device are tested together; one on another device counts from the
answer that first found it to hold (DESIGN CHOICE, log entry 112). -/
def execManifestEligible (s : State) : Out :=
  withMan s fun m s =>
    if m.st ≠ .waiting then s
    else
      let ok := ((List.range m.nwait).zip m.waits).all fun (i, w) =>
        if s.homeOf m.job w.1 = s.label then s.waitHolds m w else m.waitsOk.contains i
      if ok then s.modMan m.id fun m => { m with st := .eligible, since := s.time } else s.pollWaits m

/-- Device counter steps of an ageing period: 2 ms (R17, spec/25 R389). -/
def agePeriod : Nat := 3200000

/-- Time eligible so far. -/
def Man.eligTime (m : Man) (now : Nat) : Nat := m.waited + (if m.st = .eligible ∨ m.st = .preempted then now - m.since else 0)

/-- A manifest with every period of its eligible time counted (R17, R33). -/
def Man.aged (m : Man) (now : Nat) : Man :=
  let n := m.eligTime now / agePeriod
  { m with ages := Nat.max m.ages n, eprio := Nat.min 15 (m.eprio + (n - m.ages)) }

/-- MANIFEST_AGE (R17, R33). -/
def execManifestAge (s : State) : Out := withMan s fun m s => s.modMan m.id fun m => m.aged s.time

-- choosing and placing (R17-R19) ------------------------------------------------------------------------------------------------------------

/-- Berths in service. -/
def State.inService (s : State) (b : Nat) : Bool := decide (b < bf s.svc 32 8)
/-- Berths of a candidate base. -/
def Man.berths (m : Man) (base : Nat) : List Nat := (List.range m.aligned).map (base + ·)
/-- Candidate bases of a team. -/
def Man.bases (m : Man) : List Nat := if m.fixed then [m.fixBase] else (List.range (128 / m.aligned)).map (· * m.aligned)
/-- Whether a reservation covers a berth. -/
def State.covers (s : State) (x : Nat × Nat) (b : Nat) : Bool := (s.man x.1).any fun m => (m.berths x.2).contains b
/-- Whether a berth is reserved for another manifest. -/
def State.reservedFor (s : State) (id b : Nat) : Bool := s.reserve.any fun x => x.1 != id && s.covers x b

/-- The base on which a team can be placed now (R18). -/
def State.baseFor (s : State) (m : Man) : Option Nat :=
  let fresh := m.st != .preempted
  if fresh && decide (s.carveBytes < s.carveUsed + m.aligned * 2 ^ 18) then none
  else m.bases.find? fun base => (m.berths base).all fun b =>
    let x := s.berth b
    s.inService b && x.st == .idle && !x.retired && !s.reservedFor m.id b

/-- Whether a manifest that is placed and not yet carried out has a kernel slot of a port. -/
def State.slotTaken (s : State) (p k : Nat) : Bool :=
  s.mans.any fun x => x.kind == 3 && x.st == .placed && x.kslot == k && x.portSet.contains p

/-- Whether a manifest can be placed now: a WHARF manifest's units must accept entries (spec/21 R298). -/
def State.canPlace (s : State) (m : Man) : Bool :=
  if m.kind = 1 then (s.baseFor m).isSome
  else if m.kind = 2 then m.unitSet.all fun u => s.unitOpen u && (s.unit u).room m.count
  else m.portSet.all fun p =>
    (Tab.get none (s.port p).slots m.kslot).isNone == (m.pierOp == 1) && !s.slotTaken p m.kslot

/-- Highest effective priority, first in queue order. -/
def bestMan : List Man → Option Man
  | [] => none
  | m :: l => match bestMan l with
    | some k => if m.eprio < k.eprio then some k else some m
    | none => some m

/-- In choice: eligible, or pre-empted and spilled. A subcube team's replica waits for its origin (R21). -/
def State.inChoice (s : State) : List Man :=
  s.mans.filter fun m => (m.st == .eligible || m.st == .preempted) && (m.origin.isNone || m.asked)

/-- Subcube of a team of 2^k devices (spec/19 R276). -/
def Man.cube (m : Man) : Nat := m.top - 8
/-- Devices of the subcube, in label order, that holds a label. -/
def cubeLabels (k label : Nat) : List Nat := (List.range (2 ^ k)).map (label / 2 ^ k * 2 ^ k + ·)
/-- Children of a device in the tree rooted at a label (R276, R277). -/
def cubeKids (k root label : Nat) : List Nat :=
  let r := (label ^^^ root) % 2 ^ k
  let top := if r = 0 then k else lowBit k r
  (List.range top).map fun i => label ^^^ 2 ^ i
/-- Parent in that tree. -/
def cubeParent (k root label : Nat) : Nat := label ^^^ 2 ^ lowBit k ((label ^^^ root) % 2 ^ k)

/-- Identity that a subcube team's packets carry: the origin's label and its number there (log entry 15). -/
def State.manKey (s : State) (m : Man) : Nat :=
  match m.origin with
  | some l => l * 2 ^ 32 + m.slotVa
  | none => s.label * 2 ^ 32 + m.id
def State.manByKey (s : State) (key : Nat) : Option Man := s.mans.find? fun m => s.manKey m == key && m.st != .retired

/-- Header of a packet between harbourmasters. -/
def State.hmHdr (s : State) (type dst job info opA opB : Nat) (ack : Bool) : PkHdr :=
  { type := type, ack := ack, path := 4, dst := dst, src := s.label, job := job, party := s.label * 65536 + 601, info := info,
    opA := opA, opB := opB }
/-- Send it; none when it has no route. -/
def State.hmSend (s : State) (h : PkHdr) (data : List Byte) : Option State := s.queuePacket (mkPacket { h with bytes := data.length } data) true

/-- Notices to the harbourmasters of every other device about token records that name berth-threads of this device (log entry 23): they
are gone (R137), pre-empted or placed again (R132), or one has failed (spec/23 R351). -/
def noticeGone : Nat := 5
def noticeAway : Nat := 6
def noticeBack : Nat := 7
def noticeFail : Nat := 8

/-- The answer to a notice that berth-threads are gone: every token they held there is returned. -/
def noticeGoneDone : Nat := 9
/-- Between the harbourmasters of a subcube team: a device and those below it have nothing left of the team (R30). -/
def noticeRetired : Nat := 10

/-- The record of such a notice about `n` berth-threads of a team from berth `b`: its TIME holds the team's number. -/
def homeRec (m : Man) (kind b n phases : Nat) : EvRec := ⟨srcHm, kind, m.id, 0, some m.job, w64 (b + n * 2 ^ 8 + phases * 2 ^ 16)⟩

/-- Labels of the other devices. -/
def State.others (s : State) : List Nat := (List.range (2 ^ s.ndim)).filter (· != s.label)

/-- Send such a notice. -/
def State.tellHomes (s : State) (m : Man) (kind b n phases : Nat) : State :=
  s.others.foldl (fun s l => (s.hmSend (s.hmHdr 9 l m.job 0 0 0 false) (homeRec m kind b n phases).bytes).getD s) s

/-- Where an answer to such a notice stands among the requests of a manifest. -/
def goneOff : Nat := 18

/-- Tell the other devices that berth-threads are gone, and wait for each to answer: the team's tokens there are returned before its
STATUS and its POST (R8, R30). `undo` is 1 for a team that could not start, whose lends are undone (R22). -/
def State.tellGone (s : State) (m : Man) (b n undo : Nat) : State :=
  s.others.foldl (fun s l =>
    match s.request (.hm m.id) goneOff 0 (s.hmHdr 9 l m.job 0 0 0 false) (homeRec m noticeGone b n undo).bytes with
    | some (_, s) => s
    | none => s) s

/-- Whether such an answer is missing. -/
def State.goneOpen (s : State) (m : Man) : Bool := s.reqs.any fun r => r.who == .hm m.id && r.off == goneOff

/-- What the launch of a subcube team carries beside the manifest and its enqueuing party: the effective priority, and a handler's
mailbox and slot (log entry 15). -/
def Man.launchInfo (m : Man) : Nat :=
  m.eprio + (match m.mbox with | some (id, slot) => 2 ^ 8 + id * 2 ^ 16 + slot * 2 ^ 32 | none => 0)

/-- Send the manifest of a subcube team down its tree (spec/19 R277), with its enqueuing party; the children still to answer. -/
def State.launchKids (s : State) (m : Man) (root : Nat) : State × List Nat :=
  (cubeKids m.cube root s.label).foldl (fun (s, l) k =>
    match s.hmSend { s.hmHdr 8 k m.job 0 (s.manKey m) m.launchInfo false with party := s.partyNum m.by_ } m.raw with
    | some s => (s, l ++ [k])
    -- a child without a route never answers
    | none => (s, l ++ [k])) (s, [])

/-- Send the start time down the tree (spec/19 R277). -/
def State.sendStart (s : State) (m : Man) (root t : Nat) : State :=
  (cubeKids m.cube root s.label).foldl (fun s k => (s.hmSend (s.hmHdr 8 k m.job 0 (s.manKey m) t false) []).getD s) s

/-- A subcube team whose die is reserved here and on every device below: its response goes up the tree; the origin fixes the start
time (spec/19 R277). -/
def State.launchUp (s : State) (id : Nat) : State :=
  match s.man id with
  | none => s
  | some m =>
    if m.top ≤ 8 ∨ m.awaits ≠ [] ∨ m.start.isSome ∨ !(m.st == .placed || m.st == .resuming) then s
    else match m.origin with
      | none =>
        let t := s.fabtime + 4096
        (s.sendStart m s.label t).modMan id fun m => { m with start := some t }
      | some root =>
        if !m.asked then s
        else ((s.hmSend (s.hmHdr 8 (cubeParent m.cube root s.label) m.job 0 (s.manKey m) 0 false) []).getD s).modMan id
          fun m => { m with asked := false }

/-- Place a manifest (R17, R18, spec/21 R300). A WHARF manifest whose stream cannot be read any more retires as a team that cannot start
does: STATE 5 with the fault's code, an event, and POST (DESIGN CHOICE, log entry 127). -/
def State.place (s : State) (m : Man) : State :=
  let s := { s with reserve := s.reserve.filter fun x => x.1 != m.id }
  let upd := fun (s : State) (f : Man → Man) => s.modMan m.id fun m =>
    f { m.aged s.time with waited := m.eligTime s.time, since := s.time }
  if m.kind = 1 then
    match s.baseFor m with
    | none => s
    | some base =>
      let again : Bool := m.st == .preempted
      let s := (m.berths base).foldl (fun s b => s.modBerth b fun x => { x with st := if again then .filling else .starting }) s
      let s := if again then s.tellHomes m noticeBack base m.aligned 0 else s
      let wide : Bool := decide (8 < m.top) && m.origin.isNone
      let (s, kids) := if wide then s.launchKids m s.label else (s, m.awaits)
      let k := m.cube
      (upd s fun m =>
        { m with st := .placed, base := base, awaits := kids, past := if again then m.base :: m.past else m.past
                 ranks := m.threads
                 rank0 := if 8 < m.top then s.label % 2 ^ k * 128 else 0 }).launchUp m.id
  else if m.kind = 2 then
    match s.hmRead m.job m.code_ (8 * m.count) with
    | .error code =>
      let s := (s.status m 5 code).event srcHm code (some m.job) (w64 m.slotVa)
      (s.post m).modMan m.id fun m => { m with st := .retired, code := code }
    | .ok bs =>
      let ws := bytesWords (8 * m.count) bs
      let last := ws.length - 1
      let es := ((List.range ws.length).zip ws).map fun (i, w) => (⟨w, m.job, .hm, some m.id, i == last, 0⟩ : Entry)
      let s := m.unitSet.foldl (fun s u => s.modUnit u fun x => { x with ring := x.ring ++ es }) (s.hmHeal m.job m.code_ (8 * m.count))
      (upd s fun m => { m with st := .running, units := m.unitSet }).status m 2 0
  else (upd s fun m => { m with st := .placed }).status m 2 0

/-- Whether a team holds a berth: one that is being pre-empted, only until its berth-thread there is spilled (R33). -/
def State.holds (s : State) (m : Man) (b : Nat) : Bool :=
  decide (m.kind = 1 ∧ m.base ≤ b ∧ b < m.base + m.aligned) && (match m.st with
    | .placed | .starting | .resuming | .running => true
    | .preempting | .retiring => (s.berth b).placed && (s.ctxAt b).team == m.id
    | _ => false)

/-- Teams on the berths of an instance. -/
def State.occupants (s : State) (bs : List Nat) : List Nat :=
  (bs.filter fun b => (s.berth b).st != .idle).map fun b => ((s.mans.find? fun m => s.holds m b).map Man.eprio).getD 0

/-- The instance that a manifest reserves (R19), of those that meet no berth of `taken`: lowest maximum priority, then fewest occupied
berths, then lowest base. -/
def State.bestInstance (s : State) (m : Man) (taken : Nat → Bool) : Option Nat :=
  let cand := m.bases.filter fun base => (m.berths base).all fun b => s.inService b && !(s.berth b).retired && !taken b
  let key := fun base => let l := s.occupants (m.berths base); (l.foldl Nat.max 0, l.length)
  cand.foldl (fun best base => match best with
    | none => some base
    | some b =>
      let x := key base
      let y := key b
      if x.1 < y.1 ∨ (x.1 = y.1 ∧ x.2 < y.2) then some base else some b) none

/-- Place until none can be placed; each round places one. -/
def State.placeAll (s : State) : Nat → State
  | 0 => s
  | f + 1 =>
    match bestMan (s.inChoice.filter s.canPlace) with
    | none => s
    | some m => (s.place m).placeAll f

/-- Add the reservation of a manifest to those of others: it takes the best instance that they leave (R19). -/
def State.reserveFor (s : State) (l : List (Nat × Nat)) (m : Man) : List (Nat × Nat) :=
  match s.bestInstance m fun b => l.any fun x => s.covers x b with
  | some base => l ++ [(m.id, base)]
  | none => l

/-- The reservations (R19): the first eligible manifest, when it is a team that cannot be placed, and every earlier holder that still
waits; the first chooses first (log entry 104). -/
def State.reserveTop (s : State) : State :=
  let top := match bestMan s.inChoice with
    | some m => if m.kind = 1 ∧ !s.canPlace m then [m] else []
    | none => []
  let old := (s.reserve.filterMap fun x => s.inChoice.find? fun m => m.id == x.1).filter fun m => !top.any fun t => t.id == m.id
  { s with reserve := (top ++ old).foldl s.reserveFor [] }

/-- Whether a STATUS write of the next placement waits for a back-invalidation (R384). -/
def State.placeHeld (s : State) : Option State := (s.inChoice.filter s.canPlace).findSome? fun m => if m.kind = 1 then none else s.statusHeld m

/-- Every manifest with its eligible time counted up to now. -/
def State.ageAll (s : State) : State := { s with mans := s.mans.map fun m => m.aged s.time }

/-- MANIFEST_PLACE (R17-R19). -/
def execManifestPlace (s : State) : Out :=
  if (s.level ≠ 1 ∧ s.level ≠ 2) ∨ s.raising then .next s
  else
    let s := s.ageAll
    match s.placeHeld with
    | some s => .next s
    | none => .next ((s.placeAll s.mans.length).reserveTop)

-- starting (R22-R25) ----------------------------------------------------------------------------------------------------------------------

/-- The berths of this device that a placed team holds. -/
def Man.held (m : Man) : List Nat := m.berths m.base
/-- Rank on a berth. -/
def Man.rankAt (m : Man) (b : Nat) : Nat := m.rank0 + (b - m.base)
/-- The party of a rank: on another device of the subcube, its number there. -/
def State.rankParty (s : State) (m : Man) (r : Nat) : Party :=
  if m.local_ r then .bt m.id r else .remote ((s.label / 2 ^ m.cube * 2 ^ m.cube + r / 128) * 65536 + r % 128)

/-- Outcome of a token-table entry: done, a wait for the tug, or a fault. -/
inductive TokStep where
  | ok (s : State)
  | wait
  | fault (s : State) (code : Nat)

/-- Apply one entry (R23). -/
def State.applyEntry (s : State) (m : Man) (e : Nat × Nat) : TokStep :=
  let lend : Bool := fld e.2 6 2 == 0
  let s := s.healWalk m.job e.1
  match s.translate m.job e.1 none with
  | .error c => .fault s (fcPageMiss + c)
  | .ok (.peer _) => .ok s
  | .ok _ =>
    match s.region m.job none e.1 with
    | none => .fault s fcTokenNone
    | some r =>
      if r.lost then .fault (s.tokens [] [⟨m.job, none, e.1, .read⟩]).1 fcTokenLost
      else if r.owner = .tug then .wait
      else if !(r.owner == m.by_ || r.owner == .hm) then .fault s fcTokenNone
      else
        let dsts := if lend then [s.rankParty m (fld e.2 8 17)] else (List.range m.threads).map (s.rankParty m)
        match needOwned r with
        | some c => if lend ∨ r.st ≠ .shared then .fault s c else
            .ok (s.modRegion m.job none e.1 fun r => { r with shares := dsts.foldl (fun l p => grantTo p 1 l) r.shares })
        | none =>
          if lend then
            if 4 ≤ r.stack.length then .fault s fcBound
            else .ok (s.modRegion m.job none e.1 fun r => { r with owner := dsts.headD .nobody, stack := r.owner :: r.stack, phasecnt := 0 })
          else .ok (s.modRegion m.job none e.1 fun r => { r with st := .shared, shares := dsts.foldl (fun l p => grantTo p 1 l) r.shares })

/-- Party number that a rank will have once it has started. -/
def State.startNum (s : State) (m : Man) (r : Nat) : Nat :=
  if m.local_ r then s.label * 65536 + m.base + (r - m.rank0) else s.partyNum (s.rankParty m r)

/-- A token form that an entry for a region of another device makes (R22, R23, spec/09 R136): the home, the address, TKSEL and the
grantee. -/
structure FarForm where
  home  : Nat
  addr  : Nat
  sel   : Nat
  party : Nat
deriving DecidableEq, Repr

/-- A step of the token table: an entry for a region of this device, or one form of an entry for another's. -/
inductive TableStep where
  | here (e : Nat × Nat)
  | far (x : FarForm)
deriving DecidableEq, Repr

/-- The steps of an entry. A subcube team's other devices apply the entries of their own regions; its origin sends the rest. -/
def State.entrySteps (s : State) (m : Man) (e : Nat × Nat) : List TableStep :=
  match s.translate m.job e.1 none with
  | .ok (.peer l) =>
    if m.origin.isSome ∨ (8 < m.top ∧ (cubeLabels m.cube s.label).contains l) then []
    else if fld e.2 6 2 = 0 then [.far ⟨l, e.1, TokForm.lend.sel, s.startNum m (fld e.2 8 17)⟩]
    else (List.range m.threads).map fun r => .far ⟨l, e.1, TokForm.share.sel, s.startNum m r⟩
  | _ => [.here e]

/-- How far the token table has come. -/
inductive TableEnd where
  | done (s : State)
  /-- A region is the tug's, or an answer is missing. -/
  | wait (s : State)
  | fault (s : State) (code : Nat)

/-- Send a form, as the party that the entry lets the harbourmaster act for: itself for a region of the harbourmaster's, else the
enqueuing party (R10, R390). -/
def State.sendForm (s : State) (m : Man) (x : FarForm) : Option State :=
  let mine : Bool := ((HomeAns.fact m.seen x.addr).map fun e => bf e.1 0 16) == some 601
  let by_ := if mine then x.home * 65536 + 601 else s.enqueuer m x.home
  let h : PkHdr := { type := 3, path := 4, dst := x.home, src := s.label, job := m.job, party := by_, addr := x.addr
                     info := 2 ^ 13 + x.sel * 2 ^ 14, opA := x.party, opB := 0 }
  (s.request (.hm m.id) 17 0 h []).map Prod.snd

/-- Take the steps of the table in order; each that is done is counted, so that none is taken twice (R22). -/
def State.applySteps (s : State) (m : Man) : List TableStep → TableEnd
  | [] => .done s
  | .here e :: l => match s.applyEntry m e with
    | .ok s => (s.modMan m.id fun m => { m with forms := m.forms + 1 }).applySteps m l
    | .wait => .wait s
    | .fault s code => .fault s code
  | .far x :: _ =>
    if s.reqs.any fun r => r.who == .hm m.id && r.off == 17 then .wait s
    else match s.sendForm m x with
      | some s => .wait s
      | none => .fault s fcUnreachable

/-- The token table from where it stands (R22). -/
def State.applyTable (s : State) (m : Man) (table : List (Nat × Nat)) : TableEnd :=
  match m.refusal with
  | some code => .fault s code
  | none => s.applySteps m ((table.flatMap (s.entrySteps m)).drop m.forms)

/-- The first `n` bytes of segments. -/
def takeSegs : Nat → List (Nat × Nat) → List (Nat × Nat)
  | _, [] => []
  | n, (a, k) :: l => if n = 0 then [] else if n ≤ k then [(a, n)] else (a, k) :: takeSegs (n - k) l

/-- The segments of a staging copy of `n` bytes: one of no byte is still checked at its base address (R24). -/
def stageSegs (n g : Nat) (l : List (Nat × Nat)) : List (Nat × Nat) := if n = 0 then [(g, 0)] else takeSegs n l

/-- A staging descriptor as a copy of the berth-thread on a berth (R24). -/
def State.stageReq (s : State) (m : Man) (r : Nat) (e : Nat × Nat) : CopyReq :=
  let count := fld e.2 40 21
  let hd := fld e.2 24 16
  let y := s.layout m.job hd
  let x : CopyReq :=
    { form := .cp, g := fld e.1 0 57 + (if e.2.testBit 61 then r * count else 0), l := fld e.2 0 24, count := count
      layout := if hd = 0 then none else some y
      log2row := 0, nidx := 0, list := 0, q := .none, out := false, segs := none }
  -- COUNT bytes of the record's elements (log entry 105)
  if hd = 0 then x else { x with segs := some (stageSegs count x.g (x.segments Ctx.start)) }

/-- Fault of a staging descriptor before its copy. -/
def State.stageFault (s : State) (m : Man) (e : Nat × Nat) : Option Nat :=
  let hd := fld e.2 24 16
  if hd ≠ 0 ∧ !(s.layout m.job hd).valid then some fcLayoutJob
  else if 0x100000 < fld e.2 0 24 + fld e.2 40 21 then some fcBound else none

/-- Perform one staging copy on a berth, or leave it to its other homes. -/
def State.stageOne (s : State) (m : Man) (b : Nat) (e : Nat × Nat) : State :=
  let s := { s with cur := b }
  let id := s.nextId
  let s := s.pushOp pathL (.copy (s.stageReq m (m.rankAt b) e)) .count stagingTag 0
  match s.ctx.op id with
  | none => s
  | some o =>
    let s := s.globalArrive b o
    match (s.ctx.op id).map Op.stage with
    | some (.passed data) =>
      s.modCtx fun c => (c.spadWrite (fld e.2 0 24) data).dropOp id
    | some (.failed f) => s.modCtx fun c => { c.dropOp id with cfails := c.cfails ++ [f] }
    | _ => s

/-- Kinds of notice between the harbourmasters of a subcube team: TYPE 9 packets with a record whose CODE is 0 (log entry 15). -/
def noticeDone : Nat := 1
def noticeRetire : Nat := 2
def noticePreempt : Nat := 3
def noticeEnd : Nat := 4

/-- Send a notice (spec/19 R277). -/
def State.notify (s : State) (m : Man) (kind code : Nat) (dsts : List Nat) : State :=
  let r : EvRec := ⟨srcHm, kind, s.time, 0, some m.job, w64 (s.manKey m + code * 2 ^ 48)⟩
  dsts.foldl (fun s l => (s.hmSend (s.hmHdr 9 l m.job 0 0 0 false) r.bytes).getD s) s

/-- Neighbours in the tree rooted at a subcube team's origin: its children, and its parent (spec/19 R277). -/
def State.treeEdges (s : State) (m : Man) : List Nat :=
  let root := m.origin.getD s.label
  cubeKids m.cube root s.label ++ (if root = s.label then [] else [cubeParent m.cube root s.label])

/-- Pass a notice on along the tree, away from the device that it came from. -/
def State.spread (s : State) (m : Man) (kind code : Nat) (src : Nat) : State :=
  if m.top ≤ 8 then s else s.notify m kind code ((s.treeEdges m).filter (· != src))

/-- Rename the party that a window is bound to (spec/09 R123). -/
def Window.rename (f : Party → Party) (w : Window) : Window := { w with bound := w.bound.map f }
/-- The same for every window of a context, and for the windows that its operations go through. -/
def Ctx.renameWindows (f : Party → Party) (c : Ctx) : Ctx :=
  { c with windows := c.windows.map fun e => (e.1, e.2.rename f), ops := c.ops.map fun o => { o with win := o.win.rename f } }
/-- The parties of another device have new numbers, or are gone: in every token record, and for every window. -/
def State.renameAll (s : State) (f : Party → Party) : State :=
  let s := s.renameParties f
  let img := fun i : Image => { i with ctx := i.ctx.renameWindows f }
  { s with
    berths := s.berths.map fun e => (e.1, { e.2 with ctx := e.2.ctx.renameWindows f, pool := e.2.pool.map img })
    dock := s.dock.map img }

/-- What such a notice changes here. -/
def State.homeNotice (s : State) (kind src id data : Nat) : State :=
  let n := fld data 8 8
  let now := src * 65536 + fld data 0 8
  let away := 2 ^ 26 * (1 + id) + src * 65536
  if kind = noticeGone then
    let gone := fun p : Party => if ofBerths now n p || ofBerths away n p then .nobody else p
    -- a team that could not start first gives back what it was lent here (spec/01 R22)
    let s := if fld data 16 32 = 1 then s.undoLends (ofBerths now n) else s
    ((s.returnRegions (ofBerths now n)).returnRegions (ofBerths away n)).renameAll gone
  else if kind = noticeAway then s.renameAll (moveParty now n away)
  else if kind = noticeBack then s.renameAll (moveParty away n now)
  else s.quarantine (.remote (if n = 0 then away + fld data 0 8 else now)) (fld data 16 32)

/-- A team has left its berths: its tokens follow it (R132). -/
def State.teamAway (s : State) (m : Man) : State :=
  (s.tellHomes m noticeAway m.base m.aligned 0).modMan m.id fun m => { m with st := .preempted, since := s.time, grace := none }

/-- The berth that a team leaves behind: zeroed, with what is not the berth-thread's kept (R30). -/
def Berth.clear (x : Berth) : Berth :=
  { Berth.idle with retired := x.retired, spares := x.spares, dbgctl := x.dbgctl, bps := x.bps, dbgimg := x.dbgimg, pool := x.pool,
                    st := x.st }
def Berth.free (x : Berth) : Berth := { x.clear with st := .idle }

/-- The tokens of a team on this device: regions returned, shares dropped (R30 step 1), here and, as they answer, on the others. -/
def State.clearTokens (s : State) (m : Man) : State := (s.returnRegions (ofTeam m.id)).tellGone m m.base m.aligned 0

/-- The same for a team that could not start: what its token table lent it goes back to the party that lent it (R22), before R30. -/
def State.undoTokens (s : State) (m : Man) : State :=
  ((s.undoLends (ofTeam m.id)).returnRegions (ofTeam m.id)).tellGone m m.base m.aligned 1

/-- What a team leaves on this device: berths freed, code copies and images dropped. -/
def State.clearTeam (s : State) (m : Man) : State :=
  let s := m.held.foldl (fun s b => if (s.ctxAt b).team = m.id ∧ (s.berth b).placed ∧ !(s.berth b).retired
    then s.modBerth b Berth.free else s) s
  let keep := fun i : Image => i.ctx.team != m.id
  { s with
    codeStore := s.codeStore.filter fun e => e.1 != m.id
    dock := s.dock.filter keep
    berths := (s.berths.map fun e => (e.1, { e.2 with pool := e.2.pool.filter keep })).filter fun e => e.2 != Berth.idle }

/-- A handler's slot stops pending with it, failing an MBOXACK (R28). -/
def State.dropPending (s : State) (m : Man) : State :=
  match m.mbox with
  | some (id, slot) =>
    -- the mailbox of a subcube handler is the origin's
    if m.acked ∨ m.origin.isSome then s
    else { s with mboxes := s.mboxes.map fun b => if b.id = id then { b with pend := b.pend.filter (· != slot) } else b }
  | none => s

/-- DATA of the event of a team that ends on a fault: for a handler copy its MBOXID and slot (R29); otherwise the slot address of the
manifest, the model's choice, as SOURCE is (R22, R31, log entry 106). -/
def Man.endData (m : Man) : W64 := match m.mbox with | some (id, slot) => w64 (id + slot * 65536) | none => w64 m.slotVa

/-- Steps 2 and 3 of a retirement (R30), once the tokens are returned: STATUS, and POST. A handler copy writes no STATUS; one that ended
on a fault logs an event (R29). -/
def State.retireEnd (s : State) (m : Man) : State :=
  let s := (s.clearTeam m).dropPending m
  let s := if m.writes then s.status m (if m.code = 0 then 3 else 5) m.code
    else if m.mbox.isSome ∧ m.origin.isNone ∧ m.code ≠ 0 then s.event srcHm m.code (some m.job) m.endData else s
  let s := if m.origin.isSome then s else s.post m
  s.modMan m.id fun m => { m with st := .retired }

/-- A team that cannot start: its lends are undone, an event is logged, and it retires under R30 (R22). A handler copy's event is that of
its retirement (R29). A subcube team's device reports its part as done; the others are told. -/
def State.failStart (s : State) (m : Man) (code : Nat) : State :=
  let all := (List.range m.aligned).map (m.rank0 + ·)
  let s := s.undoTokens m
  let s := m.held.foldl (fun s b => s.modBerth b Berth.free) s
  let s := if m.mbox.isSome ∨ m.origin.isSome then s else s.event srcHm code (some m.job) m.endData
  let s := if m.told then s else s.spread m noticeEnd code s.label
  let m : Man := { m with code := if m.code = 0 then code else m.code, ended := true, told := true, exited := all }
  let s := s.modMan m.id fun k =>
    { k with code := m.code, ended := true, told := true, exited := all, st := .retiring, closing := decide (m.top ≤ 8) }
  if 8 < m.top ∨ s.goneOpen m then s else (s.statusHeld m).getD (s.retireEnd m)

/-- Code words of a team. -/
def State.codeWords (s : State) (m : Man) : Except Nat (List W64) :=
  match s.plan m.job (some .instr) (pieces m.code_ (8 * m.codelen)) with
  | .error (e, _) => .error (fcPageMiss + e)
  | .ok ps => match s.tokens [] (s.planChecks m.job .instr ps) with
    | (_, some (code, _)) => .error code
    | (_, none) => match s.planRead ps with
      | none => .error fcLighterPoison
      | some bs => .ok (bytesWords (8 * m.codelen) bs)

/-- Whether a write of the enqueuing berth-thread to the region of a token-table entry is not performed yet: the entry's flush waits for
it (R23, spec/09 R136). -/
def State.lendWaits (s : State) (m : Man) (e : Nat × Nat) : Bool :=
  match m.by_ with
  | .bt t r => match s.berthOf t r with
    | some b =>
      let c := s.ctxAt b
      c.ops.any fun o => !o.settled && (o.globalWrites c).any fun x => decide (x.1 < e.1 + 2 ^ fld e.2 0 6 ∧ e.1 < x.1 + x.2)
    | none => false
  | _ => false

/-- What a start waits for: the back-invalidation of the line that holds STATUS (spec/25 R384), and of the host's lines of every region
that the token table changes away from it (R367), and the flush of each entry. -/
def State.startHeld (s : State) (m : Man) : Option State :=
  match s.statusHeld m with
  | some s => some s
  | none => ((s.tokTable m).getD []).findSome? fun e => if s.lendWaits m e then some s else s.backInvVa m.job e.1 (2 ^ fld e.2 0 6)

/-- Load the code on every berth, and perform the staging table on each (R22 step 3). -/
def State.loadTeam (s : State) (m : Man) (ws : List W64) : State :=
  let im : Tab W64 := ((List.range ws.length).zip ws).foldl (fun t x => Tab.set stopNop t x.1 x.2) []
  let table := (s.stages m).getD []
  let load := fun (s : State) (b : Nat) =>
    let c := { Ctx.start with team := m.id, rank := m.rankAt b }
    let s := s.modBerth b fun x => { x with im := im, codelen := m.codelen, ctx := c }
    let s := { s with codeStore := s.codeStore ++ [(m.id, m.rankAt b, im, m.codelen)] }
    table.foldl (fun s e => s.stageOne m b e) s
  m.held.foldl load s

/-- TEAM_START (R22): STATE 2, the token table, the code and the staging. -/
def execTeamStart (s : State) : Out :=
  withMan s fun m s =>
    if m.st ≠ .placed ∨ m.kind ≠ 1 then s
    -- a device of the subcube that cannot be reached never reserves its die (log entry 15)
    else if !m.begun && m.awaits.any fun k => (s.route k).isNone then s.failStart m fcUnreachable
    -- nor does one whose launch was refused before this part was placed
    else if !m.begun ∧ m.refusal.isSome then s.failStart m (m.refusal.getD 0)
    else if !(m.held.all fun b => (s.berth b).st == .starting) ∨ m.awaits ≠ [] then s
    else match s.startHeld m with
      | some s => s
      | none =>
        let s := if m.begun then s else ((s.healStart m).status m 2 0).modMan m.id fun m => { m with begun := true }
        match s.applyTable m ((s.tokTable m).getD []) with
        | .wait s => s
        | .fault s code => s.failStart m code
        | .done s =>
          match s.codeWords m with
          | .error code => s.failStart m code
          | .ok ws =>
            match ((s.stages m).getD []).findSome? (s.stageFault m) with
            | some code => s.failStart m code
            | none =>
              let t := s.loadTeam m ws
              match firstFail (m.held.flatMap fun b => (t.ctxAt b).cfails) with
              | some f => s.failStart m f.code
              | none => t.modMan m.id fun m => { m with st := .starting }

/-- Pre-empt a berth at its next boundary; a debug-halted or gated one stands at its boundary already (spec/23 R357, R349). -/
def Berth.preemptNow (x : Berth) : Berth :=
  match x.st with
  | .run => { x with preempt := true }
  | .halted => { x with st := .draining, wasHalted := true, ctx := x.ctx.abandonLoads }
  | .gated => { x with st := .draining, ctx := x.ctx.abandonLoads }
  | .off => { x with preempt := true }
  | _ => x

/-- Begin the pre-emption of a team: at once, or after its job's grace window (R20). A subcube team starts again at a new time. -/
def State.beginPreempt (s : State) (m : Man) : State :=
  let s := s.modMan m.id fun m => { m with start := none, awaits := [] }
  if bf (Tab.get 0 s.jobsched m.job) 40 24 = 0 then
    (m.held.foldl (fun s b => s.modBerth b Berth.preemptNow) s).modMan m.id fun m => { m with st := .preempting }
  else s.modMan m.id fun m => { m with st := .preempting, grace := some 0 }

/-- A pre-emption of a subcube team that was announced while this device's part was starting (R21). -/
def State.pendingPreempt (s : State) (t : Nat) : State :=
  match s.man t with
  | some m => if m.owed then (s.modMan t fun m => { m with owed := false }).beginPreempt { m with owed := false } else s
  | none => s

/-- Commit of a state on the berth that holds it (spec/23 R361). -/
def State.commitStart (s : State) (b seq : Nat) : State :=
  let v := s.saved b
  s.modBerth b fun x =>
    { x with shadow := { Shadow.none with copyA := some ⟨{ v with mark := 0 }, seq, true⟩, words := [(0, seq), (0, seq), (0, seq)], last := some v } }

/-- Berth-threads that begin in a ck in which no berth has had its turn yet issue in that ck (R31). -/
def State.joinCk (s t : State) : State := if s.agent = s.berthFrom 0 then { t with agent := t.berthFrom 0 } else t

/-- The berths of a filled team go on; that of a failed berth-thread holds no more than its place. -/
def State.goOn (s : State) (m : Man) : State :=
  let go := fun (s : State) (k : Nat) =>
    if (s.berth k).st ≠ .filling then s
    else if m.failed.contains (m.rankAt k) then
      s.modBerth k fun x => { x with st := .run, ctx := { Ctx.start with team := m.id, rank := m.rankAt k, pilot := .retired } }
    else s.modBerth k fun x => { x with st := if x.wasHalted then .halted else .run, wasHalted := false }
  s.joinCk (((m.held.foldl go s).modMan m.id fun m => { m with st := .running, waited := m.eligTime s.time }).pendingPreempt m.id)

/-- BERTH_THREAD_START (R21, R25, spec/19 R277). -/
def execBerthThreadStart (s : State) : Out :=
  withMan s fun m s =>
    let due := match m.start with | some t => decide (t ≤ s.fabtime) | none => decide (m.top ≤ 8)
    if m.st = .resuming then
      if due then s.goOn m else s
    else if m.st ≠ .starting ∨ !due ∨ !(m.held.all fun b => (s.ctxAt b).ops.all fun o => match o.stage with
        | .passed _ | .failed _ => true
        | _ => false) then s
    else
      -- staging copies whose other homes have answered
      let land := fun (s : State) (b : Nat) => (s.ctxAt b).ops.foldl (fun s o => match o.kind, o.stage with
        | .copy r, .passed data => s.modCtxAt b fun c => (c.spadWrite r.l data).dropOp o.id
        | _, .failed f => s.modCtxAt b fun c => { c.dropOp o.id with cfails := c.cfails ++ [f] }
        | _, _ => s) s
      let s := m.held.foldl land s
      match firstFail (m.held.flatMap fun b => (s.ctxAt b).cfails) with
      | some f => s.failStart m f.code
      | none =>
        let slot := match m.mbox with | some (_, k) => k | none => 0
        let go := fun (s : State) (b : Nat) =>
          (s.modBerth b fun x =>
            let c := (x.ctx.setReg 1 (w64 slot)).setReg 2 (w64 m.args)
            { x with st := .run, ctx := { c with pc := m.entry } }).commitStart b 0
        s.joinCk (((m.held.foldl go s).modMan m.id fun m => { m with st := .running }).pendingPreempt m.id)

-- budgets, barriers, mailboxes (R26-R31) -------------------------------------------------------------------------------------------------------

/-- Budget of a team in ck (R6, R16). -/
def State.budgetOf (s : State) (m : Man) : Nat := if m.budget = 0 then bf (Tab.get 0 s.jobsched m.job) 0 40 * 1024 else m.budget

/-- BUDGET_EXPIRY (R31), while the team is placed. The event's SOURCE and DATA are the model's choice (log entry 106). -/
def execBudgetExpiry (s : State) : Out :=
  withMan s fun m s =>
    if !(m.st == .running || m.st == .preempting) ∨ m.ended ∨ m.used < s.budgetOf m then s
    else
      let s := s.endTeam m.id fcWatchdog
      -- a handler copy's event is that of its retirement (R29)
      if m.mbox.isSome then s else s.event srcHm fcWatchdog (some m.job) m.endData

/-- What a barrier packet says (spec/19 R276): an arrival or a release of an epoch, either of them LOST; that every member of the level
below a device has exited, which stands for every later arrival; that the level is LOST for good. -/
inductive BarMsg where
  | arrive | release | arriveLost | releaseLost | exited | levelLost
deriving DecidableEq, Repr
def BarMsg.code : BarMsg → Nat
  | .arrive => 0 | .release => 1 | .arriveLost => 2 | .releaseLost => 3 | .exited => 4 | .levelLost => 5
def BarMsg.ofCode (n : Nat) : BarMsg :=
  if n = 0 then .arrive else if n = 1 then .release else if n = 2 then .arriveLost else if n = 3 then .releaseLost
  else if n = 4 then .exited else .levelLost

/-- Send a barrier packet: the team's identity stands in the first operand; epoch, level and message in the second (log entry 15). -/
def State.barrierSend (s : State) (m : Man) (l e : Nat) (msg : BarMsg) (dst : Nat) : Option State :=
  s.hmSend (s.hmHdr 6 dst m.job 0 (s.manKey m) (e % 2 ^ 48 + l * 2 ^ 48 + msg.code * 2 ^ 56) false) []

/-- Root of a level's tree: the subcube's lowest label (spec/19 R276). -/
def State.barrierRoot (s : State) (m : Man) (l : Nat) : Nat := let k := m.domain l - 8; s.label / 2 ^ k * 2 ^ k
/-- Devices below this one in that tree, and its parent. -/
def State.barrierKids (s : State) (m : Man) (l : Nat) : List Nat := cubeKids (m.domain l - 8) (s.barrierRoot m l) s.label
def State.barrierUp (s : State) (m : Man) (l : Nat) : Nat := cubeParent (m.domain l - 8) (s.barrierRoot m l) s.label

/-- A subcube barrier completes here, or is LOST, and the release goes down (spec/19 R276). -/
def State.barrierEnd (s : State) (m : Man) (x : Barrier) (lost : Bool) : State :=
  let x := if lost then { x with up := true, lost := true } else { x with up := true, done := true }
  let s := s.modMan m.id fun m => m.setBarrier x
  (s.barrierKids m x.level).foldl (fun s k => (s.barrierSend m x.level x.epoch (if lost then .releaseLost else .release) k).getD s) s

/-- The arrival of this device goes up once its own members and its children have arrived; the root releases (spec/19 R276). A child
without a route, or one whose arrival is LOST (its label + 1,024), makes the release LOST, and so does a parent that cannot be reached. -/
def State.barrierMove (s : State) (t : Nat) (x : Barrier) : State :=
  match s.man t with
  | none => s
  | some m =>
    if x.done || x.lost then s
    else
      let root := s.barrierRoot m x.level
      let kids := s.barrierKids m x.level
      let parent := s.barrierUp m x.level
      if x.up then (if s.label ≠ root ∧ (s.route parent).isNone then s.barrierEnd m x true else s)
      else
        let still := fun c => m.still.contains (x.level, c)
        let cut := fun c => !x.kids.contains c && !still c && (x.kids.contains (c + 1024) || (s.route c).isNone)
        if !m.localDone x || !(kids.all fun c => x.kids.contains c || still c || cut c) then s
        else
          let lost := kids.any cut
          if s.label = root then s.barrierEnd m x lost
          else match s.barrierSend m x.level x.epoch (if lost then .arriveLost else .arrive) parent with
            | some s => s.modMan m.id fun m => m.setBarrier { x with up := true }
            | none => s.barrierEnd m x true

/-- A subcube level has lost a member for good (R27): its barriers here are LOST, now and later, and the news goes on along the level's
tree, away from where it came from. -/
def State.levelLost (s : State) (m : Man) (l src : Nat) : State :=
  if m.lostLv.contains l then s
  else
    let lose := fun m : Man => { m with
      lostLv := insertNat l m.lostLv
      barriers := m.barriers.map fun x => if x.level = l ∧ !x.done then { x with lost := true } else x }
    let up := if s.label = s.barrierRoot m l then [] else [s.barrierUp m l]
    ((s.barrierKids m l ++ up).filter (· != src)).foldl (fun s k => (s.barrierSend m l 0 .levelLost k).getD s) (s.modMan m.id lose)

/-- Whether every berth-thread of a team on this device, and so every member of a subcube level, has exited. -/
def Man.left (m : Man) : Bool :=
  (List.range m.aligned).all fun i => m.exited.contains (m.rank0 + i) && !m.failed.contains (m.rank0 + i)

/-- What a device owes to a subcube level without a berth-thread at its barrier (R27): that a member has failed; that every member has
exited, its own and those below it, so that the others need not wait. -/
def State.levelMove (s : State) (m : Man) (l : Nat) : State :=
  if !m.failed.isEmpty then s.levelLost m l s.label
  else if m.left ∧ !m.stood.contains l ∧ (s.barrierKids m l).all (fun c => m.still.contains (l, c)) then
    let s := s.modMan m.id fun m => { m with stood := insertNat l m.stood }
    if s.label = s.barrierRoot m l then s else (s.barrierSend m l 0 .exited (s.barrierUp m l)).getD s
  else s

/-- Whether no berth has had its turn in this ck: what continues now continues in one ck (R26). -/
def State.ckStart (s : State) : Bool := s.agent == s.berthFrom 0

/-- BARRIER_COMPLETE (R26, R27): the level-l instance of team t, of which every member of this device has arrived; its berth-threads go on
in the same ck. A subcube level completes by its tree (spec/19 R276). -/
def execBarrierComplete (t l inst : Nat) (s : State) : Out :=
  match s.man t with
  | none => .next s
  | some m =>
    if m.wide l then
      .next (((m.barriers.filter fun x => x.level == l && x.inst == inst).foldl (fun s x => s.barrierMove t x) s).levelMove m l)
    else if !s.ckStart then .next s
    else .next (s.modMan t fun m =>
      { m with barriers := m.barriers.map fun x => if x.level = l ∧ x.inst = inst ∧ m.localDone x ∧ !x.lost then { x with done := true } else x })

/-- MAILBOX_HANDLER_ENTER (R28, R34). -/
def execMailboxHandlerEnter (mbox slot : Nat) (s : State) : Out :=
  match s.mboxes.find? fun b => b.id == mbox with
  | none => .next s
  | some b =>
    match b.template.bind s.man with
    | none => .next s
    | some t =>
      if !b.pend.contains slot ∨ s.mans.any (fun m => m.mbox == some (mbox, slot) && m.origin.isNone && m.st != .retired) then .next s
      else
        let c := { t with id := s.nextId, writes := false, mbox := some (mbox, slot), tmpl := some t.id, st := .waiting, eprio := t.prio, ages := 0
                          waited := 0, since := 0, accepted := s.time }
        .next { s with nextId := s.nextId + 1, mans := enlist c s.mans }

/-- Whether every berth-thread of this device has exited or failed. -/
def Man.allExited (m : Man) : Bool := (List.range m.aligned).all fun i => m.exited.contains (m.rank0 + i) || m.failed.contains (m.rank0 + i)

/-- Whether a team has no berth-thread left on this device, and every device below it in its tree has said so of itself. -/
def Man.over (m : Man) (kids : List Nat) : Bool :=
  (m.st == .running || m.st == .preempting || m.st == .retiring) && m.allExited && kids.all m.units.contains

/-- The devices below this one in the tree of a subcube team. -/
def State.teamKids (s : State) (m : Man) : List Nat := if 8 < m.top then cubeKids m.cube (m.origin.getD s.label) s.label else []

/-- Step 1 of a retirement (R30) on this device and, in turn, on those below it, whose answers are awaited. -/
def State.retireBegin (s : State) (m : Man) (code : Nat) : State :=
  let kids := s.teamKids m
  ((s.clearTokens m).notify m noticeRetire code kids).modMan m.id fun m =>
    { m with st := .retiring, closing := true, awaits := kids.filter fun k => (s.route k).isSome }

/-- The end of a retirement: a subcube team's other devices tell their parents (R30). -/
def State.retireDone (s : State) (m : Man) : State :=
  match m.origin with
  | some root => (s.notify m noticeRetired 0 [cubeParent m.cube root s.label]).retireEnd m
  | none => s.retireEnd m

/-- TEAM_RETIRE (R29, R30): a subcube team retires when every device's part is over. A handler template takes STATE 3. -/
def execTeamRetire (s : State) : Out :=
  withMan s fun m s =>
    let kids := s.teamKids m
    let tell := fun root : Nat =>
      (s.notify m noticeDone m.code [cubeParent m.cube root s.label]).modMan m.id fun m => { m with units := m.units ++ [s.label] }
    if m.kind ≠ 1 then s
    else if m.st = .template then
      if !s.templateOver m then s
      else (s.statusHeld m).getD ((s.status m 3 0).modMan m.id fun m => { m with st := .retired })
    else if m.closing then
      if m.st ≠ .retiring ∨ m.awaits ≠ [] ∨ s.goneOpen m then s else (s.statusHeld m).getD (s.retireDone m)
    else if !m.over kids then s
    else match m.origin with
      | some root => if m.units.contains s.label then s else tell root
      | none => (s.statusHeld m).getD (
        let s := s.retireBegin m m.code
        match s.man m.id with
        | some m => if m.awaits = [] ∧ !s.goneOpen m then s.retireDone m else s
        | none => s)

/-- WHARF_STREAM_DONE (spec/21 R301, R30). -/
def execWharfStreamDone (s : State) : Out :=
  withMan s fun m s =>
    if m.kind ≠ 2 ∨ m.st ≠ .running ∨ m.units ≠ [] then s
    else match s.statusHeld m with
      | some s => s
      | none =>
        let code := match m.wcode with | [] => 0 | (_, c) :: _ => c
        ((s.status m (if code = 0 then 3 else 5) code).post m).modMan m.id fun m => { m with st := .retired, code := code }

-- pre-emption and the dry dock (R20, spec/23 R339-R341) -----------------------------------------------------------------------------------------

/-- A list of rising numbers without repeats. -/
def riseSet (l : List Nat) : List Nat := l.foldl (fun m k => if m.contains k then m else insertNat k m) []

/-- Snapshots in an image: the interrupted context's and the handler's own (spec/23 R342). -/
def Ctx.snaps (c : Ctx) : Snap × Snap :=
  match c.aside with
  | some a => (a, c.capture)
  | none => (c.capture, Snap.empty)
/-- Records of the lighter state: operations outstanding and failures not raised (spec/23 R342). -/
def Ctx.lighterRecords (c : Ctx) : Nat := c.ops.length + c.fails.length + c.refusals.length
/-- Matrix operations in flight. -/
def Ctx.mseqCount (c : Ctx) : Nat := c.matrixWork.length
/-- Place of a way among the packed probe tags (spec/23 R342). -/
def Ctx.wayPlace (c : Ctx) (k : Nat) : Nat := c.ptFirst (k / 4096) + k % 4096

/-- Blocks of 4 KiB of an image that are present, in order (spec/23 R342, R360). The matrix sequencer's record, whose encoding is
internal, counts one block for each eight operations. -/
def Ctx.present (c : Ctx) : List Nat :=
  let some_ := fun (b : Bool) (n : Nat) => if b then [n] else []
  let blocks := fun (base : Nat) (l : List Nat) => l.map (base + ·)
  riseSet ([0, 1] ++ some_ (c.snaps.1.nent != 0) 2 ++ some_ (c.snaps.2.nent != 0) 3
    ++ blocks 4 (List.range (Nat.min 2 ((c.lighterRecords + 31) / 32)))
    ++ (c.ways.filter fun w => w.2.valid).map (fun w => 6 + c.wayPlace w.1 / 512)
    ++ (match c.mpb with
      | some bs => ((List.range bs.length).zip bs).filterMap fun x => if x.2 = 0 then none else some (14 + x.1 / 4096)
      | none => [])
    ++ blocks 16 (List.range (Nat.min 8 ((c.mseqCount + 7) / 8)))
    ++ c.banks.flatMap (fun b => b.2.rows.flatMap fun r => match r.2 with
      | v :: _ => some_ (v.codes.any (· != 0)) (24 + b.1 * 16 + r.1 / 16) ++ some_ (v.scales.any (· != 0)) (56 + b.1)
      | [] => [])
    ++ c.mrf.map (fun x => 64 + x.1 / 1024) ++ c.acc.map (fun x => 128 + x.1 / 1024) ++ c.spad.map fun x => 256 + x.1 / 4096)

/-- How many are present. -/
def Ctx.blocks (c : Ctx) : Nat := c.present.length

/-- Keys at which two tables differ. -/
def diffKeys {α : Type} [BEq α] (a b : Tab α) : List Nat := ((a.filter fun e => !b.contains e) ++ b.filter fun e => !a.contains e).map Prod.fst

/-- The newest codes and scales of the rows of a bank. -/
def Bank.newestRows (k : Bank) : Tab (List Nat × List Nat) :=
  k.rows.filterMap fun r => match r.2 with
    | v :: _ => Option.some (r.1, v.codes, v.scales)
    | [] => Option.none

/-- Data blocks of the image layout in which two contexts differ (spec/23 R344, R345): all but the header, the pilot state, the
snapshots and the lighter state, which stand in the record copies themselves. -/
def Ctx.changed (a b : Ctx) : List Nat :=
  let tags := fun c : Ctx => c.ways.map fun w => (c.wayPlace w.1, w.2.valid, w.2.tag)
  let bank := fun (c : Ctx) (i : Nat) => (Tab.get Bank.none c.banks i).newestRows
  let banks := [0, 1].flatMap fun i => (diffKeys (bank a i) (bank b i)).flatMap fun r => [24 + i * 16 + r / 16, 56 + i]
  riseSet ((diffKeys (tags a) (tags b)).map (6 + · / 512) ++ (if a.mpb = b.mpb then [] else [14, 15])
    ++ (if a.matrixWork = b.matrixWork then [] else (List.range 8).map (16 + ·)) ++ banks
    ++ (diffKeys a.mrf b.mrf).map (64 + · / 1024) ++ (diffKeys a.acc b.acc).map (128 + · / 1024)
    ++ (diffKeys a.spad b.spad).map (256 + · / 4096))

/-- Data blocks present (spec/23 R345). -/
def Ctx.dataBlocks (c : Ctx) : List Nat := c.present.filter (6 ≤ ·)

/-- Free blocks of a berth's pool (spec/23 R341): a data block that both record copies hold alike is stored once. -/
def Berth.freeBlocks (x : Berth) : Nat :=
  let one := fun r : Option Record => ((r.map fun r => r.saved.ctx.dataBlocks).getD []).length
  let records := match x.shadow.copyA, x.shadow.copyB with
    | some a, some b => one (some a) + (b.saved.ctx.dataBlocks.filter (a.saved.ctx.changed b.saved.ctx).contains).length
    | a, b => one a + one b
  2048 - 17 - records - x.pool.foldl (fun n i => n + i.ctx.blocks) 0

/-- The blocks that a persist writes (spec/23 R345): those changed since the last commit, as far as they are present. -/
def Shadow.dirty (h : Shadow) (v : Saved) : Nat :=
  let last := if (h.words.headD (0, 0)).1 = 0 then h.copyA else h.copyB
  match last with
  | some r => (v.ctx.dataBlocks.filter (r.saved.ctx.changed v.ctx).contains).length
  | Option.none => v.ctx.dataBlocks.length

/-- Whether the image of a berth's context has room in its pool (spec/23 R341). -/
def Berth.spillFits (x : Berth) : Bool := decide (x.pool.length < 3 ∧ x.ctx.blocks ≤ x.freeBlocks)

/-- Whether a persist that has begun has its free blocks (spec/23 R345). -/
def Berth.persistFits (x : Berth) : Bool :=
  match x.shadow.queue with
  | [] => true
  | v :: _ => decide (x.shadow.dirty v ≤ x.freeBlocks)

/-- Images that have to be evicted before one more fits. -/
def evictCount (fits : List Image → Bool) : List Image → Nat
  | [] => 0
  | i :: l => if fits (i :: l) then 0 else evictCount fits l + 1

/-- Whether the images of a team that is pre-empted have room: in the pools of its berths, with what they evict to the dock store
(spec/23 R341). -/
def State.spillRoom (s : State) (m : Man) : Bool :=
  let need := fun b => let x := s.berth b; evictCount (fun l => { x with pool := l }.spillFits) x.pool
  let n := m.held.foldl (fun n b => n + need b) 0
  n == 0 || decide (s.carveUsed + n * 2 ^ 21 ≤ s.carveBytes)

/-- PREEMPT (R20): every team of lower effective priority on a reserved instance, on all its berths and devices; a team whose images
have no room keeps its berths for now (spec/23 R341). -/
def execPreempt (s : State) : Out :=
  let s := s.ageAll
  let victim := fun (p : Man) (base : Nat) (m : Man) =>
    m.kind == 1 && m.st == .running && decide (m.eprio < p.eprio) && (m.held.any fun b => (p.berths base).contains b) && s.spillRoom m
  .next (s.reserve.foldl (fun s x =>
    match s.man x.1 with
    | none => s
    | some p => (s.mans.filter (victim p x.2)).foldl (fun s m => (s.beginPreempt m).spread m noticePreempt 0 s.label) s) s)

/-- GRACE_EXPIRY (R20). -/
def execGraceExpiry (s : State) : Out :=
  withMan s fun m s =>
    match m.grace with
    | some n =>
      if n < bf (Tab.get 0 s.jobsched m.job) 40 24 * 1024 ∨ !s.spillRoom m then s
      else
        let s := m.held.foldl (fun s b => s.modBerth b Berth.preemptNow) s
        s.modMan m.id fun m => { m with grace := none }
    | none => s

/-- Descriptors that a command names for the destinations that may be LOCAL (spec/21 R306, R314). -/
def localDests : Option Instr → List Nat
  | some (.copyc _ _ d) | some (.convert _ _ d _ _) | some (.gather _ _ _ d _) | some (.pool _ _ _ d _ _ _ _) | some (.reduce _ _ d _ _)
  | some (.dot _ _ _ d) | some (.norm2 _ _ d _) | some (.gemv _ _ _ d _) | some (.crc _ _ d) => [d]
  | some (.topkv _ _ d e _) => [d, e]
  | _ => []

/-- Commands of a party in a ring that have a LOCAL destination, with the descriptors as the SETDs before them leave them (spec/21 R306,
R307). -/
def localCmds (p : Party) : Tab Desc → List Entry → Nat
  | _, [] => 0
  | ds, e :: l =>
    let i := decodeWharf e.word.toNat
    let here : Bool := e.by_ == p && (localDests i).any fun d => (Tab.get (0 : W32) (Tab.get Desc.zero ds d).w 1).getLsbD 31
    let ds := match i with
      | some (.setd _ d w v) => Tab.upd Desc.zero ds d fun z => { z with w := Tab.set 0 z.w w (BitVec.ofNat 32 v) }
      | _ => ds
    bit here + localCmds p ds l

/-- LOCAL wharf commands of a party that are not complete (R339, R356). -/
def State.localOpen (s : State) (p : Party) : Nat := s.units.foldl (fun n u => n + localCmds p u.2.descs u.2.ring) 0

/-- Whether an operation leaves its berth free to spill (spec/23 R339): remote loads are abandoned, held operations travel, and a
copy to a full stream is suspended. -/
def Ctx.drained (c : Ctx) (o : Op) : Bool :=
  c.parked o || decide (0 < o.held) || (match o.kind with
    | .rload _ _ _ => true
    -- a poll whose answer is on its way may have subtracted (spec/03 R54)
    | .semwait _ => match o.stage with | .remote _ _ => false | _ => true
    | .copy _ => match o.route with
      | .stream x => o.stage == .replied [] && decide (16 ≤ (c.stream x).arrived.length)
      | _ => false
    | _ => false)

/-- Whether a pre-empted berth has drained. -/
def State.drainDone (s : State) (b : Nat) : Bool :=
  let c := s.ctxAt b
  c.ops.all c.drained && s.localOpen c.self == 0

/-- PREEMPT_DRAIN_DONE (spec/23 R339). -/
def execPreemptDrainDone (s : State) : Out :=
  let b := s.subj.berth
  if (s.berth b).st = .draining ∧ s.drainDone b then .next (s.modBerth b fun x => { x with st := .spilling }) else .next s

/-- DATA of HM.SPILL, HM.FILL and HM.EVICT (spec/23 R355). -/
def Man.dockData (m : Man) (rank b : Nat) : W64 := w64 (rank % 2 ^ 17 + b * 2 ^ 17 + fld m.slotVa 8 40 * 2 ^ 24)

/-- Last committed sequence number of a shadow. -/
def Shadow.seq (h : Shadow) : Nat := (h.words.headD (0, 0)).2

/-- SPILL_DONE (spec/23 R340, R341): a follower is spilled after its leader's matrix operations have stopped with it. -/
def execSpillDone (s : State) : Out :=
  let b := s.subj.berth
  let x := s.berth b
  let c := x.ctx
  if x.st ≠ .spilling ∨ !x.spillFits
      ∨ s.berths.any (fun y => y.1 != b && (s.followers y.1).contains b && y.2.st == .run) then .next s
  else match s.man c.team with
    | none => .next s
    | some m =>
      let img : Image := ⟨c, x.shadow.seq + 1, if x.wasHalted then some x.reason else none, b, s.nextId, x.bpSkip⟩
      let s := ({ s with nextId := s.nextId + 1 }).modBerth b fun x => { x.free with pool := x.pool ++ [img] }
      let s := s.event srcHm evSpill (some m.job) (m.dockData c.rank b)
      let left := m.held.any fun k => (s.berth k).placed && (s.ctxAt k).team == m.id
      .next (if left then s else s.teamAway m)

/-- Whether an image has to leave a berth's pool: a spill or a persist lacks room (spec/23 R341). -/
def Berth.needsRoom (x : Berth) : Bool := (x.st == .spilling && !x.spillFits) || !x.persistFits

/-- IMAGE_EVICT (spec/23 R341): the oldest image of a pool that lacks room goes to the dock store, if that has room. -/
def execImageEvict (s : State) : Out :=
  let b := s.subj.berth
  match (s.berth b).pool with
  | [] => .next s
  | i :: l =>
    if !(s.berth b).needsRoom ∨ s.carveBytes < s.carveUsed + 2 ^ 21 then .next s
    else
      let s := { s.modBerth b fun x => { x with pool := l } with dock := s.dock ++ [i] }
      .next (match s.man i.ctx.team with
        | some m => s.event srcHm evEvict (some m.job) (m.dockData i.ctx.rank b)
        | none => s)

/-- A placed team resumes when none of its images is left; a subcube team on all its devices together, at its start time. -/
def State.fillCheck (s : State) (t : Nat) : State :=
  match s.man t with
  | none => s
  | some m =>
    if m.st ≠ .placed ∨ !(m.held.all fun k => (s.findImage t (m.rankAt k)).isNone) then s
    else
      -- a gang's state is its leader's: committed once every follower is back (spec/17 R262)
      let s := (m.held.filter fun k => !(s.followers k).isEmpty).foldl (fun s k => s.commitStart k (s.berth k).shadow.seq) s
      if 8 < m.top then (s.modMan t fun m => { m with st := .resuming }).launchUp t
      else s.goOn m

/-- FILL_DONE (spec/23 R340, R361): the berth-thread is back; the team resumes when every one of its berths is. -/
def execFillDone (s : State) : Out :=
  let b := s.subj.berth
  let mine := s.mans.find? fun m => m.st == .placed && decide (m.kind = 1 ∧ m.base ≤ b ∧ b < m.base + m.aligned)
  match mine with
  | none => .next s
  | some m =>
    match s.findImage m.id (m.rankAt b) with
    | none => .next s
    | some i =>
      if (s.berth b).st ≠ .filling then .next s
      else
        let gone := fun l : List Image => l.filter fun k => k.order != i.order
        let drop := fun x : Berth => { x with pool := gone x.pool }
        let bs := (s.berths.map fun e => (e.1, drop e.2)).filter fun e => e.2 != Berth.idle
        let s := { s with dock := gone s.dock, berths := bs }
        let code := s.codeStore.find? fun e => e.1 == m.id && e.2.1 == m.rankAt b
        let im := match code with | some (_, _, im, _) => im | none => []
        let len := match code with | some (_, _, _, n) => n | none => 0
        let c := i.ctx.rebase fun k => k + b - i.berth
        let s := s.modBerth b fun x =>
          { x with ctx := c, im := im, codelen := len, reason := i.halted.getD 0, wasHalted := i.halted.isSome, bpSkip := i.skip }
        let s := (s.commitStart b (i.seq + 1)).event srcHm evFill (some m.job) (m.dockData (m.rankAt b) b)
        .next (s.fillCheck m.id)

-- persists (spec/23 R345, spec/09 R149, R150) ------------------------------------------------------------------------------------------------------

/-- The copy that the next persist writes: not the committed one. -/
def Shadow.next (h : Shadow) : Nat := 1 - (h.words.headD (1, 0)).1

/-- PERSIST_COMPLETE (R345): blocks, record copy and commit words of the oldest persist that has begun; the operations it holds are
journalled as issued (spec/09 R150). The journal entries up to its boundary lapse (R344). -/
def execPersistComplete (s : State) : Out :=
  let b := s.subj.berth
  let x := s.berth b
  match x.shadow.queue with
  | [] => .next s
  | v :: q =>
    -- a persist that lacks free blocks first evicts the oldest image (R341)
    if !x.persistFits ∧ x.pool ≠ [] then
      if s.carveBytes < s.carveUsed + 2 ^ 21 then .next s
      else .next { s with agenda := State.turn .imageEvict b :: State.turn .persistComplete b :: s.agenda }
    else
      let h := x.shadow
      let c := h.next
      let seq := h.seq + 1
      let r : Record := ⟨{ v with mark := 0 }, seq, true⟩
      let rest := q.map fun w : Saved => { w with mark := w.mark - v.mark }
      let h := { h with
        copyA := if c = 0 then some r else h.copyA
        copyB := if c = 0 then h.copyB else some r
        words := [(c, seq), (c, seq), (c, seq)]
        entries := h.entries - v.mark
        flagged := h.flagged - v.mark
        last := if h.entries ≤ v.mark then some v else h.last
        queue := rest }
      -- an outcome is kept while a record still lists its operation
      let lists := fun (w : Option Saved) (i : Nat) => match w with | some w => w.ctx.ops.any fun p => p.id == i | none => false
      let listed := fun k : Nat × Reply => lists (h.copyA.map Record.saved) k.1 || lists (h.copyB.map Record.saved) k.1
        || lists h.last k.1 || (h.queue.any fun w => lists (some w) k.1)
      let h := { h with kept := h.kept.filter listed }
      let seen := fun o : Op => v.ctx.ops.any fun p => p.id == o.id
      .next (s.modBerth b fun x =>
        let c := x.ctx
        let ops := c.ops.map fun o => if seen o then { o with logged := true } else o
        { x with shadow := h, ctx := { c with ops := ops, persisted := c.persisted || (c.persisting && q.isEmpty) } })

end Sys2Proof.Machine
end

