-- ==== Sys2Proof/Machine/Wharf.lean ====
section
/-! DEFINITION. The command words of the wharf units (spec/21 R297-R320): descriptors, waits and signals, and every form. -/

namespace Sys2Proof.Machine
open Sys2Proof

-- descriptors (R304-R306) -------------------------------------------------------------------------------------------------------

/-- A descriptor as read. -/
structure DV where
  n     : Nat
  loc   : Bool
  route : Nat
  base  : Nat
  len   : Nat
  count : Nat
  stride : Int
  const : Nat
  ety   : Nat
  job   : Nat
  /-- Reserved bits or a reserved type. -/
  bad   : Bool
deriving DecidableEq, Repr

/-- Bytes of an element. -/
def etBytes (t : Nat) : Nat := if t = 5 then 8 else if t = 6 then 1 else if t = 1 ∨ t = 2 then 2 else 4
def DV.size (d : DV) : Nat := etBytes d.ety
def DV.rowBytes (d : DV) : Nat := d.len * d.size
def DV.elems (d : DV) : Nat := d.len * d.count
def DV.flt (d : DV) : Bool := decide (d.ety < 3)
def DV.int (d : DV) : Bool := d.ety == 3 || d.ety == 4
/-- An index list (R313). -/
def DV.list (d : DV) : Bool := d.ety == 4 && d.len == 1
/-- Two descriptors match (R313). -/
def DV.matches (a b : DV) : Bool := a.len == b.len && a.ety == b.ety

/-- A dword of a descriptor. -/
def Desc.dword (d : Desc) (i : Nat) : Nat := (Tab.get 0 d.w (2 * i)).toNat + (Tab.get 0 d.w (2 * i + 1)).toNat * 2 ^ 32

/-- Descriptor n of a unit. -/
def WUnit.desc (x : WUnit) (n : Nat) : DV :=
  let d := Tab.get Desc.zero x.descs n
  let a := d.dword 0
  let b := d.dword 1
  let c := d.dword 3
  let loc := a.testBit 63
  let route := fld a 24 5
  { n := n, loc := loc, route := if loc then route else 0, base := if loc then fld a 0 20 else fld a 0 57
    len := fld b 32 16 + 1, count := fld b 0 32, stride := (BitVec.ofNat 64 (d.dword 2)).toInt, const := fld c 32 32
    ety := fld c 8 4, job := d.job
    bad := (if loc then fld a 20 4 != 0 || fld a 29 34 != 0 || (route != 0 && decide (route < 16)) else fld a 57 6 != 0)
      || fld b 48 16 != 0 || fld c 12 20 != 0 || fld c 0 8 != 0 || decide (6 < fld c 8 4) }

/-- A descriptor used as a semaphore: its address and VALUE; none when it is malformed. Dword 3 is not read (R304: DESIGN CHOICE, log
entry 133). -/
def WUnit.sem (x : WUnit) (n job : Nat) : Option (Nat × Nat) :=
  let d := Tab.get Desc.zero x.descs n
  let a := d.dword 0
  let v := d.dword 1
  if d.job = job ∧ a / 2 ^ 57 = 0 ∧ a % 8 = 0 ∧ v < 2 ^ 63 then some (a, v) else none

/-- The status of a command whose semaphore descriptor is no semaphore: LOCAL for a well-formed LOCAL one, an operand that R314 does not
mark (R306), else DESC. -/
def WUnit.semCode (x : WUnit) (n job : Nat) : Nat :=
  if (x.desc n).loc ∧ (x.desc n).job = job ∧ !(x.desc n).bad then fcWharfLocal else fcWharfDesc

-- a command in execution -----------------------------------------------------------------------------------------------------------

/-- Who executes: the unit, the job, the pushing party and the manifest. -/
structure WC where
  u   : Nat
  job : Nat
  by_ : Party
  man : Option Nat
deriving DecidableEq, Repr

/-- A part of a command: a value, or a status with the index of the failing element or row. -/
inductive WR (α : Type) where
  | ok (s : State) (a : α)
  | err (s : State) (code idx : Nat)

def WR.andThen {α β : Type} (r : WR α) (f : State → α → WR β) : WR β :=
  match r with
  | .ok s a => f s a
  | .err s c i => .err s c i

/-- A status found at element or row i. -/
def WR.at_ {α : Type} (i : Nat) (r : WR α) : WR α :=
  match r with
  | .ok s a => .ok s a
  | .err s c _ => .err s c i

/-- What performing a form gives: done, a status with the index of the failing element or row, or a wait. -/
inductive WRes where
  | done (s : State)
  | fail (s : State) (code idx : Nat)
  | wait (s : State)

def WR.res (r : WR Unit) : WRes :=
  match r with
  | .ok s _ => .done s
  | .err s c i => .fail s c i

/-- The wharf's status for a failure of an access (R308, R311). -/
def wharfCode (code : Nat) : Nat :=
  if code = fcLighterPoison then fcWharfPoison
  else if fcTokenNone ≤ code ∧ code < fcBarrierLost then fcWharfToken else fcWharfPage

/-- Virtual address of row r. -/
def DV.rowVa (d : DV) (r : Nat) : Nat := ((Int.ofNat d.base + Int.ofNat r * d.stride).emod (2 ^ 64 : Int)).toNat

/-- Places of a range that a unit may use: HBM of this device; of its own channel when `own`. -/
def State.wharfPlan (s : State) (c : WC) (acc : Acc) (own : Bool) (va n : Nat) : WR (List (Nat × Nat × Loc)) :=
  match s.plan c.job (some acc) (pieces va n) with
  | .error _ => .err s fcWharfPage 0
  | .ok ps =>
    if !(ps.all fun p => match p.2.2 with
      | .hbm _ ch => !own || ch == some c.u
      | _ => false) then .err s fcWharfPage 0
    else match s.tokens [.unit c.u] (s.planChecks c.job acc ps) with
      | (s, some (e, _)) => .err s (wharfCode e) 0
      | (s, none) => .ok s ps

/-- Read bytes (R308). -/
def State.wharfRead (s : State) (c : WC) (own : Bool) (va n : Nat) : WR (List Byte) :=
  (s.wharfPlan c .read own va n).andThen fun s ps =>
    let s := s.planHeal c.job ps
    match s.planRead ps with
    | none => .err s fcWharfPoison 0
    | some bs => .ok s bs

/-- Write bytes, or poison the granules they would go to (R311). -/
def State.wharfWrite (s : State) (c : WC) (va : Nat) (bs : List Byte) : WR Unit :=
  (s.wharfPlan c .write false va bs.length).andThen fun s ps => .ok ((s.walkHeal c.job ps).planWrite ps bs) ()
def State.wharfPoisonAs (s : State) (c : WC) (acc : Acc) (va n : Nat) : State :=
  match s.wharfPlan c acc false va n with
  | .err s _ _ => s
  | .ok s ps => ps.foldl (fun s p => match p.2.2 with | .hbm pa _ => s.poisonRange pa p.2.1 | _ => s) s
def State.wharfPoison (s : State) (c : WC) (va n : Nat) : State := s.wharfPoisonAs c .write va n

/-- Berth of the pusher, for LOCAL destinations. -/
def State.pusher (s : State) (c : WC) : Option Nat :=
  match c.by_ with
  | .bt t r => s.berthOf t r
  | _ => none

/-- Address of an offset of a destination's row r (packed rows in a scratchpad). -/
def DV.place (d : DV) (r off : Nat) : Nat := (if d.loc then d.base + r * d.rowBytes else d.rowVa r) + off

/-- Write bytes at a place of a destination. -/
def State.putRow (s : State) (c : WC) (d : DV) (r off : Nat) (bs : List Byte) : WR Unit :=
  if d.loc then
    match s.pusher c with
    | some b => .ok (s.modCtxAt b fun x => x.spadWrite (d.place r off) bs) ()
    | none => .ok s ()
  else s.wharfWrite c (d.place r off) bs

/-- Arrival of what a command has written to a range of a destination (spec/01 R28). -/
def State.came (s : State) (c : WC) (d : DV) (a n : Nat) : State :=
  if d.loc then (if (s.pusher c).isSome then s.arrive 0 (some c.by_) a n else s) else s.arrive c.job none a n

/-- Write bytes at an offset of a destination's row r, as a write of their own. -/
def State.putAt (s : State) (c : WC) (d : DV) (r off : Nat) (bs : List Byte) : WR Unit :=
  (s.putRow c d r off bs).andThen fun s _ => .ok (s.came c d (d.place r off) bs.length) ()

/-- Bytes of a destination as they stand, read by a command that accumulates into it (R318). -/
def State.oldRead (s : State) (c : WC) (d : DV) (r off n : Nat) : WR (List Byte) :=
  if d.loc then
    match s.pusher c with
    | some b => .ok s ((s.ctxAt b).spadRead (d.place r off) n)
    | none => .ok s (List.replicate n 0)
  else s.wharfRead c false (d.place r off) n

/-- Write what was computed for a destination; a failure poisons its granules. -/
def WR.put (x : WR (List Byte)) (c : WC) (d : DV) (r off n : Nat) : WR Unit :=
  match x with
  | .ok s bs => s.putAt c d r off bs
  | .err s code i => .err (if d.loc then s else s.wharfPoison c (d.rowVa r + off) n) code i

/-- Codes of elements of a number of bytes. -/
def byteElems (k : Nat) (bs : List Byte) : List Nat := (chunks k (bs.length / k) bs).map leValue
def elemBytes (k : Nat) (l : List Nat) : List Byte := l.flatMap fun v => leBytes k v

/-- Read row r as element codes. -/
def State.rowElems (s : State) (c : WC) (own : Bool) (d : DV) (r : Nat) : WR (List Nat) :=
  (s.wharfRead c own (d.rowVa r) d.rowBytes).andThen fun s bs => .ok s (byteElems d.size bs)

/-- Elements j to j + n − 1 of a descriptor, row-major (R304); the fuel bounds the rows touched. -/
def State.spanElems (s : State) (c : WC) (d : DV) : Nat → Nat → Nat → WR (List Nat)
  | 0, _, _ => .ok s []
  | f + 1, j, n =>
    if n = 0 then .ok s []
    else
      let off := j % d.len
      let k := Nat.min n (d.len - off)
      ((s.wharfRead c false (d.rowVa (j / d.len) + off * d.size) (k * d.size)).at_ (j / d.len)).andThen fun s bs =>
        (s.spanElems c d f (j + k) (n - k)).andThen fun s l => .ok s (byteElems d.size bs ++ l)

/-- All elements of a descriptor. -/
def State.allElems (s : State) (c : WC) (d : DV) (n : Nat) : WR (List Nat) := s.spanElems c d (n + 1) 0 n

/-- Write elements from j on, row by row. -/
def State.putElems (s : State) (c : WC) (d : DV) : Nat → Nat → List Nat → WR Unit
  | 0, _, _ => .ok s ()
  | f + 1, j, l =>
    if l.isEmpty then .ok s ()
    else
      let off := j % d.len
      let k := d.len - off
      ((s.putAt c d (j / d.len) (off * d.size) (elemBytes d.size (l.take k))).at_ (j / d.len)).andThen fun s _ => s.putElems c d f (j + k) (l.drop k)

/-- Do something for i, i + 1, ...; a status ends it with its index. -/
def forIdx (f : Nat → State → WR Unit) : Nat → Nat → State → WRes
  | 0, _, s => .done s
  | n + 1, i, s => match f i s with
    | .ok s _ => forIdx f n (i + 1) s
    | .err s c _ => .fail s c i

-- element values (R305, R313) -----------------------------------------------------------------------------------------------------------

/-- Floating-point type of an element type. -/
def etFF (t : Nat) : FF := if t = 1 then .bf16 else if t = 2 then .fp16 else .fp32
/-- An element as an FP32 value. -/
def DV.val (d : DV) (x : Nat) : FV := (etFF d.ety).decode x
/-- A value rounded to a descriptor's type. -/
def DV.round (d : DV) (v : FV) : Nat := (etFF d.ety).rne v
/-- A value rounded to FP32. -/
def r32 (v : FV) : FV := FF.fp32.decode (FF.fp32.rne v)

-- checks (R304, R306) ------------------------------------------------------------------------------------------------------------------------

/-- Checks before any access: the first that fails. -/
def wchecks : List (Bool × Nat) → Option Nat
  | [] => none
  | (b, c) :: l => if b then some c else wchecks l

/-- Whether a descriptor may not be read: another job's, or with a field out of range (R304). -/
def DV.malformed (d : DV) (job : Nat) : Bool := d.job != job || d.bad

/-- Whether a LOCAL descriptor fails the checks of R306; the slots of `mine` are this command's own. -/
def State.localBadDesc (s : State) (c : WC) (mine : List Nat) (d : DV) : Bool :=
  d.stride != 0 || decide (0x100000 < d.base + d.count * d.rowBytes) ||
  (match s.pusher c with
    | none => true
    | some b => d.route != 0 && (let r := (s.ctxAt b).ring (d.route - 16)
      match if mine.contains d.n then r.holding d.base else r.publishable d.base with
      | some i => decide (r.addr i + r.z < d.base + d.count * d.rowBytes)
      | none => true))

/-- Checks of the descriptors a form names, with whether each may be LOCAL: descriptors, then LOCAL, then limits. -/
def State.descChecks (s : State) (c : WC) (ds : List (DV × Bool)) : List (Bool × Nat) :=
  let mine := ((s.unit c.u).claims).getD []
  ds.map (fun x => (x.1.malformed c.job, fcWharfDesc))
    ++ ds.map (fun x => (x.1.loc && (!x.2 || s.localBadDesc c mine x.1), fcWharfLocal))
    ++ ds.map (fun x => (decide (4096 < x.1.len ∨ 16384 < x.1.rowBytes ∨ 1048576 < x.1.count), fcWharfBound))

-- waits, signals and the end of a command (R309) ---------------------------------------------------------------------------------------------------

/-- The turn passes on from a unit. -/
def State.wharfNext (s : State) : State := if s.agent = .wharf s.wcur then { s with agent := s.wharfFrom (s.wcur + 1) } else s

/-- A status is recorded in WUSTAT and logged (R299, R309). -/
def State.wharfError (s : State) (u code : Nat) (e : Entry) (idx : Nat) : State :=
  let w := CW.ofWord e.word.toNat
  let s := s.modUnit u fun x =>
    let n := (bf x.stat 0 32 + 1) % 2 ^ 32
    let head := if bt x.stat 63 then bf x.stat 42 14 * 2 ^ 42 else code % 256 * 2 ^ 48 + e.job % 64 * 2 ^ 42
    { x with stat := w64 (2 ^ 63 + head + n) }
  s.event (srcUnit u) code (some e.job) (w64 (w.opc + w.da * 64 + idx % 2 ^ 32 * 2 ^ 32))

/-- Post of a signal; one that fails is logged. -/
def State.wharfSignal (s : State) (u : Nat) (e : Entry) (d : Nat) (err : Bool) : State :=
  match (s.unit u).sem d e.job with
  | none => s
  | some (va, v) =>
    match s.postHome [.unit u] e.job va v err with
    | (s, .ok _) => s
    | (s, .error c) =>
      let w := CW.ofWord e.word.toNat
      s.event (srcUnit u) (wharfCode c) (some e.job) (w64 (w.opc + w.da * 64))

/-- Parts of a unit's SPLIT that has its partial handed in and waits for the others (R317): its DC's row receives poison, and the
partials are dropped (R311). -/
def State.splitLost (s : State) (c : WC) (dc : Nat) : State :=
  let x := s.unit c.u
  let d := x.desc dc
  let gone := fun k : Nat => c.man.any fun id => k / 256 == (x.ring.filter fun e => e.man == c.man).length + 2 ^ 24 * id
  (s.modUnit c.u fun y => { y with parts := y.parts.filter fun p => !gone p.1 }).wharfPoison c (d.rowVa 0) d.rowBytes

/-- Work on the ring slot that a LOCAL destination names. -/
def State.modWharfSlot (s : State) (c : WC) (d : DV) (f : Nat → Slot → Slot) : State :=
  match s.pusher c with
  | none => s
  | some b => s.modCtxAt b fun x => x.modRing (d.route - 16) fun r =>
      match r.holding d.base with
      | some i => r.modSlot i (f (r.addr i))
      | none => r

/-- Whether the slot that holds a LOCAL destination's address can take this command as its publishing copy (R306). -/
def State.publishes (s : State) (c : WC) (d : DV) : Bool :=
  d.loc && decide (16 ≤ d.route) && (match s.pusher c with
    | none => false
    | some b => (((s.ctxAt b).ring (d.route - 16)).publishable d.base).isSome)

/-- From its start a command counts as a publishing copy for the slots of its LOCAL destinations `dst`, as each is found filling;
so does one that is refused for its descriptor's other fields, whose failure then marks the slot (R306). -/
def State.wharfStart (s : State) (c : WC) (dst : List Nat) : State :=
  let x := s.unit c.u
  let mine := x.claims.getD []
  let ds := (dst.map x.desc).filter fun d => !mine.contains d.n && s.publishes c d
  let s := ds.foldl (fun s d => s.modWharfSlot c d fun _ y => { y with pub := true }) s
  s.modUnit c.u fun x => { x with claims := some (mine ++ ds.map DV.n) }

/-- The ring slots that a command publishes become full, with a failure mark for a nonzero status (R306). -/
def State.wharfSlots (s : State) (c : WC) (code : Nat) : State :=
  let x := s.unit c.u
  ((x.claims.getD []).map x.desc).foldl (fun s d => s.modWharfSlot c d fun a y =>
    { y with st := .full, pub := false, fail := if code = 0 then none else some ⟨code, w64 a, 0, s.nextId⟩ }) s

/-- The end of the command at the head of a unit's ring: status, signal, removal. -/
def State.wharfFinish (s : State) (u : Nat) (e : Entry) (post : Option Nat) (code idx : Nat) : State :=
  let c : WC := ⟨u, e.job, e.by_, e.man⟩
  let s := if code = 0 then s else
    (if (s.unit u).phase = .split then s.splitLost c (CW.ofWord e.word.toNat).dc else s).wharfError u code e idx
  let s := s.wharfSlots c code
  let s := match post with | some d => s.wharfSignal u e d (code != 0) | none => s
  let s := s.modUnit u fun x => { x with ring := x.ring.tail, done := (x.done + 1) % 65536, phase := .fresh, since := none, claims := none }
  match e.man with
  | none => s
  | some id => s.modMan id fun m =>
    { m with
      wcode := if code = 0 ∨ m.wcode.any (fun p => p.1 == u) then m.wcode else Tab.insert m.wcode u code
      units := if e.last then m.units.filter (· != u) else m.units }

/-- Longest wait of a command, in steps of the device counter (R310). -/
def State.wharfLimit (s : State) : Nat := Nat.max 1 (bf s.wtimeout 0 32) * 1024

/-- A wait on a semaphore (R309): satisfied, a status, or not yet. -/
inductive WWait where
  | ok (s : State)
  | fail (s : State) (code : Nat)
  | wait (s : State)

/-- Test a semaphore; the time of the wait counts from its first test. -/
def State.wharfWait (s : State) (u job va v : Nat) (cond : SCond) (sub : Bool) : WWait :=
  match s.pollHome [.unit u] job va v sub with
  | (s, .error c) => .fail s (wharfCode c)
  | (s, .ok w) =>
    if bt w 63 then .fail s fcWharfSemerr
    else if semHolds cond (bf w 0 63) v then .ok s
    else
      let x := s.unit u
      match x.since with
      | none => .wait (s.modUnit u fun x => { x with since := some s.time })
      | some t => if t + s.wharfLimit ≤ s.time then .fail s fcWharfTimeout else .wait s

/-- The wait of a command word (R302, R309). -/
def State.wordWait (s : State) (u job : Nat) (x : WX) : WWait :=
  if x.wcond = .none ∨ (s.unit u).phase ≠ .fresh then .ok s
  else match (s.unit u).sem x.wdesc job with
    | none => .fail s ((s.unit u).semCode x.wdesc job)
    | some (va, v) =>
      match s.wharfWait u job va v (if x.wcond = .eq then .eq else .geu) (x.wcond == .sub) with
      | .ok s => .ok (s.modUnit u fun y => { y with phase := .waited, since := none })
      | r => r

/-- One turn of a unit: the wait, the checks, the form, the end (R309). `dst` names the destinations whose ring slots a LOCAL command
fills. -/
def wharf (x : WX) (dst : List Nat) (chks : State → WC → List (Bool × Nat)) (form : WC → State → WRes) (s : State) : Out :=
  let u := s.wcur
  match (s.unit u).ring with
  | [] => .next s.wharfNext
  | e :: _ =>
    let c : WC := ⟨u, e.job, e.by_, e.man⟩
    let post := if x.post then some x.sdesc else none
    let s := s.wharfStart c dst
    let fin := fun (s : State) (code idx : Nat) => .next (s.wharfFinish u e post code idx).wharfNext
    -- every entry of a stopped unit's ring completes with WHARF.CHANNEL (R298, R329)
    if (s.unit u).stop then fin s fcWharfChannel 0
    else match s.wordWait u e.job x with
    | .wait s => .next s.wharfNext
    | .fail s code => fin s code 0
    | .ok s =>
      match wchecks ((x.post && ((s.unit u).sem x.sdesc e.job).isNone, (s.unit u).semCode x.sdesc e.job) :: chks s c) with
      | some code => fin s code 0
      | none => match form c s with
        | .done s => fin s 0 0
        | .fail s code idx => fin s code idx
        | .wait s => .next s.wharfNext

/-- The SIGNAL of a word, as its fields say. -/
def Entry.post (e : Entry) : Option Nat := let w := CW.ofWord e.word.toNat; if w.skind = 1 then some w.sdesc else none

/-- The end of an illegal word at the head of the current unit: no wait and no access (R303); a stopped unit's entries end with
WHARF.CHANNEL (R298). -/
def State.wharfIllegal (s : State) : Out :=
  let u := s.wcur
  match (s.unit u).ring with
  | [] => .next s.wharfNext
  | e :: _ => .next (s.wharfFinish u e e.post (if (s.unit u).stop then fcWharfChannel else fcWharfIllegal) 0).wharfNext

/-- Descriptors of a form by number. -/
def State.wd (s : State) (c : WC) (n : Nat) : DV := (s.unit c.u).desc n

-- forms that wait, post and set ------------------------------------------------------------------------------------------------------------------

def execNopw (x : WX) (s : State) : Out := wharf x [] (fun _ _ => []) (fun _ s => .done s) s

/-- SETD (R307): it carries no wait and no signal. -/
def execSetd (x : WX) (d w v : Nat) (s : State) : Out :=
  wharf x [] (fun _ _ => [])
    (fun c s => .done (s.modUnit c.u fun y =>
      { y with descs := Tab.upd Desc.zero y.descs d fun z => ⟨Tab.set 0 z.w w (BitVec.ofNat 32 v), c.job⟩ })) s

/-- Check of a semaphore descriptor. -/
def semCheck (da : Nat) (s : State) (c : WC) : List (Bool × Nat) := [(((s.unit c.u).sem da c.job).isNone, (s.unit c.u).semCode da c.job)]

/-- The wait that a form makes. -/
def formWait (c : WC) (da : Nat) (cond : SCond) (sub : Bool) (s : State) : WRes :=
  match (s.unit c.u).sem da c.job with
  | none => .fail s ((s.unit c.u).semCode da c.job) 0
  | some (va, v) => match s.wharfWait c.u c.job va v cond sub with
    | .ok s => .done s
    | .fail s code => .fail s code 0
    | .wait s => .wait (s.modUnit c.u fun y => if y.phase = .fresh then { y with phase := .waited } else y)

def execWharfSemwait (x : WX) (da : Nat) (cond : SCond) (sub : Bool) (s : State) : Out :=
  wharf x [] (semCheck da) (fun c s => formWait c da cond sub s) s

def execWharfSempost (x : WX) (da : Nat) (err : Bool) (s : State) : Out :=
  wharf x [] (semCheck da)
    (fun c s => match (s.unit c.u).sem da c.job with
      | none => .fail s fcWharfDesc 0
      | some (va, v) => match s.postHome [.unit c.u] c.job va v err with
        | (s, .ok _) => .done s
        | (s, .error e) => .fail s (wharfCode e) 0) s

/-- BARRIER: COUNT += 1 once, then the wait. -/
def execBarrier (x : WX) (da : Nat) (s : State) : Out :=
  wharf x [] (semCheck da)
    (fun c s =>
      if (s.unit c.u).phase = .added then formWait c da .geu false s
      else match (s.unit c.u).sem da c.job with
        | none => .fail s fcWharfDesc 0
        | some (va, _) => match s.postHome [.unit c.u] c.job va 1 false with
          | (s, .error e) => .fail s (wharfCode e) 0
          | (s, .ok _) => formWait c da .geu false (s.modUnit c.u fun y => { y with phase := .added, since := none })) s

-- forms that move rows (R314, R315) ------------------------------------------------------------------------------------------------------------------

/-- Whether the rows listed of a destination cover a granule of its addresses. -/
def DV.covers (d : DV) (rows : List Nat) (g : Nat) : Bool :=
  (List.range 64).all fun i => rows.any fun r => let a := d.rowVa r; decide (a ≤ 64 * g + i ∧ 64 * g + i < a + d.rowBytes)

/-- A row has been written after those listed: the granules that the rows now cover whole are written as one write each (R315). -/
def State.rowWhole (s : State) (c : WC) (d : DV) (rows : List Nat) (r : Nat) : State :=
  if d.loc then s
  else (granules (d.rowVa r) d.rowBytes).foldl (fun s g => match s.translate c.job (64 * g) (some .write) with
    | .ok (.hbm pa _) => if s.dead (pa / 64) && d.covers rows g then s.coverGranule (pa / 64) else s
    | _ => s) s

/-- Rows written, in ranges that do not touch: one arrival for each (R315, spec/01 R28). -/
def State.rowsCame (s : State) (c : WC) (d : DV) (rows : List Nat) : State :=
  (rows.foldl (fun l r => joinRun (d.place r 0, d.rowBytes) l) []).foldl (fun s x => s.came c d x.1 x.2) s

/-- Move rows i, i + 1, ...: `dest` gives the row of the destination, `src` its bytes; `rows` are those already written. A row whose
source fails leaves poison (R311). -/
def moveRows (c : WC) (d : DV) (dest : Nat → State → WR Nat) (src : Nat → State → WR (List Byte)) : Nat → Nat → List Nat → State → WRes
  | 0, _, rows, s => .done (s.rowsCame c d rows)
  | n + 1, i, rows, s =>
    match dest i s with
    | .err s e _ => .fail (s.rowsCame c d rows) e i
    | .ok s r => match src i s with
      | .err s e _ => .fail ((if d.loc then s else s.wharfPoison c (d.rowVa r) d.rowBytes).rowsCame c d rows) e i
      | .ok s bs => match s.putRow c d r 0 bs with
        | .err s e _ => .fail (s.rowsCame c d rows) e i
        | .ok s _ => moveRows c d dest src n (i + 1) (r :: rows) (s.rowWhole c d (r :: rows) r)

/-- Row i goes to row i. -/
def sameRow (i : Nat) (s : State) : WR Nat := .ok s i

def execFill (x : WX) (da db : Nat) (s : State) : Out :=
  wharf x [] (fun s c => s.descChecks c [(s.wd c da, false), (s.wd c db, false)])
    (fun c s =>
      let d := s.wd c da
      let k := (s.wd c db).const
      let v := if d.ety = 5 then ofSigned 64 (toSigned 32 k) else k % 2 ^ (8 * d.size)
      forIdx (fun i s => s.putAt c d i 0 (elemBytes d.size (List.replicate d.len v))) d.count 0 s) s

def execCopyc (x : WX) (da db : Nat) (s : State) : Out :=
  wharf x [db] (fun s c =>
      let a := s.wd c da
      let b := s.wd c db
      s.descChecks c [(a, false), (b, true)] ++ [(!a.matches b, fcWharfDesc), (decide (b.count < a.count), fcWharfBound)])
    (fun c s =>
      let a := s.wd c da
      let b := s.wd c db
      moveRows c b sameRow (fun i s => s.wharfRead c false (a.rowVa i) a.rowBytes) a.count 0 [] s) s

/-- Conversion of one element (R315). -/
def convElem (a b : DV) (rm : RM) (sat : Bool) (x : Nat) : Nat :=
  if a.flt then
    if b.flt then (etFF b.ety).encode rm sat 0 0 (a.val x) else satInt rm (b.ety == 3) 32 0 0 (a.val x)
  else
    let v : Int := if a.ety = 3 then toSigned 32 x else (x : Int)
    if b.flt then (etFF b.ety).encode rm false 0 0 (FV.ofInt v)
    else if b.ety = 3 then ofSigned 32 (clampI (-(2 ^ 31)) (2 ^ 31 - 1) v) else ofSigned 32 (clampI 0 (2 ^ 32 - 1) v)

def execConvert (x : WX) (da db : Nat) (rm : RM) (sat : Bool) (s : State) : Out :=
  wharf x [db] (fun s c =>
      let a := s.wd c da
      let b := s.wd c db
      s.descChecks c [(a, false), (b, true)]
        ++ [(decide (4 < a.ety ∨ 4 < b.ety), fcWharfDesc), (a.elems != b.elems, fcWharfBound)])
    (fun c s =>
      let a := s.wd c da
      let b := s.wd c db
      moveRows c b sameRow (fun i s =>
        (s.spanElems c a (b.len + 1) (i * b.len) b.len).andThen fun s l =>
          .ok s (elemBytes b.size (l.map (convElem a b rm sat)))) b.count 0 [] s) s

/-- The padding index. -/
def padIdx : Nat := 0xFFFFFFFF

/-- Index i of a list. -/
def State.wharfIdx (s : State) (c : WC) (d : DV) (i : Nat) : WR Nat :=
  (s.wharfRead c false (d.rowVa i) 4).andThen fun s bs => .ok s (leValue bs)

def execGather (x : WX) (da db dc : Nat) (pad : Bool) (s : State) : Out :=
  wharf x [dc] (fun s c =>
      let a := s.wd c da
      let b := s.wd c db
      let d := s.wd c dc
      s.descChecks c [(a, false), (b, false), (d, true)]
        ++ [(!b.list || !d.matches a, fcWharfDesc), (decide (d.count < b.count), fcWharfBound)])
    (fun c s =>
      let a := s.wd c da
      let b := s.wd c db
      let d := s.wd c dc
      moveRows c d sameRow (fun i s =>
        (s.wharfIdx c b i).andThen fun s k =>
          if pad ∧ k = padIdx then .ok s (List.replicate d.rowBytes 0)
          else if a.count ≤ k then .err s fcWharfBound 0
          else s.wharfRead c true (a.rowVa k) a.rowBytes) b.count 0 [] s) s

def execScatter (x : WX) (da db dc : Nat) (s : State) : Out :=
  wharf x [] (fun s c =>
      let a := s.wd c da
      let b := s.wd c db
      let d := s.wd c dc
      s.descChecks c [(a, false), (b, false), (d, false)]
        ++ [(!b.list || !d.matches a, fcWharfDesc), (decide (d.count < b.count), fcWharfBound)])
    (fun c s =>
      let a := s.wd c da
      let b := s.wd c db
      let d := s.wd c dc
      moveRows c a
        (fun i s => (s.wharfIdx c b i).andThen fun s k => if a.count ≤ k then .err s fcWharfBound 0 else .ok s k)
        (fun i s => s.wharfRead c false (d.rowVa i) d.rowBytes) b.count 0 [] s) s

-- POOL (R316, R317) ----------------------------------------------------------------------------------------------------------------------------------

/-- Channel of a row that lies in a tier-01 page. -/
def State.rowChan (s : State) (job va : Nat) : Option Nat :=
  match s.translate job va none with
  | .ok (.hbm _ ch) => ch
  | _ => none

/-- acc + w × v with one rounding; the accumulator is the sum's first operand, so that its NaN prevails (R316, spec/07 R103). -/
def accTerm (acc w v : FV) : FV := if acc.isNan then r32 acc else r32 (FV.fma .rne w v acc)

/-- Add the listed rows to an accumulator row, in list order. `mine` picks the rows that a unit of a SPLIT adds. -/
def State.poolRows (s : State) (c : WC) (a b w : DV) (weighted pad : Bool) (mine : Option (List Nat)) :
    Nat → Nat → List FV → WR (List FV)
  | 0, _, acc => .ok s acc
  | n + 1, i, acc =>
    ((s.wharfIdx c b i).at_ i).andThen fun s k =>
      if pad ∧ k = padIdx then s.poolRows c a b w weighted pad mine n (i + 1) acc
      else if a.count ≤ k then .err s fcWharfBound i
      else
        let ch := s.rowChan c.job (a.rowVa k)
        let other : Bool := match mine, ch with
          | some us, some h => us.contains h && h != c.u
          | _, _ => false
        let stray : Bool := match mine, ch with
          | some us, some h => !us.contains h
          | _, _ => false
        -- a row of another unit of the set is that unit's; one of no unit is the leader's to refuse
        if other then s.poolRows c a b w weighted pad mine n (i + 1) acc
        else if stray then
          (if (mine.getD []).head? = some c.u then .err s fcWharfBound i else s.poolRows c a b w weighted pad mine n (i + 1) acc)
        else
          ((s.rowElems c true a k).at_ i).andThen fun s l =>
            if weighted then
              ((s.spanElems c w 2 i 1).at_ i).andThen fun s ws =>
                let wv := w.val (ws.headD 0)
                s.poolRows c a b w weighted pad mine n (i + 1) ((acc.zip l).map fun (x, v) => accTerm x wv (a.val v))
            else s.poolRows c a b w weighted pad mine n (i + 1) ((acc.zip l).map fun (x, v) => r32 (FV.add .rne x (a.val v)))

/-- Indices of a list that are not padded. -/
def State.poolCount (s : State) (c : WC) (b : DV) (pad : Bool) : WR Nat :=
  (s.allElems c b b.count).andThen fun s l => .ok s (l.filter fun k => !(pad && k == padIdx)).length

/-- Quotient of an FP32 sum by a count, with one rounding. -/
def divCount (x : FV) (n : Nat) : FV :=
  match x with
  | .fin neg m e =>
    -- 64 more bits of quotient, and whether a remainder is left
    let q := m * 2 ^ 64 / n
    r32 (sticky neg q (e - 64) (m * 2 ^ 64 % n != 0))
  | v => v

/-- The row of a POOL from its accumulators. -/
def poolRow (d : DV) (mean : Bool) (n : Nat) (acc : List FV) : List Byte :=
  elemBytes d.size (acc.map fun x => d.round (if mean ∧ 0 < n then divCount x n else x))

/-- Key of a unit's partial for the command that it executes. -/
def partKey (u pos id : Nat) : Nat := u + 256 * (pos + 2 ^ 24 * id)

/-- Sum of partials: within a stack by unit, then the stacks (spec/07 R117). -/
def sumParts (parts : List (Nat × List FV)) : List FV :=
  let add := fun (x y : List FV) => (x.zip y).map fun (a, b) => r32 (FV.add .rne a b)
  let sum := fun (l : List (List FV)) => match l with | [] => [] | r :: rs => rs.foldl add r
  let perStack := (List.range 8).map fun k => sum ((parts.filter fun p => p.1 / 32 == k).map Prod.snd)
  sum (perStack.filter fun r => !r.isEmpty)

/-- POOL with SPLIT (R317). -/
def poolSplit (c : WC) (a b w d : DV) (mode : PoolMode) (pad : Bool) (s : State) : WRes :=
  match c.man.bind s.man with
  | none => .fail s fcWharfIllegal 0
  | some m =>
    let us := m.unitSet
    let lead := us.headD 0
    let pos := ((s.unit c.u).ring.filter fun e => e.man == c.man).length
    let key := fun u => partKey u pos m.id
    let hand := fun (s : State) (k : Nat) (acc : List FV) =>
      s.modUnit lead fun y => { y with parts := y.parts ++ [(key k, acc.map fun v => BitVec.ofNat 32 (FF.fp32.rne v), 0)] }
    let run := s.poolRows c a b w (mode == .weighted) pad (some us) b.count 0 (List.replicate a.len (.zero false))
    if c.u ≠ lead then
      match run with
      | .err s e i => .fail s e i
      | .ok s acc => .done (hand s c.u acc)
    else
      let begin := if (s.unit c.u).phase = .split then WR.ok s () else run.andThen fun s acc =>
        .ok ((hand s c.u acc).modUnit c.u fun y => { y with phase := .split, since := some s.time }) ()
      match begin with
      | .err s e i => .fail (if d.loc then s else s.wharfPoison c (d.rowVa 0) d.rowBytes) e i
      | .ok s _ =>
        let x := s.unit c.u
        let got := us.filterMap fun u => (x.parts.find? fun p => p.1 == key u).map fun p => (u, p.2.1.map fun v => FF.fp32.decode v.toNat)
        let drop := fun s : State => s.modUnit c.u fun y => { y with parts := y.parts.filter fun p => !(us.any fun u => p.1 == key u) }
        if got.length = us.length then
          match ((s.poolCount c b pad).andThen fun s n => .ok s (poolRow d (mode == .mean) n (sumParts got))).put c d 0 0 d.rowBytes with
          | .ok s _ => .done (drop s)
          | .err s e i => .fail s e i
        else match x.since with
          | some t => if t + s.wharfLimit ≤ s.time then .fail s fcWharfTimeout 0 else .wait s
          | none => .wait s

/-- POOL; with SPLIT from WHPUSH it is illegal, with no wait and no access (R303, R317). -/
def execPool (x : WX) (da db dc dd : Nat) (mode : PoolMode) (split pad : Bool) (s : State) : Out :=
  if split && (s.unit s.wcur).ring.head?.any (fun e => e.man.isNone) then s.wharfIllegal
  else wharf x [dc] (fun s c =>
      let a := s.wd c da
      let b := s.wd c db
      let d := s.wd c dc
      let w := s.wd c dd
      let wt := mode == .weighted
      s.descChecks c ([(a, false), (b, false), (d, !split)] ++ if wt then [(w, false)] else [])
        ++ [(!b.list || !a.flt || !d.flt || d.len != a.len || (wt && w.ety != 0), fcWharfDesc),
          (d.count == 0 || (wt && decide (w.elems < b.count)), fcWharfBound)])
    (fun c s =>
      let a := s.wd c da
      let b := s.wd c db
      let d := s.wd c dc
      let w := s.wd c dd
      if split then poolSplit c a b w d mode pad s
      else
        (((s.poolRows c a b w (mode == .weighted) pad none b.count 0 (List.replicate a.len (.zero false))).andThen fun s acc =>
          (s.poolCount c b pad).andThen fun s n => .ok s (poolRow d (mode == .mean) n acc)).put c d 0 0 d.rowBytes).res) s

-- arithmetic (R314, R318) -----------------------------------------------------------------------------------------------------------------------------

def execAxpy (x : WX) (da db dc : Nat) (s : State) : Out :=
  wharf x [] (fun s c =>
      let a := s.wd c da
      let b := s.wd c db
      s.descChecks c [(a, false), (b, false), (s.wd c dc, false)]
        ++ [(!a.flt || !a.matches b, fcWharfDesc), (decide (b.count < a.count), fcWharfBound)])
    (fun c s =>
      let a := s.wd c da
      let b := s.wd c db
      let al := FF.fp32.decode (s.wd c dc).const
      forIdx (fun i s =>
        ((s.rowElems c false a i).andThen fun s xs => (s.rowElems c false b i).andThen fun s ys =>
          .ok s (elemBytes b.size ((xs.zip ys).map fun (p, q) => b.round (FV.fma .rne al (a.val p) (b.val q))))).put c b i 0 b.rowBytes)
        a.count 0 s) s

def execScale (x : WX) (da db : Nat) (s : State) : Out :=
  wharf x [] (fun s c =>
      let a := s.wd c da
      s.descChecks c [(a, false), (s.wd c db, false)] ++ [(!a.flt, fcWharfDesc)])
    (fun c s =>
      let a := s.wd c da
      let k := FF.fp32.decode (s.wd c db).const
      forIdx (fun i s =>
        ((s.rowElems c false a i).andThen fun s xs =>
          .ok s (elemBytes a.size (xs.map fun p => a.round (FV.mul (a.val p) k)))).put c a i 0 a.rowBytes) a.count 0 s) s

/-- Combine two elements under a kind of REDUCE: FP32 codes, or 32-bit integers. -/
def redStep (kind : RedOp) (ety : Nat) (p q : Nat) : Nat :=
  let x := FF.fp32.decode p
  let y := FF.fp32.decode q
  let sg := ety == 3
  let less := fun a b : Nat => if sg then decide (toSigned 32 a < toSigned 32 b) else decide (a < b)
  match kind with
  | .sum => if ety < 3 then FF.fp32.rne (FV.add .rne x y) else (p + q) % 2 ^ 32
  | .max => if ety < 3 then FF.fp32.rne (FV.max x y) else if less p q then q else p
  | .min => if ety < 3 then FF.fp32.rne (FV.min x y) else if less q p then q else p

/-- An element widened to an FP32 code, or left as an integer. -/
def DV.widen (d : DV) (x : Nat) : Nat := if d.flt then FF.fp32.rne (d.val x) else x
/-- And back into a descriptor's type. -/
def DV.narrow (d : DV) (x : Nat) : Nat := if d.flt then d.round (FF.fp32.decode x) else x

/-- Rows combined in order. -/
def State.redRows (s : State) (c : WC) (a : DV) (kind : RedOp) : Nat → Nat → Option (List Nat) → WR (Option (List Nat))
  | 0, _, acc => .ok s acc
  | n + 1, i, acc =>
    ((s.rowElems c false a i).at_ i).andThen fun s l =>
      let l := l.map a.widen
      s.redRows c a kind n (i + 1) (some (match acc with
        | none => l
        | some r => (r.zip l).map fun (p, q) => redStep kind a.ety p q))

/-- REDUCE; under ACC the old value of a LOCAL destination is that of the pusher's scratchpad (log entry 107). Of no row and without ACC
the result is not stated, and every element is a free value (log entry 8). -/
def execReduce (x : WX) (da db : Nat) (kind : RedOp) (acc : Bool) (s : State) : Out :=
  wharf x [db] (fun s c =>
      let a := s.wd c da
      let d := s.wd c db
      s.descChecks c [(a, false), (d, true)]
        ++ [(!((a.flt && d.flt) || (a.int && a.ety == d.ety)), fcWharfDesc),
          (d.len != a.len || d.count == 0, fcWharfBound)])
    (fun c s =>
      let a := s.wd c da
      let d := s.wd c db
      let first := if acc then (s.oldRead c d 0 0 d.rowBytes).andThen fun s bs => .ok s (some ((byteElems d.size bs).map d.widen)) else .ok s none
      ((first.andThen fun s l => (s.redRows c a kind a.count 0 l).andThen fun s r =>
        match r with
        | some l => .ok s (elemBytes d.size (l.map d.narrow))
        | none =>
          .ok { s with free := s.free + 1 }
            (elemBytes d.size ((List.range d.len).map fun i => bf (Config.freeWord (s.free + i * 2 ^ 64)) 0 (8 * d.size)))).put c d 0 0 d.rowBytes).res) s

/-- Dot product of element lists (R318, spec/07 R117): 64 lanes, fused, then the tree. Of several NaN among a, b and the lane's sum, the
first in that order prevails (DESIGN CHOICE, log entry 116). -/
def dotOf (ps : List (FV × FV)) : FV :=
  let lanes := (List.range 64).map fun l =>
    ((List.range ps.length).zip ps).foldl (fun acc (i, p) => if i % 64 = l then r32 (FV.fma .rne p.1 p.2 acc) else acc) (FV.zero false)
  FF.fp32.decode (treeGo (fun p q => FF.fp32.rne (FV.add .rne (FF.fp32.decode p) (FF.fp32.decode q))) 7 (lanes.map FF.fp32.rne))

def execDot (x : WX) (da db dc : Nat) (s : State) : Out :=
  wharf x [dc] (fun s c =>
      let a := s.wd c da
      let b := s.wd c db
      let d := s.wd c dc
      s.descChecks c [(a, false), (b, false), (d, true)]
        ++ [(!a.flt || !b.flt || !d.flt, fcWharfDesc), (a.elems != b.elems || d.count == 0, fcWharfBound)])
    (fun c s =>
      let a := s.wd c da
      let b := s.wd c db
      let d := s.wd c dc
      (((s.allElems c a a.elems).andThen fun s xs => (s.allElems c b b.elems).andThen fun s ys =>
        .ok s (elemBytes d.size [d.round (dotOf ((xs.map a.val).zip (ys.map b.val)))])).put c d 0 0 d.size).res) s

def execNorm2 (x : WX) (da db : Nat) (sq : Bool) (s : State) : Out :=
  wharf x [db] (fun s c =>
      let a := s.wd c da
      let d := s.wd c db
      s.descChecks c [(a, false), (d, true)] ++ [(!a.flt || !d.flt, fcWharfDesc), (d.count == 0, fcWharfBound)])
    (fun c s =>
      let a := s.wd c da
      let d := s.wd c db
      (((s.allElems c a a.elems).andThen fun s xs =>
        let v := dotOf ((xs.map a.val).zip (xs.map a.val))
        .ok s (elemBytes d.size [d.round (if sq then v else r32 v.sqrt)])).put c d 0 0 d.size).res) s

def execGemv (x : WX) (da db dc : Nat) (acc : Bool) (s : State) : Out :=
  wharf x [dc] (fun s c =>
      let a := s.wd c da
      let b := s.wd c db
      let d := s.wd c dc
      s.descChecks c [(a, false), (b, false), (d, true)]
        ++ [(!a.flt || !b.flt || !d.flt, fcWharfDesc), (decide (b.elems ≠ a.len ∨ d.elems < a.count), fcWharfBound)])
    (fun c s =>
      let a := s.wd c da
      let b := s.wd c db
      let d := s.wd c dc
      forIdx (fun i s =>
        ((s.rowElems c false a i).andThen fun s xs => (s.spanElems c b (a.len + 1) 0 a.len).andThen fun s ys =>
          let y := dotOf ((xs.map a.val).zip (ys.map b.val))
          if acc then (s.oldRead c d (i / d.len) (i % d.len * d.size) d.size).andThen fun s o =>
            .ok s (elemBytes d.size [d.round (FV.add .rne (d.val (leValue o)) y)])
          else .ok s (elemBytes d.size [d.round y])).put c d (i / d.len) (i % d.len * d.size) d.size) a.count 0 s) s

/-- One element of CLAMP, in its own type (R318). -/
def clampElem (a : DV) (lo hi x : Nat) : Nat :=
  if a.flt then
    let v := a.val x
    if v.isNan then a.round v else a.round (FV.min (FV.max v (a.val lo)) (a.val hi))
  else if a.ety = 3 then ofSigned 32 (clampI (toSigned 32 lo) (toSigned 32 hi) (toSigned 32 x))
  else Nat.min (Nat.max x lo) hi

/-- Whether the bounds of a CLAMP are refused. -/
def clampBad (a : DV) (lo hi : Nat) : Bool :=
  if a.flt then (a.val lo).isNan || (a.val hi).isNan || FV.lt (a.val hi) (a.val lo)
  else if a.ety = 3 then decide (toSigned 32 hi < toSigned 32 lo) else decide (hi < lo)

def execClamp (x : WX) (da db dc : Nat) (s : State) : Out :=
  wharf x [] (fun s c =>
      let a := s.wd c da
      let m := 2 ^ (8 * a.size)
      s.descChecks c [(a, false), (s.wd c db, false), (s.wd c dc, false)]
        ++ [(!(a.flt || a.int), fcWharfDesc), (clampBad a ((s.wd c db).const % m) ((s.wd c dc).const % m), fcWharfBound)])
    (fun c s =>
      let a := s.wd c da
      let m := 2 ^ (8 * a.size)
      let lo := (s.wd c db).const % m
      let hi := (s.wd c dc).const % m
      forIdx (fun i s =>
        ((s.rowElems c false a i).andThen fun s l => .ok s (elemBytes a.size (l.map (clampElem a lo hi)))).put c a i 0 a.rowBytes)
        a.count 0 s) s

-- atomic forms (R319) ------------------------------------------------------------------------------------------------------------------------------------

/-- Apply elements of a row to a target row, in order. -/
def State.atomRow (s : State) (c : WC) (op : AtomOp) (wide : Bool) (va : Nat) : List Nat → WR Unit
  | [] => .ok s ()
  | v :: l =>
    match s.atomHome [.unit c.u] c.job va op wide (w64 v) 0 with
    | (s, .error e) => .err s (wharfCode e) 0
    | (s, .ok _) => s.atomRow c op wide (va + atomBytes wide) l

/-- ATOMADD and ATOMMAX over an index list (R319). -/
def atomRows (x : WX) (da db dc : Nat) (op : Nat → AtomOp) (s : State) : Out :=
  wharf x [] (fun s c =>
      let a := s.wd c da
      let b := s.wd c db
      let d := s.wd c dc
      s.descChecks c [(a, false), (b, false), (d, false)]
        ++ [(!b.list || !d.matches a || !([0, 3, 4, 5].contains a.ety), fcWharfDesc), (decide (d.count < b.count), fcWharfBound)])
    (fun c s =>
      let a := s.wd c da
      let b := s.wd c db
      let d := s.wd c dc
      forIdx (fun i s =>
        (s.wharfIdx c b i).andThen fun s k =>
          if a.count ≤ k then .err s fcWharfBound 0
          else
            match (s.rowElems c false d i).andThen fun s l => s.atomRow c (op a.ety) (a.ety == 5) (a.rowVa k) l with
            | .ok s _ => .ok s ()
            -- the target granules of a row whose values or application fail receive poison (R311, log entry 20)
            | .err s e j => .err (s.wharfPoisonAs c .atomWrite (a.rowVa k) a.rowBytes) e j) b.count 0 s) s

def execAtomadd (x : WX) (da db dc : Nat) (s : State) : Out := atomRows x da db dc (fun t => if t = 0 then .fadd else .add) s
def execAtommax (x : WX) (da db dc : Nat) (min : Bool) (s : State) : Out :=
  atomRows x da db dc (fun t =>
    if t = 0 then (if min then .fmin else .fmax)
    else if t = 4 then (if min then .minu else .maxu)
    else if min then .min else .max) s

-- CRC, sorting and ranking (R320) -----------------------------------------------------------------------------------------------------------------------------

/-- One byte of CRC-32C, reflected. -/
def crcBits : Nat → BitVec 32 → BitVec 32
  | 0, c => c
  | n + 1, c => crcBits n (if c.getLsbD 0 then (c >>> 1) ^^^ 0x82F63B78#32 else c >>> 1)
def crcByte (c : BitVec 32) (b : Byte) : BitVec 32 := crcBits 8 (c ^^^ b.setWidth 32)
/-- CRC-32C: initial value and final XOR of all ones. -/
def crc32c (bs : List Byte) : BitVec 32 := ~~~(bs.foldl crcByte (BitVec.allOnes 32))

/-- Bytes of every row, in order. -/
def State.rowsBytes (s : State) (c : WC) (a : DV) : Nat → Nat → WR (List Byte)
  | 0, _ => .ok s []
  | n + 1, i => ((s.wharfRead c false (a.rowVa i) a.rowBytes).at_ i).andThen fun s x => (s.rowsBytes c a n (i + 1)).andThen fun s y => .ok s (x ++ y)

def execCrc (x : WX) (da db : Nat) (s : State) : Out :=
  wharf x [db] (fun s c =>
      let a := s.wd c da
      let d := s.wd c db
      s.descChecks c [(a, false), (d, true)] ++ [(decide (4 < a.ety) || d.ety != 4, fcWharfDesc), (d.count == 0, fcWharfBound)])
    (fun c s =>
      let a := s.wd c da
      (((s.rowsBytes c a a.count 0).andThen fun s bs => .ok s (leBytes 4 (crc32c bs).toNat)).put c (s.wd c db) 0 0 4).res) s

/-- Insert into a list sorted by key, after its equals. -/
def insertBy (x : Nat × Nat) : List (Nat × Nat) → List (Nat × Nat)
  | [] => [x]
  | y :: l => if x.1 < y.1 then x :: y :: l else y :: insertBy x l
/-- Stable ascending sort of keys with their positions. -/
def sortBy (l : List (Nat × Nat)) : List (Nat × Nat) := l.foldl (fun m x => insertBy x m) []

/-- SORTIDX (R320): DB is used under PERM alone, and is neither checked nor required to be zero without it (DESIGN CHOICE, log entry
134). -/
def execSortidx (x : WX) (da db : Nat) (perm : Bool) (s : State) : Out :=
  wharf x [] (fun s c =>
      let a := s.wd c da
      let b := s.wd c db
      s.descChecks c ([(a, false)] ++ if perm then [(b, false)] else [])
        ++ [(!a.list || (perm && b.ety != 4), fcWharfDesc), (decide (2048 < a.count) || (perm && decide (b.count < a.count)), fcWharfBound)])
    (fun c s =>
      let a := s.wd c da
      let b := s.wd c db
      let n := a.count
      ((s.allElems c a n).andThen fun s l =>
        let r := sortBy (l.zip (List.range n))
        (s.putElems c a (n + 1) 0 (r.map Prod.fst)).andThen fun s _ =>
          if perm then s.putElems c b (n + 1) 0 (r.map Prod.snd) else .ok s ()).res) s

/-- Rows of a run of equal indices, summed (spec/07 R117). -/
def sumRows (d : DV) : List (List Nat) → List Nat
  | [] => []
  | r :: rs => rs.foldl (fun a b => (a.zip b).map fun (p, q) => redStep .sum d.ety p q) r

/-- Runs of equal adjacent indices, each with its rows. -/
def runsOf : List (Nat × List Nat) → List (Nat × List (List Nat))
  | [] => []
  | (k, r) :: l => match runsOf l with
    | (k', rs) :: m => if k = k' then (k, r :: rs) :: m else (k, [r]) :: (k', rs) :: m
    | [] => [(k, [r])]

/-- Read n rows. -/
def State.readRows (s : State) (c : WC) (d : DV) : Nat → Nat → WR (List (List Nat))
  | 0, _ => .ok s []
  | n + 1, i => ((s.rowElems c false d i).at_ i).andThen fun s r => (s.readRows c d n (i + 1)).andThen fun s l => .ok s (r :: l)

def execMergedup (x : WX) (da db dc dd : Nat) (s : State) : Out :=
  wharf x [] (fun s c =>
      let a := s.wd c da
      let b := s.wd c db
      let l := s.wd c dc
      let r := s.wd c dd
      s.descChecks c [(a, false), (b, false), (l, false), (r, false)]
        ++ [(!a.list || !l.list || !(b.flt || b.int) || !r.matches b, fcWharfDesc), (decide (b.count < a.count), fcWharfBound)])
    (fun c s =>
      let a := s.wd c da
      let b := s.wd c db
      let l := s.wd c dc
      let r := s.wd c dd
      ((s.allElems c a a.count).andThen fun s ks => (s.readRows c b a.count 0).andThen fun s rows =>
        let runs := runsOf (ks.zip (rows.map fun x => x.map b.widen))
        let u := runs.length
        if l.count < u ∨ r.count < u then .err s fcWharfBound 0
        else (s.putElems c l (u + 1) 0 (runs.map Prod.fst)).andThen fun s _ =>
          (s.putElems c r (u + 1) 0 (runs.flatMap fun x => (sumRows b x.2).map r.narrow)).andThen fun s _ =>
            .ok (s.modUnit c.u fun y =>
              let set := fun (t : Tab Desc) (n : Nat) => Tab.upd Desc.zero t n fun z => { z with w := Tab.set 0 z.w 2 (BitVec.ofNat 32 u) }
              { y with descs := set (set y.descs dc) dd }) ()).res) s

/-- Ascending key of a floating-point code: NaN lowest, −0 below +0 (R320, spec/13 R195). -/
def rankKey (d : DV) (x : Nat) : Nat :=
  let n := 8 * d.size
  if (d.val x).isNan then 0 else if 2 ^ (n - 1) ≤ x then 2 ^ n - 1 - x else x + 2 ^ (n - 1)

def execTopkv (x : WX) (da db dc km1 : Nat) (s : State) : Out :=
  wharf x [db, dc] (fun s c =>
      let a := s.wd c da
      let b := s.wd c db
      let p := s.wd c dc
      s.descChecks c [(a, false), (b, true), (p, true)]
        ++ [(!a.flt || b.ety != a.ety || p.ety != 4, fcWharfDesc),
          (decide (1048576 < a.elems ∨ b.elems < km1 + 1 ∨ p.elems < km1 + 1), fcWharfBound)])
    (fun c s =>
      let a := s.wd c da
      let b := s.wd c db
      let p := s.wd c dc
      let k := km1 + 1
      let top := 2 ^ (8 * a.size)
      ((s.allElems c a a.elems).andThen fun s l =>
        let r := (sortBy ((l.map fun v => top - rankKey a v).zip (List.range l.length))).take k
        let fillN := k - r.length
        let vals := (r.map fun e => l.getD e.2 0) ++ List.replicate fillN (a.round FV.canon)
        let poss := (r.map Prod.snd) ++ List.replicate fillN 0xFFFFFFFF
        (s.putElems c b (k + 1) 0 vals).andThen fun s _ => s.putElems c p (k + 1) 0 poss).res) s

-- illegal words and timeouts (R303, R310) ---------------------------------------------------------------------------------------------------------------------

/-- ILLEGAL_COMMAND (R303): the entry at the head of the unit, when its word has no meaning. -/
def execIllegalCommand (s : State) : Out :=
  let u := s.subj.item
  let s := { s with wcur := u }
  match (s.unit u).ring with
  | [] => .next s.wharfNext
  | e :: _ => if (decodeWharf e.word.toNat).isSome then .next s else s.wharfIllegal

/-- Destinations of a command that may be LOCAL (R314). -/
def Entry.dests (e : Entry) : List Nat :=
  match decodeWharf e.word.toNat with
  | some (.copyc _ _ b) | some (.convert _ _ b _ _) | some (.reduce _ _ b _ _) | some (.norm2 _ _ b _) | some (.crc _ _ b) => [b]
  | some (.gather _ _ _ c _) | some (.pool _ _ _ c _ _ _ _) | some (.dot _ _ _ c) | some (.gemv _ _ _ c _) => [c]
  | some (.topkv _ _ b c _) => [b, c]
  | _ => []

/-- End of a command that never performs its form: its ring slots take the failure mark (R306, R310). -/
def State.wharfAbort (s : State) (u : Nat) (e : Entry) (code : Nat) : State :=
  let c : WC := ⟨u, e.job, e.by_, e.man⟩
  (s.wharfStart c e.dests).wharfFinish u e e.post code 0

/-- WHARF_WAIT_TIMEOUT (R310): the wait of the command at the head of the unit has lapsed. -/
def execWharfWaitTimeout (s : State) : Out :=
  let u := s.subj.item
  match (s.unit u).ring, (s.unit u).since with
  | e :: _, some t => if t + s.wharfLimit ≤ s.time then .next (s.wharfAbort u e fcWharfTimeout) else .next s
  | _, _ => .next s

end Sys2Proof.Machine
end

