-- ==== Sys2Proof/Machine/Dram.lean ====
section
/-! DEFINITION. The registers of the wharf units and the memory channels: control and error registers (spec/21 R298, R299), channel
failure and remap (R329), refresh (R326), patrol scrub (R330) and temperature (R331). -/

namespace Sys2Proof.Machine
open Sys2Proof

/-- An event whose DATA no rule states: a free value (log entry 8). -/
def State.eventOpen (s : State) (source code : Nat) (job : Option Nat) : State :=
  ({ s with free := s.free + 1 }).event source code job (Config.freeWord s.free)

/-- WUCTL as it reads (R298). -/
def WUnit.ctl (x : WUnit) : W64 :=
  w64 (bit x.en * 2 ^ 63 + bit x.stop * 2 ^ 62 + x.wrlog2 % 16 * 2 ^ 32 + x.ring.length % 65536 * 65536 + x.done % 65536)

/-- WUCTL_WRITE (R298). -/
def execWuctlWrite (u v : Nat) (s : State) : Out :=
  let w := w64 v
  let lg := bf w 32 4
  -- a unit that is not in service has no register to write (spec/25 R378)
  if !s.unitServed u then .next s
  else .next (s.modUnit u fun x =>
    if x.en then { x with en := bt w 63 }
    else { x with wrlog2 := lg, en := bt w 63 && decide (6 ≤ lg ∧ lg ≤ 12) })

/-- WUSTAT_WRITE (R299): ERR is cleared by writing 1. -/
def execWustatWrite (u v : Nat) (s : State) : Out :=
  if bt (w64 v) 63 then .next (s.modUnit u fun x => { x with stat := bput x.stat 63 1 0 }) else .next s

/-- CHANNEL_FAILURE (R329): both copies of a remap entry are uncorrectable. The unit stops, and the command in execution and every
entry of its ring complete with WHARF.CHANNEL. -/
def execChannelFailure (s : State) : Out :=
  let c := s.subj.item % 256
  let s := { s with remap := Tab.set (false, false) s.remap c (true, true), failedCh := insertNat c s.failedCh }
  let s := s.modUnit c fun x => { x with stop := true }
  let s := (s.unit c).ring.foldl (fun s e => s.wharfAbort c e fcWharfChannel) s
  .next (s.eventOpen (srcChannel c) fcMachChannel none)

/-- REMAP_REWRITE (R329): copy 0 or 1 of channel c's remap table, found uncorrectable, is rewritten from the other copy. -/
def execRemapRewrite (c copy : Nat) (s : State) : Out :=
  let x := Tab.get (false, false) s.remap c
  let other : Bool := if copy = 0 then x.2 else x.1
  if other then .next s
  else
    let fresh := if copy = 0 then (false, x.2) else (x.1, false)
    -- the channel offset of a remap entry has no value in R355
    let data := w64 (c % 256) ||| (Config.freeWord s.free <<< 8)
    .next (({ s with remap := Tab.set (false, false) s.remap c fresh, free := s.free + 1 }).event (srcChannel c) evMemRemap none data)

/-- REFRESH (R326): commands hold no bank between steps, so the refresh of a channel is made when it falls due. -/
def execRefresh (s : State) : Out := .next { s with postponed := Tab.set 0 s.postponed s.subj.item 0 }

/-- Granules of HBM. -/
def hbmGranules : Nat := hbmBytes / 64

/-- PATROL_SCRUB (R330): the next granule of the pass that does not count as scrubbed is read, and what is corrected is written
back. The pass ends with the last granule. -/
def execPatrolScrub (s : State) : Out :=
  let next := ((List.range (s.scrubbed.length + 1)).map (s.scrubNext + ·)).find? fun g => !s.scrubbed.contains g
  match next with
  | none => .next s
  | some g =>
    if hbmGranules ≤ g then .next { s with scrubNext := 0, scrubbed := [] }
    else
      let s := if s.chanUp (chanOf (64 * g)) then s.healOne g else s
      .next (if hbmGranules ≤ g + 1 then { s with scrubNext := 0, scrubbed := [] } else { s with scrubNext := g + 1 })

/-- TEMP_SAMPLE (R331): channel c's sensor reads t degrees. -/
def execTempSample (c t : Nat) (s : State) : Out :=
  let w := Tab.get (0 : W64) s.wtemp c
  let t := t % 256
  let was := bt w 16
  let hot : Bool := if was then decide (90 < t) else decide (95 ≤ t)
  let s := { s with wtemp := Tab.set 0 s.wtemp c (w64 (bit hot * 65536 + Nat.max (bf w 8 8) t * 256 + t)) }
  .next (if hot == was then s else s.event (srcUnit c) evHot none (w64 (bit hot + t * 256)))

/-- WTEMP_READ (R331): the register as it stands; TMAX starts again from TEMP. -/
def execWtempRead (s : State) : Out :=
  let c := s.subj.item
  let w := Tab.get (0 : W64) s.wtemp c
  .next { s with wtemp := Tab.set 0 s.wtemp c (bput w 8 8 (bf w 0 8)), reply := some (leBytes 8 w.toNat, false) }

end Sys2Proof.Machine
end

