-- ==== Sys2Proof/Machine/Fabric.lean ====
section
/-! DEFINITION. The fabric (spec/19 R265-R280, R390): its registers, links and lanes, the answers to packets, and what a device does
with every type of packet that reaches it. -/

namespace Sys2Proof.Machine
open Sys2Proof

-- events of a port (spec/23 R355) ---------------------------------------------------------------------------------------------

/-- Good lanes (R270). -/
def Port.good (x : Port) : Nat := 18 - x.bad.length
/-- Mode of a port, in the order of the table of R270: full, full with an erasure, half, half with an erasure, down. -/
def Port.mode (x : Port) : Nat :=
  let n := x.good
  if x.down ∨ n ≤ 8 then 4 else if n = 9 then 3 else if n ≤ 16 then 2 else if n = 17 then 1 else 0

/-- An event that names a port and a lane. Where no lane is at fault, the lane is 0 (DESIGN CHOICE, log entry 130). -/
def State.portEvent (s : State) (p code lane : Nat) : State :=
  s.event (srcPort p) code none (w64 (p + lane * 256 + (Config.modeCode (s.port p).mode).toNat * 65536))

/-- A FAB.CONFIG event for an ignored write: the port that it names and is logged from, and the lane, are open (log entry 8). -/
def State.configEvent (s : State) : State :=
  let v := (Config.freeWord s.free).toNat
  ({ s with free := s.free + 1 }).portEvent (v % 11) evFabConfig (v / 11 % 18)

/-- SVCLEVEL.FPORTS says which ports are up (spec/25 R378). -/
def State.syncPorts (s : State) : State :=
  let m := (List.range 11).foldl (fun n p => n + bit (s.portUp p) * 2 ^ p) 0
  { s with svc := bput s.svc 12 11 m }

-- answers (R268, R272, R279, R287) ----------------------------------------------------------------------------------------------

/-- An answer to a packet. -/
structure Ans where
  pkt    : Packet
  type   : Nat
  ack    : Bool
  status : Nat
  opA    : Nat
  opB    : Nat
  data   : List Byte
  /-- The device from which a multicast copy arrived, its parent (R279). -/
  parent : Option Nat
deriving DecidableEq, Repr

/-- An acknowledgement, or a refusal (R272). -/
def Ans.ackOf (p : Packet) (code : Nat) : Ans := ⟨p, 2, true, code, 0, 0, [], none⟩
/-- Label across a port, as PORTMAP has it. -/
def State.across (s : State) (port : Nat) : Option Nat :=
  ((List.range s.ndim).find? fun d => s.dimPort d == port).map fun d => s.label ^^^ 2 ^ d
/-- Whether a request records that this device passes a packet on, of a source party and tag (R279, R287). -/
def Req.passes (party tag : Nat) (r : Req) : Bool := (match r.who with | .pass _ => true | _ => false) && r.tag == tag && r.off == party
/-- The port at which a packet came in: the one given, or what was noted of it when it was passed on. -/
def State.cameBy (s : State) (p : Packet) (port : Nat) : Option Nat :=
  if port < 11 then some port
  else (s.reqs.find? (Req.passes (pkParty p) (pkTag p))).bind fun r => match r.who with | .pass q => some q | _ => none
/-- The same to a packet that came in at a port: the answer to a multicast copy goes back to its parent (R279), and that to a flow write
back towards the pier that emitted it (R287, log entry 65). -/
def State.ackVia (s : State) (p : Packet) (code port : Nat) : Ans :=
  { Ans.ackOf p code with parent := if pkType p = 5 ∨ pkType p = 7 then (s.cameBy p port).bind s.across else none }

/-- What the answer says to an operation. -/
def Ans.result (a : Ans) : Except Nat (List Byte) :=
  if a.status ≠ 0 then .error a.status
  else .ok (if a.type = 4 then leBytes 8 a.opA ++ leBytes 8 a.opB else a.data)

/-- One part of a multicast's combined answer: position 0 is the local delivery, position d + 1 dimension d (R279). -/
def State.mcastPart (s : State) (id pos code : Nat) : State × List Ans :=
  match s.mcasts.find? fun m => m.id == id with
  | none => (s, [])
  | some m =>
    let waits := m.waits.filter (· != pos)
    let codes := (pos, code) :: m.codes
    if waits.isEmpty then
      let bad := codes.filter fun c => c.2 != 0
      let first := bad.foldl (fun (b : Option (Nat × Nat)) c => match b with
        | some x => if c.1 < x.1 then some c else some x
        | none => some c) none
      ({ s with mcasts := s.mcasts.filter fun m => m.id != id }, [s.ackVia m.pkt ((first.map Prod.snd).getD 0) m.port])
    else
      let upd := fun m : Mcast => if m.id = id then { m with waits := waits, codes := codes } else m
      ({ s with mcasts := s.mcasts.map upd }, [])

/-- Whether a held packet can be answered. -/
def HeldPkt.ready (h : HeldPkt) : Bool := h.bufs.isEmpty && h.emits.isEmpty

/-- An emitted write has been answered: so are the held packets that waited for nothing else (R287). -/
def State.emitDone (s : State) (port id code : Nat) : State × List Ans :=
  let upd := fun h : HeldPkt => if h.emits.contains id
    then { h with emits := h.emits.filter (· != id), code := if h.code = 0 then code else h.code } else h
  let l := (s.port port).held.map upd
  (s.modPort port fun x => { x with held := l.filter fun h => !h.ready }, (l.filter HeldPkt.ready).map fun h => s.ackVia h.pkt h.code port)

/-- A remote wait of a manifest has been answered by a poll (spec/01 R8). -/
def State.hmWaited (s : State) (id off : Nat) (m : Man) (bs : List Byte) : State :=
  let target := ((m.waits[off]?).map Prod.snd).getD 0
  if off < m.nwait ∧ target ≤ leValue (bs.take 8) then s.modMan id fun m => { m with waitsOk := insertNat off m.waitsOk } else s

/-- A wait or post of a manifest has been answered (spec/01 R8), a form of its token table (offset 17, R22), or a notice (offset 18).
A refused post has no effect. -/
def State.hmAnswered (s : State) (id off : Nat) (res : Except Nat (List Byte)) : State :=
  match res, s.man id with
  | .ok bs, some m => if off = 17 then s.modMan id fun m => { m with forms := m.forms + 1 } else s.hmWaited id off m bs
  | .error e, some _ => if off = 17 then s.modMan id fun m => { m with refusal := some e } else s
  | _, none => s

/-- The home of a region has said what validation asked (spec/01 R10): `off` numbers the address among those asked about. -/
def State.lqAnswered (s : State) (q off : Nat) (res : Except Nat (List Byte)) : State :=
  let tell := fun x : HomeAns => match res with
    | .ok bs => { x with code := some 0, e0 := w64 (leValue (bs.take 8)), e1 := w64 (leValue ((bs.drop 8).take 8)) }
    | .error e => { x with code := some e }
  s.modLq q fun x => { x with seen := x.seen.mapIdx fun i y => if i = off ∧ y.code.isNone then tell y else y }

/-- The key under which an operation waits for a tag. -/
def State.tagKey (s : State) (b id tag : Nat) : Nat :=
  match ((s.ctxAt b).op id).map Op.stage with
  | some (.remote keys _) => ((keys.find? fun k => !isUio k.1 && k.1 % 65536 == tag).map Prod.fst).getD tag
  | _ => tag

/-- A request of this device has its answer. -/
def State.respond (s : State) (r : Req) (res : Except Nat (List Byte)) : State × List Ans :=
  let s := { s with reqs := s.reqs.filter (· != r) }
  let code := match res with | .error e => e | .ok _ => 0
  match r.who with
  | .op b id => (s.opAnswered b id (s.tagKey b id r.tag) res, [])
  | .mcast id dim => s.mcastPart id (dim + 1) code
  | .emit port id => s.emitDone port id code
  | .pass _ => (s, [])
  | .hm id => (s.hmAnswered id r.off res, [])
  | .lq q => (s.lqAnswered q r.off res, [])
  | .host => ({ s with hostAns := some (code, match res with | .ok bs => bytesWords 16 bs | .error _ => []) }, [])

def Waiter.isEmit : Waiter → Bool
  | .emit _ _ => true
  | _ => false
/-- Whether a wait is for a packet that keeps another requester's SRC and TAG: an emitted packet (R287), a multicast copy (R279), and
what this device passes on. -/
def Waiter.relays : Waiter → Bool
  | .emit _ _ | .mcast _ _ | .pass _ => true
  | _ => false

/-- An emitted packet that awaits its answer: an emitted packet keeps SPARTY and TAG (R287, R293), which name it. -/
def State.emission (s : State) (party tag : Nat) : Option Req := s.reqs.find? fun r => r.who.isEmit && r.tag == tag && r.off == party
/-- A multicast copy sent to a neighbour that awaits its answer: the copy keeps TAG and SPARTY, and its answer carries them (R279, log
entry 22). -/
def State.mcastReq (s : State) (child party tag : Nat) : Option Req :=
  s.reqs.find? fun r => r.tag == tag && r.off == party && (match r.who with
    | .mcast _ d => s.label ^^^ 2 ^ d == child
    | _ => false)
/-- A request of this device with a tag. -/
def State.reqOf (s : State) (tag : Nat) : Option Req := s.reqs.find? fun r => !r.who.relays && r.tag == tag

/-- Make one answer: to a pier of this device, to this device itself, or over the fabric; what it sets free to be answered. -/
def State.answerOne (s : State) (a : Ans) : State × List Ans :=
  let p := a.pkt
  match (if pkType p = 7 then s.emission (pkParty p) (pkTag p) else none) with
  | some r => s.respond r a.result
  | none =>
    if pkSrc p = s.label ∧ a.parent = none then match s.reqOf (pkTag p) with
      | some r => s.respond r a.result
      | none => (s, [])
    else
      let h := s.answerHdr p a.type a.ack a.status a.opA a.opB a.data.length
      let h := match a.parent with | some l => { h with dst := l, party := pkParty p } | none => h
      let s := if a.parent.isSome then { s with reqs := s.reqs.filter fun r => !r.passes (pkParty p) (pkTag p) } else s
      -- an answer without a route is lost
      ((s.queuePacket (mkPacket h a.data) true).getD s, [])

/-- Make answers until none is left; each sets free at most the packets held and the multicasts open. -/
def State.settle : Nat → State → List Ans → State
  | 0, s, _ => s
  | _ + 1, s, [] => s
  | f + 1, s, a :: l =>
    let x := s.answerOne a
    x.1.settle f (l ++ x.2)

/-- Answers that can be outstanding. -/
def State.answerFuel (s : State) : Nat := s.reqs.length + s.mcasts.length + s.ports.foldl (fun n p => n + p.2.held.length) 0 + 2

def State.answerAll (s : State) (l : List Ans) : State := s.settle (s.answerFuel + l.length) l
def State.answer (s : State) (a : Ans) : State := s.answerAll [a]

/-- Whether a packet is a token form (R390). -/
def pkIsToken (p : Packet) : Bool := pkType p == 3 && (pkInfo p).testBit 13
/-- Whether a packet asks for an answer. -/
def pkAsks (p : Packet) : Bool := [0, 1, 3, 5, 7].contains (pkType p)

/-- A barrier arrival of this device that is refused: the barrier is LOST here (R276). -/
def State.refuseBarrier (s : State) (p : Packet) : State :=
  match s.manByKey (pkOpA p) with
  | none => s
  | some m =>
    let l := fld (pkOpB p) 48 3
    match BarMsg.ofCode (fld (pkOpB p) 56 3) with
    | .arrive | .arriveLost =>
      let x := m.barrier l (m.inst l m.rank0) (fld (pkOpB p) 0 48)
      if x.done then s else s.barrierEnd m x true
    | _ => s

/-- A launch that is refused: the team cannot start (R277, log entry 15). -/
def State.refuseLaunch (s : State) (p : Packet) (code : Nat) : State :=
  match s.manByKey (pkOpA p) with
  | some m =>
    if m.begun || !m.awaits.contains (pkDst p) then s
    else if m.st = .placed then s.failStart m code
    -- a device that has not placed its part yet fails it then
    else if m.st = .eligible then s.modMan m.id fun m => { m with refusal := some code }
    else s
  | none => s

/-- Whether a request is a notice that awaits an answer: that a team is gone, or a handler's MBOXACK. -/
def Req.isNotice (r : Req) : Bool :=
  match r.who with
  | .hm _ => r.off == goneOff
  | .op _ _ => true
  | _ => false

/-- Refuse a packet (R268, R272): a copy of a multicast counts into the combined answer (R279); a refused barrier arrival, launch or
notice ends what waits for it here; any other packet that asks for no answer is lost. -/
def State.refuse (s : State) (p : Packet) (code : Nat) : State :=
  let own := pkSrc p == s.label
  let told := fun r : Option Req => match r with
    | some r => let x := s.respond r (.error code); x.1.answerAll x.2
    | none => s
  match s.mcastReq (pkDst p) (pkParty p) (pkTag p), pkType p with
  | some r, 5 => told (some r)
  | _, 6 => if own then s.refuseBarrier p else s
  | _, 8 => if own ∧ pkLen p ≠ 0 then s.refuseLaunch p code else s
  | _, 9 => if own then told ((s.reqOf (pkTag p)).filter Req.isNotice) else s
  | _, _ =>
    if !pkAsks p then s
    else if pkIsToken p then s.answer ⟨p, 4, false, code, 0, 0, [], none⟩
    else s.answer (s.ackVia p code selfPort)

/-- Note the port at which a multicast or a flow write came in, by which its answer goes back (R279, R287). -/
def State.notePass (s : State) (p : Packet) (port : Nat) : State :=
  if (pkType p = 5 ∨ pkType p = 7) ∧ port < 11 then
    { s with reqs := s.reqs.filter (fun r => !r.passes (pkParty p) (pkTag p)) ++ [⟨pkTag p, .pass port, some s.time, pkParty p, 0⟩] }
  else s

/-- Send a packet on, or refuse it (R266). -/
def State.forward (s : State) (p : Packet) (fresh : Bool) : State :=
  match s.queuePacket p fresh with
  | some s => s
  | none => s.refuse p fcUnreachable

-- registers (R265, R267, R268) ---------------------------------------------------------------------------------------------------------

/-- Refuse everything a port has not sent. -/
def State.dropQueue (s : State) (p : Nat) : State :=
  let l := (s.port p).outq
  l.foldl (fun s x => s.refuse x.2 fcUnreachable) (s.modPort p fun x => { x with outq := [] })

/-- Route again everything not yet sent (R268). -/
def State.reroute (s : State) : State :=
  let l := s.ports.flatMap fun e => e.2.outq
  let s := { s with ports := (s.ports.map fun e => (e.1, { e.2 with outq := [] })).filter fun e => e.2 != Port.reset }
  l.foldl (fun s x => s.forward x.2 x.1) s

/-- FABCTL_WRITE (R265). -/
def execFabctlWrite (v : Nat) (s : State) : Out :=
  let w := w64 v
  if bt s.fabctl 63 then
    if bt w 63 then .next s
    else
      let quiet := fun x : Port => { x with stamp := none, heard := none }
      let s := { s with fabctl := bput s.fabctl 63 1 0, ports := (s.ports.map fun e => (e.1, quiet e.2)).filter fun e => e.2 != Port.reset }
      .next ((List.range 11).foldl State.dropQueue s).syncPorts
  else
    let en := bt w 63 && decide (bf w 16 4 ≤ 10)
    .next ({ s with fabctl := w64 (bit en * 2 ^ 63 + bf w 16 4 * 65536 + bf w 0 10) }).syncPorts

/-- Ports of a PORTMAP value. -/
def mapPorts (v : Nat) : List Nat := (List.range 10).map fun d => fld v (4 * d) 4
def distinct : List Nat → Bool
  | [] => true
  | a :: l => (a == 15 || !l.contains a) && distinct l

/-- PORTMAP_WRITE (R267, R268). -/
def execPortmapWrite (v : Nat) (s : State) : Out :=
  let l := mapPorts (w64 v).toNat
  if l.any (fun p => decide (10 < p ∧ p < 15)) || !distinct l then .next s.configEvent
  else .next ({ s with portmap := w64 (bf (w64 v) 0 40) }).reroute

-- links (R269, R270, R296) ------------------------------------------------------------------------------------------------------------------

/-- A port goes down: queued requests are refused (R268, R270). -/
def State.portDown (s : State) (p : Nat) : State :=
  ((s.modPort p fun x => { x with down := true, stamp := none, heard := none }).dropQueue p).syncPorts

/-- The lanes in use after lanes have failed (R270). -/
def Port.lanes (x : Port) : List Nat :=
  let good := (List.range 18).filter fun l => !x.bad.contains l
  if 17 ≤ x.good then List.range 18 else if 10 ≤ x.good then good.take 10 else x.used

/-- A lane is declared failed (R270). -/
def State.failLane (s : State) (p lane : Nat) : State :=
  let x := s.port p
  if x.bad.contains lane ∨ 18 ≤ lane then s
  else
    let y := { x with bad := insertNat lane x.bad, corr := Tab.set [] x.corr lane [] }
    let y := { y with used := y.lanes }
    let y := { y with retrain := x.retrain || (y.used != x.used && y.mode != 4) }
    let s := s.modPort p fun _ => y
    let s := if y.mode = 4 then s.portDown p else s
    let s := s.portEvent p evFabLane lane
    if y.mode = x.mode then s else s.portEvent p evFabMode lane

/-- LANE_FAIL: loss of lock (R270). -/
def execLaneFail (port lane : Nat) (s : State) : Out := .next (s.failLane port lane)

/-- PORT_RETRAIN_DONE. -/
def execPortRetrainDone (s : State) : Out := .next (s.modPort s.subj.port fun x => { x with retrain := false, stamp := none })

/-- RETRY_REQUEST (R269): the frame, and those after it, go on the link again from the replay buffer; a request after eight replays of
one frame takes the port down, which names no lane (DESIGN CHOICE, log entry 130). -/
def execRetryRequest (port seq : Nat) (s : State) : Out :=
  let x := s.port port
  if !s.portUp port ∨ !(x.replay.any fun f => f.1 == seq) then .next s
  else
    let n := if x.fails.1 = seq then x.fails.2 + 1 else 1
    if 9 ≤ n then .next ((s.portDown port).portEvent port evFabMode 0)
    else .next (s.modPort port fun x => { x with fails := (seq, n), sent := seq })

/-- 32-bit words of bytes. -/
def bytesW32 (bs : List Byte) : List W32 := (chunks 4 (bs.length / 4) bs).map fun l => BitVec.ofNat 32 (leValue l)
def w32Bytes (l : List W32) : List Byte := l.flatMap fun w => leBytes 4 w.toNat

-- the column code (R269, R296): GF(2^10) with x^10 + x^3 + 1, whose element x generates the field

/-- x times an element. -/
def gfTwice (a : Nat) : Nat := if 512 ≤ a then (2 * a - 1024) ^^^ 9 else 2 * a
/-- Product of two elements, by the bits of the second. -/
def gfMul : Nat → Nat → Nat → Nat
  | 0, _, _ => 0
  | n + 1, a, b => (if b % 2 = 1 then a else 0) ^^^ gfMul n (gfTwice a) (b / 2)
def gfTimes (a b : Nat) : Nat := gfMul 10 a b
/-- x to a power. -/
def gfPow : Nat → Nat
  | 0 => 1
  | n + 1 => gfTwice (gfPow n)
/-- The power x^(k · i) of the k-th root at symbol i; exponents count modulo 1,023. -/
def rsPower (k i : Nat) : Nat := gfPow ((Config.rsFirst + k) * i % 1023)

/-- A syndrome of a column, symbol i being the coefficient of power i. -/
def rsSyndrome (k : Nat) (col : List Nat) : Nat :=
  ((List.range col.length).zip col).foldl (fun a x => a ^^^ gfTimes x.2 (rsPower k x.1)) 0
/-- The error value at a symbol that the first syndrome names. -/
def rsValue (syn i : Nat) : Nat := gfTimes syn (gfPow (1023 - Config.rsFirst * i % 1023))

/-- A column as received, decoded: the symbol of a failed lane, at `gap`, is filled as an erasure; otherwise any single symbol error is
corrected, and its place is given (R269, R270). -/
def rsDecode (gap : Option Nat) (col : List Nat) : List Nat × Option Nat :=
  match gap with
  | some i =>
    let col := col.set i 0
    (col.set i (rsValue (rsSyndrome 0 col) i), none)
  | none =>
    let a := rsSyndrome 0 col
    let b := rsSyndrome 1 col
    match (List.range col.length).find? fun i => a != 0 && gfTimes a (gfPow i) == b with
    | some i => (col.set i (col.getD i 0 ^^^ rsValue a i), some i)
    | none => (col, none)

/-- The two check symbols of a column, after its data symbols. -/
def rsEncode (data : List Nat) : List Nat :=
  let n := data.length
  -- c0 x^n + c1 x^(n+1) meets both syndromes: the second from (s1 + s0 x^n) over the difference of the powers
  let a := rsSyndrome 0 data
  let b := rsSyndrome 1 data
  let find := (List.range 1024).find? fun v => gfTimes (gfTimes v (rsPower 0 (n + 1))) (gfPow n ^^^ gfPow (n + 1)) == (gfTimes a (gfPow n) ^^^ b)
  let c1 := find.getD 0
  let c0 := rsValue (a ^^^ gfTimes c1 (rsPower 0 (n + 1))) n
  data ++ [c0, c1]

/-- The lowest-numbered symbol first, least significant bit first: the bits of symbols as bytes. -/
def symbolBits (l : List Nat) : List Bool := l.flatMap fun x => (List.range 10).map x.testBit
def bitsNat (l : List Bool) : Nat := l.foldr (fun b n => 2 * n + bit b) 0
def bitBytes (l : List Bool) : List Byte := (chunks 8 (l.length / 8) l).map fun c => BitVec.ofNat 8 (bitsNat c)
def byteBits (l : List Byte) : List Bool := l.flatMap fun b => (List.range 8).map b.toNat.testBit

/-- Columns of a frame on a port, and data symbols of a column (R269, R270, R296). -/
def Port.columns (x : Port) : Nat := if x.mode < 2 then 13 else 26
def Port.dataLanes (x : Port) : Nat := if x.mode < 2 then 16 else 8
/-- Place in a column of the failed lane, when one of the lanes in use has failed. -/
def Port.gap (x : Port) : Option Nat := x.used.findIdx? x.bad.contains

/-- A flit as the frame that a port puts on its link: 208 data symbols hold the flit and its CRC, column by column (R269). -/
def Port.frameOf (x : Port) (seq : Nat) (flit : List Byte) : Frame :=
  let bits := byteBits (flit ++ leBytes 4 (crc32c flit).toNat)
  let syms := (chunks 10 208 bits).map bitsNat
  ⟨seq, (chunks x.dataLanes x.columns syms).map rsEncode⟩

/-- The data of a frame's columns: the flit, and its CRC as received. -/
def flitOf (lanes : Nat) (cols : List (List Nat)) : List Byte × W32 :=
  let bs := bitBytes (symbolBits (cols.flatMap fun c => c.take lanes))
  (bs.take 256, BitVec.ofNat 32 (leValue (bs.drop 256)))

/-- A symbol of a lane is corrected in a column; a lane with 64 of them within 2^20 columns fails (R270). -/
def State.corrected (s : State) (p : Nat) : List (Nat × Nat) → State
  | [] => s
  | (col, lane) :: l =>
    let s := s.modPort p fun x => { x with corr := Tab.upd [] x.corr lane fun h => (col :: h).take 64 }
    let h := Tab.get [] (s.port p).corr lane
    (if h.length = 64 ∧ col - h.getLastD 0 < 2 ^ 20 then s.failLane p lane else s).corrected p l

/-- A flit is consumed; a whole packet goes to the queue, or is dropped (R271). -/
def State.takeFlit (s : State) (p : Nat) (flit : List Byte) : State :=
  let rx := (s.port p).rx ++ [flit]
  let hdr := bytesW32 (rx.headD [])
  let len := pkLen ⟨hdr, []⟩
  if len ≤ 16 ∧ rx.length ≤ len then s.modPort p fun x => { x with rx := rx }
  else
    let k : Packet := ⟨hdr, rx.tail.flatten⟩
    let s := s.modPort p fun x => { x with rx := [] }
    if pkBad k then s.portEvent p evFabDrop 0 else s.modPort p fun x => { x with inq := x.inq ++ [k] }

/-- FRAME_RECEIVE (R269): its columns are decoded, corrections are counted, and a frame whose CRC holds is consumed; otherwise it is asked
for again. -/
def execFrameReceive (port : Nat) (f : Frame) (s : State) : Out :=
  let x := s.port port
  if !s.portUp port || x.retrain then .next s
  else
    let cols := f.cols.map (rsDecode x.gap)
    let hits := ((List.range cols.length).zip cols).filterMap fun c => c.2.2.map fun i => (x.cols + c.1, x.used.getD i 0)
    let got := flitOf x.dataLanes (cols.map Prod.fst)
    let s := (s.modPort port fun x => { x with cols := x.cols + x.columns }).corrected port hits
    if f.cols.length ≠ x.columns ∨ crc32c got.1 ≠ got.2 then .next (s.modPort port fun x => { x with asks := x.asks ++ [f.seq] })
    -- a frame out of order waits for its replay
    else if f.seq ≠ x.rxSeq then .next s
    else .next ((s.modPort port fun x => { x with rxSeq := x.rxSeq + 1 }).takeFlit port got.1)

-- kernels and packets (R284) -----------------------------------------------------------------------------------------------------------------

/-- Whether a kernel takes a packet. -/
def Kernel.takes (k : Kernel) (p : Packet) : Bool :=
  let t := pkType p
  ((t == 0 && k.types.testBit 0) || (t == 5 && k.types.testBit 1) || (t == 7 && k.types.testBit 2))
    && pkJob p == k.job && decide (k.abase ≤ pkAddr p ∧ pkAddr p < k.abase + 2 ^ k.alog2)
/-- Slot of the kernel of a port and direction that takes a packet. -/
def State.slotFor (s : State) (port : Nat) (out : Bool) (p : Packet) : Option Nat :=
  ((s.port port).slots.find? fun e => match e.2 with
    | some k => k.out == out && k.takes p
    | none => false).map Prod.fst

/-- Packets that a port's slots of a direction have taken and not let go. -/
def Port.taken (x : Port) (out : Bool) : List (Nat × Packet) :=
  let running := x.runs.filterMap fun e => e.2.map fun r => (e.1, r)
  ((running ++ x.bufs.flatMap fun e => e.2.map fun r => (e.1, r)).filter fun e => e.2.kern.out == out).map fun e => (e.1, e.2.orig)

/-- The packets of a queue that no earlier one of their flow is before, in the queue or in `held` (R273). -/
def flowHeads (held : List Packet) : List Packet → List Packet
  | [] => []
  | p :: l => if held.any (sameFlow p) then flowHeads held l else p :: flowHeads (p :: held) l

/-- The packets of a port's queue that can be acted on: a packet that waits, for a slot or for its home, holds back only its flow (R273,
R285). -/
def State.heads (s : State) (port : Nat) : List Packet :=
  let x := s.port port
  let slow := (x.taken false).map Prod.snd ++ (if port < 11 then (s.port selfPort).inq else [])
  (flowHeads slow x.inq).filter fun p => !(decide (port < 11) && (s.slotFor port false p).isSome)
def State.dropHead (s : State) (port : Nat) (p : Packet) : State := s.modPort port fun x => { x with inq := x.inq.erase p }

/-- The time of a request counts from when its packet enters the link (R268). -/
def State.markSent (s : State) (p : Packet) : State :=
  let mine := fun r : Req => r.tag == pkTag p && (match r.who with
    | .mcast _ d => pkType p == 5 && s.label ^^^ 2 ^ d == pkDst p && r.off == pkParty p
    | .emit _ _ => pkType p == 7 && r.off == pkParty p
    | .pass _ => false
    | _ => pkSrc p == s.label && (pkAsks p || pkType p == 9))
  { s with reqs := s.reqs.map fun r => if mine r then { r with since := some s.time } else r }

/-- The packet of a port's queue that enters the link next: a packet that waits for a slot holds back only its flow, of its channel (R272,
R273, R285). -/
def State.nextOut (s : State) (port : Nat) : Option (Bool × Packet) :=
  let x := s.port port
  let free := flowHeads ((x.taken true).map Prod.snd) (x.outq.map Prod.snd)
  x.outq.find? fun e => free.contains e.2 && !(e.1 && (s.slotFor port true e.2).isSome)

/-- The next frame goes on the link (R269): frames wait in the replay buffer while the port retrains (R270). -/
def Port.putFrame (x : Port) : Port :=
  match x.replay.find? fun f => f.1 == x.sent with
  | some f => { x with sent := x.sent + 1, line := some (x.frameOf f.1 f.2) }
  | none => x

/-- One frame of a port's next packet, or of the packet that it is sending, enters the link (R269): the last 256 frames stay in the replay
buffer. -/
def State.sendHead (s : State) (port : Nat) : State :=
  let x := s.port port
  if !s.portUp port ∨ x.retrain then s
  else if x.sent < x.txSeq then s.modPort port Port.putFrame
  else match s.nextOut port with
    | none => s
    | some e =>
      let p := e.2
      let flits := w32Bytes p.hdr :: chunks 256 (p.pay.length / 256) p.pay
      let frames := ((List.range flits.length).map (x.txSeq + ·)).zip flits
      let replay := x.replay ++ frames
      (s.modPort port fun x => Port.putFrame
        { x with outq := x.outq.erase e, txSeq := x.txSeq + flits.length, replay := replay.drop (replay.length - 256) }).markSent p

/-- A packet step: the first packet of the types at the port in question that can be acted on. One for another device goes on; `f` performs
one that has arrived, or none while it waits. -/
def packetStep (types : List Nat) (f : Packet → State → Option State) (s : State) : Out :=
  let port := s.subj.port
  let act := fun p : Packet =>
    let r := s.dropHead port p
    -- a multicast copy names its next device, a flow write its home: the way back is noted of what is passed on
    if pkDst p ≠ s.label ∧ port < 11 then some ((if pkType p = 7 then r.notePass p port else r).forward p false)
    else f p r
  .next ((((s.heads port).filter fun p => types.contains (pkType p)).findSome? act).getD s)

-- serving requests (R272, R390) -------------------------------------------------------------------------------------------------------------------

/-- Parties of a packet: the source party, and for path L also its lighter (spec/09 R132, R135). -/
def State.packetParties (s : State) (p : Packet) : List Party :=
  let n := pkParty p
  s.party n :: if pkPath p = 0 ∧ n % 65536 < 128 then [s.party (n + 128)] else []

/-- A write at its home: the code of a refusal, or 0 (spec/09 R133, R152). -/
def State.homeWrite (s : State) (ps : List Party) (job va : Nat) (data : List Byte) : State × Nat :=
  match s.plan job (some .write) (pieces va data.length) with
  | .error (e, _) => (s, lighterCode e)
  | .ok l =>
    if planPeer l then (s, fcLighterTier)
    else match (s.walkHeal job l).tokens ps (s.planChecks job .write l) with
      | (s, some (code, _)) => (s, code)
      | (s, none) => ((s.planWrite l data).arrive job none va data.length, 0)

/-- A read at its home. -/
def State.homeRead (s : State) (ps : List Party) (job va n : Nat) : State × Except Nat (List Byte) :=
  match s.plan job (some .read) (pieces va n) with
  | .error (e, _) => (s, .error (lighterCode e))
  | .ok l =>
    if planPeer l then (s, .error fcLighterTier)
    else match s.tokens ps (s.planChecks job .read l) with
      | (s, some (code, _)) => (s, .error code)
      | (s, none) =>
        let s := s.planHeal job l
        match s.planRead l with
        | none => (s, .error fcLighterPoison)
        | some bs => (s, .ok bs)

/-- The peer that a packet's scratchpad address names (R390). -/
def State.packetPeer (s : State) (p : Packet) : PeerAt :=
  let b := fld (pkAddr p) 20 7
  let here := s.peer (pkJob p) { Window.none with valid := true, berth := b }
  -- a berth-thread that has left the berth is waited for, or followed (spec/09 R123)
  let gone := s.mans.findSome? fun m =>
    if m.kind = 1 ∧ m.begun ∧ m.job = pkJob p ∧ m.st ≠ .retired then
      ((m.base :: m.past).find? fun a => decide (a ≤ b ∧ b < a + m.aligned)).map fun a => (m.id, m.rank0 + (b - a))
    else none
  match here, gone with
  | .refused code, some (t, r) => if code = fcTokenNone ∧ !((s.berth b).placed && s.jobAt b == pkJob p) then s.peerThread t r else here
  | _, _ => here

/-- A window write at its peer; none while the peer is away (spec/09 R123). -/
def State.peerWrite (s : State) (p : Packet) : Option (State × Nat) :=
  let a := fld (pkAddr p) 0 20
  let data := pkData p
  match s.packetPeer p with
  | .wait => none
  | .refused code => some (s, code)
  | .at_ b q =>
    match s.tokens (s.packetParties p) (s.peerChecks b .write a data.length) with
    | (s, some (code, _)) => some (s, code)
    | (s, none) => some ((s.modCtxAt b fun c => c.spadWrite a data).arrive 0 (some q) a data.length, 0)

/-- A window read at its peer. -/
def State.peerRead (s : State) (p : Packet) : Option (State × Except Nat (List Byte)) :=
  let a := fld (pkAddr p) 0 20
  match s.packetPeer p with
  | .wait => none
  | .refused code => some (s, .error code)
  | .at_ b _ =>
    match s.tokens (s.packetParties p) (s.peerChecks b .read a (pkBytes p)) with
    | (s, some (code, _)) => some (s, .error code)
    | (s, none) => some (s, .ok ((s.ctxAt b).spadRead a (pkBytes p)))

/-- POSTED_WRITE (R272). -/
def execPostedWrite (s : State) : Out :=
  packetStep [0] (fun p s =>
    if pkPath p = 1 then (s.peerWrite p).map fun x => x.1.answer (Ans.ackOf p x.2)
    else
      let x := s.homeWrite (s.packetParties p) (pkJob p) (pkVa p) (pkData p)
      some (x.1.answer (Ans.ackOf p x.2))) s

/-- The answer to a read. -/
def State.readAnswer (p : Packet) (x : State × Except Nat (List Byte)) : State :=
  match x with
  | (s, .ok bs) => s.answer ⟨p, 2, false, 0, 0, 0, bs, none⟩
  | (s, .error e) => s.answer (Ans.ackOf p e)

/-- READ_REQUEST (R272). One with a first operand of 1 reads nothing: it asks whether a write would pass (log entry 49). -/
def execReadRequest (s : State) : Out :=
  packetStep [1] (fun p s =>
    if pkOpA p = 1 then
      let x := if pkPath p = 1 then s.peerWrite { p with pay := [] }
        else some (s.homeWrite (s.packetParties p) (pkJob p) (pkVa p) [])
      x.map fun x => x.1.answer (Ans.ackOf p x.2)
    else if pkPath p = 1 then (s.peerRead p).map (State.readAnswer p)
    else some (State.readAnswer p (s.homeRead (s.packetParties p) (pkJob p) (pkVa p) (pkBytes p)))) s

/-- FLOW_WRITE (spec/22 R332): checked as a write by the party of its header. -/
def execFlowWrite (s : State) : Out :=
  packetStep [7] (fun p s =>
    let x := s.homeWrite [s.party (pkParty p)] (pkJob p) (pkVa p) (pkData p)
    some (x.1.answer (s.ackVia p x.2 s.subj.port))) s

/-- The answer to a packet that this device passed on goes back over the port by which the packet came (R287). -/
def State.passBack (s : State) (r : Req) (port : Nat) (p : Packet) : State :=
  let s := { s with reqs := s.reqs.filter (· != r) }
  match s.across port with
  | some l => (s.queuePacket (pkSet p 1 (l + s.label * 65536 + pkJob p * 2 ^ 26)) true).getD s
  | none => s

/-- A response: to an emitted packet, to a multicast copy, to a packet passed on, or to a request of this device; any other is discarded
(R268). -/
def State.responded (s : State) (p : Packet) : State :=
  let a : Ans := ⟨p, pkType p, pkAck p, pkStatus p, pkOpA p, pkOpB p, pkData p, none⟩
  let pass := s.reqs.find? (Req.passes (pkParty p) (pkTag p))
  match (s.emission (pkParty p) (pkTag p)).or ((s.mcastReq (pkSrc p) (pkParty p) (pkTag p)).or (pass.or (s.reqOf (pkTag p)))) with
  | some r => match r.who with
    | .pass q => s.passBack r q p
    | _ =>
      let x := s.respond r a.result
      x.1.answerAll x.2
  | none => s

/-- READ_RESPONSE (R272, R287). -/
def execReadResponse (s : State) : Out := packetStep [2] (fun p s => some (s.responded p)) s
/-- ATOMIC_RESPONSE (R390). -/
def execAtomicResponse (s : State) : Out := packetStep [4] (fun p s => some (s.responded p)) s

/-- Token form of a selector; TKATOM's BACK is bit 0 of the second operand. -/
def tokOfSel (sel opB : Nat) : TokForm :=
  if sel = 0 then .lend else if sel = 1 then .ret else if sel = 2 then .split else if sel = 3 then .join
  else if sel = 4 then .share else if sel = 5 then .unshare else if sel = 6 then .atom (opB.testBit 0) else if sel = 7 then .query else .claim

/-- A token form of another device's berth-thread at its home here; none while the peer is away. -/
def State.packetToken (s : State) (p : Packet) : Option (State × Except Nat (List W64)) :=
  let form := tokOfSel (fld (pkInfo p) 14 4) (pkOpB p)
  let job := pkJob p
  let caller := s.party (pkParty p)
  let targets := match form with
    | .lend | .share => [s.party (pkOpA p % 2 ^ 26)]
    | _ => []
  if (pkInfo p).testBit 18 then match s.packetPeer p with
    | .wait => none
    | .refused code => some (s, .error code)
    | .at_ _ q => some (s.tokenHome caller job (some q) (fld (pkAddr p) 0 20) form targets)
  else
    let s := s.healWalk job (pkVa p)
    match s.translate job (pkVa p) none with
    | .error e => some (s, .error (lighterCode e))
    | .ok (.peer _) => some (s, .error fcLighterTier)
    | .ok _ => some (s.tokenHome caller job none (pkVa p) form targets)

/-- A token form of the host that has come to its home here waits for the host's lines (spec/25 R367). -/
def State.packetFlush (s : State) (p : Packet) : Option State :=
  if pkType p = 3 ∧ pkDst p = s.label ∧ (pkInfo p).testBit 13 ∧ !(pkInfo p).testBit 18 ∧ s.party (pkParty p) = .host then
    s.hostFlush (pkJob p) (pkVa p) (tokOfSel (fld (pkInfo p) 14 4) (pkOpB p))
  else none

/-- The answer to an atomic or a semaphore operation. -/
def State.atomAnswer (p : Packet) (nr : Bool) (x : State × Except Nat W64) : State :=
  match x with
  | (s, .error e) => s.answer (Ans.ackOf p e)
  | (s, .ok v) => s.answer (if nr then Ans.ackOf p 0 else ⟨p, 4, false, 0, v.toNat, 0, [], none⟩)

/-- ATOMIC_PACKET (R390). -/
def execAtomicPacket (s : State) : Out :=
  match (s.heads s.subj.port).findSome? s.packetFlush with
  | some s => .next s
  | none => packetStep [3] (fun p s =>
    let i := pkInfo p
    let sem := fld i 8 3
    let nr := i.testBit 7
    let ps := s.packetParties p
    let job := pkJob p
    let va := pkVa p
    if i.testBit 13 then (s.packetToken p).map fun x => match x with
      | (s, .error e) => s.answer ⟨p, 4, false, tokFault e, 0, 0, [], none⟩
      | (s, .ok l) => s.answer ⟨p, 4, false, 0, (l.headD 0).toNat, (l.tail.headD 0).toNat, [], none⟩
    else
      let n := if i.testBit 0 ∨ sem ≠ 0 then 8 else 4
      -- an operand off its alignment is reserved (R271)
      if va % n ≠ 0 then some (s.portEvent s.subj.port evFabDrop 0)
      else if sem = 3 then some (State.atomAnswer p nr (s.postHome ps job va (pkOpA p % 2 ^ 63) false))
      else if sem ≠ 0 then some (State.atomAnswer p nr (s.pollHome ps job va (pkOpA p) (sem == 2)))
      else
        let wide := i.testBit 0
        let cut := fun v : Nat => w64 (if wide then v else v % 2 ^ 32)
        match AtomOp.ofCode? (fld i 3 4) with
        | some op => some (State.atomAnswer p nr (s.atomHome ps job va op wide (cut (pkOpA p)) (cut (pkOpB p))))
        | none => some s) s

-- multicast (R278, R279) ------------------------------------------------------------------------------------------------------------------------------

/-- Copies across the dimensions of an entry, with nothing changed but DST; those without a route are answered at once. A copy of a packet
that originates here can match a kernel of DIR 1 (R284). -/
def State.mcastKids (s : State) (id : Nat) (p : Packet) : List Nat → State × List (Nat × Nat)
  | [] => (s, [])
  | d :: ds =>
    let q := s.dimPort d
    -- routed by R266, whose first step refuses a label outside the cube
    if d < s.ndim ∧ s.portUp q then
      let s := s.modPort q fun x => { x with outq := x.outq ++ [(pkSrc p == s.label, pkSetDst p (s.label ^^^ 2 ^ d))] }
      let r : Req := ⟨pkTag p, .mcast id d, none, pkParty p, 0⟩
      { s with reqs := s.reqs ++ [r] }.mcastKids id p ds
    else
      let x := s.mcastKids id p ds
      (x.1, (d + 1, fcUnreachable) :: x.2)

/-- MULTICAST_WRITE (R279). -/
def execMulticastWrite (s : State) : Out :=
  packetStep [5] (fun p s =>
    let e := Tab.get (0 : W64) s.mctree (pkTree p)
    if !bt e 63 ∨ bf e 57 6 ≠ pkJob p then some (s.answer (s.ackVia p fcTokenNone s.subj.port))
    else
      let kids := (List.range 10).filter fun d => bt e (47 + d)
      let loc := bt e 46
      let id := s.nextId
      let s := { s with nextId := id + 1 }
      let m : Mcast := ⟨id, s.subj.port, p, (if loc then [0] else []) ++ kids.map (· + 1), []⟩
      if m.waits.isEmpty then some (s.answer (s.ackVia p 0 s.subj.port))
      else
        let x := ({ s with mcasts := s.mcasts ++ [m] }).mcastKids id p kids
        let (s, done) := if loc then
            let y := x.1.homeWrite [x.1.party (x.1.label * 65536 + bf e 0 16)] (pkJob p) (pkVa p) (pkData p)
            (y.1, (0, y.2) :: x.2)
          else x
        some (done.foldl (fun s d => let y := s.mcastPart id d.1 d.2; y.1.answerAll y.2) s)) s

-- barriers, launches and notices of subcube teams (R276, R277) ---------------------------------------------------------------------------------------------

/-- BARRIER_PACKET (R276): an arrival of a child, a release of the parent, or standing news of a level (spec/01 R27). -/
def execBarrierPacket (s : State) : Out :=
  packetStep [6] (fun p s =>
    match s.manByKey (pkOpA p) with
    | none => some s
    | some m =>
      let l := fld (pkOpB p) 48 3
      let x := m.barrier l (m.inst l m.rank0) (fld (pkOpB p) 0 48)
      let came := fun src : Nat =>
        let x := { x with kids := insertNat src x.kids }
        (s.modMan m.id fun m => m.setBarrier x).barrierMove m.id x
      some (match BarMsg.ofCode (fld (pkOpB p) 56 3) with
        | .arrive => came (pkSrc p)
        | .arriveLost => came (pkSrc p + 1024)
        | .release => if x.done then s else s.barrierEnd m x false
        | .releaseLost => if x.done then s else s.barrierEnd m x true
        | .exited => s.modMan m.id fun m => { m with still := (l, pkSrc p) :: m.still }
        | .levelLost => s.levelLost m l (pkSrc p))) s

/-- The manifest of another device's subcube team, as this device's harbourmaster takes it; `info` is what its launch carries. -/
def replica (id : Nat) (raw : List Byte) (job key info : Nat) (now : Nat) (by_ : Party) : Man :=
  { newMan id raw 0 job (key % 2 ^ 32) by_ with
      writes := false, st := .eligible, eprio := fld info 0 8, since := now, accepted := now, origin := some (key / 2 ^ 32), asked := true
      mbox := if info.testBit 8 then some (fld info 16 16, fld info 32 16) else none }

/-- LAUNCH_PACKET (R277): the manifest goes on down the tree, and the die is reserved here. A team that is placed again keeps what this
device has of it. -/
def execLaunchPacket (s : State) : Out :=
  packetStep [8] (fun p s =>
    let key := pkOpA p
    if pkLen p = 0 then none
    else
      match s.mans.find? fun m => s.manKey m == key with
      | some m =>
        if m.st = .retired then some ((s.hmSend (s.hmHdr 8 (cubeParent m.cube (key / 2 ^ 32) s.label) m.job 0 key 0 false) []).getD s)
        else
          let x := s.launchKids m (key / 2 ^ 32)
          some (x.1.modMan m.id fun m => { m with asked := true, awaits := x.2, start := none, eprio := fld (pkOpB p) 0 8 })
      | none =>
        let m := replica s.nextId p.pay (pkJob p) key (pkOpB p) s.time (s.party (pkParty p))
        let s := { s with nextId := s.nextId + 1, mans := enlist m s.mans }
        let x := s.launchKids m (key / 2 ^ 32)
        some (x.1.modMan m.id fun m => { m with awaits := x.2 })) s

/-- LAUNCH_RESPONSE (R277): a child has reserved its die and those below it. -/
def execLaunchResponse (s : State) : Out :=
  packetStep [8] (fun p s =>
    if pkLen p ≠ 0 ∨ pkOpB p ≠ 0 then none
    else match s.manByKey (pkOpA p) with
      | none => some s
      | some m => some ((s.modMan m.id fun m => { m with awaits := m.awaits.filter (· != pkSrc p) }).launchUp m.id)) s

/-- LAUNCH_START_TIME (R277). -/
def execLaunchStartTime (s : State) : Out :=
  packetStep [8] (fun p s =>
    if pkLen p ≠ 0 ∨ pkOpB p = 0 then none
    else match s.manByKey (pkOpA p) with
      | none => some s
      | some m => some ((s.sendStart m (pkOpA p / 2 ^ 32) (pkOpB p)).modMan m.id fun m => { m with start := some (pkOpB p) })) s

/-- A notice about a subcube team (R277, spec/01 R20, R30); those of pre-emption and of an end go on along the tree. -/
def State.notice (s : State) (kind : Nat) (m : Man) (code src : Nat) : State :=
  if kind = noticeDone then
    s.modMan m.id fun m => { m with units := m.units ++ [src], code := if m.code = 0 then code else m.code }
  else if kind = noticeRetire then s.retireBegin m code
  else if kind = noticeRetired then s.modMan m.id fun m => { m with awaits := m.awaits.filter (· != src) }
  else if kind = noticePreempt then
    let s := s.spread m noticePreempt 0 src
    if m.st = .running then s.beginPreempt m
    else if m.st = .placed ∨ m.st = .starting ∨ m.st = .resuming then s.modMan m.id fun m => { m with owed := true }
    else s
  else if kind = noticeEnd then
    let s := (s.spread m noticeEnd code src).modMan m.id fun m => { m with told := true }
    if (m.st = .placed ∨ m.st = .starting) ∧ (m.held.all fun b => (s.berth b).st == .starting) then s.failStart { m with told := true } code
    else s.endTeam m.id code
  else s

/-- A record sent back to the device of a notice, under its tag. -/
def State.noticeAnswer (s : State) (p : Packet) (kind id data : Nat) : State :=
  let r : EvRec := ⟨srcHm, kind, id, 0, some (pkJob p), w64 data⟩
  (s.hmSend { s.hmHdr 9 (pkSrc p) (pkJob p) 0 0 0 false with tag := pkTag p } r.bytes).getD s

/-- The request that an answer to a notice names is answered. -/
def State.noticeDone (s : State) (p : Packet) : State :=
  match (s.reqOf (pkTag p)).filter Req.isNotice with
  | some r => (s.respond r (.ok [])).1
  | none => s

/-- A berth-thread of a subcube handler has executed MBOXACK on another device (spec/11 R179): the slot stops pending here, and the device
hears so. -/
def State.ackNoticed (s : State) (p : Packet) (kind id data : Nat) : State :=
  if kind = noticeAckDone then s.noticeDone p
  else
    let s := match s.manByKey (data % 2 ^ 48) with
      | some m => (match m.mbox with
        | some (mb, slot) => s.clearSlot mb slot
        | none => s).modMan m.id fun m => { m with acked := true }
      | none => s
    s.noticeAnswer p noticeAckDone id data

/-- A notice about berth-threads of another device (log entry 23): that they are gone is answered once their tokens here are returned. -/
def State.homeNoticed (s : State) (p : Packet) (kind id data : Nat) : State :=
  if kind = noticeGoneDone then s.noticeDone p
  else
    let s := s.homeNotice kind (pkSrc p) id data
    if kind ≠ noticeGone then s else s.noticeAnswer p noticeGoneDone id data

/-- EVENT_PACKET (R272, R277): a notice about a subcube team, or about berth-threads of another device. A record of another harbour
office, which that office has logged, has no further effect here. -/
def execEventPacket (s : State) : Out :=
  packetStep [9] (fun p s =>
    let w := fun i => leValue ((p.pay.drop (8 * i)).take 8)
    let kind := w 0 / 2 ^ 32
    if fld (w 2) 0 8 ≠ 0 then some s
    else if noticeGone ≤ kind ∧ kind ≤ noticeGoneDone then some (s.homeNoticed p kind (w 1) (w 3))
    else if kind = noticeAck ∨ kind = noticeAckDone then some (s.ackNoticed p kind (w 1) (w 3))
    else match s.manByKey (w 3 % 2 ^ 48) with
      | none => some s
      | some m => some (s.notice kind m (w 3 / 2 ^ 48) (pkSrc p))) s

-- timeouts and time (R268, R275, spec/25 R389) -----------------------------------------------------------------------------------------------------------------

/-- REQUEST_TIMEOUT (R268). -/
def execRequestTimeout (s : State) : Out :=
  match s.reqs.find? fun r => r.tag == s.subj.item && r.late s.time with
  | none => .next s
  | some r =>
    let x := s.respond r (.error fcUnreachable)
    .next (x.1.answerAll x.2)

/-- The lowest label that this device reaches, by what its neighbours over ports that are up have said: the master (R275). -/
def State.master (s : State) : Nat :=
  (s.ports.filterMap fun e => if s.portUp e.1 then e.2.heard else none).foldl Nat.min s.label

/-- Whether a link exchanges timestamps now: at training, and every 65,536 ck (R275). -/
def State.stampDue (s : State) (port : Nat) : Bool :=
  match (s.port port).stamp with
  | some t => decide (t + 65536 ≤ s.time)
  | none => true

/-- TIMESTAMP_EXCHANGE (R275): `stamp` holds the neighbour's lowest reachable label in its bits 9:0, and above them its view of that
master's time base. The counter slews towards the master's, over the lowest-numbered port that leads to it; the master's own does not
slew. -/
def execTimestampExchange (port stamp : Nat) (s : State) : Out :=
  let label := stamp % 1024
  let time := stamp / 1024
  if !s.portUp port ∨ (s.port port).retrain ∨ !s.stampDue port then .next s
  else
    let s := s.modPort port fun x => { x with stamp := some s.time, heard := some label }
    let towards := (List.range 11).find? fun p => s.portUp p && (s.port p).heard == some s.master
    .next (if s.master = s.label then { s with slew := 0 }
      else if towards = some port then { s with slew := (time : Int) - (s.fabtime : Int) } else s)

end Sys2Proof.Machine
end

