-- ==== Sys2Proof/Machine/Pier.lean ====
section
/-! DEFINITION. Pier processors (spec/19 R280-R294): job partitions, verification, loading and unloading of kernels, the run of a packet
in a slot, its disposition, emission and traps, and every pier word. -/

namespace Sys2Proof.Machine
open Sys2Proof

-- partitions (R280) ---------------------------------------------------------------------------------------------------------

/-- A PIERJOB value. -/
structure PJ where
  cb    : Nat
  ncb   : Nat
  fbase : Nat
  flog2 : Nat
  fen   : Bool
  mbox  : Nat
  mslot : Nat
  en    : Bool
deriving DecidableEq, Repr

def PJ.of (w : W64) : PJ := ⟨bf w 56 8, bf w 47 9, bf w 34 13, bf w 30 4, bt w 29, bf w 13 16, bf w 3 10, bt w 0⟩
def State.pj (s : State) (j : Nat) : PJ := PJ.of (Tab.get 0 s.pierjob j)

/-- Whether two partitions overlap. -/
def PJ.overlaps (a b : PJ) : Bool :=
  decide (0 < a.ncb ∧ 0 < b.ncb ∧ a.cb < b.cb + b.ncb ∧ b.cb < a.cb + a.ncb)
    || (a.fen && b.fen && decide (a.fbase < b.fbase + 2 ^ b.flog2 ∧ b.fbase < a.fbase + 2 ^ a.flog2))

/-- Whether a kernel of a job is loaded. -/
def State.kernelOf (s : State) (j : Nat) : Bool :=
  s.ports.any fun e => e.2.slots.any fun k => match k.2 with | some k => k.job == j | none => false

/-- PIERJOB_WRITE (R280). -/
def execPierjobWrite (j v : Nat) (s : State) : Out :=
  let x := PJ.of (w64 v)
  let other := s.pierjob.any fun e => e.1 != j && (PJ.of e.2).en && x.overlaps (PJ.of e.2)
  let mbad := x.mbox ≠ 0 ∧ !(s.mboxes.any fun m => m.id == x.mbox && m.job == j && decide (x.mslot + 11 ≤ m.n))
  if other ∨ x.fbase % 2 ^ x.flog2 ≠ 0 ∨ 13 < x.flog2 ∨ 256 < x.cb + x.ncb ∨ mbad ∨ s.kernelOf j then .next s.configEvent
  else .next { s with pierjob := Tab.set 0 s.pierjob j (w64 v &&& ~~~(6 : W64)) }

-- verification (R281-R283) -----------------------------------------------------------------------------------------------------

/-- The first word of a kernel image that fails, the descriptor counting as words 0 to 7; none when it verifies, but for what depends
on a port (R282, R283). -/
def pierScan (ws : List Nat) (count : Nat) : Option Nat :=
  let w := fun i => ws.getD i 0
  let body := fld (w 0) 16 8
  let abase := fld (w 2 + w 3 * 2 ^ 32) 0 57
  let alog2 := fld (w 4) 0 6
  let desc : List (Bool × Nat) :=
    [(fld (w 0) 1 7 != 0 || fld (w 0) 8 3 == 0 || fld (w 0) 11 5 != 0 || decide (128 < body ∨ count < body) || fld (w 0) 25 7 != 0, 0),
     (w 1 != 0, 1), (abase % 2 ^ alog2 != 0, 2), (fld (w 3) 25 7 != 0, 3),
     (decide (alog2 < 12 ∨ 56 < alog2) || fld (w 4) 6 26 != 0 || w 5 != 0, 4), (w 6 != 0 || w 7 != 0, 6)]
  let bad := fun i : Nat => match decodePier (w (8 + i)) with
    | none => true
    | some ins => match ins with
      | .brf _ _ off => off == 0 || decide ((if i < body then body else count) ≤ i + off)
      | .hold | .fwd | .drop | .redirect _ _ => decide (body ≤ i)
      | .combine _ _ _ | .emit _ _ _ => decide (i < body)
      | _ => false
  match desc.find? fun c => c.1 with
  | some c => some c.2
  | none => ((List.range count).find? bad).map (8 + ·)

/-- The kernel of an image that verifies. -/
def kernelOfImage (m job : Nat) (ws : List Nat) (count : Nat) : Kernel :=
  let w := fun i => ws.getD i 0
  { man := m, job := job, out := tst (fld (w 0) 0 1), types := fld (w 0) 8 3, body := fld (w 0) 16 8, drop := tst (fld (w 0) 24 1),
    abase := fld (w 2 + w 3 * 2 ^ 32) 0 57, alog2 := fld (w 4) 0 6, code := ((ws.drop 8).take count).map (BitVec.ofNat 32) }

/-- Whether a kernel's range overlaps that of another of the same direction on a port (R282). -/
def Port.clash (x : Port) (k : Kernel) : Bool :=
  x.slots.any fun e => match e.2 with
    | some o => o.out == k.out && decide (o.abase < k.abase + 2 ^ k.alog2 ∧ k.abase < o.abase + 2 ^ o.alog2)
    | none => false

/-- The kernel of a PIER manifest, when it can be loaded on every port. -/
def State.kernelFor (s : State) (m : Man) : Option Kernel :=
  match s.hmRead m.job m.code_ (32 + 4 * m.count) with
  | .error _ => none
  | .ok bs =>
    let ws := (bytesW32 bs).map BitVec.toNat
    if (pierScan ws m.count).isSome ∨ !(s.pj m.job).en then none
    else
      let k := kernelOfImage m.id m.job ws m.count
      if m.portSet.any fun p => (s.port p).clash k then none else some k

/-- A PIER manifest retires (spec/01 R30). -/
def State.pierRetire (s : State) (m : Man) (code : Nat) : State :=
  let s := if code = 0 then s else s.event srcHm code (some m.job) m.endData
  ((s.status m (if code = 0 then 3 else 5) code).post m).modMan m.id fun m => { m with st := .retired, code := code }

/-- PIER_KERNEL_LOAD (R281). -/
def execPierKernelLoad (s : State) : Out :=
  withMan s fun m s =>
    if m.kind ≠ 3 ∨ m.st ≠ .placed ∨ m.pierOp ≠ 1 then s
    else match s.statusHeld m with
      | some s => s
      | none => match s.kernelFor m with
        | none => s.pierRetire m fcPierVerify
        | some k =>
          let s := s.hmHeal m.job m.code_ (32 + 4 * m.count)
          let put := fun (s : State) (p : Nat) => s.modPort p fun x => { x with slots := Tab.set none x.slots m.kslot (some k) }
          (m.portSet.foldl put s).pierRetire m 0

/-- Discard the combine buffers of a port to which packets of a slot contributed; the held packets that contributed are refused. -/
def State.unloadPort (s : State) (slot p : Nat) : State :=
  let x := s.port p
  let hit := (x.combs.filter fun c => c.2.held.any fun h => h.2 == slot).map Prod.fst
  let out := x.held.filter fun h => h.bufs.any hit.contains
  let s := s.modPort p fun x =>
    { x with combs := x.combs.filter (fun c => !hit.contains c.1), held := x.held.filter fun h => !(h.bufs.any hit.contains) }
  s.answerAll (out.map fun h => s.ackVia h.pkt fcPierUnload p)

/-- PIER_KERNEL_UNLOAD (R281): the slot stops matching at once; the operation completes when no packet is left in it. -/
def execPierKernelUnload (s : State) : Out :=
  withMan s fun m s =>
    if m.kind ≠ 3 ∨ m.st ≠ .placed ∨ m.pierOp ≠ 2 then s
    else
      let s := m.portSet.foldl (fun s p => s.modPort p fun x => { x with slots := Tab.set none x.slots m.kslot none }) s
      if m.portSet.any fun p => (Tab.get none (s.port p).runs m.kslot).isSome || !(Tab.get [] (s.port p).bufs m.kslot).isEmpty then s
      else match s.statusHeld m with
        | some s => s
        | none => (m.portSet.foldl (State.unloadPort · m.kslot) s).pierRetire m 0

-- a packet in a slot (R284, R287) ------------------------------------------------------------------------------------------------------

def State.run (s : State) (p k : Nat) : Option Run := Tab.get none (s.port p).runs k
def State.setRun (s : State) (p k : Nat) (r : Option Run) : State := s.modPort p fun x => { x with runs := Tab.set none x.runs k r }

/-- Deliver a packet that a slot lets go: a multicast formed here to the multicast step, a packet for this device to its home, any other
on its way. A packet that was leaving (`out`) goes before the later packets of its flow (R273). -/
def State.release (s : State) (port : Nat) (out : Bool) (orig p : Packet) : State :=
  let first := fun (x : Port) =>
    let before := x.outq.takeWhile fun e => !sameFlow p e.2
    { x with outq := before ++ (false, p) :: x.outq.drop before.length }
  if pkType p = 5 ∧ (pkType orig ≠ 5 ∨ pkDst p = s.label) then s.modPort selfPort fun x => { x with inq := x.inq ++ [p] }
  else if !out ∨ pkDst p = s.label then s.forward p false
  else match s.route (pkDst p) with
    -- one that leaves on another port than the slot's can match a kernel there (R284)
    | some q => if q = port then s.modPort q first else s.modPort q fun x => { x with outq := x.outq ++ [(true, p)] }
    | none => s.refuse p fcUnreachable

/-- Whether a label may be named by REDIRECT or EMIT (R293). -/
def State.labelOk (s : State) (l : Nat) : Bool := decide (l < 2 ^ s.ndim) && l != s.label

/-- The flow write that a buffer becomes (R287). -/
def Run.emitted (r : Run) (c : Comb) (dst : Option Nat) : Packet :=
  let len := c.flits.foldl (fun n f => Nat.max n (f.1 + 1)) 0
  let zero : List W32 := List.replicate 64 0
  -- no REDIRECT shows in it: below h16 it is the header as it came
  let p : Packet := { r.pkt with hdr := r.orig.hdr.take 16 ++ r.pkt.hdr.drop 16 }
  let p := pkSet p 0 (pkW p 0 / 512 * 512 + len * 16 + 7)
  let p := pkSet p 6 (pkW p 6 / 8192 * 8192 + 256 * len)
  let p := match dst with | some d => pkSetDst p d | none => p
  { p with pay := w32Bytes ((List.range len).flatMap fun i => Tab.get zero c.flits i) }

/-- Send a marked buffer (R287): the held packets that contributed wait for the answer to the write. -/
def State.emitBuf (s : State) (port : Nat) (r : Run) (b : Nat) (dst : Option Nat) : State :=
  let c := Tab.get Comb.free (s.port port).combs b
  if c.flits.isEmpty then s
  else
    let p := r.emitted c dst
    let id := s.nextId
    let wait := fun h : HeldPkt => if h.bufs.contains b then { h with bufs := h.bufs.filter (· != b), emits := h.emits ++ [id] } else h
    let s := { s with nextId := id + 1, reqs := s.reqs ++ [(⟨pkTag p, .emit port id, if pkDst p = s.label then some s.time else none, pkParty p, 0⟩ : Req)] }
    let s := s.modPort port fun x => { x with combs := Tab.set Comb.free x.combs b Comb.free, held := x.held.map wait }
    let back := r.kern.out && s.route (pkDst p) == some port
    s.forward p (!back)

/-- Stands among the buffers of a held packet until its last run has ended. -/
def running : Nat := 2 ^ 20

/-- A packet that is to be held has contributed to a buffer. -/
def State.holdFor (s : State) (port : Nat) (r : Run) (b : Nat) : State :=
  s.modPort port fun x =>
    if x.held.any fun h => h.pid == r.pid then
      let upd := fun h : HeldPkt => if h.pid = r.pid then { h with bufs := insertNat b h.bufs } else h
      { x with held := x.held.map upd }
    else { x with held := x.held ++ [⟨r.pid, r.orig, [b, running], [], 0⟩] }

/-- The last run of a held packet has ended: it is answered when it waits for nothing. One that an unload has refused is gone. -/
def State.holdEnd (s : State) (port : Nat) (r : Run) : State :=
  match (s.port port).held.find? fun h => h.pid == r.pid with
  | none => if r.contrib.isEmpty then s.answer (s.ackVia r.orig 0 port) else s
  | some h =>
    let h := { h with bufs := h.bufs.filter (· != running) }
    let rest := (s.port port).held.filter fun y => y.pid != r.pid
    if h.ready then (s.modPort port fun x => { x with held := rest }).answer (s.ackVia h.pkt h.code port)
    else s.modPort port fun x => { x with held := rest ++ [h] }

/-- The end of a packet's last run: disposition, then emission (R284, R287). -/
def State.pierFinish (s : State) (port slot : Nat) (r : Run) : State :=
  let s := s.setRun port slot none
  let s := match r.disp with
    | .fwd | .redirect => s.release port r.kern.out r.orig r.pkt
    | .drop => s.answer (s.ackVia r.orig 0 port)
    | .hold => s.holdEnd port r
  r.marks.foldl (fun s m => s.emitBuf port r m.1 m.2) s

/-- The end of a run: the next body run, from the registers as the header run left them, or the end of the packet (R284). -/
def State.pierEndRun (s : State) (port slot : Nat) (r : Run) : State :=
  let r := if r.run = 0 then { r with ps0 := r.ps, pv0 := r.pv } else r
  let last := if r.disp = .drop ∨ r.kern.code.length ≤ r.kern.body then 0 else pkLen r.pkt
  if r.run < last then s.setRun port slot (some { r with run := r.run + 1, off := r.kern.body, ps := r.ps0, pv := r.pv0 })
  else s.pierFinish port slot r

/-- A run goes on at an offset, or ends with its section. -/
def State.pierAt (s : State) (port slot : Nat) (r : Run) (off : Nat) : State :=
  if off < (if r.run = 0 then r.kern.body else r.kern.code.length) then s.setRun port slot (some { r with off := off })
  else s.pierEndRun port slot r

/-- Flits in a slot's buffer, of the packet that runs and of those that wait. -/
def Port.flits (x : Port) (slot : Nat) : Nat :=
  ((Tab.get none x.runs slot).toList ++ Tab.get [] x.bufs slot).foldl (fun n r => n + 1 + pkLen r.orig) 0

/-- The first packet that a slot can take from a port's queue: one that its kernel matches, that no earlier packet of its flow is before,
in the queue or in another slot, and for which the buffer has room (R273, R284). -/
def State.matching (s : State) (port slot : Nat) (k : Kernel) : Option (Bool × Packet) :=
  let x := s.port port
  let queue := if k.out then x.outq else x.inq.map fun p => (false, p)
  let free := flowHeads (((x.taken k.out).filter fun e => e.1 != slot).map Prod.snd) (queue.map Prod.snd)
  (queue.find? fun e => (!k.out || e.1) && free.contains e.2 && s.slotFor port k.out e.2 == some slot).filter fun e =>
    decide (x.flits slot + 1 + pkLen e.2 ≤ 64)

/-- Start the first run that waits in a slot's buffer, when none is under way. -/
def State.startRun (s : State) (port slot : Nat) : State :=
  if (s.run port slot).isSome then s
  else match Tab.get [] (s.port port).bufs slot with
    | [] => s
    | r :: l => (s.modPort port fun x => { x with bufs := Tab.set [] x.bufs slot l }).pierAt port slot r 0

/-- PIER_PACKET_MATCH (R284): a packet that matches the slot's kernel is taken whole into the slot's buffer, and the slot's next run
starts. -/
def execPierPacketMatch (port slot : Nat) (s : State) : Out :=
  if 11 ≤ port then .next s
  else match Tab.get none (s.port port).slots slot with
    | none => .next (s.startRun port slot)
    | some k => match s.matching port slot k with
      | none => .next (s.startRun port slot)
      | some e =>
        let r : Run := { kern := k, orig := e.2, pkt := e.2, pid := s.nextId, run := 0, off := 0, ps := [], pv := [], ps0 := [], pv0 := [],
                         disp := .fwd, marks := [], contrib := [] }
        let take := fun x : Port =>
          { x with
            outq := if k.out then x.outq.erase e else x.outq
            inq := if k.out then x.inq else x.inq.erase e.2
            bufs := Tab.upd [] x.bufs slot (· ++ [r]) }
        let s := if k.out then s else s.notePass e.2 port
        .next ((({ s with nextId := s.nextId + 1 }).modPort port take).startRun port slot)

-- traps (R288) -------------------------------------------------------------------------------------------------------------------------------

/-- Write the scratchpad of a berth-thread wherever it lies. -/
def State.threadWrite (s : State) (p : Party) (a : Nat) (bs : List Byte) : State :=
  match p with
  | .bt t r => match s.berthOf t r with
    | some b => s.modCtxAt b fun c => c.spadWrite a bs
    | none =>
      let upd := fun i : Image => if i.ctx.team = t ∧ i.ctx.rank = r then { i with ctx := i.ctx.spadWrite a bs } else i
      { s with dock := s.dock.map upd, berths := s.berths.map fun e => (e.1, { e.2 with pool := e.2.pool.map upd }) }
  | _ => s

/-- The trap message (spec/19 R288), into slot MBSLOT + port of the job's mailbox. -/
def State.pierMessage (s : State) (port slot : Nat) (r : Run) (code : Nat) (info : W64) : State :=
  let j := r.kern.job
  let seq := (Tab.get 0 (s.port port).traps j + 1) % 2 ^ 32
  let s := s.modPort port fun x => { x with traps := Tab.set 0 x.traps j seq }
  let pj := s.pj j
  match (if pj.mbox = 0 then none else s.mboxes.find? fun m => m.id == pj.mbox && m.job == j) with
  | none => s
  | some m =>
    let a := m.base + (pj.mslot + port) * 2 ^ m.log2s
    let msg := leBytes 8 (code + port * 256 + slot * 4096 + seq * 2 ^ 32) ++ leBytes 8 s.fabtime ++ leBytes 4 r.off ++ leBytes 4 r.run
      ++ leBytes 8 info.toNat ++ w32Bytes (r.orig.hdr.take 8)
    match m.local_ with
    | some q => (s.threadWrite q a msg).arrive 0 (some q) a 64
    | none => match s.hmWrite j a msg with
      | .ok s => s
      | .error _ => s

/-- A trap (spec/19 R288) ends the packet's runs; its EMIT marks are discarded, and its POLICY forwards the packet as received or drops
and refuses it. -/
def State.pierTrap (s : State) (port slot : Nat) (r : Run) (code : Nat) (info : W64) : State :=
  let s := ((s.setRun port slot none).modPort port fun x => { x with held := x.held.filter fun h => h.pid != r.pid }).pierMessage port slot r
    code info
  if r.kern.drop then (if pkType r.orig = 5 then s.answer (s.ackVia r.orig code port) else s.refuse r.orig code) else s.release port r.kern.out r.orig r.orig

-- the run of a word --------------------------------------------------------------------------------------------------------------------------

/-- How a word ends. -/
inductive PEnd where
  | next
  | goto (off : Nat)
  | stop
  | trap (code : Nat) (info : W64)

/-- One word of the current run. -/
def pierWord (f : Run → State → State × Run × PEnd) (s : State) : Out :=
  let p := s.pcur.1
  let k := s.pcur.2
  let go := fun s : State => if s.agent = .pier p k then { s with agent := s.pierFrom p (k + 1) } else s
  match s.run p k with
  | none => .next (go s)
  | some r =>
    let (s, r, e) := f r s
    .next (go (match e with
      | .next => s.pierAt p k r (r.off + 1)
      | .goto o => s.pierAt p k r o
      | .stop => s.pierEndRun p k r
      | .trap code info => s.pierTrap p k r code info))

/-- A word that changes only its run. -/
def runWord (f : Run → Run) (s : State) : Out := pierWord (fun r s => (s, f r, .next)) s

-- registers (R284, R289) ------------------------------------------------------------------------------------------------------------------------

def zeroVec : List W32 := List.replicate 64 0
def Run.sreg (r : Run) (i : Nat) : W32 := if i = 0 then 0 else Tab.get 0 r.ps i
def Run.vreg (r : Run) (i : Nat) : List W32 := if i = 0 then zeroVec else Tab.get zeroVec r.pv i
def Run.setS (r : Run) (i : Nat) (v : W32) : Run := if i = 0 then r else { r with ps := Tab.set 0 r.ps i v }
def Run.setV (r : Run) (i : Nat) (v : List W32) : Run := if i = 0 then r else { r with pv := Tab.set zeroVec r.pv i v }

/-- Operand b (R290): an immediate, a broadcast scalar, or a register of the kind. -/
def Run.opB (r : Run) (v bs : Bool) (imm : Option W32) (b : Nat) : List W32 :=
  match imm with
  | some x => List.replicate 64 x
  | none => if v && !bs then r.vreg b else List.replicate 64 (r.sreg b)
/-- Operand a. -/
def Run.opA (r : Run) (v : Bool) (a : Nat) : List W32 := if v then r.vreg a else [r.sreg a]
/-- Write a result. -/
def Run.put (r : Run) (v : Bool) (d : Nat) (l : List W32) : Run := if v then r.setV d l else r.setS d (l.headD 0)

/-- Lanes combined. -/
def zipLanes (f : W32 → W32 → W32) (a b : List W32) : List W32 := (a.zip b).map fun x => f x.1 x.2

/-- A form of two operands (R290). -/
def pierArith (f : W32 → W32 → W32) (v bs : Bool) (imm : Option W32) (d a b : Nat) (s : State) : Out :=
  runWord (fun r => r.put v d (zipLanes f (r.opA v a) (r.opB v bs imm b))) s

/-- An FP32 operation on lanes. -/
def fp32Lane (g : FV → FV → FV) (x y : W32) : W32 :=
  BitVec.ofNat 32 (FF.fp32.rne (g (FF.fp32.decode x.toNat) (FF.fp32.decode y.toNat)))
/-- Condition of CMPP. -/
def pierCond (c : PCond) (u : Bool) (x y : W32) : Bool :=
  let lt := if u then x.ult y else x.slt y
  match c with
  | .eq => x == y
  | .ne => x != y
  | .lt => lt
  | .le => lt || x == y
  | .gt => !lt && x != y
  | .ge => !lt
  | .flt => FV.lt (FF.fp32.decode x.toNat) (FF.fp32.decode y.toNat)
  | .feq => FV.eq (FF.fp32.decode x.toNat) (FF.fp32.decode y.toNat)
/-- The immediate of a form. -/
def pimm (ib : Bool) (imm : Nat) : Option W32 := if ib then some (sx10 imm) else none

def execAddp (v bs ib : Bool) (d a b imm : Nat) (s : State) : Out := pierArith (· + ·) v bs (pimm ib imm) d a b s
def execSubp (v bs ib : Bool) (d a b imm : Nat) (s : State) : Out := pierArith (· - ·) v bs (pimm ib imm) d a b s
def execMulp (v bs ib : Bool) (d a b imm : Nat) (s : State) : Out := pierArith (· * ·) v bs (pimm ib imm) d a b s
def execFaddp (v bs : Bool) (d a b : Nat) (s : State) : Out := pierArith (fp32Lane (FV.add .rne)) v bs none d a b s
def execFmaxp (v bs : Bool) (d a b : Nat) (s : State) : Out := pierArith (fp32Lane FV.max) v bs none d a b s
def execMinp (v bs ib u : Bool) (d a b imm : Nat) (s : State) : Out :=
  pierArith (fun x y => if (if u then y.ult x else y.slt x) then y else x) v bs (pimm ib imm) d a b s
def execMaxp (v bs ib u : Bool) (d a b imm : Nat) (s : State) : Out :=
  pierArith (fun x y => if (if u then x.ult y else x.slt y) then y else x) v bs (pimm ib imm) d a b s
def execAndp (v bs ib : Bool) (d a b imm : Nat) (s : State) : Out := pierArith (· &&& ·) v bs (pimm ib imm) d a b s
def execOrp (v bs ib : Bool) (d a b imm : Nat) (s : State) : Out := pierArith (· ||| ·) v bs (pimm ib imm) d a b s
def execXorp (v bs ib : Bool) (d a b imm : Nat) (s : State) : Out := pierArith (· ^^^ ·) v bs (pimm ib imm) d a b s
def execShp (v bs : Bool) (k : ShKind) (d a b : Nat) (s : State) : Out :=
  pierArith (fun x y =>
    let n := y.toNat % 32
    match k with
    | .l => x <<< n
    | .r => x >>> n
    | .a => x.sshiftRight n) v bs none d a b s
def execCmpp (v bs u : Bool) (c : PCond) (d a b : Nat) (s : State) : Out :=
  pierArith (fun x y => if pierCond c u x y then (if v then BitVec.allOnes 32 else 1) else 0) v bs none d a b s
/-- SELP: lane c picks a or b. -/
def execSelp (v bs ib : Bool) (d c a b imm : Nat) (s : State) : Out :=
  runWord (fun r =>
    let l := (r.opA v a).zip (r.opB v bs (if ib then some (sx6 imm) else none) b)
    r.put v d ((l.zip (r.opA v c)).map fun x => if x.2 ≠ 0 then x.1.1 else x.1.2)) s

-- headers and payload (R291) -----------------------------------------------------------------------------------------------------------------------

def execHld (x : Bool) (d a n : Nat) (s : State) : Out :=
  runWord (fun r => r.setS d (r.pkt.hdr.getD (if x then ((r.sreg a).toNat + n) % 64 else n) 0)) s

/-- The payload flit of a body run. -/
def Run.flit (r : Run) : List W32 := bytesW32 ((r.pkt.pay.drop (256 * (r.run - 1))).take 256)

def execPld (d : Nat) (s : State) : Out := runWord (fun r => r.setV d (if r.run = 0 then r.pkt.hdr else r.flit)) s

def execPst (a : Nat) (s : State) : Out :=
  runWord (fun r =>
    let v := r.vreg a
    let p := r.pkt
    if r.run = 0 then { r with pkt := { p with hdr := p.hdr.take 16 ++ v.drop 16 } }
    else
      let o := 256 * (r.run - 1)
      { r with pkt := { p with pay := p.pay.take o ++ w32Bytes v ++ p.pay.drop (o + 256) } }) s

-- flow entries (R286, R292) -----------------------------------------------------------------------------------------------------------------------------

/-- The place of word 0 of the entry that a key selects. -/
def PJ.entry (x : PJ) (key : W32) : Nat := (x.fbase + key.toNat % 2 ^ x.flog2) * 16
/-- Word 0 of a VALID entry with a key. -/
def flowTag (key : W32) : W32 := key ||| 0x80000000
def Port.flowAt (x : Port) (i : Nat) : W32 := Tab.get 0 x.flow i
def State.setFlow (s : State) (port i : Nat) (v : W32) : State := s.modPort port fun x => { x with flow := Tab.set 0 x.flow i v }

/-- A flow access: on a hit the form acts on the place of the entry; otherwise PIER.FLOWMISS. -/
def flowWord (a : Nat) (alloc : Bool) (f : Nat → Run → State → State × Run) (s : State) : Out :=
  pierWord (fun r s =>
    let port := s.pcur.1
    let x := s.pj r.kern.job
    let key := r.sreg a
    let e := x.entry key
    let w := (s.port port).flowAt e
    let miss := (s, r, PEnd.trap fcPierFlowmiss (key.setWidth 64))
    if !x.fen then miss
    else if w = flowTag key then let y := f e r s; (y.1, y.2, .next)
    else if alloc ∧ !w.getLsbD 31 then
      let s := (List.range 15).foldl (fun s i => s.setFlow port (e + 1 + i) 0) (s.setFlow port e (flowTag key))
      let y := f e r s
      (y.1, y.2, .next)
    else miss) s

def execFld (alloc : Bool) (d a n : Nat) (s : State) : Out :=
  flowWord a alloc (fun e r s => (s, r.setS d ((s.port s.pcur.1).flowAt (e + n)))) s
def execFst (a b n : Nat) (s : State) : Out := flowWord a false (fun e r s => (s.setFlow s.pcur.1 (e + n) (r.sreg b), r)) s
def execFcas (d a b n : Nat) (s : State) : Out :=
  flowWord a false (fun e r s =>
    let old := (s.port s.pcur.1).flowAt (e + n)
    (if old = r.sreg d then s.setFlow s.pcur.1 (e + n) (r.sreg b) else s, r.setS d old)) s

-- actions (R287, R293) --------------------------------------------------------------------------------------------------------------------------------------

def execHold (s : State) : Out := runWord (fun r => { r with disp := .hold }) s
def execFwd (s : State) : Out := runWord (fun r => { r with disp := .fwd }) s
def execDrop (s : State) : Out := runWord (fun r => { r with disp := .drop }) s

def execRedirect (tree : Bool) (a : Nat) (s : State) : Out :=
  pierWord (fun r s =>
    let v := (r.sreg a).toNat
    let p := r.pkt
    let t := v % 4096
    let e := Tab.get (0 : W64) s.mctree t
    let bad := if tree then !bt e 63 || bf e 57 6 != r.kern.job else !s.labelOk (v % 1024)
    if bad then (s, r, .trap fcPierBound (w64 v))
    else
      let q := if tree then pkSet (pkSet p 0 (pkW p 0 / 16 * 16 + 5)) 3 t else pkSetDst p (v % 1024)
      (s, { r with pkt := q, disp := .redirect }, .next)) s

def execCombine (mode : CombMode) (a b : Nat) (s : State) : Out :=
  pierWord (fun r s =>
    let port := s.pcur.1
    let x := s.pj r.kern.job
    let i := (r.sreg b).toNat
    let n := x.cb + i
    let c := Tab.get Comb.free (s.port port).combs n
    if x.ncb ≤ i ∨ 64 ≤ (c.held.filter fun h => h.1 != r.pid).length then (s, r, .trap fcPierCombine (w64 i))
    else
      let f := match mode with
        | .fadd => fp32Lane (FV.add .rne)
        | .iadd => fun x y : W32 => x + y
        | .fmax => fp32Lane FV.max
      let v := r.vreg a
      let k := r.run - 1
      let new := if c.flits.any fun y => y.1 == k then zipLanes f (Tab.get zeroVec c.flits k) v else v
      let held := if c.held.any fun h => h.1 == r.pid then c.held else c.held ++ [(r.pid, s.pcur.2)]
      let s := s.modPort port fun y => { y with combs := Tab.set Comb.free y.combs n ⟨Tab.insert c.flits k new, held⟩ }
      (if r.disp = .hold then s.holdFor port r n else s, { r with contrib := insertNat n r.contrib }, .next)) s

def execEmit (dst : Bool) (a b : Nat) (s : State) : Out :=
  pierWord (fun r s =>
    let x := s.pj r.kern.job
    let i := (r.sreg b).toNat
    let n := x.cb + i
    let l := (r.sreg a).toNat
    if x.ncb ≤ i ∨ (Tab.get Comb.free (s.port s.pcur.1).combs n).flits = [] then (s, r, .trap fcPierCombine (w64 i))
    else if dst ∧ !s.labelOk (l % 1024) then (s, r, .trap fcPierBound (w64 l))
    else
      let m := (n, if dst then some (l % 1024) else none)
      (s, { r with marks := r.marks.filter (fun y => y.1 != n) ++ [m] }, .next)) s

-- control (R294) -----------------------------------------------------------------------------------------------------------------------------------------------

def execBrf (z : Bool) (a off : Nat) (s : State) : Out :=
  pierWord (fun r s => (s, r, if (r.sreg a == 0) == z then .goto (r.off + off) else .next)) s
def execTrapp (imm : Nat) (s : State) : Out := pierWord (fun r s => (s, r, .trap fcPierTrapp (w64 imm))) s
def execEndk (s : State) : Out := pierWord (fun r s => (s, r, .stop)) s

end Sys2Proof.Machine
end

