-- ==== Sys2Proof/Machine/Recovery.lean ====
section
/-! DEFINITION. Failure and recovery (spec/03 R65, spec/23 R344-R354): vertical-bus failures, berth failure, loss and return of tile
power, planned gates, loss of module power, and the event ring's control register. -/

namespace Sys2Proof.Machine
open Sys2Proof

-- berth failure (R350, R351) ------------------------------------------------------------------------------------------

/-- The leader of a berth in follower mode (spec/17 R262). -/
def State.leaderOf (s : State) (b : Nat) : Option Nat := (s.berths.find? fun y => y.1 != b && (s.followers y.1).contains b).map Prod.fst

/-- Barriers of a failed rank that have not completed are LOST (spec/01 R27). -/
def Man.loseBarriers (m : Man) (rank : Nat) : Man :=
  { m with barriers := m.barriers.map fun x =>
      if !x.done && (m.members x.level x.inst).contains rank then { x with lost := true } else x }

/-- A pre-empted team whose last berth-thread has left its berth (spec/01 R20). -/
def State.preemptCheck (s : State) (t : Nat) : State :=
  match s.man t with
  | none => s
  | some m =>
    if m.st = .preempting ∧ !(m.held.any fun k => (s.berth k).placed && (s.ctxAt k).team == t) then
      s.teamAway m
    else s

/-- The berth-thread on a berth has failed: its regions are quarantined, its shadow is discarded and its barriers are LOST; its team
takes the machine code (R350, R351). -/
def State.failThread (s : State) (b code : Nat) : State :=
  let c := s.ctxAt b
  let c' : Ctx := { Ctx.start with team := c.team, rank := c.rank, pilot := .retired }
  let fail := fun m : Man => { m.loseBarriers c.rank with
    failed := insertNat c.rank m.failed, code := if m.code = 0 then code else m.code }
  let s := match s.man c.team with
    | some m => s.tellHomes m noticeFail b 1 c.phases
    | none => s
  ((s.quarantine c.self c.phases).modMan c.team fail).modBerth b fun x => { x with ctx := c', shadow := Shadow.none }

/-- The berth-thread of a berth that is being filled or started, by the team placed there. -/
def State.placing (s : State) (b : Nat) : Option Man :=
  s.mans.find? fun m => (m.st == .placed || m.st == .starting) && decide (m.kind = 1 ∧ m.base ≤ b ∧ b < m.base + m.aligned)

/-- A berth is retired at once, until module reset (R350). Images in its pool stay. -/
def State.failBerth (s : State) (b code : Nat) (data : W64) : State :=
  let x := s.berth b
  if x.retired then s
  else
    let job := if x.placed then some (s.jobAt b) else none
    let s := s.event (srcBerth b) evBerthRetired job data
    let live : Bool := x.placed && x.ctx.pilot != .retired && x.st != .filling
    let lead := if live then s.leaderOf b else none
    let s := if live then s.failThread b code else s
    -- a follower's failure fails its leader's berth-thread, whose berth is not retired
    let s := match lead with
      | some l => (s.failThread l code).modBerth l fun x => { x with st := .run }
      | none => s
    let s := s.modBerth b fun y => { y.free with retired := true }
    match s.placing b, x.st with
    | some m, .starting => s.failStart m code
    | some m, .filling =>
      -- the image that was coming here fails with the berth
      let r := m.rankAt b
      let keep := fun i : Image => !(i.ctx.team == m.id && i.ctx.rank == r)
      let gone := fun y : Berth => { y with pool := y.pool.filter keep }
      let bs := (s.berths.map fun e => (e.1, gone e.2)).filter fun e => e.2 != Berth.idle
      let phases := ((s.findImage m.id r).map fun i => i.ctx.phases).getD 0
      let fail := fun m : Man => { m.loseBarriers r with failed := insertNat r m.failed, code := if m.code = 0 then code else m.code }
      ((({ s with berths := bs, dock := s.dock.filter keep }).quarantine (.bt m.id r) phases).modMan m.id fail).fillCheck m.id
    | _, _ => s.preemptCheck x.ctx.team

/-- DATA of BERTH.RETIRED (R355). -/
def retiredData (code group wire : Nat) : W64 := w64 (code + group % 256 * 256 + wire % 64 * 65536)

/-- BERTH_FAILURE (R350). `data` holds the wire group in 7:0 and the wire in 13:8 for MACHINE.VBUS. -/
def execBerthFailure (b code data : Nat) (s : State) : Out :=
  if code = fcMachVbus then .next (s.failBerth b code (retiredData code (fld data 0 8) (fld data 8 6)))
  else if code = fcMachArray ∨ code = fcMachHang then .next (s.failBerth b code (retiredData code 0 0))
  else .next s

/-- VBUS_CRC_FAILURE (spec/03 R65): the spare of the group takes the wire's place and the burst is replayed; a second failure in a
group retires the berth. -/
def execVbusCrcFailure (b group wire : Nat) (s : State) : Out :=
  let x := s.berth b
  if x.retired then .next s
  else if x.spares.any fun w => w.1 == group then .next (s.failBerth b fcMachVbus (retiredData fcMachVbus group wire))
  else
    let job := if x.placed then some (s.jobAt b) else none
    let s := s.modBerth b fun x => { x with spares := x.spares ++ [(group, wire)], replay := some ((x.replay.getD 0) + 6) }
    .next (s.event (srcBerth b) evVbusSpare job (w64 (group % 256 * 256 + wire % 64 * 65536)))

-- resume (R344, R346, R347, spec/09 R150) ---------------------------------------------------------------------------------

/-- The copy that at least two commit words name. -/
def namedCopy : List (Nat × Nat) → Option Nat
  | [a, b, c] => if a = b ∨ a = c then some a.1 else if b = c then some b.1 else none
  | _ => none

/-- An intact copy. -/
def Shadow.intact (h : Shadow) (c : Nat) : Option Record :=
  match (if c = 0 then h.copyA else h.copyB) with
  | some r => if r.ok then some r else .none
  | .none => .none

/-- The record from which a berth resumes (R346), with its copy. -/
def Shadow.pick (h : Shadow) : Option (Nat × Record) :=
  let at_ := fun c => (h.intact c).map fun r => (c, r)
  match namedCopy h.words with
  | some c => match at_ c with
    | some r => some r
    | .none => at_ (1 - c)
  | .none => match at_ 0, at_ 1 with
    | some a, some b => if a.2.seq < b.2.seq then some b else some a
    | some a, .none => some a
    | .none, r => r

/-- Deliver to a journalled operation of the resumed state the outcomes that were kept for it, or go on waiting for them. -/
def State.resumeOutcome (s : State) (b : Nat) (live : List Op) (o : Op) (ks : List Reply) : State :=
  let away := live.find? fun p => p.id == o.id
  let word := match ks with
    | .done ws :: _ => Except.ok (ws.headD 0)
    | .failed f :: _ => .error f.code
    | [] => .ok 0
  match ks with
  | [] => match away with
    | some p => s.setStage b o.id p.stage
    | none => s
  | k :: _ =>
    match o.kind with
    | .atom r | .atomnr r => s.atomDone b o word r.va
    | .sempost va _ => s.atomDone b o word va
    | .semwait _ => s.setStage b o.id (match k with | .done ws => .replied ws | .failed f => .failed f)
    | .token r =>
      match o.route, k with
      | .stream _, .done ws => s.tokenDone b o r (.ok ws)
      | .stream _, .failed f => s.tokenDone b o r (.error f.code)
      | _, _ =>
        let fs := ks.filterMap fun k => match k with | .failed f => some f | .done _ => none
        let s := s.modCtxAt b fun c => { c with refusals := c.refusals ++ fs }
        match away with
        | some p => match p.stage with
          | .remote _ _ => s.setStage b o.id p.stage
          | _ => s.modCtxAt b fun c => c.dropOp o.id
        | none => s.modCtxAt b fun c => c.dropOp o.id
    | _ => s.modCtxAt b fun c => c.dropOp o.id

/-- An operation of the resumed state that is no persist point is issued again exactly as recorded; answers to its earlier issue
find no request of it (spec/09 R150). -/
def State.reissue (s : State) (b : Nat) (o : Op) : State :=
  match o.kind, o.stage with
  | .copy r, .remote _ m =>
    -- what had been read of its source is not read again
    let data := if r.out ∧ r.q ≠ .zero then (List.range o.total).zip (Memory.read zeroByte m 0 o.total) else []
    (s.setStage b o.id .sent).modCtxAt b fun c => c.modOp o.id fun o => { o with moved := data }
  | .copy _, .passed _ | .fill _ _ _ _ _, .passed _ | .imload _ _ _, .passed _ => s.setStage b o.id .sent
  | .fill _ _ _ _ _, .remote _ _ | .imload _ _ _, .remote _ _ | .wstore _ _ _, .remote _ _ => s.setStage b o.id .sent
  | .semwait _, .remote _ _ => s.setStage b o.id .sent
  | _, _ => s

/-- Resume a berth-thread from a recorded state: its followers' matrix state comes with it (spec/17 R262), and its outstanding
operations go on as spec/09 R150 gives. -/
def State.resumeFrom (s : State) (b : Nat) (v : Saved) (logged : List Nat) : State :=
  let live := (s.ctxAt b).ops
  let kept := (s.berth b).shadow.kept
  let c := v.ctx.atBoundary
  let ops := c.ops.map fun o => { o with logged := o.logged || logged.contains o.id }
  let s := s.modCtxAt b fun _ => { c with ops := ops, open_ := false, landed := false, went := false }
  let s := v.gang.foldl (fun s g => s.modCtxAt g.berth fun c => { c with acc := g.acc, live := g.live, banks := g.banks, active := g.active }) s
  ops.foldl (fun s o =>
    if o.kind.persist then s.resumeOutcome b live o ((kept.filter fun k => k.1 == o.id).map Prod.snd)
    else s.reissue b o) s

/-- Whether an operation of a state is a persist point not yet journalled. -/
def Ctx.unlogged (c : Ctx) : Bool := c.ops.any fun o => o.kind.persist && !o.logged && o.stage == .sent

/-- Re-execution from a committed copy (R344, R346). -/
def State.reexecute (s : State) (b : Nat) (r : Nat × Record) : State :=
  let v := r.2.saved
  let words := [(r.1, r.2.seq), (r.1, r.2.seq), (r.1, r.2.seq)]
  (s.resumeFrom b v (v.ctx.ops.map Op.id)).modBerth b fun x =>
    { x with shadow := { x.shadow with words := words, entries := 0, flagged := 0, last := some v, want := false, queue := [] } }

/-- Exact resume at the boundary of the last entry (R344). A persist that had begun begins again. -/
def State.resumeExact (s : State) (b : Nat) (v : Saved) : State :=
  let h := (s.berth b).shadow
  let logged := match h.pick with | some r => r.2.saved.ctx.ops.map Op.id | none => []
  let s := s.resumeFrom b v logged
  let again := h.want || !h.queue.isEmpty || (s.ctxAt b).unlogged
  s.modBerth b fun x => { x with shadow := { x.shadow with want := again, queue := [] } }

/-- The codes of a berth's team, held by the harbourmaster, are in its instruction memory again (R340). -/
def State.reloadCode (s : State) (b : Nat) : State :=
  let c := s.ctxAt b
  match s.codeStore.find? fun e => e.1 == c.team && e.2.1 == c.rank with
  | some (_, _, im, n) => s.modBerth b fun x => { x with im := im, codelen := n }
  | none => s

/-- A berth whose shadow holds no intact copy: the team retires with MACHINE.SHADOW (R346). -/
def State.shadowLost (s : State) (b : Nat) : State :=
  let c := s.ctxAt b
  ((s.endTeam c.team fcMachShadow).eventOpen (srcBerth b) fcMachShadow (some (s.jobAt b))).retireThread b

/-- TILE_POWER_LOSS (R344): hold-up completes the entry of the current group; a copy being written by a persist is not intact. -/
def execTilePowerLoss (s : State) : Out :=
  let b := s.subj.berth
  let x := s.berth b
  let has := match x.st with
    | .run | .draining | .spilling | .halted => true
    | _ => false
  if !has ∨ x.ctx.pilot = .retired then .next s
  else
    let differs := match x.shadow.last with | some l => blocksDiffer l (s.saved b) | none => true
    let s := if differs then s.journal b else s
    let tear := fun h : Shadow =>
      if h.queue.isEmpty then h
      else
        let bad := fun r : Option Record => r.map fun r => { r with ok := false }
        if h.next = 0 then { h with copyA := bad h.copyA } else { h with copyB := bad h.copyB }
    .next (s.modBerth b fun x =>
      { x with
        st := .off
        wasHalted := x.wasHalted || x.st == .halted
        preempt := x.preempt || x.st == .draining || x.st == .spilling
        stepping := none
        shadow := tear x.shadow })

/-- TILE_POWER_RESTORE (R344, R346): exact resume when no entry since the commit has its flag set; else re-execution from the
committed copy. After a loss by any berth of a gang, the leader and every follower's pilot resume from their own last persist points,
the followers with the matrix state that the leader's holds (spec/17 R262). -/
def execTilePowerRestore (s : State) : Out :=
  let b := s.subj.berth
  let x := s.berth b
  if x.st ≠ .off then .next s
  else
    let lead := (s.leaderOf b).getD b
    let gang := s.followers lead
    let up := fun s : State => (s.reloadCode b).modBerth b fun x => { x with st := if x.wasHalted then .halted else .run, wasHalted := false }
    match x.shadow.last, x.shadow.pick with
    | some v, some r =>
      if gang = [] then .next (up (if x.shadow.flagged = 0 then s.resumeExact b v else s.reexecute b r))
      else
        let again := fun (s : State) (k : Nat) =>
          if (s.berth k).st = .off then s
          else match (s.berth k).shadow.pick with
            | some q => s.reexecute k q
            | none => s
        .next ((gang ++ [lead]).foldl again (up s))
    | _, _ => .next (up (s.shadowLost b))

-- planned gates (R349, spec/25 R382) -------------------------------------------------------------------------------------------

/-- The words of the group that a berth-thread stands before, each with the state that it leaves alone. -/
def State.tryGroup (s : State) (b : Nat) : Probe :=
  let x := s.berth b
  match fetchGroup x groupFuel x.ctx.pc with
  | .error _ => .stop (.next s)
  | .ok raw => match decodeGroup raw with
    | .error _ => .stop (.next s)
    | .ok ws => tryWords { s with cur := b } ws

/-- Whether the group is held by the freeze of a form for which the spec gates the tile (spec/25 R382). -/
def State.gateForm (s : State) (b : Nat) : Bool :=
  match s.tryGroup b with
  | .stop _ => false
  | .all l => l.any fun y => y.2.iss == .frozen && match y.1.ins with
    | .semwait _ _ _ _ _ | .phase _ _ | .lwait _ _ | .pwait _ _ | .exit _ => true
    | _ => false

/-- POWER_GATE (R349, spec/25 R382): a berth held by such a freeze for PGDELAY units is gated at its boundary. -/
def execPowerGate (s : State) : Out :=
  let b := s.subj.berth
  let x := s.berth b
  let delay := Nat.max 1 (bf s.pwrctl 32 16) * 1024
  if x.st = .run ∧ x.ctx.pilot = .run ∧ bt s.pwrctl 63 ∧ delay ≤ x.ctx.frozenFor ∧ s.gateForm b then
    .next (s.modBerth b fun x => { x with gate := true })
  else .next s

/-- Whether the group that a gated berth-thread stands before would still be held. -/
def State.stillHeld (s : State) (b : Nat) : Bool :=
  match s.tryGroup b with
  | .stop _ => false
  | .all l => (groupFault l).isNone && l.any fun y => y.2.iss == .frozen

/-- POWER_UNGATE (R349): when the condition holds, or the berth-thread has to leave its boundary, once the gate's persist is
complete. The gated ck were frozen; the held group issues afresh, its conditions tested again (spec/03 R53). -/
def execPowerUngate (s : State) : Out :=
  let b := s.subj.berth
  let x := s.berth b
  let ended := ((s.teamOf x.ctx).map Man.ended).getD true
  if x.st = .gated ∧ !x.persistBusy ∧ (ended ∨ bt x.dbgctl 63 ∨ x.preempt ∨ !s.stillHeld b) then
    .next (s.modBerth b fun x => { x with st := .run, ctx := { x.ctx.atBoundary with frozenFor := 0 } })
  else .next s

-- module power (R348, spec/09 R151, spec/25 R383) ----------------------------------------------------------------------------------

/-- What a module reset leaves: every register at its value at reset, with what lies outside the module, the flash, the fuses and
MINSVN kept, and the model's own counters and its list of encodings, by which an image still in host memory is known (R348, R360). -/
def State.resetKeep (s : State) : State :=
  { State.reset with
    agenda := s.agenda
    free := s.free
    nextId := s.nextId
    images := s.images
    pool := s.pool
    poolPoison := s.poolPoison
    hmem := s.hmem
    losses := s.losses
    flashRoles := s.flashRoles
    slotA := s.slotA
    slotB := s.slotB
    cfgSector := s.cfgSector
    minsvn := s.minsvn }

/-- Whether a team has a shadow or an image to discard (R348). -/
def Man.onDevice (m : Man) : Bool :=
  m.kind == 1 && (match m.st with
    | .placed | .starting | .running | .preempting | .preempted | .resuming => true
    | _ => false)

/-- Loss of module power, and boot after it (R348). -/
def State.powerLoss (s : State) : State :=
  let gone := s.mans.filter Man.onDevice
  gone.foldl (fun s m => s.event srcOffice fcMachPower (some m.job) (w64 m.slotVa)) { s.resetKeep with losses := s.losses + 1 }

/-- MODULE_POWER_LOSS. -/
def execModulePowerLoss (s : State) : Out := .next s.powerLoss

/-- THERMAL_TRIP (spec/25 R383): as a loss of module power. -/
def execThermalTrip (s : State) : Out := .next s.powerLoss

-- the event ring (R354) -----------------------------------------------------------------------------------------------------------------

/-- EVBASE_WRITE: while EN is 1, BASE and LOG2N keep their values; EN is set only with LOG2N in 6-20. Records held since reset are
written once EN is first set. -/
def execEvbaseWrite (v : Nat) (s : State) : Out :=
  let w := w64 v
  if bt s.evbase 63 then .next { s with evbase := bput s.evbase 63 1 (bit (bt w 63)) }
  else
    let ok := bt w 63 && decide (6 ≤ bf w 0 5 ∧ bf w 0 5 ≤ 20)
    let s := { s with evbase := w64 (bit ok * 2 ^ 63 + bf w 12 45 * 4096 + bf w 0 5) }
    if ok ∧ !s.evOnce then .next (s.evHeld.foldl State.evPut { s with evOnce := true, evHeld := [] })
    else .next s

end Sys2Proof.Machine
end

