-- ==== Sys2Proof/Machine/Debug.lean ====
section
/-! DEFINITION. Debug halt, stepping and image transfer (spec/23 R356-R359, R342, R343, R360). -/

namespace Sys2Proof.Machine
open Sys2Proof

-- host accesses by virtual address ---------------------------------------------------------------------------------------

/-- A refused host access is logged with its spread address and port (spec/25 R366). -/
def State.hostRefused (s : State) (port code : Nat) (job : Option Nat) (pa : Nat) : State :=
  s.event (srcHost port) code job (w64 (pa % 2 ^ 40 + port % 4 * 2 ^ 40))

/-- The host's check of one piece at a place on this device: none when it passes or needs none here. An executable page is read-only to
every party (spec/05 R86). -/
def State.hostCheck (s : State) (job va n : Nat) (acc : Acc) : State × Option Nat :=
  if acc = .write ∧ s.executable job va then (s, some fcPagePerm)
  else match s.tokens [.host] (s.chkRange job none acc va n) with
  | (s, some (code, _)) => (s, some code)
  | (s, none) => (s, none)

/-- Write one piece with a host access's checks. -/
def State.hostPut (s : State) (job va : Nat) (bs : List Byte) : State :=
  match s.translate job va none with
  | .error _ | .ok (.peer _) => s
  | .ok l =>
    match (s.healWalk job va).hostCheck job va bs.length .write with
    | (s, some code) => s.hostRefused 0 code (some job) (match l with | .hbm pa _ => pa | _ => 0)
    | (s, none) => (s.locWrite l bs).arrive job none va bs.length

/-- Read one piece; none when it is refused, poisoned or not mapped here. -/
def State.hostGet (s : State) (job va n : Nat) : State × Option (List Byte) :=
  match s.translate job va none with
  | .error _ | .ok (.peer _) => (s, none)
  | .ok l =>
    match s.hostCheck job va n .read with
    | (s, some code) => (s.hostRefused 0 code (some job) (match l with | .hbm pa _ => pa | _ => 0), none)
    | (s, none) =>
      let s := (s.healWalk job va).locHeal l n
      (s, s.locRead l n)

-- halting (R356, R357) -----------------------------------------------------------------------------------------------------

/-- OUTSTANDING: lighter operations, window writes and LOCAL wharf commands not yet settled (R356). -/
def State.outstanding (s : State) (b : Nat) : Nat :=
  let c := s.ctxAt b
  let ops := c.ops.filter fun o => !o.settled && (o.kind.queued || (match o.kind with
    | .wstore _ _ _ | .whpush _ _ _ => true
    | _ => false))
  (ops.length + s.localOpen c.self) % 65536

/-- HALTED (R356): halted, and drained if DRAIN. -/
def State.haltedBit (s : State) (b : Nat) : Bool :=
  let x := s.berth b
  x.st == .halted && (!bt x.dbgctl 62 || s.outstanding b == 0)

/-- HALTSTATb (R356). -/
def State.haltstat (s : State) (b : Nat) : W64 :=
  let x := s.berth b
  w64 (bit (s.haltedBit b) * 2 ^ 63 + bit x.imgbusy.isSome * 2 ^ 62 + x.reason % 8 * 2 ^ 56 + s.outstanding b)

/-- Whether STEP, OVER, BKEN, IMGOUT and IMGIN are heeded. -/
def State.debugReady (s : State) (b : Nat) : Bool := s.haltedBit b && (s.berth b).imgbusy.isNone

/-- HALT := 1: the berth halts at its next boundary. -/
def State.haltBerth (s : State) (b : Nat) : State := s.modBerth b fun x => { x with dbgctl := bput x.dbgctl 63 1 1 }

/-- HALT := 0: a halted berth goes on. -/
def State.resumeBerth (s : State) (b : Nat) : State :=
  s.modBerth b fun x =>
    { x with dbgctl := bput x.dbgctl 63 1 0, wasHalted := false, st := if x.st = .halted then .run else x.st }

/-- STEP (R358): one group is issued, whatever freeze precedes it; a breakpoint does not stop it. -/
def State.stepBerth (s : State) (b : Nat) : State :=
  if s.debugReady b then s.modBerth b fun x => { x with st := .run, stepping := some 0, bpSkip := true } else s

/-- DEBUG_HALT. -/
def execDebugHalt (s : State) : Out := .next (s.haltBerth s.subj.berth)
/-- DEBUG_RESUME. -/
def execDebugResume (s : State) : Out := .next (s.resumeBerth s.subj.berth)
/-- STEP. -/
def execStep (s : State) : Out := .next (s.stepBerth s.subj.berth)

-- images (R342, R343, R359, R360) ----------------------------------------------------------------------------------------------

/-- What the blocks of an image hold whose encoding the specification does not give: the pilot state, the snapshots, the lighter
state, the probe tags and the matrix sequencer's record (R342, R343). -/
def Ctx.internal (c : Ctx) : Ctx :=
  { c with mrf := [], acc := [], live := [], banks := [], mpb := none, spad := [], mode := .own, active := 0, hs := false,
           open_ := false, landed := false, went := false, frozenFor := 0 }

def EMode.code : EMode → Nat
  | .own => 0 | .pair => 1 | .quad => 2

/-- FLAGS of an image (R342). -/
def Ctx.imageFlags (c : Ctx) (halted : Bool) : Nat :=
  let fmt := fun i => match (c.bank i).fmt with | some f => f.code | none => 0
  bit c.hs + bit halted * 2 + c.mode.code * 4 + (c.live.foldl (fun n k => n + 2 ^ (4 + k % 4)) 0)
    + fmt c.active * 2 ^ 8 + fmt (1 - c.active) * 2 ^ 12 + c.active * 2 ^ 16 + bit c.mpb.isNone * 2 ^ 17

/-- n bytes of cells from the byte offset of the first. -/
def wordBytes (t : Tab W32) (first n : Nat) : List Byte := (List.range n).flatMap fun i => leBytes 4 (Tab.get 0 t (first + i)).toNat

/-- The newest version of a weight row. -/
def Bank.newest (k : Bank) (r : Nat) : WRow := (Tab.get [] k.rows r).headD ⟨0, [], []⟩

/-- Block k of an image, but for the header; `n` numbers the encodings that the specification leaves internal. -/
def Ctx.imageBlock (c : Ctx) (n k : Nat) : List Byte :=
  let bank := fun i => c.bank i
  if !c.present.contains k then List.replicate 4096 0
  else if 6 ≤ k ∧ k < 14 then
    -- the valid entries of the tables, packed in entry order; the rest is zero
    let tags := (c.ways.filter fun w => w.2.valid).map fun w => c.wayPlace w.1
    (List.range 4096).map fun i => if tags.contains ((4096 * (k - 6) + i) / 8) then Config.imageByte n (4096 * k + i) else 0
  else if k < 14 ∨ (16 ≤ k ∧ k < 24) then (List.range 4096).map fun i => Config.imageByte n (4096 * k + i)
  else if k < 16 then (List.range 4096).map fun i => (c.mpb.getD []).getD (4096 * (k - 14) + i) 0
  else if k < 56 then
    (List.range 16).flatMap fun j => (List.range 128).flatMap fun i =>
      leBytes 2 ((((bank ((k - 24) / 16)).newest ((k - 24) % 16 * 16 + j)).codes).getD i 0)
  else if k < 58 then
    (List.range 8).flatMap fun j => (List.range 128).flatMap fun i => leBytes 4 ((((bank (k - 56)).newest (32 * j)).scales).getD i 0)
  else if k < 64 then List.replicate 4096 0
  else if k < 128 then wordBytes c.mrf ((k - 64) * 1024) 1024
  else if k < 256 then wordBytes c.acc ((k - 128) * 1024) 1024
  else c.spadRead ((k - 256) * 4096) 4096

/-- Header below its CRC (R342). -/
def Ctx.imageHeader (c : Ctx) (job : Nat) (halted : Bool) (seq : Nat) : List Byte :=
  let map := c.present.foldl (fun m k => m + 2 ^ k) 0
  let dead := (List.range 128).foldl (fun m p => if rowDead c.rb c.ld p then m + 2 ^ p else m) 0
  leBytes 4 1 ++ leBytes 4 (c.imageFlags halted) ++ leBytes 8 (job % 64 + c.rank % 2 ^ 17 * 256) ++ leBytes 64 map ++ leBytes 16 dead
    ++ List.replicate (0xFF8 - 0x60) 0 ++ leBytes 4 seq

/-- The number of the encodings of a context's internal blocks: equal contents have equal bytes (R360). -/
def State.imageNo (s : State) (c : Ctx) : State × Nat :=
  match s.images.find? fun e => e.2 == c.internal with
  | some (n, _) => (s, n)
  | none => ({ s with nextId := s.nextId + 1, images := s.images ++ [(s.nextId, c.internal)] }, s.nextId)

/-- The bytes of an image. -/
def Ctx.imageBytes (c : Ctx) (n job : Nat) (halted : Bool) (seq : Nat) : List (List Byte) :=
  let h := c.imageHeader job halted seq
  let rest := (List.range 511).map fun k => c.imageBlock n (k + 1)
  let crc := crc32c (h ++ (c.present.filter (· != 0)).flatMap fun k => rest.getD (k - 1) [])
  (h ++ leBytes 4 crc.toNat) :: rest

/-- The buffer of a debug image transfer. -/
def Berth.imageVa (x : Berth) : Nat := bf x.dbgimg 12 45 * 4096

/-- IMGOUT (R359): the image is written to the buffer, absent blocks as zero. -/
def State.imgoutBerth (s : State) (b : Nat) : State :=
  if !s.debugReady b then s
  else
    let x := s.berth b
    let job := s.jobAt b
    -- an image names no berth: its gang is counted from its own (R343)
    let (s, n) := s.imageNo (x.ctx.rebase fun k => k + 128 - b)
    let img := x.ctx.imageBytes n job true x.shadow.seq
    let s := ((List.range 512).zip img).foldl (fun s k => s.hostPut job (x.imageVa + 4096 * k.1) k.2) s
    s.modBerth b fun x => { x with imgbusy := some (x.imageVa, true) }

/-- IMGIN (R359): the transfer begins. -/
def State.imginBerth (s : State) (b : Nat) : State :=
  if s.debugReady b then s.modBerth b fun x => { x with imgbusy := some (x.imageVa, false) } else s

def execImgout (s : State) : Out := .next (s.imgoutBerth s.subj.berth)
def execImgin (s : State) : Out := .next (s.imginBerth s.subj.berth)

/-- Cells of a table from the bytes of its blocks. -/
def cellsOf (bs : List Byte) (z : Tab W32) (first : Nat) : Tab W32 :=
  let ws := (chunks 4 (bs.length / 4) bs).map fun l => BitVec.ofNat 32 (leValue l)
  ((List.range ws.length).zip ws).foldl (fun t x => Tab.set 0 t (first + x.1) x.2) z

/-- Weight banks from their blocks. -/
def bankOf (fmt : Option Fmt) (codes scales : List Byte) : Bank :=
  let row := fun r : Nat =>
    let cs := (chunks 2 128 ((codes.drop (256 * r)).take 256)).map leValue
    let ss := if r % 32 = 0 then (chunks 4 128 ((scales.drop (16 * r)).take 512)).map leValue else []
    (⟨0, cs, if ss.any (· != 0) then ss else []⟩ : WRow)
  let blank := fun v : WRow => v.codes.all (· == 0) && v.scales.isEmpty
  { fmt := fmt, rows := ((List.range 256).filter fun r => !blank (row r)).map fun r => (r, [row r]) }

/-- What the internal blocks of an image that no IMGOUT of this device wrote say: the specification gives no encoding of them, so the
content is a free value (log entry 11). -/
opaque imageInternal : List Byte → Ctx

/-- The pilot state of R342 out of a context, every field within its width. -/
def Ctx.pilotFrom (c q : Ctx) : Ctx :=
  { c with
    sregs := q.sregs.filter fun e => decide (1 ≤ e.1 ∧ e.1 < 64)
    pc := q.pc % 32768
    rb := q.rb % 128
    ld := Nat.min 128 q.ld
    loops := q.loops.filter fun e => decide (e.1 < 4)
    kmasks := q.kmasks.filter fun e => decide (1 ≤ e.1 ∧ e.1 < 8)
    streams := q.streams
    rings := q.rings.filter fun e => decide (e.1 < 16)
    windows := q.windows.filter fun e => decide (e.1 < 16)
    fq := q.fq
    sq := q.sq.map (· % 16)
    ptconf := (q.ptconf.filter fun e => decide (e.1 < 4)).map fun e => (e.1, e.2 &&& 0xFFFFFFF)
    spexp := q.spexp
    drop := q.drop
    site := q.site % 16
    ttag := q.ttag % 64
    epochs := q.epochs
    phases := q.phases
    tcause := w64 (bf q.tcause 0 8)
    tpc := w64 (bf q.tpc 0 15)
    taddr := q.taddr
    tvec := w64 (bf q.tvec 63 1 * 2 ^ 63 + bf q.tvec 0 15)
    tscratch := q.tscratch }

/-- The snapshots, lighter state, probe tags and matrix sequencer's record out of a context that a foreign image names: its operations
take numbers from `first` on, and are issued again. -/
def Ctx.restFrom (q : Ctx) (first : Nat) : Ctx :=
  let fresh := fun o : Op => match o.kind with
    | .rload _ _ _ => false
    | _ => true
  let gone := fun f : Flight => match f.eff with
    | .rload _ _ none | .rfail _ _ _ => false
    | _ => true
  let ops := q.ops.filter fresh
  { q with
    flights := q.flights.filter gone
    aside := q.aside.map fun a => { a with flights := a.flights.filter gone, held := [], polls := [], mbox := (none, none) }
    ops := ((List.range ops.length).zip ops).map fun x => { x.2 with id := first + x.1, stage := .sent, logged := false } }

/-- The context that an image holds; none when a check of R342 or R343 fails. Internal blocks are known by the images that IMGOUT
wrote; unknown ones give free values (log entry 11). -/
def State.imageCtx (s : State) (b : Nat) (img : List (List Byte)) : Option Ctx :=
  let c := s.ctxAt b
  let h := img.headD []
  let num := fun (o n : Nat) => leValue ((h.drop o).take n)
  let fl := num 4 4
  let map := num 0x10 64
  let mode := if fld fl 2 2 = 0 then some EMode.own else if fld fl 2 2 = 1 then some .pair else if fld fl 2 2 = 2 then some .quad else none
  let zero := List.replicate 4096 (0 : Byte)
  let blk := fun k => if map.testBit k then img.getD k zero else zero
  let known := fun (ks : List Nat) => (s.images.find? fun e => ks.all fun k => blk k == e.2.imageBlock e.1 k).map fun e =>
    e.2.rebase fun k => k + b - 128
  let inner := [2, 3, 4, 5, 6, 7, 8, 9, 10, 11, 12, 13] ++ (List.range 8).map (16 + ·)
  match mode with
  | some mode =>
    if num 0 4 ≠ 1 ∨ fl / 2 ^ 18 ≠ 0 ∨ num 8 8 ≠ s.jobAt b % 64 + c.rank % 2 ^ 17 * 256 ∨ map % 4 ≠ 3
        ∨ (List.range 6).any (fun k => map.testBit (58 + k)) then none
    else
      let q := imageInternal ((1 :: inner).flatMap blk)
      let r := (known inner).getD (q.restFrom s.nextId)
      let p := (known [1]).getD (c.internal.pilotFrom q)
      let bytes := fun (k n : Nat) => (List.range n).flatMap fun i => blk (k + i)
      let active := fld fl 16 1
      let fmt := fun (i : Nat) =>
        let v := if i = active then fld fl 8 4 else fld fl 12 4
        -- no weight format has code 0 (spec/17 R245): it stands for NONE
        if v = 0 then none else Fmt.ofCode? v
      let banks : Tab Bank := [0, 1].foldl (fun t i => Tab.set Bank.none t i (bankOf (fmt i) (bytes (24 + 16 * i) 16) (blk (56 + i)))) []
      let spad := Memory.write zeroByte [] 0 (bytes 256 256)
      let live := (List.range 4).filter fun k => fl.testBit (4 + k)
      -- a FREE slot has no cells (spec/17 R244)
      let acc := (cellsOf (bytes 128 128) [] 0).filter fun e => live.contains (e.1 / 32768)
      some { p with
        team := c.team, rank := c.rank
        branch := r.branch, quiet := r.quiet, aside := r.aside, flights := r.flights, ops := r.ops, fences := r.fences, ports := r.ports, ways := r.ways
        cfails := r.cfails, nfails := r.nfails, refusals := r.refusals
        hs := fl.testBit 0, mode := mode, live := live
        active := active, banks := banks
        mpb := if fl.testBit 17 then none else some (bytes 14 2)
        mrf := cellsOf (bytes 64 64) [] 0, acc := acc, spad := spad }
  | none => none

/-- Whether an image's CRC checks (R342). -/
def imageCrc (img : List (List Byte)) : Bool :=
  let h := img.headD []
  let map := leValue ((h.drop 0x10).take 64)
  let rest := (List.range 511).flatMap fun k => if map.testBit (k + 1) then img.getD (k + 1) [] else []
  crc32c (h.take 0xFFC ++ rest) == BitVec.ofNat 32 (leValue (h.drop 0xFFC))

/-- Read the 512 blocks of an image buffer with host checks. -/
def State.imageRead (s : State) (job va : Nat) : Nat → State × Option (List (List Byte))
  | 0 => (s, some [])
  | n + 1 =>
    match s.hostGet job va 4096 with
    | (s, none) => (s, none)
    | (s, some x) => match s.imageRead job (va + 4096) n with
      | (s, some l) => (s, some (x :: l))
      | (s, none) => (s, none)

/-- Give a berth the matrix state that its image brought. -/
def Ctx.withMatrix (c : Ctx) (m : MxState) : Ctx := { c with acc := m.acc, live := m.live, banks := m.banks, active := m.active }

/-- Restore the context that an image holds. A follower's matrix state waits for its leader's image, with which it is restored (spec/17
R262). -/
def State.imageIn (s : State) (b : Nat) (c : Ctx) : State :=
  let old := s.ctxAt b
  if c.mode ≠ .own then
    let kept : MxState := ⟨b, old.acc, old.live, old.banks, old.active⟩
    s.modBerth b fun x => { x with ctx := c.withMatrix kept, imgHeld := some ⟨b, c.acc, c.live, c.banks, c.active⟩ }
  else
    let s := s.modCtxAt b fun _ => c
    (s.followers b).foldl (fun s k => s.modBerth k fun x => match x.imgHeld with
      | some m => { x with ctx := x.ctx.withMatrix m, imgHeld := none }
      | none => x) s

/-- IMAGE_TRANSFER_DONE (R359): IMGBUSY clears; an IMGIN whose CRC checks restores the state, or leaves the berth unchanged with an
event when a check fails. -/
def execImageTransferDone (s : State) : Out :=
  let b := s.subj.berth
  match (s.berth b).imgbusy with
  | none => .next s
  | some (va, out) =>
    let s := s.modBerth b fun x => { x with imgbusy := none }
    if out ∨ (s.berth b).st ≠ .halted then .next s
    else match s.imageRead (s.jobAt b) va 512 with
      | (s, none) => .next s
      | (s, some img) =>
        if !imageCrc img then .next s
        else match s.imageCtx b img with
          -- numbers that a foreign image's operations take are used up
          | some c => .next ({ s with nextId := s.nextId + c.ops.length }.imageIn b c)
          | none => .next (s.eventOpen (srcBerth b) fcMachImage (some (s.jobAt b)))

end Sys2Proof.Machine
end

