-- ==== Sys2Proof/Machine/Scanner.lean ====
section
/-! DEFINITION. The scanner of MAPX (spec/05 R74, R75, R82-R84, R94, spec/21 R301, spec/19 R283). -/

namespace Sys2Proof.Machine
open Sys2Proof

-- what a word reads and writes (spec/05 R75, spec/11 R154, spec/13 R184, spec/15 R211, spec/17 R245) ------------------------

/-- A register or name, as the dependence checks see it. -/
inductive Res where
  | s (n : Nat)
  | k (n : Nat)
  | st (n : Nat)
  | q (n : Nat)
  | loop (level : Nat)
  | m (x : MName)
deriving DecidableEq, Repr

/-- Whether two names overlap (spec/03 R41). -/
def MName.overlaps (x y : MName) : Bool := x.plane == y.plane && (x.dir != y.dir || x.idx == y.idx)

/-- Whether two resources meet. -/
def Res.meets : Res → Res → Bool
  | .m x, .m y => MName.overlaps x y
  | a, b => a == b

/-- Reads and writes. -/
abbrev Uses := List Res × List Res

/-- Guard of a word, read whenever it is one. -/
def ofGuard (h : Hd) : List Res := [.s h.gr]
def useSS (h : Hd) (d a b : Nat) : Uses := (ofGuard h ++ [.s a, .s b], [.s d])
def useVV (h : Hd) (d a b : MName) (k : Nat) : Uses := (ofGuard h ++ [.k k, .m a, .m b], [.m d])
def useV1 (h : Hd) (d a : MName) (k : Nat) : Uses := (ofGuard h ++ [.k k, .m a], [.m d])
def useV3 (h : Hd) (d a b : MName) (k : Nat) : Uses := (ofGuard h ++ [.k k, .m a, .m b, .m d], [.m d])
def useL (h : Hd) (l : List Nat) (w : List Res) : Uses := (ofGuard h ++ l.map Res.s, w)

/-- What a berth word reads and writes. -/
def usesOf : Instr → Uses
  | .nop h => (ofGuard h, [])
  | .add h d a b | .sub h d a b | .and h d a b | .or h d a b | .xor h d a b | .andn h d a b | .shl h d a b | .shr h d a b
  | .sar h d a b | .rol h d a b | .min h d a b | .max h d a b | .minu h d a b | .maxu h d a b | .mul h d a b | .mulh h d a b
  | .mulhu h d a b | .div h d a b | .divu h d a b | .rem h d a b | .remu h d a b | .sel h d a b => useSS h d a b
  | .clz h d a | .popc h d a | .mov h d a => useL h [a] [.s d]
  | .addi h d a _ | .movh h d a _ | .shli h d a _ | .shri h d a _ | .sari h d a _ | .bext h d a _ _ | .setb h d a _ | .clrb h d a _
  | .lds h d a _ => useL h [a] [.s d]
  | .movi h d _ => useL h [] [.s d]
  | .bins h d a _ _ => useL h [a, d] [.s d]
  | .cmpeq h d _ a b | .cmpne h d _ a b | .cmplt h d _ a b | .cmpltu h d _ a b | .cmple h d _ a b | .cmpleu h d _ a b =>
    useSS h d a b
  | .sts h d a _ => useL h [a, d] []
  | .br h _ => useL h [] []
  | .call h d _ => useL h [] [.s d]
  | .jmp h d a => useL h [a] [.s d]
  | .ret h a => useL h [a] []
  | .loop h l c _ => useL h [c] [.loop l]
  | .loopi h l _ _ => useL h [] [.loop l]
  | .mtl h _ l a => useL h [a] [.loop l]
  | .mfl h d _ l => (ofGuard h ++ [.loop l], [.s d])
  | .mfsys h d _ | .time h d _ | .id h d _ => useL h [] [.s d]
  | .mtsys h a _ | .launch h a _ => useL h [a] []
  | .mboxreg h d a _ _ _ => useL h [a] [.s d]
  | .trap h _ | .bkpt h _ | .rett h | .exit h | .phase h _ | .fence h _ _ | .pfence h _ | .mboxack h => useL h [] []
  | .tklend h g n _ | .tkshare h g n _ _ => useL h [g, n] []
  | .tkret h g _ | .tksplit h g _ | .tkjoin h g _ | .tkunshare h g _ | .tkatom h g _ _ | .tkquery h g _ _ | .tkclaim h g _ =>
    useL h [g] []
  | .vadd h d a b _ _ _ k | .vsub h d a b _ _ _ k | .vmul h d a b _ _ _ k => useVV h d a b k
  | .vfma h d a b _ _ _ k | .vfms h d a b _ _ _ k => useV3 h d a b k
  | .vmin h d a b _ _ k | .vmax h d a b _ _ k => useVV h d a b k
  | .vabs h d a _ _ k | .vneg h d a _ _ k | .vexp2 h d a _ _ k | .vlog2 h d a _ _ k | .vrsq h d a _ _ k | .vrcp h d a _ _ k =>
    useV1 h d a k
  | .viadd h d a b _ _ _ k | .visub h d a b _ _ _ k => useVV h d a b k
  | .vimul h d a b _ _ _ _ k => useVV h d a b k
  | .vand h d a b _ k | .vor h d a b _ k | .vxor h d a b _ k | .vshl h d a b _ k | .vshr h d a b _ k | .vsar h d a b _ k
  | .vsel h d a b _ k => useVV h d a b k
  | .vcmp h kd a b _ _ _ k => (ofGuard h ++ [.k k, .m a, .m b], [.k kd])
  | .vcvt h d a _ _ rm _ _ _ k => if rm = .sr then (ofGuard h ++ [.k k, .m a, .m d], [.m d]) else useV1 h d a k
  | .vkey h d a _ _ _ _ k => useV1 h d a k
  | .vhist h d a _ _ _ acc _ k => if acc then (ofGuard h ++ [.k k, .m a, .m d], [.m d]) else useV1 h d a k
  | .vscan h d a _ _ _ _ k => useV1 h d a k
  | .vred h d a _ _ _ _ _ k => useV1 h d a k
  | .vcomp h d a _ k | .vexpd h d a _ k => useV1 h d a k
  | .vperm h d a b _ _ _ k => useVV h d a b k
  | .vbcast h d a _ _ => (ofGuard h ++ [.s a], [.m d])
  | .vmovs h m r _ toVec _ _ => if toVec then (ofGuard h ++ [.s r, .m m], [.m m]) else (ofGuard h ++ [.m m], [.s r])
  | .vrot h a _ | .vmconf h a _ => useL h [a] []
  | .kand h kd ka kb | .kor h kd ka kb => (ofGuard h ++ [.k ka, .k kb], [.k kd])
  | .knot h kd ka => (ofGuard h ++ [.k ka], [.k kd])
  | .kpopc h d ka => (ofGuard h ++ [.k ka], [.s d])
  | .vld h m a k _ _ => (ofGuard h ++ [.s a, .k k], [.m m])
  | .vst h m a k _ _ => (ofGuard h ++ [.s a, .k k, .m m], [])
  | .vldx h d a _ _ k => useV1 h d a k
  | .vstx h a b _ _ k => (ofGuard h ++ [.k k, .m a, .m b], [])
  | .cp h g l n _ _ _ _ _ | .cpw h g l n _ _ _ _ _ | .cps h g l n _ _ _ _ _ => useL h [g, l, n] []
  | .cpg h g l n _ _ => useL h [g, l, n] []
  | .lwait h _ | .stbind h _ _ | .atomfence h _ => useL h [] []
  | .strel h g l x => useL h [l] [.s g, .st x]
  | .rconf h _ l n => useL h [l, n] []
  | .racq h q l | .rtake h q l => useL h [] [.s l, .q q]
  | .rpub h _ l => useL h [l] []
  | .rrel h _ => useL h [] []
  | .probe h g l _ _ => useL h [g] [.s l]
  | .pwait h l => useL h [l] []
  | .pinv h g _ _ => useL h [g] []
  | .atom h g l n _ _ _ _ _ => useL h [g, l, n] []
  | .atomnr h g l n _ _ _ _ => useL h [g, l, n] []
  | .semwait h g n _ _ => useL h [g, n] []
  | .sempost h g n => useL h [g, n] []
  | .whpush h g l n => useL h [g, l, n] []
  | .imload h g l n _ => useL h [g, l, n] []
  | .layset h l n => useL h [l, n] []
  | .wconf h _ g l n => useL h [g, l, n] []
  | .mmul h _ qa m _ _ _ => useL h [m] [.q qa]
  | .wload h qb _ _ => useL h [] [.q qb]
  | .fmtpush h m | .accconf h m | .mpbld h m => useL h [m] []
  | .wswap h _ | .fmtclr h | .sqbind h _ _ | .mpbclr h | .acczero h _ _ | .accfree h _ _ => useL h [] []
  | .accdrain h _ m _ _ _ _ ra rb => useL h [m, ra, rb] []
  | .accread h x _ m => useL h [m] [.m x]
  | .accwrite h _ m x => (ofGuard h ++ [.s m, .m x], [])
  | _ => ([], [])

/-- The control transfer forms (R84). -/
def isTransfer : Instr → Bool
  | .br _ _ | .call _ _ _ | .jmp _ _ _ | .ret _ _ | .probe _ _ _ _ _ | .loop _ _ _ _ | .loopi _ _ _ _ | .rett _ => true
  | _ => false
/-- Whether a word is a BR, CALL, JMP, RET or PROBE, whose group has static delay groups (R84). Its form is that of its opcode and
selector, also where another of its bits fails a check. -/
def hasDelay (w : W64) : Bool :=
  let op := bf w 56 7
  op == 0x20 || op == 0x21 || op == 0x22 || op == 0x23 || (op == 0x6D && bf w 10 7 == 0)
/-- Body offset of a loop form. -/
def bodyOff : Instr → Option Nat
  | .loop _ _ _ o | .loopi _ _ _ o => some o
  | _ => none

-- groups ----------------------------------------------------------------------------------------------------------------------------

/-- A word of a mapping: offset, class, stop bit, whether it has delay groups, and its instruction or the code of the check that its bits
fail. -/
structure SWord where
  off  : Nat
  cls  : SlotClass
  stop : Bool
  delays : Bool
  ins  : Except Nat Instr

def SWord.of (off : Nat) (w : W64) : SWord := ⟨off, slotClass (bf w 56 7), bt w 63, hasDelay w, decodeBerth w.toNat⟩
def SWord.any (f : Instr → Bool) (x : SWord) : Bool :=
  match x.ins with
  | .ok i => f i
  | .error _ => false
/-- What a word reads and writes. DESIGN CHOICE (log entry 110): one whose own bits fail reads and writes nothing and is no transfer in
the checks of its group; no report depends on it, since that word's own failure stands before any that it would cause (R94). -/
def SWord.uses (x : SWord) : Uses :=
  match x.ins with
  | .ok i => let u := usesOf i; (u.1, u.2.filter (· != .s 0))
  | .error _ => ([], [])

/-- Split words into groups. -/
def splitGroups : List SWord → List (List SWord)
  | [] => []
  | x :: xs =>
    if x.stop then [x] :: splitGroups xs
    else match splitGroups xs with
      | [] => [[x]]
      | g :: gs => (x :: g) :: gs

/-- Words of a class that a group may hold (R74); none for NOP. -/
def classLimit : SlotClass → Option Nat
  | .s => some 2
  | .v | .m | .l | .c => some 1
  | .none => .none

/-- Failures of a group: offset and code. Of two control transfers in one group the later is the transfer word reported (DESIGN CHOICE,
log entry 111: R83 does not say which). -/
def groupFails : List SWord → List SWord → List (Nat × Nat)
  | _, [] => []
  | before, x :: xs =>
    let u := x.uses
    let earlier := before.flatMap fun y => y.uses.2
    let clash : Bool := match classLimit x.cls with
      | some n => decide (n ≤ (before.filter fun y => y.cls == x.cls).length)
      | none => false
    (if before.length = 6 ∨ clash then [(x.off, 3)] else [])
      ++ (if earlier.any fun a => u.1.any (Res.meets a) then [(x.off, 4)] else [])
      ++ (if earlier.any fun a => u.2.any (Res.meets a) then [(x.off, 5)] else [])
      ++ (if x.any isTransfer && before.any (SWord.any isTransfer) then [(x.off, 6)] else [])
      ++ groupFails (before ++ [x]) xs

/-- Offset of a group's first word. -/
def firstOff (g : List SWord) : Nat := (g.head?.map SWord.off).getD 0
/-- Whether a group holds a word offset. -/
def holdsOff (o : Nat) (g : List SWord) : Bool := g.any fun x => x.off == o

/-- Loops of a mapping: the LOOP word's offset, lb and le. -/
def loopsOf (gs : List (List SWord)) : List (Nat × Nat × Nat) :=
  gs.flatMap fun g => g.filterMap fun x => match x.ins with
    | .ok i => (bodyOff i).map fun o => let lb := firstOff g + g.length; (x.off, lb, lb + o)
    | .error _ => none

/-- SCAN.LOOP (R83). -/
def loopFails (n : Nat) (gs : List (List SWord)) : List (Nat × Nat) :=
  (loopsOf gs).filterMap fun (o, lb, le) =>
    let ends := gs.any fun g => g.any fun x => x.off == le && x.stop
    let body := (gs.filter fun g => decide (lb ≤ firstOff g ∧ firstOff g ≤ le)).length
    if n ≤ le ∨ !ends ∨ body < 3 then some (o, 7) else none

/-- SCAN.DELAY by static delay groups (R84). -/
def delayFails (gs : List (List SWord)) : List (Nat × Nat) :=
  let idx := fun (o : Nat) => gs.findIdx (holdsOff o)
  let loops := (loopsOf gs).map fun (_, lb, le) => (idx lb, idx le)
  ((List.range gs.length).zip gs).flatMap fun (g, ws) =>
    if !ws.any SWord.delays then []
    else
      let ds := [g + 1, g + 2] ++ loops.flatMap fun (f, e) => if g = e then [f, f + 1] else if g + 1 = e then [f] else []
      ds.flatMap fun d => ((gs.getD d []).filter (SWord.any isTransfer)).map fun x => (x.off, 6)

/-- The earliest of two failures: lowest offset, then first in the table (R94). -/
def earlierFail (a b : Nat × Nat) : Bool := decide (a.1 < b.1 ∨ (a.1 = b.1 ∧ a.2 ≤ b.2))
def leastFail : List (Nat × Nat) → Option (Nat × Nat)
  | [] => none
  | x :: xs => match leastFail xs with
    | some y => if earlierFail x y then some x else some y
    | none => some x

/-- The scan of a code mapping (R83, R94): the offset of the reported word and its code; none when every check passes. -/
def scanCode (ws : List W64) : Option (Nat × Nat) :=
  let xs := ((List.range ws.length).zip ws).map fun x => SWord.of x.1 x.2
  let gs := splitGroups xs
  let bits := xs.filterMap fun x => match x.ins with | .error e => some (x.off, e) | .ok _ => none
  let last := match xs.getLast? with | some x => if x.stop then [] else [(x.off, 3)] | none => []
  leastFail (bits ++ last ++ gs.flatMap (groupFails []) ++ loopFails ws.length gs ++ delayFails gs)

/-- The scan of a wharf stream (spec/21 R301). -/
def scanWharf (ws : List W64) : Option (Nat × Nat) :=
  (ws.findIdx? fun w => (decodeWharf w.toNat).isNone).map fun i => (i, 8)

end Sys2Proof.Machine
end

