-- ==== Sys2Proof/Machine/Host.lean ====
section
/-! DEFINITION. The host's accesses to device memory (spec/25 R366, R367), its register writes (R364), power and cooling (R382, R383),
boot and service levels (R377, R378). -/

namespace Sys2Proof.Machine
open Sys2Proof

-- device memory (R366, R367) ------------------------------------------------------------------------------------------------

/-- Role of a CXL port: 1 host, 2 pool (R362). -/
def State.role (s : State) (p : Nat) : Nat := bf s.cxlcfg (2 * p) 2
/-- Whether a port is up with the host role. -/
def State.hostPort (s : State) (p : Nat) : Bool := s.role p == 1 && s.svc.getLsbD (8 + p) && s.level != 3

/-- What becomes of a host access to a granule (R366). -/
inductive HostAcc where
  | done (s : State)
  | refused (s : State)

/-- Decide a host access of n bytes at a spread address, `byte` the address accessed. A refusal outside every region is logged with a
free code, since the spec names none (log entry 86). -/
def State.hostDecide (s : State) (port byte pa n : Nat) (acc : Acc) : HostAcc :=
  if hbmBytes ≤ pa then .refused s
  else if s.carveBase ≤ pa ∨ !s.chanUp (chanOf pa) then
    .refused ({ s with free := s.free + 1 }.hostRefused port ((Config.freeWord s.free).toNat % 256) none byte)
  else match Tab.get RevMap.none s.revmap (pa / 4096) with
    | .none => .done s
    | .tug => .refused (s.hostRefused port fcTokenNone none byte)
    | .job j va =>
      match s.hostCheck j (va + pa % 4096) n acc with
      | (s, some code) => .refused (s.hostRefused port code (some j) byte)
      | (s, none) => .done s

/-- HOST_READ: the line that holds an address; poison when refused or poisoned. A line returned may be cached while the port's filter
of 2^21 lines has room (R367). -/
def execHostRead (port pa : Nat) (s : State) : Out :=
  let line := pa / 64
  let bad := fun s : State => { s with reply := some (List.replicate 64 0, true) }
  if !s.hostPort port then .next s
  else match s.hostDecide port pa (64 * line) 64 .read with
    | .refused s => .next (bad s)
    | .done s =>
      let s := s.heal (64 * line) 64
      match s.hbmRead (64 * line) 64 with
      | none => .next (bad s)
      | some bs =>
        let room := decide ((s.filter.filter fun f => f.1 == port).length < 2 ^ 21) && !s.filter.contains (port, line)
        .next { s with reply := some (bs, false), filter := if room then s.filter ++ [(port, line)] else s.filter }

/-- A performed host write arrives in the mailboxes of its granule's job (spec/01 R28). -/
def State.hostStore (s : State) (pa : Nat) (bs : List Byte) : State :=
  let s := s.hbmWrite pa bs
  match Tab.get RevMap.none s.revmap (pa / 4096) with
  | .job j va => s.arrive j none (va + pa % 4096) bs.length
  | _ => s

/-- HOST_WRITE: bytes of one line; a refused write writes nothing and completes normally. -/
def execHostWrite (port pa : Nat) (bytes : List Byte) (s : State) : Out :=
  let bs := bytes.take (64 - pa % 64)
  if !s.hostPort port ∨ bs.isEmpty then .next s
  else match s.hostDecide port pa pa bs.length .write with
    | .refused s => .next s
    | .done s => .next (s.hostStore pa bs)

/-- BACK_INVALIDATE_RESPONSE (R367): the answer of the first port asked for a line; dirty data are performed before the record
changes. -/
def execBackInvalidateResponse (line : Nat) (dirty : List Byte) (s : State) : Out :=
  match s.binv.find? fun f => f.2 == line with
  | none => .next s
  | some f =>
    let s := { s with binv := s.binv.erase f }
    if dirty.isEmpty then .next s
    else match s.hostDecide f.1 (64 * line) (64 * line) 64 .write with
      | .refused s => .next s
      | .done s => .next (s.hostStore (64 * line) (dirty.take 64))

-- registers with rows of their own (R365, R369, R374) -----------------------------------------------------------------------------

/-- CARVE_WRITE (R365). -/
def execCarveWrite (v : Nat) (s : State) : Out :=
  let w := w64 v
  if bt s.carve 63 then .next s
  else
    let ok := bt w 63 && decide (4 ≤ bf w 0 12 ∧ bf w 0 12 ≤ 2688)
    .next { s with carve := w64 (bit ok * 2 ^ 63 + bf w 0 12) }

/-- POOLWIN_WRITE (R374): a write that overlaps another enabled window, or enables one on a port that is no pool port, is ignored with
an event. -/
def execPoolwinWrite (n v : Nat) (s : State) : Out :=
  let w := w64 v
  let span := fun w : W64 => (bf w 30 18 * 2 ^ 30, bf w 30 18 * 2 ^ 30 + 2 ^ bf w 48 8)
  let hits := [0, 1, 2, 3].any fun i =>
    let x := Tab.get (0 : W64) s.poolwin i
    i != n && bt x 63 && decide ((span x).1 < (span w).2 ∧ (span w).1 < (span x).2)
  if bt w 63 && (hits || s.role n != 2) then .next s.configEvent
  else .next { s with poolwin := Tab.set 0 s.poolwin n (w64 (bit (bt w 63) * 2 ^ 63 + bf w 48 8 * 2 ^ 48 + bf w 30 18 * 2 ^ 30)) }

/-- HRQTAIL_DOORBELL (R369). -/
def execHrqtailDoorbell (v : Nat) (s : State) : Out :=
  let t := v % 2 ^ 32
  if 2 ^ bf s.hrqbase 0 5 < (t + 2 ^ 32 - s.hrqhead) % 2 ^ 32 then .next (s.event srcHm evQueue none (w64 (16 + t * 2 ^ 32)))
  else .next { s with hrqtail := t }

/-- HRQBASE as written (R369). -/
def State.hrqbaseWrite (s : State) (w : W64) : State :=
  if bt s.hrqbase 63 then { s with hrqbase := bput s.hrqbase 63 1 (bit (bt w 63)) }
  else
    let ok := bt w 63 && decide (4 ≤ bf w 0 5 ∧ bf w 0 5 ≤ 12)
    { s with hrqbase := w64 (bit ok * 2 ^ 63 + bf w 12 45 * 4096 + bf w 0 5) }

-- throttling (R382) ------------------------------------------------------------------------------------------------------------------

/-- LIMIT in force. -/
def State.limit (s : State) : Nat := Nat.min 2400 (Nat.max 600 (bf s.pwrctl 0 12))
/-- A harbour-office event at the start or end of throttling; the specification gives it no code and no DATA. -/
def State.throttleEvent (s : State) : State := ({ s with free := s.free + 1 }).eventOpen srcOffice (bf (Config.freeWord s.free) 0 8) none

/-- POWER reads a value, and PEAK follows it. -/
def State.setPower (s : State) (p : Nat) : State :=
  { s with pwrstat := bput (bput s.pwrstat 32 16 (Nat.max p (bf s.pwrstat 32 16))) 0 16 p }

/-- Throttling begins when POWER exceeds LIMIT. -/
def State.powerCheck (s : State) : State :=
  if s.limit < bf s.pwrstat 0 16 ∧ !bt s.pwrstat 16 then ({ s with pwrstat := bput s.pwrstat 16 1 1 }).throttleEvent else s

-- every other register (R364) -------------------------------------------------------------------------------------------------------

/-- DBGCTLb (spec/23 R356): OVER, BKEN, STEP, IMGOUT and IMGIN are heeded while HALTED is 1 and IMGBUSY is 0. -/
def State.dbgctlWrite (s : State) (b : Nat) (w : W64) : State :=
  let ready := s.debugReady b
  let s := s.modBerth b fun x =>
    let c := bput x.dbgctl 62 1 (bit (bt w 62))
    { x with dbgctl := if ready then bput c 59 2 (bf w 59 2) else c }
  let s := if bt w 63 then s.haltBerth b else s.resumeBerth b
  let s := if ready ∧ bt w 58 then s.imgoutBerth b else s
  let s := if ready ∧ bt w 57 then s.imginBerth b else s
  if ready ∧ bt w 61 then s.stepBerth b else s

/-- The debug registers of a berth, by offset. -/
def State.dbgWrite (s : State) (b o : Nat) (w : W64) : State :=
  if o = 0 then s.dbgctlWrite b w
  else if 0x10 ≤ o ∧ o < 0x30 then
    s.modBerth b fun x => { x with bps := Tab.set 0 x.bps ((o - 0x10) / 8) (w64 (bit (bt w 63) * 2 ^ 63 + bf w 0 15)) }
  else if o = 0x30 then s.modBerth b fun x => { x with dbgimg := w64 (bf w 12 45 * 4096) }
  else s

/-- The registers of the first page. -/
def State.moduleReg (off v : Nat) (s : State) : Out :=
  let w := w64 v
  if off = 0x10 then execCarveWrite v s
  else if off = 0x18 then execFabctlWrite v s
  else if off = 0x20 then execPortmapWrite v s
  else if off = 0x28 then .next { s with wtimeout := w64 (bf w 0 32) }
  else if off = 0x30 then .next ({ s with pwrctl := w64 (bit (bt w 63) * 2 ^ 63 + bf w 32 16 * 2 ^ 32 + bf w 0 12) }).powerCheck
  else if off = 0x40 then execEvbaseWrite v s
  else if off = 0x50 then .next { s with evhead := v % 2 ^ 32 }
  else if off = 0x58 then .next (s.hrqbaseWrite w)
  else if off = 0x60 then execHrqtailDoorbell v s
  else if 0x80 ≤ off ∧ off < 0xC0 then
    if off % 16 = 0 then execPoolwinWrite ((off - 0x80) / 16) v s
    else .next { s with pooltgt := Tab.set 0 s.pooltgt ((off - 0x80) / 16) (w64 (bf w 30 34 * 2 ^ 30)) }
  else .next s

/-- REGISTER_WRITE: one aligned 8-byte write of BAR0 (R364). A register with a row of its own is written as that row gives; other
offsets, and read-only registers, ignore it. -/
def execRegisterWrite (off v : Nat) (s : State) : Out :=
  let w := w64 v
  let at_ := fun base n => decide (base ≤ off ∧ off < base + 8 * n)
  if off % 8 ≠ 0 then .next s
  else if off < 0xC0 then State.moduleReg off v s
  else if at_ 0x1000 64 then
    let q := (off - 0x1000) / 32
    let o := (off - 0x1000) % 32
    if o = 0 then execLqctlWrite q v s
    else if o = 8 then .next (if bt (s.lq q).ctl 63 then s else s.modLq q fun x => { x with base := w64 (bf w 0 57) })
    else if o = 16 then execLqtailDoorbell q v s
    else .next s
  else if at_ 0x2000 64 then .next { s with jobsched := Tab.set 0 s.jobsched ((off - 0x2000) / 8) w }
  else if at_ 0x2200 64 then
    .next { s with jobpt := Tab.set 0 s.jobpt ((off - 0x2200) / 8) (w64 (bit (bt w 63) * 2 ^ 63 + bf w 12 42 * 4096 + bf w 0 5)) }
  else if at_ 0x2400 64 then execPierjobWrite ((off - 0x2400) / 8) v s
  else if at_ 0x10000 256 then execWuctlWrite ((off - 0x10000) / 8) v s
  else if at_ 0x10800 256 then execWustatWrite ((off - 0x10800) / 8) v s
  else if at_ 0x11000 256 then .next { s with wshare := Tab.set 8 s.wshare ((off - 0x11000) / 8) (w64 (bf w 0 5)) }
  else if at_ 0x12000 16 then
    .next { s with ckset := Tab.set 0 s.ckset ((off - 0x12000) / 8) (w64 (bf w 57 7 * 2 ^ 57 + bf w 12 45 * 4096 + bf w 0 6)) }
  else if at_ 0x20000 4096 then
    .next { s with mctree := Tab.set 0 s.mctree ((off - 0x20000) / 8) (w64 (bf w 46 18 * 2 ^ 46 + bf w 0 16)) }
  else if at_ 0x30000 1024 then .next (s.dbgWrite ((off - 0x30000) / 64) ((off - 0x30000) % 64) w)
  else .next s

/-- What one aligned 8-byte read of BAR0 returns (R364); an access of another form, and an offset that the table does not list, read as
zero. No step of its own reads a register, but for PWRSTAT and WTEMP, whose maxima a read restarts. -/
def State.barRead (s : State) (off n : Nat) : W64 :=
  let at_ := fun base n => decide (base ≤ off ∧ off < base + 8 * n)
  let k := fun base => (off - base) / 8
  let reg := fun (t : Tab W64) (base : Nat) => Tab.get (0 : W64) t (k base)
  if n ≠ 8 ∨ off % 8 ≠ 0 then 0
  else if off < 0x70 then
    [s.cxlcfg, s.svcRead, s.carve, s.fabctl, s.portmap, s.wtimeout, s.pwrctl, s.pwrstat, s.evbase, w64 s.evtail, w64 s.evhead, s.hrqbase,
      w64 s.hrqtail, w64 s.hrqhead].getD (off / 8) 0
  else if at_ 0x80 8 then Tab.get (0 : W64) (if off % 16 = 0 then s.poolwin else s.pooltgt) ((off - 0x80) / 16)
  else if at_ 0x1000 64 then
    let q := s.lq ((off - 0x1000) / 32)
    [q.ctl, q.base, w64 q.tail, w64 q.head].getD (off % 32 / 8) 0
  else if at_ 0x2000 64 then reg s.jobsched 0x2000
  else if at_ 0x2200 64 then reg s.jobpt 0x2200
  else if at_ 0x2400 64 then reg s.pierjob 0x2400
  else if at_ 0x10000 256 then (s.unit (k 0x10000)).ctl
  else if at_ 0x10800 256 then (s.unit (k 0x10800)).stat
  else if at_ 0x11000 256 then Tab.get (8 : W64) s.wshare (k 0x11000)
  else if at_ 0x11800 256 then reg s.wtemp 0x11800
  else if at_ 0x12000 16 then reg s.ckset 0x12000
  else if at_ 0x20000 4096 then reg s.mctree 0x20000
  else if at_ 0x30000 1024 then
    let b := (off - 0x30000) / 64
    let o := (off - 0x30000) % 64
    let x := s.berth b
    if o = 0 then x.dbgctl
    else if o = 8 then s.haltstat b
    else if 0x10 ≤ o ∧ o < 0x30 then Tab.get 0 x.bps ((o - 0x10) / 8)
    else if o = 0x30 then x.dbgimg
    else 0
  else 0

-- power and cooling (R382, R383) -----------------------------------------------------------------------------------------------------------

/-- POWER_THROTTLE_BEGIN: POWER reads `watts`; throttling begins when it exceeds LIMIT. -/
def execPowerThrottleBegin (watts : Nat) (s : State) : Out :=
  .next (s.setPower (watts % 65536)).powerCheck

/-- POWER_THROTTLE_END: POWER has stayed at or below 95 % of LIMIT for 1 ms; what it reads then is not given. -/
def execPowerThrottleEnd (s : State) : Out :=
  if !bt s.pwrstat 16 then .next s
  else
    let p := Nat.min (bf (Config.freeWord s.free) 0 16) (s.limit * 95 / 100)
    .next (({ s with free := s.free + 1, pwrstat := bput s.pwrstat 16 1 0 }).setPower p).throttleEvent

/-- THERMAL_THROTTLE_BEGIN. -/
def execThermalThrottleBegin (s : State) : Out :=
  if bt s.pwrstat 17 then .next s else .next ({ s with pwrstat := bput s.pwrstat 17 1 1 }).throttleEvent
/-- THERMAL_THROTTLE_END. -/
def execThermalThrottleEnd (s : State) : Out :=
  if !bt s.pwrstat 17 then .next s else .next ({ s with pwrstat := bput s.pwrstat 17 1 0 }).throttleEvent

/-- PWRSTAT_READ: PEAK restarts from the POWER that stands. -/
def execPwrstatRead (s : State) : Out :=
  .next { s with reply := some (leBytes 8 (s.barRead 0x38 8).toNat, false), pwrstat := bput s.pwrstat 32 16 (bf s.pwrstat 0 16) }

-- boot and service levels (R362, R377, R378, R380) --------------------------------------------------------------------------------------------

/-- Whether a firmware slot boots. -/
def State.bootable (s : State) (f : Option Firmware) : Option Nat := f.bind fun f => if f.ok ∧ s.minsvn ≤ f.svn then some f.svn else none

/-- The slot that boots: true for A; the higher SVN, A on a tie (R380). -/
def State.bootSlot (s : State) : Option Bool :=
  match s.bootable s.slotA, s.bootable s.slotB with
  | some a, some b => some (decide (b ≤ a))
  | some _, none => some true
  | none, some _ => some false
  | none, none => none

/-- SVCLEVEL at recovery, low-water and full service, with the roles of the ports (R378). -/
def svcRecovery : W64 := 0x103
def svcLow : W64 := 0x1001000101
def State.svcFull (s : State) : W64 :=
  w64 (128 * 2 ^ 32 + 255 * 2 ^ 24 + ([0, 1, 2, 3].foldl (fun n p => if s.role p = 1 ∨ s.role p = 2 then n + 2 ^ (8 + p) else n) 0) + 2)

/-- Boot (R362, R377): roles from flash, the firmware slot, and low-water service or recovery. -/
def State.boot (s : State) : State :=
  let flash := fun p => s.flashRoles.getD p 0 % 4
  let roles := 1 + flash 1 * 4 + flash 2 * 16 + flash 3 * 64
  let slot := s.bootSlot
  let s := { s with cxlcfg := w64 roles, booted := slot, svc := if slot.isSome then svcLow else svcRecovery }
  if flash 0 = 1 then s else s.event srcOffice evPortrole none (w64 (flash 0))

/-- MODULE_RESET (R377). From service it resets the module first, after which what HBM holds is not given. -/
def execModuleReset (s : State) : Out :=
  if s.level = 0 then .next s.boot else .next ({ s.resetKeep with losses := s.losses + 1 }).boot

/-- FULL_SERVICE (R377): placing stops, every running team is pre-empted; once none is left, full service begins. -/
def execFullService (s : State) : Out :=
  if s.level ≠ 1 then .next s
  else
    let s := { s with raising := true }
    let pre := fun (s : State) (m : Man) =>
      if m.kind = 1 ∧ m.st = .running then
        (m.held.foldl (fun s b => s.modBerth b Berth.preemptNow) s).modMan m.id fun m =>
          { m with st := .preempting, start := none, awaits := [], grace := none }
      else if m.kind = 1 ∧ m.st = .preempting then
        (m.held.foldl (fun s b => s.modBerth b Berth.preemptNow) s).modMan m.id fun m => { m with grace := none }
      else s
    let busy := s.mans.any fun m => m.kind == 1 && (match m.st with
      | .placed | .starting | .running | .preempting | .resuming => true
      | _ => false)
    if busy then .next (s.mans.foldl pre s)
    else .next ({ s with raising := false, svc := s.svcFull }).syncPorts

end Sys2Proof.Machine
end

