-- ==== Sys2Proof/Machine/Sha.lean ====
section
/-! DEFINITION. SHA-384 and the verification of ECDSA P-384 signatures (spec/25 R379-R381 name them; FIPS 180-4 and FIPS 186-5 define
them, log entry 16). -/

namespace Sys2Proof.Machine
open Sys2Proof

/-- Whether no number from 2 to 20 divides n, for n below 441: whether n is prime. -/
def isPrime (n : Nat) : Bool := decide (2 ≤ n) && (List.range 21).all fun d => decide (d < 2) || d == n || n % d != 0

/-- The primes below 410, of which there are 80. -/
def primes : List Nat := (List.range 410).filter isPrime

/-- The largest number below 2^n above a whose k-th power is at most t, found bit by bit. -/
def rootFrom (k t : Nat) : Nat → Nat → Nat
  | 0, a => a
  | n + 1, a => rootFrom k t n (if (a + 2 ^ n) ^ k ≤ t then a + 2 ^ n else a)

/-- The first 64 bits of the fraction of a prime's k-th root. -/
def rootWord (k p : Nat) : W64 := w64 (rootFrom k (p * 2 ^ (64 * k)) 69 0)

/-- Round constants: of the cube roots of the first 80 primes. -/
def shaK : List W64 := primes.map (rootWord 3)

/-- Initial hash value: of the square roots of the ninth to sixteenth primes. -/
def shaInit : List W64 := ((primes.drop 8).take 8).map (rootWord 2)

/-- Big-endian words. -/
def beWord (l : List Byte) : W64 := w64 (leValue l.reverse)
def beBytes (n v : Nat) : List Byte := (leBytes n v).reverse

/-- Padding to blocks of 128 bytes. -/
def shaPad (m : List Byte) : List Byte :=
  m ++ [0x80] ++ List.replicate ((239 - m.length % 128) % 128) 0 ++ beBytes 16 (8 * m.length)

def shaSig (a b c : Nat) (x : W64) : W64 := x.rotateRight a ^^^ x.rotateRight b ^^^ (x >>> c)
def shaSum (a b c : Nat) (x : W64) : W64 := x.rotateRight a ^^^ x.rotateRight b ^^^ x.rotateRight c

/-- Message schedule: the words so far, newest first. -/
def shaExpand : Nat → List W64 → List W64
  | 0, ws => ws
  | n + 1, ws =>
    let w := fun i => ws.getD (i - 1) 0
    shaExpand n ((shaSig 19 61 6 (w 2) + w 7 + shaSig 1 8 7 (w 15) + w 16) :: ws)

/-- One round. -/
def shaRound (st : List W64) (kw : W64 × W64) : List W64 :=
  let g := fun i => st.getD i 0
  let ch := (g 4 &&& g 5) ^^^ (~~~(g 4) &&& g 6)
  let mj := (g 0 &&& g 1) ^^^ (g 0 &&& g 2) ^^^ (g 1 &&& g 2)
  let t1 := g 7 + shaSum 14 18 41 (g 4) + ch + kw.1 + kw.2
  let t2 := shaSum 28 34 39 (g 0) + mj
  [t1 + t2, g 0, g 1, g 2, g 3 + t1, g 4, g 5, g 6]

/-- One block. -/
def shaBlock (h : List W64) (b : List Byte) : List W64 :=
  let ws := (shaExpand 64 ((chunks 8 16 b).map beWord).reverse).reverse
  let st := (shaK.zip ws).foldl shaRound h
  (h.zip st).map fun x => x.1 + x.2

/-- The digest, as 48 bytes. -/
def sha384 (m : List Byte) : List Byte :=
  let p := shaPad m
  (((chunks 128 (p.length / 128) p).foldl shaBlock shaInit).take 6).flatMap fun w => beBytes 8 w.toNat

-- ECDSA P-384 -----------------------------------------------------------------------------------------------------------------

/-- The field's prime, the curve's b, and the order and coordinates of the base point. -/
def p384 : Nat := 2 ^ 384 - 2 ^ 128 - 2 ^ 96 + 2 ^ 32 - 1
def p384b : Nat := 0xb3312fa7e23ee7e4988e056be3f82d19181d9c6efe8141120314088f5013875ac656398d8a2ed19d2a85c8edd3ec2aef
def p384n : Nat := 0xffffffffffffffffffffffffffffffffffffffffffffffffc7634d81f4372ddf581a0db248b0a77aecec196accc52973
def p384g : Option (Nat × Nat) :=
  some (0xaa87ca22be8b05378eb1c71ef320ad746e1d3b628ba79b9859f741e082542a385502f25dbf55296c3a545e3872760ab7,
    0x3617de4a96262c6f5d9e98bf9292dc29f8f41dbd289a147ce9da3113b5f0b8c00a60b1ce1d7e819d7a431d7c90ea0e5f)

/-- Bits of an exponent or a factor below 2^384, the highest first. -/
def bits384 (e : Nat) : List Bool := (List.range 384).map fun i => e.testBit (383 - i)

/-- Inverse modulo a prime, as a power. -/
def invMod (m x : Nat) : Nat := (bits384 (m - 2)).foldl (fun a b => a * a % m * (if b then x else 1) % m) 1

/-- Sum of two points of the curve; none is the point at infinity. -/
def addPoint (a b : Option (Nat × Nat)) : Option (Nat × Nat) :=
  match a, b with
  | none, q => q
  | q, none => q
  | some (x, y), some (u, v) =>
    if x = u ∧ (y + v) % p384 = 0 then none
    else
      let k := if x = u then (3 * x * x + (p384 - 3)) * invMod p384 (2 * y % p384) % p384
        else (v + p384 - y) * invMod p384 ((u + p384 - x) % p384) % p384
      let z := (k * k + 2 * p384 - x - u) % p384
      some (z, (k * (x + p384 - z) + p384 - y) % p384)

/-- A multiple of a point. -/
def mulPoint (k : Nat) (q : Option (Nat × Nat)) : Option (Nat × Nat) :=
  (bits384 k).foldl (fun a b => let d := addPoint a a; if b then addPoint d q else d) none

/-- A number written as bytes, the most significant first. -/
def beNat (l : List Byte) : Nat := leValue l.reverse

/-- Whether a signature, r then s, of a digest verifies under a public key, X then Y. -/
def ecdsaVerify (key digest sig : List Byte) : Bool :=
  let x := beNat (key.take 48)
  let y := beNat (key.drop 48)
  let r := beNat (sig.take 48)
  let t := beNat (sig.drop 48)
  let onCurve := decide (x < p384 ∧ y < p384 ∧ y * y % p384 = (x * x * x + (p384 - 3) * x + p384b) % p384)
  let w := invMod p384n t
  onCurve && decide (0 < r ∧ r < p384n ∧ 0 < t ∧ t < p384n) &&
    match addPoint (mulPoint (beNat digest * w % p384n) p384g) (mulPoint (r * w % p384n) (some (x, y))) with
    | some (z, _) => z % p384n == r
    | none => false

end Sys2Proof.Machine
end

