-- ==== Sys2Proof/Machine/Requests.lean ====
section
/-! DEFINITION. Host requests (spec/25 R369-R373, R376, R379-R381, R385). -/

namespace Sys2Proof.Machine
open Sys2Proof

-- the request ring (R369, R370) ------------------------------------------------------------------------------------------

/-- A request as read from the ring. -/
structure HReq where
  addr : Nat
  ctl  : Nat
  ops  : List W64
deriving DecidableEq, Repr

def HReq.op (r : HReq) : Nat := fld r.ctl 0 8
def HReq.job (r : HReq) : Nat := fld r.ctl 8 6
def HReq.irq (r : HReq) : Bool := r.ctl.testBit 14
def HReq.sub (r : HReq) : Nat := fld r.ctl 16 8
def HReq.a (r : HReq) (i : Nat) : W64 := r.ops.getD i 0

/-- Result codes (R370). -/
def hrOk : Nat := 0
def hrMalformed : Nat := 1
def hrNojob : Nat := 2
def hrOverlap : Nat := 3
def hrArena : Nat := 4
def hrToken : Nat := 5
def hrScan : Nat := 6
def hrBusy : Nat := 7
def hrLevel : Nat := 8
def hrFirmware : Nat := 9

/-- What a request comes to: done on a state with the elements for A4 and A5, failed with nothing changed, or still waiting. -/
inductive HRes where
  | done (s : State) (els : List W64)
  | fail (code fault data : Nat)
  /-- As fail, on what the request's reads have left. -/
  | failOn (s : State) (code fault data : Nat)
  | wait (s : State)

/-- A failure with a code alone. -/
def HRes.no (code : Nat) : HRes := .fail code 0 0

/-- The request at HRQHEAD (R369). -/
def State.headReq (s : State) : Option HReq :=
  if !bt s.hrqbase 63 ∨ s.hrqhead = s.hrqtail then none
  else
    let a := bf s.hrqbase 12 45 * 4096 + 64 * (s.hrqhead % 2 ^ bf s.hrqbase 0 5)
    let bs := Memory.read zeroByte s.hmem a 64
    some ⟨a, leValue (bs.take 8), (chunks 8 6 (bs.drop 8)).map fun l => w64 (leValue l)⟩

/-- Write RESULT, advance HEAD, and signal vector 0 if IRQ is set (R370). -/
def State.finish (s : State) (r : HReq) (code fault data : Nat) : State :=
  { s with
    hmem := Memory.write zeroByte s.hmem (r.addr + 0x38) (leBytes 8 (2 ^ 63 + data % 2 ^ 32 * 2 ^ 24 + fault % 256 * 256 + code % 256))
    hrqhead := (s.hrqhead + 1) % 2 ^ 32
    msi := (s.msi.1 + bit r.irq, s.msi.2) }

/-- Whether OP and SUB name no request. -/
def HReq.unknown (r : HReq) : Bool := r.op == 0 || decide (10 < r.op) || (r.op == 4 && decide (8 < r.sub))

/-- A step that performs the request at HRQHEAD when it is the step's own. A request that names none is answered by any of them; in
recovery the ring accepts only FWSTAGE and ATTEST (R377). -/
def State.hostStep (s : State) (mine : HReq → Bool) (perform : HReq → State → HRes) : Out :=
  match s.headReq with
  | none => .next s
  | some r =>
    if s.level = 0 ∨ s.raising then .next s
    else if r.unknown ∨ (mine r ∧ (r.ctl / 2 ^ 24 ≠ 0 ∨ r.ctl.testBit 15)) then .next (s.finish r hrMalformed 0 0)
    else if !mine r then .next s
    else if s.level = 3 ∧ r.op ≠ 8 ∧ r.op ≠ 9 then .next (s.finish r hrLevel 0 0)
    else match perform r s with
      | .wait s => .next s
      | .fail code fault data => .next (s.finish r code fault data)
      | .failOn t code fault data => .next (t.finish r code fault data)
      | .done t els =>
        let els := ((List.range els.length).zip els).foldl (fun m e =>
          Memory.write zeroByte m (r.addr + 0x28 + 8 * e.1) (leBytes 8 e.2.toNat)) t.hmem
        .next (({ t with hmem := els }).finish r hrOk 0 0)

/-- The first failing check of a request. -/
def firstCode : List (Bool × Nat) → Option Nat
  | [] => none
  | (b, c) :: l => if b then some c else firstCode l

/-- Operands from i on are zero. -/
def HReq.zeroFrom (r : HReq) (i : Nat) : Bool := (r.ops.drop i).all (· == 0)

/-- NOJOB: JOBPT EN 0 or a root not made by JOBINIT, or CARVE EN 0 (R370, R372). -/
def State.noJob (s : State) (job : Nat) : Bool :=
  let pt := Tab.get (0 : W64) s.jobpt job
  !bt s.carve 63 || !bt pt 63 || !s.roots.contains (bf pt 12 42 * 4096)

-- page tables (spec/09 R124, R125) -------------------------------------------------------------------------------------------------

/-- Log2 of a page size (R371). -/
def pageLog2 (n : Nat) : Nat := if n = 0 then 16 else if n = 1 then 21 else if n = 2 then 29 else 36

/-- Whether a block of the carve-out lies in channels in service: under low-water service, in channels 0-31 (spec/25 R378). -/
def State.blockUp (s : State) (off n : Nat) : Bool :=
  s.level != 1 || (List.range ((n + 4095) / 4096)).all fun i => s.chanUp (chanOf (s.carveBase + off + 4096 * i))

/-- A zeroed block of the carve-out, aligned to its size, from the first place that serves; none when it is exhausted. Under low-water
service a block of up to 128 KiB lies within stack 0; a larger one lies in every stack and finds no place (log entry 131). -/
def State.alloc (s : State) (n align : Nat) : Option (Nat × State) :=
  let up := fun k : Nat => (s.carveNext + k - 1) / k * k
  let next := fun i : Nat => up (Nat.max align 4096) + i * Nat.max align 4096
  match (up align :: (List.range (if s.level = 1 then 512 else 0)).map next).find? fun off => s.blockUp off n with
  | none => none
  | some off =>
    let t := { s with carveNext := off + n }
    if s.carveBytes < t.carveUsed then none
    else
      let a := s.carveBase + off
      some (a, t.hbmWrite a (List.replicate n 0))

/-- Write a table entry. -/
def State.putEntry (s : State) (a e : Nat) : State := { s with hbm := Memory.write s.hbmByte s.hbm a (leBytes 8 e) }

/-- Write a leaf for a page of 2^target bytes, allocating the tables that are missing; `a` is the entry that maps 2^lg bytes. -/
def State.mapGo (s : State) (va leaf target : Nat) (a lg : Nat) : List (Nat × Nat) → Option State
  | [] => if lg = target then some (s.putEntry a leaf) else none
  | (lo, n) :: rest =>
    if lg = target then some (s.putEntry a leaf)
    else
      let e := s.walkEntry a
      let next := if e % 2 = 1 then some (fld e 8 46 * 256, s)
        else (s.alloc (8 * 2 ^ n) (8 * 2 ^ n)).map fun (t, s) => (t, s.putEntry a (t + 1))
      match next with
      | none => none
      | some (t, s) => s.mapGo va leaf target (t + 8 * fld va lo n) lo rest

/-- Entry of the root for an address. -/
def State.rootEntry (s : State) (job va : Nat) : Nat := bf (Tab.get (0 : W64) s.jobpt job) 12 42 * 4096 + 8 * fld va 36 21

/-- Map pages in order; none when the carve-out is exhausted. -/
def State.mapPages (s : State) (job target : Nat) : List (Nat × Nat) → Option State
  | [] => some s
  | (va, leaf) :: l => match s.mapGo va leaf target (s.rootEntry job va) 36 walkLevels with
    | none => none
    | some s => s.mapPages job target l

/-- Whether an entry maps anything: a leaf, or a table that does. -/
def State.mapsAny (s : State) (a : Nat) : List (Nat × Nat) → Bool
  | [] => s.walkEntry a % 2 == 1
  | (_, n) :: ls =>
    let e := s.walkEntry a
    e % 2 == 1 && (e.testBit 1 || (List.range (2 ^ n)).any fun i => s.mapsAny (fld e 8 46 * 256 + 8 * i) ls)

/-- Whether a page of 2^target bytes at an address is mapped already, in part or by a larger one. -/
def State.pageTaken (s : State) (va target : Nat) (a lg : Nat) : List (Nat × Nat) → Bool
  | [] => if lg = target then s.mapsAny a [] else s.walkEntry a % 2 == 1
  | (lo, n) :: rest =>
    if lg = target then s.mapsAny a ((lo, n) :: rest)
    else
      let e := s.walkEntry a
      if e % 2 = 0 then false
      else if e.testBit 1 then true
      else s.pageTaken va target (fld e 8 46 * 256 + 8 * fld va lo n) lo rest

/-- Pages of a request: addresses. -/
def pagesOf (va lg count : Nat) : List Nat := (List.range count).map fun i => va + i * 2 ^ lg

/-- Whether a range is misplaced: not canonical, not aligned, of no page or too many, or beyond the job's root (R371). -/
def State.rangeBad (s : State) (job : Nat) (va : W64) (lg count : Nat) : Bool :=
  let a := va.toNat
  let last := a + count * 2 ^ lg - 1
  let top := fun x : Nat => fld x 57 7 != (if x.testBit 56 then 127 else 0)
  a % 2 ^ lg != 0 || decide (count = 0 ∨ 2 ^ 20 < count ∨ 2 ^ 64 ≤ last) || top a || top last || a.testBit 56 != last.testBit 56
    -- the root's size is known only for a job that is there
    || (!s.noJob job && decide (2 ^ Nat.min 21 (bf (Tab.get (0 : W64) s.jobpt job) 0 5) ≤ fld last 36 21))

/-- Leaf of page i of a template: V and LEAF set, PA advanced except in tier 11 (R372). -/
def leafAt (tmpl lg i : Nat) : Nat :=
  let t := tmpl / 4 * 4 + 3
  if fld t 6 2 = 3 then t else t + i * 2 ^ lg

/-- Granules of a leaf in HBM, by number, with their addresses. -/
def leafGranules (leaf lg va : Nat) : List (Nat × Nat) :=
  let n := 2 ^ lg / 4096
  let pa := fld leaf 16 38 * 2 ^ 16
  if fld leaf 6 2 = 0 then (List.range n).map fun i => (pa / 4096 + i, va + 4096 * i)
  else if fld leaf 6 2 = 1 then (List.range n).map fun i => (spreadOf (fld leaf 8 8) (pa + 4096 * i) / 4096, va + 4096 * i)
  else []

/-- Mark a page's granules in the reverse map (R366). -/
def State.setRev (s : State) (leaf lg va : Nat) (f : Nat → RevMap) : State :=
  { s with revmap := (leafGranules leaf lg va).foldl (fun t g => Tab.set .none t g.1 (f g.2)) s.revmap }

/-- Create regions over a range; none when a block of records cannot be had. -/
def State.makeRegions (s : State) (job va n lg : Nat) (st : RState) : Option State :=
  let new := (List.range (n / 2 ^ lg)).map fun i => (⟨job, none, va + i * 2 ^ lg, lg, st, .host, [], 0, [], false⟩ : Region)
  s.setRecords (s.regions ++ new)

-- MAP, MAPX, UNMAP (R372) --------------------------------------------------------------------------------------------------------------

/-- A mapping request: page and region sizes, count, template. -/
def HReq.lg (r : HReq) : Nat := pageLog2 (fld r.sub 0 2)
def HReq.rlg (r : HReq) : Nat := fld r.sub 2 6
def HReq.count (r : HReq) : Nat := (r.a 1).toNat
def HReq.bytes (r : HReq) : Nat := r.count * 2 ^ r.lg
def HReq.leaves (r : HReq) (tmpl : Nat) : List (Nat × Nat) :=
  (List.range r.count).map fun i => ((r.a 0).toNat + i * 2 ^ r.lg, leafAt tmpl r.lg i)

/-- MALFORMED of MAP and MAPX. -/
def State.mapBad (s : State) (r : HReq) (tmpl : Nat) : Bool :=
  decide (r.rlg < 12 ∨ 36 < r.rlg) || s.rangeBad r.job (r.a 0) r.lg r.count
    || (r.a 0).toNat % 2 ^ r.rlg != 0 || r.bytes % 2 ^ r.rlg != 0
    || (r.leaves tmpl).any fun e => s.leafBad e.2 r.lg || decide (2 ^ 64 ≤ e.2)

/-- LEVEL of MAP and MAPX under low-water service. -/
def State.mapLevel (s : State) (tmpl : Nat) : Bool := s.level == 1 && (fld tmpl 6 2 != 1 || decide (32 ≤ fld tmpl 8 8))

/-- Checks common to MAP and MAPX, before the allocation. -/
def State.mapCode (s : State) (r : HReq) (bad : Bool) (tmpl : Nat) : Option Nat :=
  let job := s.noJob r.job
  firstCode [(bad || s.mapBad r tmpl, hrMalformed), (job, hrNojob), (s.mapLevel tmpl, hrLevel),
    ((pagesOf (r.a 0).toNat r.lg r.count).any fun va => s.pageTaken va r.lg (s.rootEntry r.job va) 36 walkLevels, hrOverlap)]

/-- The mapping itself, with its regions. -/
def State.mapAll (s : State) (r : HReq) (tmpl : Nat) (st : RState) : Option State :=
  match s.mapPages r.job r.lg (r.leaves tmpl) with
  | none => none
  | some s =>
    let s := (r.leaves tmpl).foldl (fun s e => s.setRev e.2 r.lg e.1 (RevMap.job r.job)) s
    if fld tmpl 6 2 = 3 then some s else s.makeRegions r.job (r.a 0).toNat r.bytes r.rlg st

/-- What reading the tables over a request's pages leaves (spec/21 R328). -/
def State.mapHeal (s : State) (r : HReq) : State :=
  (List.range r.count).foldl (fun s i => s.healWalk r.job ((r.a 0).toNat + i * 2 ^ r.lg)) s

/-- MAP. -/
def execMap (s : State) : Out :=
  s.hostStep (fun r => r.op == 1) fun r s =>
    let tmpl := (r.a 2).toNat
    let bad := !r.zeroFrom 3 || tmpl.testBit 5
    match s.mapCode r bad tmpl with
    | some c => .failOn (if c = hrOverlap then s.mapHeal r else s) c 0 0
    | none =>
      let s := s.mapHeal r
      match s.mapAll r tmpl .owned with
      | none => .failOn s hrArena 0 0
      | some s => .done s []

/-- Granules of 64 bytes that the first n bytes of a mapping lie in, in order. -/
def HReq.scanned (r : HReq) (tmpl n : Nat) : List Nat :=
  ((r.leaves tmpl).flatMap fun e => (leafGranules e.2 r.lg e.1).flatMap fun g => (List.range 64).map (64 * g.1 + ·)).take ((n + 63) / 64)

/-- What stands for an unreadable granule while the words before it are checked: NOP words that each end a group, so that no check of
an earlier word fails for want of them. -/
def scanFiller : List Byte := (List.range 8).flatMap fun _ => leBytes 8 (2 ^ 63)

/-- The scan of a mapping by its kind (R372), word by word up to the first failure (spec/05 R82): its OFFSET and code. A granule that
cannot be read fails the scan as a read of it does, at its first word (log entry 108). -/
def State.scanMapping (s : State) (r : HReq) (tmpl kind count : Nat) : State × Option (Nat × Nat) :=
  let n := if kind = 2 then 32 + 4 * count else r.bytes
  let gs := r.scanned tmpl n
  let per := if kind = 2 then 16 else 8
  let bs := (gs.flatMap fun g => if s.dead g then scanFiller else s.hbmRaw (64 * g) 64).take n
  let words :=
    if kind = 2 then (pierScan ((chunks 4 (n / 4) bs).map leValue) count).map fun i => (i, 9)
    else if kind = 1 then scanWharf (bytesWords n bs) else scanCode (bytesWords n bs)
  let dead := (gs.findIdx? s.dead).map fun i => (per * i, fcLighterPoison)
  let res := match words, dead with
    | some w, some d => some (if w.1 < d.1 then w else d)
    | some w, none => some w
    | none, d => d
  let seen := match res with
    | some f => gs.take (f.1 / per + 1)
    | none => gs
  (seen.foldl (fun s g => s.heal (64 * g) 64) s, res)

/-- MAPX. -/
def execMapx (s : State) : Out :=
  s.hostStep (fun r => r.op == 2) fun r s =>
    let a3 := (r.a 3).toNat
    let kind := a3 % 4
    let count := if kind = 2 then fld a3 8 8 + 1 else 0
    let tmpl := (r.a 2).toNat / 64 * 64 + 32 + 8 + (r.a 2).toNat % 8
    let bad := kind == 3 || !r.zeroFrom 4 || a3 / 65536 != 0 || fld a3 2 6 != 0 || (kind != 2 && fld a3 8 8 != 0)
      || decide (128 < count ∨ 2 ≤ fld tmpl 6 2)
    match s.mapCode r bad tmpl with
    | some c => .failOn (if c = hrOverlap then s.mapHeal r else s) c 0 0
    | none =>
      let s := s.mapHeal r
      match s.mapAll r tmpl .exec with
      | none => .failOn s hrArena 0 0
      | some _ =>
        -- the host's lines in the range are asked back before the scan
        let lines := (r.leaves tmpl).flatMap fun e => (leafGranules e.2 r.lg e.1).map Prod.fst
        match s.backInvLines fun l => lines.contains (l / 64) with
        | some s => .wait s
        | none => match s.scanMapping r tmpl kind count with
          | (s, some (off, code)) => .failOn s hrScan code off
          | (s, none) => match s.mapAll r tmpl .exec with
            | none => .failOn s hrArena 0 0
            | some s => .done { s with codeMaps := s.codeMaps ++ [⟨r.job, (r.a 0).toNat, r.bytes, kind, count⟩] } []

/-- Regions of a job that touch a range. -/
def Region.touches (x : Region) (job va n : Nat) : Bool :=
  x.exporter == none && x.job == job && decide (x.base < va + n ∧ va < x.base + 2 ^ x.log2)

/-- UNMAP. -/
def execUnmap (s : State) : Out :=
  s.hostStep (fun r => r.op == 3) fun r s =>
    let va := (r.a 0).toNat
    let pages := pagesOf va r.lg r.count
    let leaf := fun p => match s.walk r.job p with
      | .ok (e, lg, a) => if lg = r.lg then some (e, a) else none
      | .error _ => none
    let free := fun x : Region => decide (va ≤ x.base ∧ x.base + 2 ^ x.log2 ≤ va + r.bytes)
      && (x.st == .exec || (x.st == .owned && x.owner == .host && x.stack.isEmpty && x.shares.isEmpty))
    let job := s.noJob r.job
    match firstCode [(!r.zeroFrom 2 || decide (4 ≤ r.sub) || s.rangeBad r.job (r.a 0) r.lg r.count, hrMalformed), (job, hrNojob),
        (pages.any fun p => (leaf p).isNone, hrOverlap),
        (s.regions.any fun x => x.touches r.job va r.bytes && !free x, hrBusy)] with
    | some c => .failOn (if c = hrOverlap ∨ c = hrBusy then s.mapHeal r else s) c 0 0
    | none =>
      let s := pages.foldl (fun s p => match leaf p with
        | some (e, a) => (s.setRev e r.lg p fun _ => RevMap.none).putEntry a 0
        | none => s) (s.mapHeal r)
      .done { s with
        regions := s.regions.filter fun x => !x.touches r.job va r.bytes
        codeMaps := s.codeMaps.filter fun c => !(c.job == r.job && decide (c.va < va + r.bytes ∧ va < c.va + c.len)) } []

-- jobs (R372) ---------------------------------------------------------------------------------------------------------------------------------

/-- JOBINIT. -/
def execJobinit (s : State) : Out :=
  s.hostStep (fun r => r.op == 6) fun r s =>
    let n := Nat.min 21 (r.sub % 32)
    let pt := Tab.get (0 : W64) s.jobpt r.job
    match firstCode [(!r.zeroFrom 0 || decide (32 ≤ r.sub), hrMalformed), (!bt s.carve 63, hrNojob),
        (bt pt 63 && s.roots.contains (bf pt 12 42 * 4096), hrBusy)] with
    | some c => .no c
    | none => match s.alloc (8 * 2 ^ n) (Nat.max 4096 (8 * 2 ^ n)) with
      | none => .no hrArena
      | some (a, s) => .done { s with
          jobpt := Tab.set 0 s.jobpt r.job (w64 (2 ^ 63 + a + r.sub % 32))
          roots := s.roots ++ [a] } []

/-- JOBREL. -/
def execJobrel (s : State) : Out :=
  s.hostStep (fun r => r.op == 7) fun r s =>
    let j := r.job
    let lq := s.lqs.any fun q => bt q.2.ctl 63 && q.2.job == j
    let man := s.mans.any fun m => m.job == j && m.st != .retired
    let kern := s.ports.any fun p => p.2.slots.any fun k => match k.2 with
      | some k => k.job == j
      | none => false
    match firstCode [(!r.zeroFrom 0 || r.sub != 0, hrMalformed), (s.noJob j, hrNojob), (lq || man || kern, hrBusy)] with
    | some c => .no c
    | none =>
      let pt := Tab.get (0 : W64) s.jobpt j
      .done { s with
        jobpt := Tab.set 0 s.jobpt j (bput pt 63 1 0)
        roots := s.roots.filter (· != bf pt 12 42 * 4096)
        revmap := s.revmap.filter fun e => match e.2 with
          | .job k _ => k != j
          | _ => true
        regions := s.regions.filter fun x => x.job != j
        mboxes := s.mboxes.filter fun m => m.job != j
        layouts := s.layouts.filter fun y => y.1 / 65536 != j
        codeMaps := s.codeMaps.filter fun c => c.job != j } []

-- TOKEN (R373, R385) ---------------------------------------------------------------------------------------------------------------------------

/-- A TOKEN request: the token form of its selector, at home, with the host as caller. -/
def State.hostToken (s : State) (form : TokForm) : Out :=
  s.hostStep (fun r => r.op == 4 && r.sub == form.sel) fun r s =>
    let a := (r.a 0).toNat
    let a1 := (r.a 1).toNat
    let isAtom := match form with | .atom _ => true | _ => false
    let form := if isAtom then .atom (a1.testBit 32) else form
    let used := if form = .lend ∨ form = .share then a1 % 2 ^ 26 else if isAtom then fld a1 32 1 * 2 ^ 32 else 0
    match firstCode [(!r.zeroFrom 2 || a1 != used, hrMalformed), (s.noJob r.job, hrNojob)] with
    | some c => .no c
    | none =>
      let end_ := fun (s : State) (res : Except Nat (List W64)) => match res with
        | .error e => if e = arenaErr then HRes.failOn s hrArena 0 0 else HRes.failOn s hrToken e 0
        | .ok els => HRes.done s els
      let s := s.healWalk r.job a
      match s.translate r.job a none with
      | .error e => .failOn s hrToken (lighterCode e) 0
      | .ok (.peer l) =>
        match s.hostAns with
        | some (code, els) =>
          -- the answer of the other device
          let t := { s with hostAns := none }
          if code ≠ 0 then .failOn t hrToken code 0 else .done t (if form = .query then els else [])
        | none =>
          if s.reqs.any fun q => q.who == .host then .wait s
          else
            let h : PkHdr := { type := 3, path := 1, dst := l, src := s.label, job := r.job, party := s.label * 65536 + 600, addr := a,
                               info := tokInfo form false, opA := a1 % 2 ^ 26, opB := form.opB }
            match s.request .host 0 0 h [] with
            | some (_, s) => .wait s
            | none => .failOn s hrToken fcUnreachable 0
      | .ok _ =>
        match s.hostFlush r.job a form with
        | some s => .wait s
        | none =>
          let y := s.tokenHome .host r.job none a form (if form = .lend ∨ form = .share then [s.party a1] else [])
          end_ y.1 y.2

def execHostTklend (s : State) : Out := s.hostToken .lend
def execHostTkret (s : State) : Out := s.hostToken .ret
def execHostTksplit (s : State) : Out := s.hostToken .split
def execHostTkjoin (s : State) : Out := s.hostToken .join
def execHostTkshare (s : State) : Out := s.hostToken .share
def execHostTkunshare (s : State) : Out := s.hostToken .unshare
def execHostTkatom (s : State) : Out := s.hostToken (.atom false)
def execHostTkquery (s : State) : Out := s.hostToken .query
def execHostTkclaim (s : State) : Out := s.hostToken .claim

-- MIGRATE (R376) -----------------------------------------------------------------------------------------------------------------------------------

/-- Copy a granule of a page: its bytes, or its poison. -/
def State.moveGranule (s : State) (src dst : Loc) : State :=
  let s := s.locHeal src 64
  match s.locRead src 64 with
  | some bs => s.locWrite dst bs
  | none => match dst with
    | .hbm pa _ => s.poisonRange pa 64
    | .pool pa => { s with poolPoison := let g := s.uioAddr pa / 64
                           if s.poolPoison.contains g then s.poolPoison else s.poolPoison ++ [g] }
    | .peer _ => s

/-- Spread granule numbers of a leaf. -/
def leafSet (leaf lg : Nat) : List Nat := (leafGranules leaf lg 0).map Prod.fst

/-- The tug's steps after it has taken the regions: copy, leaf, zeroing, return. -/
def State.tugMove (s : State) (job va lg at_ old new : Nat) (rs : List Region) : State :=
  let s := (List.range (2 ^ lg / 64)).foldl (fun s i => s.moveGranule (leafLoc old lg (va + 64 * i)) (leafLoc new lg (va + 64 * i))) s
  let s := s.putEntry at_ new
  let s := ((leafSet old lg).filter fun g => !(leafSet new lg).contains g).foldl
    (fun s g => s.hbmWrite (4096 * g) (List.replicate 4096 0)) s
  let s := (s.setRev old lg va fun _ => RevMap.none).setRev new lg va (RevMap.job job)
  rs.foldl (fun s x => s.modRegion job none x.base fun x => s.giveTo (x.stack.headD .hm) x.stack.tail x) s

/-- MIGRATE: one step takes the page's regions for the tug, once the host's lines in both locations are back; the next moves the page
and returns them. -/
def execMigrate (s : State) : Out :=
  s.hostStep (fun r => r.op == 5) fun r s =>
    let va := (r.a 0).toNat
    let new := (r.a 1).toNat / 4 * 4 + 3
    let tug := fun x : Region => x.owner == .tug
    if s.moving = some (r.job, va) then
      let t := { s with moving := none }
      match s.walk r.job va with
      | .error _ =>
        -- the leaf cannot be read any more: the regions go back
        .failOn { t with regions := t.regions.map fun x => if x.touches r.job va 1 && tug x then t.giveTo (x.stack.headD .hm) x.stack.tail x else x }
          hrOverlap 0 0
      | .ok (old, lg, at_) =>
        .done (t.tugMove r.job va lg at_ old new (s.regions.filter fun x => x.touches r.job va (2 ^ lg) && tug x)) []
    else
      match firstCode [(!r.zeroFrom 2 || r.sub != 0, hrMalformed), (s.noJob r.job, hrNojob)] with
      | some c => .no c
      | none =>
        let s := s.healWalk r.job va
        match s.walk r.job va with
        | .error _ => .failOn s hrOverlap 0 0
        | .ok (old, lg, _) =>
          let rs := s.regions.filter fun x => x.touches r.job va (2 ^ lg)
          let lines := (leafSet old lg ++ leafSet new lg)
          if va % 2 ^ lg ≠ 0 ∨ s.leafBad new lg ∨ fld new 6 2 = 3 ∨ fld new 3 3 ≠ fld old 3 3 then .failOn s hrMalformed 0 0
          else if s.mapLevel new then .failOn s hrLevel 0 0
          else if rs.isEmpty ∨ !rs.all (fun x => x.owner == .hm && x.st == .owned && x.shares.isEmpty) then .failOn s hrBusy 0 0
          else if rs.any fun x => decide (4 ≤ x.stack.length) then .failOn s hrToken fcBound 0
          else match s.backInvLines fun l => lines.contains (l / 64) with
            | some s => .wait s
            | none =>
              let s := rs.foldl (fun s x => s.modRegion r.job none x.base fun x => s.giveTo .tug (x.owner :: x.stack) x) s
              .wait { s.setRev new lg va (fun _ => .tug) with moving := some (r.job, va) }

-- firmware and attestation (R379-R381) -----------------------------------------------------------------------------------------------------------------

/-- The firmware that booted. -/
def State.bootedFw (s : State) : Option Firmware :=
  match s.booted with
  | some true => s.slotA
  | some false => s.slotB
  | none => none

/-- Bytes of a big-endian field held as a number whose low byte comes first in memory. -/
def bvBytes {w : Nat} (n : Nat) (v : BitVec w) : List Byte := leBytes n v.toNat

/-- ATTEST. Fields about the booted image are free when none booted. -/
def execAttest (s : State) : Out :=
  s.hostStep (fun r => r.op == 8) fun r s =>
    if !r.zeroFrom 2 || r.sub != 0 then .no hrMalformed
    else
      let nonce := Memory.read zeroByte s.hmem (r.a 0).toNat 48
      let open_ := (List.range 6).flatMap fun i => leBytes 8 (Config.freeWord (s.free + i)).toNat
      let svn := match s.bootedFw with | some f => leBytes 4 f.svn | none => open_.take 4
      let body := match s.bootedFw with | some f => sha384 f.body | none => open_
      let s := if s.bootedFw.isNone then { s with free := s.free + 6 } else s
      let rep := leBytes 4 1 ++ svn ++ leBytes 8 s.svcRead.toNat ++ nonce ++ body ++ sha384 s.cfgSector ++ bvBytes 48 Config.fuseHash
        ++ bvBytes 16 Config.serial ++ bvBytes 96 Config.identityKey
      let sig := Config.identitySign (BitVec.ofNat 384 (leValue (sha384 rep)))
      .done { s with hmem := Memory.write zeroByte s.hmem (r.a 1).toNat (rep ++ bvBytes 96 sig) } []

/-- Whether a key's digest is an unrevoked one of the fuses (R380). -/
def keyKnown (key : List Byte) : Bool :=
  [0, 1, 2, 3].any fun n => !Config.fuseRevoked n && Config.fuseDigest n == BitVec.ofNat 384 (leValue (sha384 key))

/-- FWSTAGE. -/
def execFwstage (s : State) : Out :=
  s.hostStep (fun r => r.op == 9) fun r s =>
    let len := (r.a 1).toNat
    let img := Memory.read zeroByte s.hmem (r.a 0).toNat len
    let num := fun o n => leValue ((img.drop o).take n)
    let body := img.drop 0x100
    let n := num 0x0C 4
    if !r.zeroFrom 2 || r.sub != 0 || decide (len < 0x100) || decide (2 ^ 26 + 0x100 < len) || num 0 4 != 0x5A394657 || num 4 4 != 1
        || n % 4096 != 0 || len != 0x100 + n then .no hrMalformed
    else
      let key := (img.drop 0x40).take 96
      let svn := num 8 4
      if sha384 body ≠ (img.drop 0x10).take 48 then .fail hrFirmware 1 0
      else if !keyKnown key then .fail hrFirmware 2 0
      else if !ecdsaVerify key (sha384 (img.take 0xA0)) ((img.drop 0xA0).take 96) then .fail hrFirmware 3 0
      else if svn < s.minsvn then .fail hrFirmware 4 0
      else
        let f : Firmware := ⟨svn, BitVec.ofNat 768 (leValue key), body, true⟩
        .done (if s.booted = some true then { s with slotB := some f } else { s with slotA := some f }) []

/-- FWCOMMIT. -/
def execFwcommit (s : State) : Out :=
  s.hostStep (fun r => r.op == 10) fun r s =>
    if !r.zeroFrom 0 || r.sub != 0 then .no hrMalformed
    else match s.bootedFw with
      | some f => .done { s with minsvn := Nat.max s.minsvn f.svn } []
      | none => .no hrBusy

end Sys2Proof.Machine
end

