-- ==== Sys2Proof/Machine/Dispatch.lean ====
section
/-! DEFINITION. The meaning of every instruction and step: one arm for each constructor, one call. -/

namespace Sys2Proof.Machine
open Sys2Proof

def exec (i : Instr) (s : State) : Host.Outcome State Fault Refusal :=
  match i with
  | .vbusCrcFailure b group wire => Sys2Proof.Machine.execVbusCrcFailure b group wire s
  | .nop h => Sys2Proof.Machine.execNop h s
  | .add h d a b => Sys2Proof.Machine.execAdd h d a b s
  | .sub h d a b => Sys2Proof.Machine.execSub h d a b s
  | .and h d a b => Sys2Proof.Machine.execAnd h d a b s
  | .or h d a b => Sys2Proof.Machine.execOr h d a b s
  | .xor h d a b => Sys2Proof.Machine.execXor h d a b s
  | .andn h d a b => Sys2Proof.Machine.execAndn h d a b s
  | .shl h d a b => Sys2Proof.Machine.execShl h d a b s
  | .shr h d a b => Sys2Proof.Machine.execShr h d a b s
  | .sar h d a b => Sys2Proof.Machine.execSar h d a b s
  | .rol h d a b => Sys2Proof.Machine.execRol h d a b s
  | .min h d a b => Sys2Proof.Machine.execMin h d a b s
  | .max h d a b => Sys2Proof.Machine.execMax h d a b s
  | .minu h d a b => Sys2Proof.Machine.execMinu h d a b s
  | .maxu h d a b => Sys2Proof.Machine.execMaxu h d a b s
  | .clz h d a => Sys2Proof.Machine.execClz h d a s
  | .popc h d a => Sys2Proof.Machine.execPopc h d a s
  | .mov h d a => Sys2Proof.Machine.execMov h d a s
  | .mul h d a b => Sys2Proof.Machine.execMul h d a b s
  | .mulh h d a b => Sys2Proof.Machine.execMulh h d a b s
  | .mulhu h d a b => Sys2Proof.Machine.execMulhu h d a b s
  | .div h d a b => Sys2Proof.Machine.execDiv h d a b s
  | .divu h d a b => Sys2Proof.Machine.execDivu h d a b s
  | .rem h d a b => Sys2Proof.Machine.execRem h d a b s
  | .remu h d a b => Sys2Proof.Machine.execRemu h d a b s
  | .addi h d a imm => Sys2Proof.Machine.execAddi h d a imm s
  | .movi h d imm => Sys2Proof.Machine.execMovi h d imm s
  | .movh h d a imm => Sys2Proof.Machine.execMovh h d a imm s
  | .shli h d a n => Sys2Proof.Machine.execShli h d a n s
  | .shri h d a n => Sys2Proof.Machine.execShri h d a n s
  | .sari h d a n => Sys2Proof.Machine.execSari h d a n s
  | .bext h d a lo wm1 => Sys2Proof.Machine.execBext h d a lo wm1 s
  | .bins h d a lo wm1 => Sys2Proof.Machine.execBins h d a lo wm1 s
  | .setb h d a p => Sys2Proof.Machine.execSetb h d a p s
  | .clrb h d a p => Sys2Proof.Machine.execClrb h d a p s
  | .cmpeq h d p a b => Sys2Proof.Machine.execCmpeq h d p a b s
  | .cmpne h d p a b => Sys2Proof.Machine.execCmpne h d p a b s
  | .cmplt h d p a b => Sys2Proof.Machine.execCmplt h d p a b s
  | .cmpltu h d p a b => Sys2Proof.Machine.execCmpltu h d p a b s
  | .cmple h d p a b => Sys2Proof.Machine.execCmple h d p a b s
  | .cmpleu h d p a b => Sys2Proof.Machine.execCmpleu h d p a b s
  | .sel h d a b => Sys2Proof.Machine.execSel h d a b s
  | .lds h d a imm => Sys2Proof.Machine.execLds h d a imm s
  | .sts h d a imm => Sys2Proof.Machine.execSts h d a imm s
  | .br h off => Sys2Proof.Machine.execBr h off s
  | .call h d off => Sys2Proof.Machine.execCall h d off s
  | .jmp h d a => Sys2Proof.Machine.execJmp h d a s
  | .ret h a => Sys2Proof.Machine.execRet h a s
  | .loop h l c off => Sys2Proof.Machine.execLoop h l c off s
  | .loopi h l n off => Sys2Proof.Machine.execLoopi h l n off s
  | .mtl h r l a => Sys2Proof.Machine.execMtl h r l a s
  | .mfl h d r l => Sys2Proof.Machine.execMfl h d r l s
  | .trap h imm => Sys2Proof.Machine.execTrap h imm s
  | .bkpt h imm => Sys2Proof.Machine.execBkpt h imm s
  | .rett h => Sys2Proof.Machine.execRett h s
  | .exit h => Sys2Proof.Machine.execExit h s
  | .mfsys h d n => Sys2Proof.Machine.execMfsys h d n s
  | .mtsys h a n => Sys2Proof.Machine.execMtsys h a n s
  | .phase h l => Sys2Proof.Machine.execPhase h l s
  | .fence h ma mb => Sys2Proof.Machine.execFence h ma mb s
  | .pfence h die => Sys2Proof.Machine.execPfence h die s
  | .time h d fabric => Sys2Proof.Machine.execTime h d fabric s
  | .id h d key => Sys2Proof.Machine.execId h d key s
  | .launch h a q => Sys2Proof.Machine.execLaunch h a q s
  | .mboxreg h d a nm1 sm6 loc => Sys2Proof.Machine.execMboxreg h d a nm1 sm6 loc s
  | .mboxack h => Sys2Proof.Machine.execMboxack h s
  | .tklend h g n sp => Sys2Proof.Machine.execTklend h g n sp s
  | .tkret h g sp => Sys2Proof.Machine.execTkret h g sp s
  | .tksplit h g sp => Sys2Proof.Machine.execTksplit h g sp s
  | .tkjoin h g sp => Sys2Proof.Machine.execTkjoin h g sp s
  | .tkshare h g n lvl sp => Sys2Proof.Machine.execTkshare h g n lvl sp s
  | .tkunshare h g sp => Sys2Proof.Machine.execTkunshare h g sp s
  | .tkatom h g back sp => Sys2Proof.Machine.execTkatom h g back sp s
  | .tkquery h g x sp => Sys2Proof.Machine.execTkquery h g x sp s
  | .tkclaim h g sp => Sys2Proof.Machine.execTkclaim h g sp s
  | .vadd h d a b f16 rm w k => Sys2Proof.Machine.execVadd h d a b f16 rm w k s
  | .vsub h d a b f16 rm w k => Sys2Proof.Machine.execVsub h d a b f16 rm w k s
  | .vmul h d a b f16 rm w k => Sys2Proof.Machine.execVmul h d a b f16 rm w k s
  | .vfma h d a b f16 rm w k => Sys2Proof.Machine.execVfma h d a b f16 rm w k s
  | .vfms h d a b f16 rm w k => Sys2Proof.Machine.execVfms h d a b f16 rm w k s
  | .vmin h d a b f16 w k => Sys2Proof.Machine.execVmin h d a b f16 w k s
  | .vmax h d a b f16 w k => Sys2Proof.Machine.execVmax h d a b f16 w k s
  | .vabs h d a f16 w k => Sys2Proof.Machine.execVabs h d a f16 w k s
  | .vneg h d a f16 w k => Sys2Proof.Machine.execVneg h d a f16 w k s
  | .vexp2 h d a f16 w k => Sys2Proof.Machine.execVexp2 h d a f16 w k s
  | .vlog2 h d a f16 w k => Sys2Proof.Machine.execVlog2 h d a f16 w k s
  | .vrsq h d a f16 w k => Sys2Proof.Machine.execVrsq h d a f16 w k s
  | .vrcp h d a f16 w k => Sys2Proof.Machine.execVrcp h d a f16 w k s
  | .viadd h d a b u sat w k => Sys2Proof.Machine.execViadd h d a b u sat w k s
  | .visub h d a b u sat w k => Sys2Proof.Machine.execVisub h d a b u sat w k s
  | .vimul h d a b hi u sat w k => Sys2Proof.Machine.execVimul h d a b hi u sat w k s
  | .vand h d a b w k => Sys2Proof.Machine.execVand h d a b w k s
  | .vor h d a b w k => Sys2Proof.Machine.execVor h d a b w k s
  | .vxor h d a b w k => Sys2Proof.Machine.execVxor h d a b w k s
  | .vshl h d a b w k => Sys2Proof.Machine.execVshl h d a b w k s
  | .vshr h d a b w k => Sys2Proof.Machine.execVshr h d a b w k s
  | .vsar h d a b w k => Sys2Proof.Machine.execVsar h d a b w k s
  | .vcmp h kd a b t c w k => Sys2Proof.Machine.execVcmp h kd a b t c w k s
  | .vsel h d a b w k => Sys2Proof.Machine.execVsel h d a b w k s
  | .vcvt h d a src dst rm sat nm1 p k => Sys2Proof.Machine.execVcvt h d a src dst rm sat nm1 p k s
  | .vkey h d a desc t f16 w k => Sys2Proof.Machine.execVkey h d a desc t f16 w k s
  | .vhist h d a lo dbm1 half acc w k => Sys2Proof.Machine.execVhist h d a lo dbm1 half acc w k s
  | .vscan h d a rev int rm w k => Sys2Proof.Machine.execVscan h d a rev int rm w k s
  | .vred h d a kind u f16 rm w k => Sys2Proof.Machine.execVred h d a kind u f16 rm w k s
  | .vcomp h d a w k => Sys2Proof.Machine.execVcomp h d a w k s
  | .vexpd h d a w k => Sys2Proof.Machine.execVexpd h d a w k s
  | .vperm h d a b z hi w k => Sys2Proof.Machine.execVperm h d a b z hi w k s
  | .vbcast h d a w imm => Sys2Proof.Machine.execVbcast h d a w imm s
  | .vmovs h m si sx toVec w j => Sys2Proof.Machine.execVmovs h m si sx toVec w j s
  | .vrot h a imm => Sys2Proof.Machine.execVrot h a imm s
  | .vmconf h a imm => Sys2Proof.Machine.execVmconf h a imm s
  | .kand h kd ka kb => Sys2Proof.Machine.execKand h kd ka kb s
  | .kor h kd ka kb => Sys2Proof.Machine.execKor h kd ka kb s
  | .knot h kd ka => Sys2Proof.Machine.execKnot h kd ka s
  | .kpopc h d ka => Sys2Proof.Machine.execKpopc h d ka s
  | .vld h m a k w imm => Sys2Proof.Machine.execVld h m a k w imm s
  | .vst h m a k w imm => Sys2Proof.Machine.execVst h m a k w imm s
  | .vldx h d a p w k => Sys2Proof.Machine.execVldx h d a p w k s
  | .vstx h a b p w k => Sys2Proof.Machine.execVstx h a b p w k s
  | .cp h g l n x q out st tag => Sys2Proof.Machine.execCp h g l n x q out st tag s
  | .cpw h g l n x q out st tag => Sys2Proof.Machine.execCpw h g l n x q out st tag s
  | .cpg h g l n zero tag => Sys2Proof.Machine.execCpg h g l n zero tag s
  | .cps h g l n x q out st tag => Sys2Proof.Machine.execCps h g l n x q out st tag s
  | .lwait h c => Sys2Proof.Machine.execLwait h c s
  | .stbind h x es => Sys2Proof.Machine.execStbind h x es s
  | .strel h g l x => Sys2Proof.Machine.execStrel h g l x s
  | .rconf h q l n => Sys2Proof.Machine.execRconf h q l n s
  | .racq h q l => Sys2Proof.Machine.execRacq h q l s
  | .rpub h q l => Sys2Proof.Machine.execRpub h q l s
  | .rtake h q l => Sys2Proof.Machine.execRtake h q l s
  | .rrel h q => Sys2Proof.Machine.execRrel h q s
  | .probe h g l pt off => Sys2Proof.Machine.execProbe h g l pt off s
  | .pwait h l => Sys2Proof.Machine.execPwait h l s
  | .pinv h g pt all => Sys2Proof.Machine.execPinv h g pt all s
  | .atom h g l n x op ord w64 scope => Sys2Proof.Machine.execAtom h g l n x op ord w64 scope s
  | .atomnr h g l n op ord w64 scope => Sys2Proof.Machine.execAtomnr h g l n op ord w64 scope s
  | .atomfence h scope => Sys2Proof.Machine.execAtomfence h scope s
  | .semwait h g n cond sub => Sys2Proof.Machine.execSemwait h g n cond sub s
  | .sempost h g n => Sys2Proof.Machine.execSempost h g n s
  | .whpush h g l n => Sys2Proof.Machine.execWhpush h g l n s
  | .imload h g l n tag => Sys2Proof.Machine.execImload h g l n tag s
  | .layset h l n => Sys2Proof.Machine.execLayset h l n s
  | .wconf h w g l n => Sys2Proof.Machine.execWconf h w g l n s
  | .mmul h c qa m gang z mask => Sys2Proof.Machine.execMmul h c qa m gang z mask s
  | .wload h qb gang fmt => Sys2Proof.Machine.execWload h qb gang fmt s
  | .wswap h gang => Sys2Proof.Machine.execWswap h gang s
  | .fmtpush h m => Sys2Proof.Machine.execFmtpush h m s
  | .fmtclr h => Sys2Proof.Machine.execFmtclr h s
  | .sqbind h qb unb => Sys2Proof.Machine.execSqbind h qb unb s
  | .mpbclr h => Sys2Proof.Machine.execMpbclr h s
  | .acczero h c gang => Sys2Proof.Machine.execAcczero h c gang s
  | .accfree h c gang => Sys2Proof.Machine.execAccfree h c gang s
  | .accconf h m => Sys2Proof.Machine.execAccconf h m s
  | .accdrain h c m gang fmt rm sat ra rb => Sys2Proof.Machine.execAccdrain h c m gang fmt rm sat ra rb s
  | .accread h x c m => Sys2Proof.Machine.execAccread h x c m s
  | .accwrite h c m x => Sys2Proof.Machine.execAccwrite h c m x s
  | .mpbld h m => Sys2Proof.Machine.execMpbld h m s
  | .streamElementArrive b x => Sys2Proof.Machine.execStreamElementArrive b x s
  | .lqtailDoorbell q v => Sys2Proof.Machine.execLqtailDoorbell q v s
  | .lqctlWrite q v => Sys2Proof.Machine.execLqctlWrite q v s
  | .barrierComplete t l inst => Sys2Proof.Machine.execBarrierComplete t l inst s
  | .mailboxHandlerEnter mbox slot => Sys2Proof.Machine.execMailboxHandlerEnter mbox slot s
  | .fabctlWrite v => Sys2Proof.Machine.execFabctlWrite v s
  | .portmapWrite v => Sys2Proof.Machine.execPortmapWrite v s
  | .frameReceive port f => Sys2Proof.Machine.execFrameReceive port f s
  | .retryRequest port seq => Sys2Proof.Machine.execRetryRequest port seq s
  | .laneFail port lane => Sys2Proof.Machine.execLaneFail port lane s
  | .timestampExchange port stamp => Sys2Proof.Machine.execTimestampExchange port stamp s
  | .pierjobWrite j v => Sys2Proof.Machine.execPierjobWrite j v s
  | .pierPacketMatch port slot => Sys2Proof.Machine.execPierPacketMatch port slot s
  | .addp v bs ib d a b imm => Sys2Proof.Machine.execAddp v bs ib d a b imm s
  | .subp v bs ib d a b imm => Sys2Proof.Machine.execSubp v bs ib d a b imm s
  | .mulp v bs ib d a b imm => Sys2Proof.Machine.execMulp v bs ib d a b imm s
  | .faddp v bs d a b => Sys2Proof.Machine.execFaddp v bs d a b s
  | .fmaxp v bs d a b => Sys2Proof.Machine.execFmaxp v bs d a b s
  | .minp v bs ib u d a b imm => Sys2Proof.Machine.execMinp v bs ib u d a b imm s
  | .maxp v bs ib u d a b imm => Sys2Proof.Machine.execMaxp v bs ib u d a b imm s
  | .andp v bs ib d a b imm => Sys2Proof.Machine.execAndp v bs ib d a b imm s
  | .orp v bs ib d a b imm => Sys2Proof.Machine.execOrp v bs ib d a b imm s
  | .xorp v bs ib d a b imm => Sys2Proof.Machine.execXorp v bs ib d a b imm s
  | .shp v bs k d a b => Sys2Proof.Machine.execShp v bs k d a b s
  | .cmpp v bs u c d a b => Sys2Proof.Machine.execCmpp v bs u c d a b s
  | .selp v bs ib d c a b imm => Sys2Proof.Machine.execSelp v bs ib d c a b imm s
  | .hld x d a n => Sys2Proof.Machine.execHld x d a n s
  | .pld d => Sys2Proof.Machine.execPld d s
  | .pst a => Sys2Proof.Machine.execPst a s
  | .fld alloc d a n => Sys2Proof.Machine.execFld alloc d a n s
  | .fst a b n => Sys2Proof.Machine.execFst a b n s
  | .fcas d a b n => Sys2Proof.Machine.execFcas d a b n s
  | .combine mode a b => Sys2Proof.Machine.execCombine mode a b s
  | .emit dst a b => Sys2Proof.Machine.execEmit dst a b s
  | .redirect tree a => Sys2Proof.Machine.execRedirect tree a s
  | .brf z a off => Sys2Proof.Machine.execBrf z a off s
  | .trapp imm => Sys2Proof.Machine.execTrapp imm s
  | .wuctlWrite u v => Sys2Proof.Machine.execWuctlWrite u v s
  | .wustatWrite u v => Sys2Proof.Machine.execWustatWrite u v s
  | .nopw x => Sys2Proof.Machine.execNopw x s
  | .setd x d w v => Sys2Proof.Machine.execSetd x d w v s
  | .wharfSemwait x da cond sub => Sys2Proof.Machine.execWharfSemwait x da cond sub s
  | .wharfSempost x da err => Sys2Proof.Machine.execWharfSempost x da err s
  | .barrier x da => Sys2Proof.Machine.execBarrier x da s
  | .fill x da db => Sys2Proof.Machine.execFill x da db s
  | .copyc x da db => Sys2Proof.Machine.execCopyc x da db s
  | .convert x da db rm sat => Sys2Proof.Machine.execConvert x da db rm sat s
  | .gather x da db dc pad => Sys2Proof.Machine.execGather x da db dc pad s
  | .pool x da db dc dd mode split pad => Sys2Proof.Machine.execPool x da db dc dd mode split pad s
  | .gemv x da db dc acc => Sys2Proof.Machine.execGemv x da db dc acc s
  | .axpy x da db dc => Sys2Proof.Machine.execAxpy x da db dc s
  | .scale x da db => Sys2Proof.Machine.execScale x da db s
  | .reduce x da db kind acc => Sys2Proof.Machine.execReduce x da db kind acc s
  | .dot x da db dc => Sys2Proof.Machine.execDot x da db dc s
  | .norm2 x da db sq => Sys2Proof.Machine.execNorm2 x da db sq s
  | .clamp x da db dc => Sys2Proof.Machine.execClamp x da db dc s
  | .atomadd x da db dc => Sys2Proof.Machine.execAtomadd x da db dc s
  | .atommax x da db dc min => Sys2Proof.Machine.execAtommax x da db dc min s
  | .scatter x da db dc => Sys2Proof.Machine.execScatter x da db dc s
  | .crc x da db => Sys2Proof.Machine.execCrc x da db s
  | .sortidx x da db perm => Sys2Proof.Machine.execSortidx x da db perm s
  | .mergedup x da db dc dd => Sys2Proof.Machine.execMergedup x da db dc dd s
  | .topkv x da db dc km1 => Sys2Proof.Machine.execTopkv x da db dc km1 s
  | .remapRewrite c copy => Sys2Proof.Machine.execRemapRewrite c copy s
  | .tempSample c t => Sys2Proof.Machine.execTempSample c t s
  | .berthFailure b code data => Sys2Proof.Machine.execBerthFailure b code data s
  | .evbaseWrite v => Sys2Proof.Machine.execEvbaseWrite v s
  | .hostRead port pa => Sys2Proof.Machine.execHostRead port pa s
  | .hostWrite port pa bytes => Sys2Proof.Machine.execHostWrite port pa bytes s
  | .hrqtailDoorbell v => Sys2Proof.Machine.execHrqtailDoorbell v s
  | .carveWrite v => Sys2Proof.Machine.execCarveWrite v s
  | .poolwinWrite n v => Sys2Proof.Machine.execPoolwinWrite n v s
  | .uioCompletion b id data poison ok => Sys2Proof.Machine.execUioCompletion b id data poison ok s
  | .powerThrottleBegin watts => Sys2Proof.Machine.execPowerThrottleBegin watts s
  | .registerWrite off v => Sys2Proof.Machine.execRegisterWrite off v s
  | .backInvalidateResponse line dirty => Sys2Proof.Machine.execBackInvalidateResponse line dirty s
  | .groupIssue => Sys2Proof.Machine.execGroupIssue s
  | .resultLand => Sys2Proof.Machine.execResultLand s
  | .heldOpRelease => Sys2Proof.Machine.execHeldOpRelease s
  | .handlerResume => Sys2Proof.Machine.execHandlerResume s
  | .remoteLoadReturn => Sys2Proof.Machine.execRemoteLoadReturn s
  | .vbusReplayDone => Sys2Proof.Machine.execVbusReplayDone s
  | .mboxregAnswer => Sys2Proof.Machine.execMboxregAnswer s
  | .mmulRetire => Sys2Proof.Machine.execMmulRetire s
  | .wloadRetire => Sys2Proof.Machine.execWloadRetire s
  | .copyHomeArrival => Sys2Proof.Machine.execCopyHomeArrival s
  | .copyComplete => Sys2Proof.Machine.execCopyComplete s
  | .probeFillComplete => Sys2Proof.Machine.execProbeFillComplete s
  | .atomicApply => Sys2Proof.Machine.execAtomicApply s
  | .semaphorePoll => Sys2Proof.Machine.execSemaphorePoll s
  | .tokenFormAtHome => Sys2Proof.Machine.execTokenFormAtHome s
  | .tokenRefusalReturn => Sys2Proof.Machine.execTokenRefusalReturn s
  | .windowStoreArrive => Sys2Proof.Machine.execWindowStoreArrive s
  | .windowReplyReturn => Sys2Proof.Machine.execWindowReplyReturn s
  | .remoteLoadArrive => Sys2Proof.Machine.execRemoteLoadArrive s
  | .persistComplete => Sys2Proof.Machine.execPersistComplete s
  | .journalForcedPersist => Sys2Proof.Machine.execJournalForcedPersist s
  | .manifestValidate => Sys2Proof.Machine.execManifestValidate s
  | .manifestEligible => Sys2Proof.Machine.execManifestEligible s
  | .manifestAge => Sys2Proof.Machine.execManifestAge s
  | .manifestPlace => Sys2Proof.Machine.execManifestPlace s
  | .preempt => Sys2Proof.Machine.execPreempt s
  | .graceExpiry => Sys2Proof.Machine.execGraceExpiry s
  | .preemptDrainDone => Sys2Proof.Machine.execPreemptDrainDone s
  | .spillDone => Sys2Proof.Machine.execSpillDone s
  | .fillDone => Sys2Proof.Machine.execFillDone s
  | .imageEvict => Sys2Proof.Machine.execImageEvict s
  | .teamStart => Sys2Proof.Machine.execTeamStart s
  | .berthThreadStart => Sys2Proof.Machine.execBerthThreadStart s
  | .budgetExpiry => Sys2Proof.Machine.execBudgetExpiry s
  | .teamRetire => Sys2Proof.Machine.execTeamRetire s
  | .wharfStreamDone => Sys2Proof.Machine.execWharfStreamDone s
  | .portRetrainDone => Sys2Proof.Machine.execPortRetrainDone s
  | .requestTimeout => Sys2Proof.Machine.execRequestTimeout s
  | .postedWrite => Sys2Proof.Machine.execPostedWrite s
  | .readRequest => Sys2Proof.Machine.execReadRequest s
  | .readResponse => Sys2Proof.Machine.execReadResponse s
  | .atomicPacket => Sys2Proof.Machine.execAtomicPacket s
  | .atomicResponse => Sys2Proof.Machine.execAtomicResponse s
  | .multicastWrite => Sys2Proof.Machine.execMulticastWrite s
  | .barrierPacket => Sys2Proof.Machine.execBarrierPacket s
  | .flowWrite => Sys2Proof.Machine.execFlowWrite s
  | .launchPacket => Sys2Proof.Machine.execLaunchPacket s
  | .launchResponse => Sys2Proof.Machine.execLaunchResponse s
  | .launchStartTime => Sys2Proof.Machine.execLaunchStartTime s
  | .eventPacket => Sys2Proof.Machine.execEventPacket s
  | .pierKernelLoad => Sys2Proof.Machine.execPierKernelLoad s
  | .pierKernelUnload => Sys2Proof.Machine.execPierKernelUnload s
  | .hold => Sys2Proof.Machine.execHold s
  | .fwd => Sys2Proof.Machine.execFwd s
  | .drop => Sys2Proof.Machine.execDrop s
  | .endk => Sys2Proof.Machine.execEndk s
  | .illegalCommand => Sys2Proof.Machine.execIllegalCommand s
  | .wharfWaitTimeout => Sys2Proof.Machine.execWharfWaitTimeout s
  | .channelFailure => Sys2Proof.Machine.execChannelFailure s
  | .refresh => Sys2Proof.Machine.execRefresh s
  | .patrolScrub => Sys2Proof.Machine.execPatrolScrub s
  | .tilePowerLoss => Sys2Proof.Machine.execTilePowerLoss s
  | .tilePowerRestore => Sys2Proof.Machine.execTilePowerRestore s
  | .powerGate => Sys2Proof.Machine.execPowerGate s
  | .powerUngate => Sys2Proof.Machine.execPowerUngate s
  | .modulePowerLoss => Sys2Proof.Machine.execModulePowerLoss s
  | .moduleReset => Sys2Proof.Machine.execModuleReset s
  | .fullService => Sys2Proof.Machine.execFullService s
  | .debugHalt => Sys2Proof.Machine.execDebugHalt s
  | .debugResume => Sys2Proof.Machine.execDebugResume s
  | .step => Sys2Proof.Machine.execStep s
  | .imgout => Sys2Proof.Machine.execImgout s
  | .imgin => Sys2Proof.Machine.execImgin s
  | .imageTransferDone => Sys2Proof.Machine.execImageTransferDone s
  | .map => Sys2Proof.Machine.execMap s
  | .mapx => Sys2Proof.Machine.execMapx s
  | .unmap => Sys2Proof.Machine.execUnmap s
  | .hostTklend => Sys2Proof.Machine.execHostTklend s
  | .hostTkret => Sys2Proof.Machine.execHostTkret s
  | .hostTksplit => Sys2Proof.Machine.execHostTksplit s
  | .hostTkjoin => Sys2Proof.Machine.execHostTkjoin s
  | .hostTkshare => Sys2Proof.Machine.execHostTkshare s
  | .hostTkunshare => Sys2Proof.Machine.execHostTkunshare s
  | .hostTkatom => Sys2Proof.Machine.execHostTkatom s
  | .hostTkquery => Sys2Proof.Machine.execHostTkquery s
  | .hostTkclaim => Sys2Proof.Machine.execHostTkclaim s
  | .migrate => Sys2Proof.Machine.execMigrate s
  | .jobinit => Sys2Proof.Machine.execJobinit s
  | .jobrel => Sys2Proof.Machine.execJobrel s
  | .attest => Sys2Proof.Machine.execAttest s
  | .fwstage => Sys2Proof.Machine.execFwstage s
  | .fwcommit => Sys2Proof.Machine.execFwcommit s
  | .pwrstatRead => Sys2Proof.Machine.execPwrstatRead s
  | .wtempRead => Sys2Proof.Machine.execWtempRead s
  | .powerThrottleEnd => Sys2Proof.Machine.execPowerThrottleEnd s
  | .thermalThrottleBegin => Sys2Proof.Machine.execThermalThrottleBegin s
  | .thermalThrottleEnd => Sys2Proof.Machine.execThermalThrottleEnd s
  | .thermalTrip => Sys2Proof.Machine.execThermalTrip s
  | .uioCompletionTimeout => Sys2Proof.Machine.execUioCompletionTimeout s

end Sys2Proof.Machine
end

