-- ==== Sys2Proof/Machine/Schedule.lean ====
section
/-! DEFINITION. What goes on between the turns of the agents: the clock (spec/25 R389, spec/01 R31, spec/19 R268, R275), and the steps
that a state has ready, which the clock puts on an empty agenda so that every promise of progress of spec/01 R32 is kept (log entry 1). -/

namespace Sys2Proof.Machine
open Sys2Proof

-- steps that a state has ready --------------------------------------------------------------------------------------------

/-- A turn about a berth's operation, a manifest or another item, and a port. -/
def opTurn (i : Instr) (b o : Nat) : Option Turn := some ⟨i, ⟨b, o, 0, 0⟩⟩
def itemTurn (i : Instr) (n : Nat) : Option Turn := some ⟨i, ⟨0, 0, 0, n⟩⟩
def portTurn (i : Instr) (p : Nat) : Option Turn := some ⟨i, ⟨0, 0, p, 0⟩⟩

/-- What a pool read of an operation returns: the pool's bytes, none when some are poisoned. -/
def State.poolData (s : State) (b : Nat) (o : Op) : List (Nat × Nat × Nat) → Option (List Byte)
  | [] => some []
  | (_, off, n) :: l =>
    let here := match s.poolAt b o false off with
      | some pa => s.poolRead pa n
      | none => some []
    match here, s.poolData b o l with
    | some x, some y => some (x ++ y)
    | _, _ => none

/-- Steps that carry an operation on (spec/09 R142, R143). -/
def State.opTurns (s : State) (b : Nat) (o : Op) : List (Option Turn) :=
  let pool : List (Option Turn) := match o.stage with
    | .remote keys _ => match uioKey keys with
      | some k =>
        let data := if isWrite k then some [] else s.poolData b o (keys.filter fun x => x.1 == k)
        [opTurn (.uioCompletion b o.id (data.getD []) data.isNone true) b o.id]
      | none => []
    | _ => []
  pool ++ (match o.kind with
    | .copy _ | .imload _ _ _ => [Instr.copyHomeArrival, .copyComplete]
    | .fill _ _ _ _ _ => [.copyHomeArrival, .probeFillComplete]
    | .whpush _ _ _ | .launch _ _ | .mboxack => [.copyHomeArrival]
    | .atom _ | .atomnr _ | .sempost _ _ => [.atomicApply]
    | .semwait _ => [.semaphorePoll]
    | .token _ => [.tokenFormAtHome, .tokenRefusalReturn]
    | .wstore _ _ _ => [.windowStoreArrive, .windowReplyReturn]
    | .rload _ _ _ => [.remoteLoadArrive, .remoteLoadReturn]).map fun i => opTurn i b o.id

/-- Steps of a berth. -/
def State.berthTurns (s : State) (b : Nat) (x : Berth) : List (Option Turn) :=
  let one := fun (c : Bool) (i : Instr) => if c then [State.turn i b] else []
  let c := x.ctx
  let elems := (c.streams.filter fun e => decide (e.2.arrived.length < 16) && !e.2.items.isEmpty).map fun e =>
    State.turn (.streamElementArrive b e.1) b
  c.ops.flatMap (s.opTurns b) ++ elems
    ++ one (x.replay == some 0) .vbusReplayDone ++ one (!x.shadow.queue.isEmpty) .persistComplete
    ++ one ((c.mboxReq.isSome && c.mboxAns.isNone) || (c.aside.any fun a => a.mbox.1.isSome && a.mbox.2.isNone)) .mboxregAnswer
    ++ one (x.st == .draining) .preemptDrainDone ++ one (x.st == .spilling && x.needsRoom) .imageEvict ++ one (x.st == .spilling) .spillDone
    ++ one (x.st == .filling) .fillDone ++ one (x.st == .gated) .powerUngate
    ++ one (x.st == .run && decide (Nat.max 1 (bf s.pwrctl 32 16) * 1024 ≤ c.frozenFor)) .powerGate
    ++ one x.imgbusy.isSome .imageTransferDone

/-- Steps of a manifest. -/
def manTurns (m : Man) : List (Option Turn) :=
  let steps : List Instr := match m.st with
    | .waiting => [.manifestEligible]
    | .eligible | .preempted => [.manifestAge]
    | .placed => if m.kind = 1 then [.teamStart] else if m.kind = 3 then (if m.pierOp = 1 then [.pierKernelLoad] else [.pierKernelUnload]) else []
    | .starting | .resuming => [.berthThreadStart]
    | .running => if m.kind = 2 then [.wharfStreamDone] else [.budgetExpiry, .teamRetire]
    | .preempting => [.graceExpiry, .budgetExpiry, .teamRetire]
    | .retiring => [.teamRetire]
    | .template => [.teamRetire]
    | .retired => []
  let bars := (m.barriers.filter fun x => !x.done && (m.wide x.level || m.localDone x)).map fun x =>
    itemTurn (.barrierComplete m.id x.level x.inst) m.id
  -- subcube levels that a device owes word of
  let owes := fun l : Nat => m.wide l && ((!m.failed.isEmpty && !m.lostLv.contains l) || (m.left && !m.stood.contains l))
  let levels := if m.kind = 1 ∧ m.st ≠ .retired then (List.range m.nlev).filter owes else []
  steps.map (itemTurn · m.id) ++ bars ++ levels.map fun l => itemTurn (.barrierComplete m.id l (m.inst l m.rank0)) m.id

/-- The step that a packet calls for (spec/19 R272). -/
def packetInstr (p : Packet) : List Instr :=
  match pkType p with
  | 0 => [.postedWrite]
  | 1 => [.readRequest]
  | 2 => [.readResponse]
  | 3 => [.atomicPacket]
  | 4 => [.atomicResponse]
  | 5 => [.multicastWrite]
  | 6 => [.barrierPacket]
  | 7 => [.flowWrite]
  | 8 => [.launchPacket, .launchResponse, .launchStartTime]
  | 9 => [.eventPacket]
  | _ => []

/-- Steps of a port. -/
def portTurns (p : Nat) (x : Port) : List (Option Turn) :=
  ((List.range 8).filter fun k => (Tab.get none x.slots k).isSome || !(Tab.get [] x.bufs k).isEmpty).map
      (fun k => portTurn (.pierPacketMatch p k) p)
    ++ x.inq.flatMap (fun k => (packetInstr k).map (portTurn · p))
    ++ (if x.retrain then [portTurn .portRetrainDone p] else [])

/-- The step of the request at HRQHEAD (spec/25 R369). -/
def HReq.step (r : HReq) : Instr :=
  match r.op with
  | 2 => .mapx
  | 3 => .unmap
  | 4 => match r.sub with
    | 1 => .hostTkret
    | 2 => .hostTksplit
    | 3 => .hostTkjoin
    | 4 => .hostTkshare
    | 5 => .hostTkunshare
    | 6 => .hostTkatom
    | 7 => .hostTkquery
    | 8 => .hostTkclaim
    | _ => .hostTklend
  | 5 => .migrate
  | 6 => .jobinit
  | 7 => .jobrel
  | 8 => .attest
  | 9 => .fwstage
  | 10 => .fwcommit
  | _ => .map

/-- Every step that the state has ready; one that finds itself not ready changes nothing. What the outside world does (packets from
other devices, host accesses, sensors, failures, power, the end of training) is on the agenda only when it is put there. -/
def State.ready_ (s : State) : List (Option Turn) :=
  let boot := if s.level = 0 then [itemTurn .moduleReset 0] else []
  let queues := (s.lqs.filter fun e => bt e.2.ctl 63 && decide (e.2.used ≠ 0)).map fun e => itemTurn .manifestValidate e.1
  let place := if s.mans.any (fun m => m.st == .eligible || m.st == .preempted) then [itemTurn .manifestPlace 0] else []
  let pre := if s.reserve != [] then [itemTurn .preempt 0] else []
  let mbox := s.mboxes.flatMap fun b => if b.template.isSome then b.pend.map fun k => itemTurn (.mailboxHandlerEnter b.id k) 0 else []
  let late := (s.reqs.filter fun r => r.late s.time).map fun r => itemTurn .requestTimeout r.tag
  let host := match s.headReq with
    | some r => [itemTurn r.step 0]
    | none => []
  boot ++ s.berths.flatMap (fun e => s.berthTurns e.1 e.2) ++ queues ++ s.mans.flatMap manTurns ++ place ++ pre ++ mbox
    ++ s.ports.flatMap (fun e => portTurns e.1 e.2) ++ late ++ host

-- the clock ---------------------------------------------------------------------------------------------------------------

/-- Whether a berth holds a berth-thread whose ck its team's budget counts (spec/01 R31). -/
def Berth.counted (x : Berth) : Bool :=
  x.ctx.pilot != .retired && (match x.st with
    | .run | .draining | .halted | .gated | .off => true
    | _ => false)

/-- One array ck of budgets and grace windows: a ck in which every placed berth-thread of a team is debug-halted does not count against
its budget (spec/01 R20, R31, spec/23 R357). -/
def State.teamTick (s : State) : State :=
  let tick := fun m : Man =>
    let live := s.berths.any fun e => e.2.counted && e.2.ctx.team == m.id && e.2.st != .halted
    { m with used := if live then m.used + 1 else m.used, grace := m.grace.map (· + 1) }
  { s with mans := s.mans.map tick }

/-- Steps of the device counter in an array ck (spec/25 R389): a ck lasts twice as long under low-water service. -/
def State.ckSteps (s : State) : Nat := if s.level = 1 then 2 else 1

/-- The device counter and FABTIME, which slews by one increment, at most once in 1,024 ck, and never steps back (spec/19 R275). -/
def State.timeTick (s : State) : State :=
  let n := s.ckSteps
  let t := s.time + n
  let due : Bool := decide (s.slewed + 1024 ≤ t ∧ s.slew ≠ 0)
  let d : Nat := if !due then n else if 0 < s.slew then n + 1 else n - 1
  let left : Int := if !due then s.slew else if 0 < s.slew then s.slew - 1 else s.slew + 1
  { s with
    time := t % 2 ^ 64
    fabtime := (s.fabtime + d) % 2 ^ 64
    slew := left
    slewed := if due then t else s.slewed }

/-- The harbourmaster of a subcube team that has ended tells the others once (spec/19 R277). -/
def State.tellEnds (s : State) : State :=
  s.mans.foldl (fun s m =>
    if m.ended ∧ !m.told ∧ 8 < m.top then
      (s.spread m noticeEnd m.code s.label).modMan m.id fun m => { m with told := true }
    else s) s

/-- The clock's turn: one array ck. A queued packet of every port enters its link. `idle` says that the agenda is empty: then what is
ready comes next. -/
def State.clock (s : State) (idle : Bool) : State :=
  let s := s.timeTick.teamTick.tellEnds
  let s := (List.range 11).foldl State.sendHead s
  { s with agent := s.berthFrom 0, agenda := if idle then s.ready_ else s.agenda }

end Sys2Proof.Machine
end

