-- ==== Sys2Proof/Machine/Fetch.lean ====
section
/-! DEFINITION. What the agent whose turn it is executes: a part of a berth's ck (spec/03 R35, R45, R50), the head command of a wharf
unit (spec/21 R300), the word at the offset of a pier run (spec/19 R284). And the placing of one instruction where it is fetched next
(log entry 18). -/

namespace Sys2Proof.Machine
open Sys2Proof

/-- What the agent has to execute: an instruction on a state, nothing, the clock, or a pier word that verification rejects. -/
inductive AgentWord where
  | run (i : Instr) (s : State)
  | pass (s : State)
  | clock
  | bad

/-- The word of the run in a slot of a port. -/
def State.pierFetch (s : State) (p k : Nat) : Option W32 :=
  match s.run p k with
  | some r => r.kern.code[r.off]?
  | none => none

/-- The turn of the agent. -/
def State.agentWord (s : State) : AgentWord :=
  match s.agent with
  | .issue b => .run .groupIssue { s with subj := ⟨b, 0, 0, 0⟩ }
  | .land b => .run .resultLand { s with subj := ⟨b, 0, 0, 0⟩ }
  | .release b => .run .heldOpRelease { s with subj := ⟨b, 0, 0, 0⟩ }
  | .wharf u =>
    let s := { s with wcur := u, subj := ⟨0, 0, 0, u⟩ }
    match (s.unit u).ring with
    | [] => .pass s.wharfNext
    | e :: _ => match decodeWharf e.word.toNat with
      | some i => .run i s
      | none => .run .illegalCommand s
  | .pier p k =>
    let s := { s with pcur := (p, k) }
    match s.pierFetch p k with
    | none => .pass { s with agent := s.pierFrom p (k + 1) }
    | some w => match decodePier w.toNat with
      | some i => .run i s
      | none => .bad
  | .clock => .clock

/-- Whether an instruction is a step of the device and no word of a berth, a pier or a wharf unit: only those stand on the agenda. -/
def isStep (i : Instr) : Bool := (encodeBerth i).isNone && (encodePier i).isNone && (encodeWharf i).isNone

-- placing an instruction (log entry 18) ------------------------------------------------------------------------------------

/-- A pier word as the only word of a kernel of job 0, in the header run of slot 0 of port 0. -/
def State.placePier (s : State) (w : Nat) : State :=
  let k : Kernel := { man := 0, job := 0, out := false, types := 1, body := 1, drop := false, abase := 0, alog2 := 12, code := [BitVec.ofNat 32 w] }
  let p : Packet := ⟨List.replicate 64 0, []⟩
  let r : Run := { kern := k, orig := p, pkt := p, pid := s.nextId, run := 0, off := 0, ps := [], pv := [], ps0 := [], pv0 := [],
                   disp := .fwd, marks := [], contrib := [] }
  let s := s.modPort 0 fun x => { x with slots := Tab.set none x.slots 0 (some k), runs := Tab.set none x.runs 0 (some r) }
  { s with agenda := [], agent := .pier 0 0, nextId := s.nextId + 1 }

/-- A berth word at offset 0 of berth 0, whose berth-thread belongs to a team of its own with the longest budget; the word after it is the NOP that R22 leaves. -/
def State.placeBerth (s : State) (w : Nat) : State :=
  let t := s.nextId
  let raw : List Byte := List.replicate 24 0 ++ List.replicate 6 255
  let m := { newMan t raw 0 0 0 .host with st := .running }
  let set := fun x : Berth =>
    let c := { x.ctx with team := t, rank := 0, pc := 0, branch := none, pilot := .run, pending := none, refusals := [], flights := [] }
    { x with st := .run, im := Tab.set stopNop (Tab.set stopNop x.im 0 (w64 w)) 1 stopNop, codelen := 2, ctx := c, dbgctl := 0, bps := [],
             stepping := none, preempt := false, gate := false, replay := none, shadow := { x.shadow with entries := 0 } }
  let s := s.modBerth 0 set
  { s with agenda := [], agent := .issue 0, mans := s.mans ++ [m], nextId := t + 1, pwrstat := bput s.pwrstat 16 2 0 }

/-- A command word at the head of unit 0's ring. -/
def State.placeWharf (s : State) (w : Nat) : State :=
  let s := s.modUnit 0 fun x => { x with ring := ⟨w64 w, 0, .host, none, false, 0⟩ :: x.ring, phase := .fresh, since := none, claims := none }
  { s with agenda := [], agent := .wharf 0 }

end Sys2Proof.Machine
end

