-- ==== Sys2Proof/Machine/Step.lean ====
section
/-! DEFINITION. One step of the module: the next turn of the agenda, or the turn of the agent whose turn it is (log entry 1). -/

namespace Sys2Proof.Machine
open Sys2Proof

/-- The turn of the agent: a berth's part of its ck, the head command of a wharf unit, a pier word, or the clock. -/
def agentTurn (idle : Bool) (s : State) : Host.Outcome State Fault Refusal :=
  match s.agentWord with
  | .run i t => exec i t
  | .pass t => .next t
  | .clock => .next (s.clock idle)
  | .bad => .fault .badPierWord

/-- One step. -/
def step (s : State) : Host.Outcome State Fault Refusal :=
  match s.agenda with
  | [] => agentTurn true s
  | none :: l => agentTurn false { s with agenda := l }
  | some t :: l =>
    if isStep t.instr then exec t.instr { s with agenda := l, subj := t.subj } else .next { s with agenda := l }

/-- s with an instruction of nbits bits placed where step fetches its next instruction: a pier word in slot 0 of port 0, a berth word
in berth 0, a wharf command at the head of unit 0. -/
def State.withFetchWord (s : State) (nbits w : Nat) : State :=
  if nbits = 32 then s.placePier w
  else match decodeBerth (w % 2 ^ 64) with
    | .ok _ => s.placeBerth w
    | .error _ => if (decodeWharf (w % 2 ^ 64)).isSome then s.placeWharf w else s.placeBerth w

end Sys2Proof.Machine
end

