-- ==== Sys2Proof/Safety.lean ====
section
/-! DEFINITION. What the claims speak of: a run without a stop, the canonical form of the byte memories, the head of a berth word, and
the state that a berth word leaves when nothing but its own context changes. -/

namespace Sys2Proof.Machine
open Sys2Proof

/-- The machine takes n steps and each has a next state: no fault and no refusal stops it. -/
def State.runs : Nat → State → Prop
  | 0, _ => True
  | n + 1, s => ∃ t, step s = .next t ∧ t.runs n

/-- HBM, the pool and host memory are in canonical form. -/
def State.memOk (s : State) : Bool := Memory.wf s.hbmByte s.hbm && Memory.wf zeroByte s.pool && Memory.wf zeroByte s.hmem

/-- The head of a berth word (spec/05 R67); none for every other instruction. -/
def wordHead : Instr → Option Hd
  | .nop h => some h
  | .add h _ _ _ => some h
  | .sub h _ _ _ => some h
  | .and h _ _ _ => some h
  | .or h _ _ _ => some h
  | .xor h _ _ _ => some h
  | .andn h _ _ _ => some h
  | .shl h _ _ _ => some h
  | .shr h _ _ _ => some h
  | .sar h _ _ _ => some h
  | .rol h _ _ _ => some h
  | .min h _ _ _ => some h
  | .max h _ _ _ => some h
  | .minu h _ _ _ => some h
  | .maxu h _ _ _ => some h
  | .clz h _ _ => some h
  | .popc h _ _ => some h
  | .mov h _ _ => some h
  | .mul h _ _ _ => some h
  | .mulh h _ _ _ => some h
  | .mulhu h _ _ _ => some h
  | .div h _ _ _ => some h
  | .divu h _ _ _ => some h
  | .rem h _ _ _ => some h
  | .remu h _ _ _ => some h
  | .addi h _ _ _ => some h
  | .movi h _ _ => some h
  | .movh h _ _ _ => some h
  | .shli h _ _ _ => some h
  | .shri h _ _ _ => some h
  | .sari h _ _ _ => some h
  | .bext h _ _ _ _ => some h
  | .bins h _ _ _ _ => some h
  | .setb h _ _ _ => some h
  | .clrb h _ _ _ => some h
  | .cmpeq h _ _ _ _ => some h
  | .cmpne h _ _ _ _ => some h
  | .cmplt h _ _ _ _ => some h
  | .cmpltu h _ _ _ _ => some h
  | .cmple h _ _ _ _ => some h
  | .cmpleu h _ _ _ _ => some h
  | .sel h _ _ _ => some h
  | .lds h _ _ _ => some h
  | .sts h _ _ _ => some h
  | .br h _ => some h
  | .call h _ _ => some h
  | .jmp h _ _ => some h
  | .ret h _ => some h
  | .loop h _ _ _ => some h
  | .loopi h _ _ _ => some h
  | .mtl h _ _ _ => some h
  | .mfl h _ _ _ => some h
  | .trap h _ => some h
  | .bkpt h _ => some h
  | .rett h => some h
  | .exit h => some h
  | .mfsys h _ _ => some h
  | .mtsys h _ _ => some h
  | .phase h _ => some h
  | .fence h _ _ => some h
  | .pfence h _ => some h
  | .time h _ _ => some h
  | .id h _ _ => some h
  | .launch h _ _ => some h
  | .mboxreg h _ _ _ _ _ => some h
  | .mboxack h => some h
  | .tklend h _ _ _ => some h
  | .tkret h _ _ => some h
  | .tksplit h _ _ => some h
  | .tkjoin h _ _ => some h
  | .tkshare h _ _ _ _ => some h
  | .tkunshare h _ _ => some h
  | .tkatom h _ _ _ => some h
  | .tkquery h _ _ _ => some h
  | .tkclaim h _ _ => some h
  | .vadd h _ _ _ _ _ _ _ => some h
  | .vsub h _ _ _ _ _ _ _ => some h
  | .vmul h _ _ _ _ _ _ _ => some h
  | .vfma h _ _ _ _ _ _ _ => some h
  | .vfms h _ _ _ _ _ _ _ => some h
  | .vmin h _ _ _ _ _ _ => some h
  | .vmax h _ _ _ _ _ _ => some h
  | .vabs h _ _ _ _ _ => some h
  | .vneg h _ _ _ _ _ => some h
  | .vexp2 h _ _ _ _ _ => some h
  | .vlog2 h _ _ _ _ _ => some h
  | .vrsq h _ _ _ _ _ => some h
  | .vrcp h _ _ _ _ _ => some h
  | .viadd h _ _ _ _ _ _ _ => some h
  | .visub h _ _ _ _ _ _ _ => some h
  | .vimul h _ _ _ _ _ _ _ _ => some h
  | .vand h _ _ _ _ _ => some h
  | .vor h _ _ _ _ _ => some h
  | .vxor h _ _ _ _ _ => some h
  | .vshl h _ _ _ _ _ => some h
  | .vshr h _ _ _ _ _ => some h
  | .vsar h _ _ _ _ _ => some h
  | .vcmp h _ _ _ _ _ _ _ => some h
  | .vsel h _ _ _ _ _ => some h
  | .vcvt h _ _ _ _ _ _ _ _ _ => some h
  | .vkey h _ _ _ _ _ _ _ => some h
  | .vhist h _ _ _ _ _ _ _ _ => some h
  | .vscan h _ _ _ _ _ _ _ => some h
  | .vred h _ _ _ _ _ _ _ _ => some h
  | .vcomp h _ _ _ _ => some h
  | .vexpd h _ _ _ _ => some h
  | .vperm h _ _ _ _ _ _ _ => some h
  | .vbcast h _ _ _ _ => some h
  | .vmovs h _ _ _ _ _ _ => some h
  | .vrot h _ _ => some h
  | .vmconf h _ _ => some h
  | .kand h _ _ _ => some h
  | .kor h _ _ _ => some h
  | .knot h _ _ => some h
  | .kpopc h _ _ => some h
  | .vld h _ _ _ _ _ => some h
  | .vst h _ _ _ _ _ => some h
  | .vldx h _ _ _ _ _ => some h
  | .vstx h _ _ _ _ _ => some h
  | .cp h _ _ _ _ _ _ _ _ => some h
  | .cpw h _ _ _ _ _ _ _ _ => some h
  | .cpg h _ _ _ _ _ => some h
  | .cps h _ _ _ _ _ _ _ _ => some h
  | .lwait h _ => some h
  | .stbind h _ _ => some h
  | .strel h _ _ _ => some h
  | .rconf h _ _ _ => some h
  | .racq h _ _ => some h
  | .rpub h _ _ => some h
  | .rtake h _ _ => some h
  | .rrel h _ => some h
  | .probe h _ _ _ _ => some h
  | .pwait h _ => some h
  | .pinv h _ _ _ => some h
  | .atom h _ _ _ _ _ _ _ _ => some h
  | .atomnr h _ _ _ _ _ _ _ => some h
  | .atomfence h _ => some h
  | .semwait h _ _ _ _ => some h
  | .sempost h _ _ => some h
  | .whpush h _ _ _ => some h
  | .imload h _ _ _ _ => some h
  | .layset h _ _ => some h
  | .wconf h _ _ _ _ => some h
  | .mmul h _ _ _ _ _ _ => some h
  | .wload h _ _ _ => some h
  | .wswap h _ => some h
  | .fmtpush h _ => some h
  | .fmtclr h => some h
  | .sqbind h _ _ => some h
  | .mpbclr h => some h
  | .acczero h _ _ => some h
  | .accfree h _ _ => some h
  | .accconf h _ => some h
  | .accdrain h _ _ _ _ _ _ _ _ => some h
  | .accread h _ _ _ => some h
  | .accwrite h _ _ _ => some h
  | .mpbld h _ => some h
  | _ => none

/-- The instruction is a pier word (spec/19 R289). -/
def pierHead : Instr → Bool
  | .addp _ _ _ _ _ _ _ => true
  | .subp _ _ _ _ _ _ _ => true
  | .mulp _ _ _ _ _ _ _ => true
  | .faddp _ _ _ _ _ => true
  | .fmaxp _ _ _ _ _ => true
  | .minp _ _ _ _ _ _ _ _ => true
  | .maxp _ _ _ _ _ _ _ _ => true
  | .andp _ _ _ _ _ _ _ => true
  | .orp _ _ _ _ _ _ _ => true
  | .xorp _ _ _ _ _ _ _ => true
  | .shp _ _ _ _ _ _ => true
  | .cmpp _ _ _ _ _ _ _ => true
  | .selp _ _ _ _ _ _ _ _ => true
  | .hld _ _ _ _ => true
  | .pld _ => true
  | .pst _ => true
  | .fld _ _ _ _ => true
  | .fst _ _ _ => true
  | .fcas _ _ _ _ => true
  | .hold => true
  | .combine _ _ _ => true
  | .emit _ _ _ => true
  | .fwd => true
  | .drop => true
  | .redirect _ _ => true
  | .brf _ _ _ => true
  | .trapp _ => true
  | .endk => true
  | _ => false

/-- The fields that every wharf command has (spec/21 R302); none for every other instruction. -/
def wharfHead : Instr → Option WX
  | .nopw x => some x
  | .setd x _ _ _ => some x
  | .wharfSemwait x _ _ _ => some x
  | .wharfSempost x _ _ => some x
  | .barrier x _ => some x
  | .fill x _ _ => some x
  | .copyc x _ _ => some x
  | .convert x _ _ _ _ => some x
  | .gather x _ _ _ _ => some x
  | .pool x _ _ _ _ _ _ _ => some x
  | .gemv x _ _ _ _ => some x
  | .axpy x _ _ _ => some x
  | .scale x _ _ => some x
  | .reduce x _ _ _ _ => some x
  | .dot x _ _ _ => some x
  | .norm2 x _ _ _ => some x
  | .clamp x _ _ _ => some x
  | .atomadd x _ _ _ => some x
  | .atommax x _ _ _ _ => some x
  | .scatter x _ _ _ => some x
  | .crc x _ _ => some x
  | .sortidx x _ _ _ => some x
  | .mergedup x _ _ _ _ => some x
  | .topkv x _ _ _ _ => some x
  | _ => none

/-- The berth whose words issue has context c and its word has issued; nothing else differs from s. -/
def State.withCtx (s : State) (c : Ctx) : State :=
  { s with berths := Tab.set Berth.idle s.berths s.cur { s.berth s.cur with ctx := c }, iss := .issued }

/-- One effect e has been put in flight, to land l unfrozen ck from issue (spec/03 R45); nothing else differs from s. `m3` says that
the word names the rotating plane. -/
def State.flown (s : State) (l : Nat) (e : Eff) (m3 : Bool) : State :=
  s.withCtx { s.ctx with flights := s.ctx.flights ++ [⟨l, e, m3⟩] }

/-- A word has issued: the running berth has context c, `nextId` has grown by the operations it issued, and nothing else differs from
s. `want` says that a persist begins at the boundary after its group (spec/09 R150). -/
def State.issuedAs (s t : State) (c : Ctx) (ops : Nat) (want : Bool) : Prop :=
  let x := s.berth s.cur
  t = { s with berths := t.berths, iss := .issued, nextId := s.nextId + ops } ∧ (∀ b, b ≠ s.cur → t.berth b = s.berth b) ∧
  t.berth s.cur = { x with ctx := c, shadow := { x.shadow with want := x.shadow.want || want } }

/-- The operation that a word issues now: its number is the next one, and it is held as the FENCEs in force say (spec/09 R144). -/
def State.newOp (s : State) (path : Nat) (kind : OpKind) (route : Route) (tag rel : Nat) : Op :=
  let w := match kind.winAddr with
    | some a => Tab.get Window.none s.ctx.windows (winOf a)
    | none => Window.none
  ⟨s.nextId, kind, route, tag, .sent, s.ctx.fenceHold path, rel, false, w, false, [], [], 0⟩

/-- The word has raised a fault at issue: the trap is taken (spec/23 R335, R336). -/
def State.trapped (s : State) (code : Nat) (addr : W64) : State :=
  { (s.loseOwn ⟨code, addr, 0, 0⟩).takeTrap ⟨code, addr, 0, 0⟩ with iss := .trapped none }

/-- The word holds the freeze line: none of its group issues in this ck (spec/03 R51). -/
def State.frozen (s : State) : State := { s with iss := .frozen }

/-- The word waits for operations that a FENCE holds: an unfrozen ck in which its group does not issue (spec/09 R388). -/
def State.waiting (s : State) : State := { s with iss := .waiting }

/-- t is s but for the berths, the teams, the event log, the counter of operations, and how the word ended: what a berth word may
change when it issues, freezes or traps. -/
def State.keepsDevice (s t : State) : Prop :=
  t = { s with
    berths := t.berths
    mans := t.mans
    iss := t.iss
    skip := t.skip
    nextId := t.nextId
    evSeq := t.evSeq
    evHeld := t.evHeld
    hmem := t.hmem
    evtail := t.evtail
    msi := t.msi
    lost := t.lost }

/-- A record has been logged on the way from s to t, and nothing else has been written to host memory (spec/23 R354): its 32 bytes stand
at the ring's next slot, or it is held, or lost. -/
def State.logged (s t : State) (r : EvRec) : Prop :=
  let room := (s.evtail + 1 + 2 ^ 32 - s.evhead) % 2 ^ 32 ≤ 2 ^ bf s.evbase 0 5
  let held := s.evOnce = false ∧ s.evHeld.length < 256
  (s.evbase.getLsbD 63 = true → room → Memory.read zeroByte t.hmem s.evSlot 32 = r.bytes ∧ t.evtail = (s.evtail + 1) % 2 ^ 32 ∧
    (∀ a, a < s.evSlot ∨ s.evSlot + 32 ≤ a → Memory.read zeroByte t.hmem a 1 = Memory.read zeroByte s.hmem a 1) ∧
    t.evHeld = s.evHeld ∧ t.lost = s.lost) ∧
  (¬ (s.evbase.getLsbD 63 = true ∧ room) → t.hmem = s.hmem ∧ t.evtail = s.evtail ∧ t.msi = s.msi ∧
    t.evHeld = (if s.evbase.getLsbD 63 = false ∧ held then s.evHeld ++ [r] else s.evHeld) ∧
    t.lost = (if s.evbase.getLsbD 63 = false ∧ held then s.lost else (s.lost + 1) % 2 ^ 32))

/-- At most one record has been written on the way from s to t: host memory changes in the 32 bytes of the ring's next slot alone, and
not at all where EVBASE.EN is 0 or the ring is full (spec/23 R354). -/
def State.evOrKeep (s t : State) : Prop :=
  let room := (s.evtail + 1 + 2 ^ 32 - s.evhead) % 2 ^ 32 ≤ 2 ^ bf s.evbase 0 5
  (∀ a, a < s.evSlot ∨ s.evSlot + 32 ≤ a → Memory.read zeroByte t.hmem a 1 = Memory.read zeroByte s.hmem a 1) ∧
  (¬ (s.evbase.getLsbD 63 = true ∧ room) → t.hmem = s.hmem ∧ t.evtail = s.evtail ∧ t.msi = s.msi)

end Sys2Proof.Machine
end

