-- ==== Sys2Proof/Certificates/Slice0/Obligations.lean ====
section
/-! DEFINITION. The statements for the provers. -/

open Sys2Proof Sys2Proof.Machine

/-- R37, R68: a word whose guard is false has no effect and still issues; SEL alone always executes. -/
def Obligations.GuardedOffWordDoesNothing : Prop :=
  ∀ (i : Instr) (h : Hd) (s : State), wordHead i = some h → s.ctx.guard h = false → (∀ d a b, i ≠ .sel h d a b) →
    exec i s = .next { s with iss := .issued }

/-- R155, and NOP of R69: the operands are read at issue, the result is put in flight with latency 1, and nothing else changes. R156:
products have latency 3; quotients and remainders latency 20, with a zero divisor and the overflow as R156 gives them. -/
def Obligations.ScalarArithmeticForms : Prop :=
  (∀ (s : State) (h : Hd) (d a b : Nat), s.ctx.guard h = true →
     let x := s.ctx.reg a
     let y := s.ctx.reg b
     let n := y.toNat % 64
     let out := fun v : W64 => (Host.Outcome.next (s.flown 1 (.sreg d v) false) : Out)
     exec (.nop h) s = .next { s with iss := .issued } ∧
     exec (.add h d a b) s = out (x + y) ∧ exec (.sub h d a b) s = out (x - y) ∧
     exec (.and h d a b) s = out (x &&& y) ∧ exec (.or h d a b) s = out (x ||| y) ∧
     exec (.xor h d a b) s = out (x ^^^ y) ∧ exec (.andn h d a b) s = out (x &&& ~~~y) ∧
     exec (.shl h d a b) s = out (BitVec.ofNat 64 (x.toNat * 2 ^ n)) ∧
     exec (.shr h d a b) s = out (BitVec.ofNat 64 (x.toNat / 2 ^ n)) ∧
     exec (.sar h d a b) s = out (BitVec.ofInt 64 (x.toInt / 2 ^ n)) ∧
     exec (.rol h d a b) s = out ((x <<< n) ||| (x >>> (64 - n))) ∧
     exec (.min h d a b) s = out (if x.toInt ≤ y.toInt then x else y) ∧
     exec (.max h d a b) s = out (if x.toInt ≤ y.toInt then y else x) ∧
     exec (.minu h d a b) s = out (if x.toNat ≤ y.toNat then x else y) ∧
     exec (.maxu h d a b) s = out (if x.toNat ≤ y.toNat then y else x) ∧
     (∃ v : W64, exec (.clz h d a) s = out v ∧ v.toNat ≤ 64 ∧ (∀ k, k < v.toNat → x.getLsbD (63 - k) = false) ∧
       (v.toNat < 64 → x.getLsbD (63 - v.toNat) = true)) ∧
     (∃ v : W64, exec (.popc h d a) s = out v ∧ v.toNat = ((List.range 64).filter fun k => x.getLsbD k).length) ∧
     exec (.mov h d a) s = out x) ∧
  (∀ (s : State) (h : Hd) (d a b : Nat), s.ctx.guard h = true →
     let x := s.ctx.reg a
     let y := s.ctx.reg b
     let out := fun (l : Nat) (v : W64) => (Host.Outcome.next (s.flown l (.sreg d v) false) : Out)
     exec (.mul h d a b) s = out 3 (BitVec.ofNat 64 (x.toNat * y.toNat)) ∧
     exec (.mulh h d a b) s = out 3 (BitVec.ofInt 64 (x.toInt * y.toInt / 2 ^ 64)) ∧
     exec (.mulhu h d a b) s = out 3 (BitVec.ofNat 64 (x.toNat * y.toNat / 2 ^ 64)) ∧
     exec (.div h d a b) s = out 20 (if y = 0 then BitVec.allOnes 64 else BitVec.ofInt 64 (x.toInt.tdiv y.toInt)) ∧
     exec (.divu h d a b) s = out 20 (if y = 0 then BitVec.allOnes 64 else BitVec.ofNat 64 (x.toNat / y.toNat)) ∧
     exec (.rem h d a b) s = out 20 (if y = 0 then x else BitVec.ofInt 64 (x.toInt.tmod y.toInt)) ∧
     exec (.remu h d a b) s = out 20 (if y = 0 then x else BitVec.ofNat 64 (x.toNat % y.toNat)))

/-- R157-R159: immediates, shifts by a constant and bit fields; the fields are within what the encoding admits. R160, R161: a compare puts
one bit of d in flight; SEL chooses by its guard field and always executes. -/
def Obligations.ScalarFieldsCompareAndSelect : Prop :=
  (∀ (s : State) (h : Hd) (d a imm n lo wm1 : Nat), s.ctx.guard h = true → imm < 2 ^ 31 → n < 64 → lo < 64 → wm1 < 64 →
     let x := s.ctx.reg a
     let z := s.ctx.reg d
     let k : Int := if imm < 2 ^ 30 then imm else (imm : Int) - 2 ^ 31
     let out := fun v : W64 => (Host.Outcome.next (s.flown 1 (.sreg d v) false) : Out)
     exec (.addi h d a imm) s = out (x + BitVec.ofInt 64 k) ∧
     exec (.movi h d imm) s = out (BitVec.ofInt 64 k) ∧
     exec (.movh h d a imm) s = out (BitVec.ofNat 64 (x.toNat % 2 ^ 33 * 2 ^ 31 + imm)) ∧
     exec (.shli h d a n) s = out (BitVec.ofNat 64 (x.toNat * 2 ^ n)) ∧
     exec (.shri h d a n) s = out (BitVec.ofNat 64 (x.toNat / 2 ^ n)) ∧
     exec (.sari h d a n) s = out (BitVec.ofInt 64 (x.toInt / 2 ^ n)) ∧
     (∃ v : W64, exec (.bext h d a lo wm1) s = out v ∧ ∀ i, i < 64 → v.getLsbD i = (decide (i ≤ wm1) && x.getLsbD (lo + i))) ∧
     (∃ v : W64, exec (.bins h d a lo wm1) s = out v ∧
       ∀ i, i < 64 → v.getLsbD i = if lo ≤ i ∧ i ≤ lo + wm1 then x.getLsbD (i - lo) else z.getLsbD i) ∧
     (∃ v : W64, exec (.setb h d a n) s = out v ∧ ∀ i, i < 64 → v.getLsbD i = (decide (i = n) || x.getLsbD i)) ∧
     (∃ v : W64, exec (.clrb h d a n) s = out v ∧ ∀ i, i < 64 → v.getLsbD i = (!decide (i = n) && x.getLsbD i))) ∧
  (∀ (s : State) (h : Hd) (d p a b : Nat),
     let x := s.ctx.reg a
     let y := s.ctx.reg b
     let out := fun v : Bool => (Host.Outcome.next (s.flown 1 (.sbit d p v) false) : Out)
     exec (.sel h d a b) s = .next (s.flown 1 (.sreg d (if s.ctx.guard h then x else y)) false) ∧
     (s.ctx.guard h = true →
       exec (.cmpeq h d p a b) s = out (decide (x = y)) ∧ exec (.cmpne h d p a b) s = out (decide (x ≠ y)) ∧
       exec (.cmplt h d p a b) s = out (decide (x.toInt < y.toInt)) ∧
       exec (.cmpltu h d p a b) s = out (decide (x.toNat < y.toNat)) ∧
       exec (.cmple h d p a b) s = out (decide (x.toInt ≤ y.toInt)) ∧
       exec (.cmpleu h d p a b) s = out (decide (x.toNat ≤ y.toNat))))

/-- R45, R38, R154: a result that is due lands at the end of its ck: it changes the one register, or the one bit of it, or the one lane
mask, and s0 and k0 discard it; the other flights count one ck down, and nothing else changes. R45, R163, R205, R169: a store, a system
register write and a rotating-region change that are due land at the end of their ck, and change what they name alone. R40, R44, R45,
R183: a vector result that is due lands: each selected element of the destination takes its value, every other element of it and every
other cell keeps theirs. The destination lies outside the rotating plane, or no row of it is dead. -/
def Obligations.ResultsLand : Prop :=
  (∀ (s : State) (b : Nat) (l1 l2 : List Flight) (e : Eff) (m : Bool),
     let c := s.ctxAt b
     let quiet := fun f : Flight => 2 ≤ f.rem ∧ (∀ r, f.eff ≠ .mmul r) ∧ ∀ r, f.eff ≠ .wload r
     s.subj.berth = b → s.agent = .land b → c.open_ = true → c.landed = false → c.flights = l1 ++ ⟨1, e, m⟩ :: l2 →
     (∀ f ∈ l1 ++ l2, quiet f) →
     let rest := (l1 ++ l2).map fun f => { f with rem := f.rem - 1 }
     let lands := fun c' : Ctx => ∃ t, exec .resultLand s = .next t ∧ t = { s with agent := .release b, berths := t.berths } ∧
       (∀ k, k ≠ b → t.berth k = s.berth k) ∧ t.berth b = { s.berth b with ctx := { c' with landed := true, flights := rest } }
     (∀ d v, e = .sreg d v → ∃ c', lands c' ∧ c' = { c with sregs := c'.sregs } ∧
       ∀ r, c'.reg r = if r = d ∧ r ≠ 0 then v else c.reg r) ∧
     (∀ d p v, e = .sbit d p v → p < 64 → ∃ c', lands c' ∧ c' = { c with sregs := c'.sregs } ∧
       (∀ r, r ≠ d → c'.reg r = c.reg r) ∧ (d = 0 → c'.reg d = 0) ∧
       (d ≠ 0 → ∀ i, i < 64 → (c'.reg d).getLsbD i = if i = p then v else (c.reg d).getLsbD i)) ∧
     (∀ k v, e = .kmask k v → ∃ c', lands c' ∧ c' = { c with kmasks := c'.kmasks } ∧
       ∀ j, c'.kmask j = if j = k ∧ j ≠ 0 then v else c.kmask j)) ∧
  (∀ (s : State) (b : Nat) (e : Eff) (m : Bool),
     let c := s.ctxAt b
     s.subj.berth = b → s.agent = .land b → c.open_ = true → c.landed = false → c.flights = [⟨1, e, m⟩] →
     let lands := fun c' : Ctx => ∃ t, exec .resultLand s = .next t ∧ t = { s with agent := .release b, berths := t.berths } ∧
       (∀ k, k ≠ b → t.berth k = s.berth k) ∧ t.berth b = { s.berth b with ctx := { c' with landed := true, flights := [] } }
     (∀ p l, e = .store p l → (∀ x ∈ s.mboxes, x.local_ ≠ some c.self) → lands { c with spad := Memory.writeCells zeroByte c.spad l }) ∧
     -- a store into a mailbox of the own export is an arrival there as well (spec/01 R28, spec/11 R178)
     (∀ p l, e = .store p l → ∃ t, exec .resultLand s = .next t ∧
       t.berth b = { s.berth b with ctx := { c with spad := Memory.writeCells zeroByte c.spad l, landed := true, flights := [] } } ∧
       t.mboxes = ((cellRuns (l.map Prod.fst)).foldl (fun u r => u.arrive 0 (some c.self) r.1 r.2) s).mboxes) ∧
     (∀ v, e = .sysreg 0 v → lands { c with tcause := w64 (v.toNat % 256) }) ∧
     (∀ v, e = .sysreg 1 v → lands { c with tpc := w64 (v.toNat % 32768) }) ∧
     (∀ v, e = .sysreg 2 v → lands { c with drop := v.getLsbD 61 }) ∧
     (∀ v, e = .sysreg 3 v → lands { c with taddr := v }) ∧
     (∀ v, e = .sysreg 4 v → lands { c with tvec := w64 (v.toNat / 2 ^ 63 * 2 ^ 63 + v.toNat % 32768) }) ∧
     (∀ v, e = .sysreg 5 v → lands { c with tscratch := v }) ∧
     (∀ t v, t < 4 → e = .sysreg (0x70 + t) v → lands { c with
       ptconf := Tab.set 0 c.ptconf t (w64 (v.toNat % 2 ^ 28)), ways := c.ways.filter fun w => w.1 / 4096 != t }) ∧
     (∀ n, e = .rot n → lands { c with rb := (c.rb + 128 - n % 128) % 128 }.clearDead) ∧
     (∀ n, e = .depth n → lands { c with ld := n }.clearDead) ∧
     (∀ bs, e = .mpb bs → lands { c with mpb := some bs })) ∧
  (∀ (s : State) (b : Nat) (d : MName) (w : Width) (ms : List Bool) (es : List Nat) (m : Bool),
     let c := s.ctxAt b
     s.subj.berth = b → s.agent = .land b → c.open_ = true → c.landed = false → c.flights = [⟨1, c.vecEff d w ms es, m⟩] →
     d.wf = true → (d.plane = 3 → c.ld = 128) → ms.length = widthCount w → es.length = widthCount w →
     (∀ x ∈ es, x < 2 ^ w.bits) →
     ∃ t, exec .resultLand s = .next t ∧
       (t.ctxAt b).elems d w = ((ms.zip (es.zip (c.elems d w))).map fun x => if x.1 then x.2.1 else x.2.2) ∧
       (∀ k, (∀ i, i < 128 → laneCell c.rb c.ld d i ≠ some k) → Tab.get 0 (t.ctxAt b).mrf k = Tab.get 0 c.mrf k) ∧
       t.ctxAt b = { c with mrf := (t.ctxAt b).mrf, landed := true, flights := [] } ∧
       t = { s with agent := .release b, berths := t.berths } ∧ ∀ k, k ≠ b → t.berth k = s.berth k)

/-- R162, R163, R205: loads and stores of the own scratchpad. A load's value is what the scratchpad holds at issue; a store's bytes are
put in flight to land 2 ck later; nothing else changes. R206: indexed loads and stores of the own scratchpad. Every element that is
checked is within the scratchpad, aligned and allowed by its tokens; the elements read, or the bytes stored, are those of the masked-in
lanes. -/
def Obligations.LocalLoadsAndStores : Prop :=
  (∀ (s : State) (h : Hd) (d a imm k : Nat) (m : MName) (w : Width), s.ctx.guard h = true →
     let c := s.ctx
     let p := (c.reg a + sx31 imm).toNat
     let q := (c.reg a + sx21 imm).toNat
     (p % 8 = 0 → p + 8 ≤ 0x100000 → s.ownFault p 8 .read = none →
       exec (.lds h d a imm) s = .next (s.flown 4 (.sreg d (w64 (leValue (Memory.read zeroByte c.spad p 8)))) false)) ∧
     (p % 8 = 0 → p + 8 ≤ 0x100000 → s.ownFault p 8 .write = none →
       exec (.sts h d a imm) s = .next (s.flown 2 (.store 0 (cellsFrom p (leBytes 8 (c.reg d).toNat))) false)) ∧
     (q % 64 = 0 → q + 512 ≤ 0x100000 → s.ownFault q 512 .read = none →
       exec (.vld h m a k w imm) s = .next (s.flown 6 (.cells (c.cellsOf m (lanesMask w (c.writeMask k w))
         (bytesLanes (Memory.read zeroByte c.spad q 512)))) (m.plane == 3))) ∧
     (q % 64 = 0 → q + 512 ≤ 0x100000 → s.ownFault q 512 .write = none →
       exec (.vst h m a k w imm) s = .next (s.flown 2 (.store 1 (c.maskedBytes m w k q)) (m.plane == 3)))) ∧
  (∀ (s : State) (h : Hd) (d a b : MName) (p k : Nat) (w : Width), s.ctx.guard h = true →
     let c := s.ctx
     let n := w.bits / 8
     let l := c.indexed a p w k
     -- the lanes that are checked: those masked in, and lane 0 of a store whose lanes are all masked off
     let ok := fun acc => ∀ e ∈ l, (e.2.2 = true ∨ (acc = .write ∧ e.1 = 0 ∧ ∀ x ∈ l, x.2.2 = false)) →
       e.2.1 < 0x100000 ∧ e.2.1 % n = 0 ∧ s.ownFault e.2.1 n acc = none
     (ok .read → exec (.vldx h d a p w k) s = .next (s.flown 8 (c.vecEff d w
         (List.replicate (128 * p) false ++ l.map (fun e => e.2.2) ++ List.replicate (widthCount w - 128 * p - 128) false)
         (List.replicate (128 * p) 0 ++ l.map (fun e => if e.2.2 then leValue (Memory.read zeroByte c.spad e.2.1 n) else 0)
           ++ List.replicate (widthCount w - 128 * p - 128) 0)) (d.plane == 3 || a.plane == 3))) ∧
     (ok .write → exec (.vstx h a b p w k) s = .next (s.flown 3 (.store 1
         ((l.zip ((c.elems b w).drop (128 * p))).flatMap fun x => if x.1.2.2 then cellsFrom x.1.2.1 (leBytes n x.2) else []))
         (a.plane == 3 || b.plane == 3))))

/-- R120, R162, R163, R205: an access outside the scratchpad and the windows raises BOUND, a misaligned one ALIGN, BOUND first; no
register and no byte of memory changes but as trap entry says. R123, R49: an access of a valid window issues an operation on path F. A
store counts against the window's allowance and holds the freeze line while it is used up. -/
def Obligations.LocalAccessFaultsAndWindows : Prop :=
  (∀ (s : State) (h : Hd) (d a imm k : Nat) (m : MName) (w : Width), s.ctx.guard h = true →
     let p := s.ctx.reg a + sx31 imm
     let q := s.ctx.reg a + sx21 imm
     let out := fun (v : W64) (n : Nat) => (v.toNat < 0x100000 ∧ 0x100000 < v.toNat + n) ∨ 0x1100000 ≤ v.toNat
     let odd := fun (v : W64) (n al : Nat) => v.toNat + n ≤ 0x100000 ∧ v.toNat % al ≠ 0
     (out p 8 → exec (.lds h d a imm) s = .next (s.trapped 0x02 p) ∧ exec (.sts h d a imm) s = .next (s.trapped 0x02 p)) ∧
     (odd p 8 8 → exec (.lds h d a imm) s = .next (s.trapped 0x01 p) ∧ exec (.sts h d a imm) s = .next (s.trapped 0x01 p)) ∧
     (out q 512 → exec (.vld h m a k w imm) s = .next (s.trapped 0x02 q) ∧ exec (.vst h m a k w imm) s = .next (s.trapped 0x02 q)) ∧
     (odd q 512 64 → exec (.vld h m a k w imm) s = .next (s.trapped 0x01 q) ∧ exec (.vst h m a k w imm) s = .next (s.trapped 0x01 q))) ∧
  (∀ (s : State) (h : Hd) (d a imm : Nat), s.ctx.guard h = true →
     let c := s.ctx
     let p := (c.reg a + sx31 imm).toNat
     let i := (p - 0x100000) / 0x100000
     let w := Tab.get Window.none c.windows i
     0x100000 ≤ p → p < 0x1100000 → p % 8 = 0 → w.valid = true → w.lbase + p % 0x100000 + 8 ≤ 0x100000 →
     (∃ t, exec (.lds h d a imm) s = .next t ∧ s.issuedAs t { c with
         ops := c.ops ++ [s.newOp 32 (.rload i p 8) .count 0 0]
         flights := c.flights ++ [⟨4, .rload s.nextId (.sreg d) none, false⟩] } 1 false) ∧
     (c.holding = false → w.out < w.limit → ∃ t, exec (.sts h d a imm) s = .next t ∧ s.issuedAs t { c with
         ops := c.ops ++ [s.newOp 32 (.wstore i p (cellsFrom p (leBytes 8 (c.reg d).toNat))) .count 0 0]
         windows := Tab.set Window.none c.windows i { w with out := w.out + 1 } } 1 false) ∧
     (c.holding = false → w.limit ≤ w.out → exec (.sts h d a imm) s = .next s.frozen) ∧
     (c.holding = true → exec (.sts h d a imm) s = .next s.waiting))

/-- R55, R164, R165: a taken branch has two delay groups, and CALL and JMP put the link in flight. In a delay group a control transfer has
no effect (R85). R56, R58, R166, R167: LOOP and LOOPI set lc, lb and le of their level and latch the body; a count of 0 skips it. MTL
writes a loop register and MFL reads one. In handler state the three that write raise SYS.PRIVILEGE (R336). -/
def Obligations.BranchesAndHardwareLoops : Prop :=
  (∀ (s : State) (h : Hd) (d a off : Nat), s.ctx.guard h = true →
     let c := s.ctx
     let jump := fun v : W64 => { c with branch := some ⟨v, 2⟩ }
     let link := fun v : W64 => { jump v with flights := c.flights ++ [⟨1, .sreg d (w64 s.link), false⟩] }
     let rel := w64 s.woff + (BitVec.ofNat 37 off).signExtend 64
     (c.branch = none → c.quiet = 0 →
       exec (.br h off) s = .next (s.withCtx (jump rel)) ∧ exec (.call h d off) s = .next (s.withCtx (link rel)) ∧
       exec (.jmp h d a) s = .next (s.withCtx (link (c.reg a))) ∧ exec (.ret h a) s = .next (s.withCtx (jump (c.reg a)))) ∧
     (∀ i ∈ [Instr.br h off, .call h d off, .jmp h d a, .ret h a, .loop h 0 a off, .loopi h 0 d off, .probe h a d 0 off, .rett h],
       c.branch ≠ none ∨ c.quiet ≠ 0 → exec i s = .next { s with iss := .issued })) ∧
  (∀ (s : State) (h : Hd) (l a n off d : Nat) (r : LoopReg), s.ctx.guard h = true →
     let c := s.ctx
     let v := (c.reg a).toNat
     let lb := s.groupEnd
     let started := fun k : Nat =>
       { s.withCtx { c with loops := Tab.set Loop.zero c.loops l ⟨k, lb, lb + off, lb, lb + off⟩ } with
         skip := if k = 0 then some (lb + off + 1) else s.skip }
     let x := Tab.get Loop.zero c.loops l
     let set := fun y : Loop => s.withCtx { c with loops := Tab.set Loop.zero c.loops l y }
     (c.branch = none → c.quiet = 0 → c.hs = false → c.nestBad l s.woff (lb + off) = false →
       exec (.loop h l a off) s = .next (started v) ∧ exec (.loopi h l n off) s = .next (started n)) ∧
     (c.branch = none → c.quiet = 0 → c.hs = false → c.nestBad l s.woff (lb + off) = true →
       exec (.loop h l a off) s = .next (s.trapped 0x08 (w64 l)) ∧ exec (.loopi h l n off) s = .next (s.trapped 0x08 (w64 l))) ∧
     (c.hs = false →
       exec (.mtl h .lc l a) s = .next (set (if x.lc = 0 ∧ v ≠ 0 then ⟨v, x.lb, x.le, x.lb, x.le⟩ else ⟨v, x.lb, x.le, x.beg, x.fin⟩)) ∧
       (v ≤ 32767 → exec (.mtl h .lb l a) s = .next (set ⟨x.lc, v, x.le, x.beg, x.fin⟩) ∧
         exec (.mtl h .le l a) s = .next (set ⟨x.lc, x.lb, v, x.beg, x.fin⟩)) ∧
       (32767 < v → r ≠ .lc → exec (.mtl h r l a) s = .next (s.trapped 0x02 (c.reg a)))) ∧
     exec (.mfl h d r l) s = .next (s.flown 1 (.sreg d (w64 (match r with | .lc => x.lc | .lb => x.lb | .le => x.le))) false) ∧
     (c.hs = true → exec (.mtl h r l a) s = .next (s.trapped 0x63 0) ∧ (c.branch = none → c.quiet = 0 →
       exec (.loop h l a off) s = .next (s.trapped 0x63 0) ∧ exec (.loopi h l n off) s = .next (s.trapped 0x63 0))))

/-- R335: trap entry, when TVEC.EN is 1 and HS is 0. The snapshot is held aside, TCAUSE, TPC and TADDR say what happened, DROP is 0 and HS
is 1, and the next group is fetched from ENTRY; scalar registers, the scratchpad, the matrix registers and the accumulators are shared
with the handler, and nothing outside the berth changes, but where the fault is TOKEN.LOST: then the region of the own export whose record
was met is QUARANTINED, with an event (R351). R336: a fault while TVEC.EN is 0, or in handler state, ends the team with the fault's code
or with SYS.DOUBLE; no other team changes. Of the team's berths, one that drains, awaits its spill or is debug-halted goes on to its end
(R31); no register changes. The event of R336 is logged, after that of a lost record where the fault is TOKEN.LOST (R351), and host memory
changes in its 32 bytes alone; no other byte of memory changes. -/
def Obligations.TrapEntryOrTeamEnd : Prop :=
  (∀ (s : State) (code : Nat) (addr : W64),
     let c := s.ctx
     let t := s.trapped code addr
     let x := t.ctx
     c.tvec.getLsbD 63 = true → c.hs = false → code < 256 → c.pc < 32768 →
     x.tcause = w64 code ∧ x.tpc = w64 c.pc ∧ x.taddr = addr ∧ x.drop = false ∧ x.hs = true ∧ x.pc = c.tvec.toNat % 32768 ∧
     x.flights = [] ∧ x.branch = none ∧ x.fences = [] ∧ x.aside = some c.atBoundary.capture ∧
     (∀ q i, ((x.ring q).slot i).filling = none) ∧
     t.berth s.cur = { s.berth s.cur with ctx := x, bpSkip := false } ∧
     x = { c.atBoundary with
       tcause := x.tcause, tpc := x.tpc, taddr := x.taddr, drop := false, hs := true, pc := x.pc, flights := [], branch := none,
       fences := [], aside := x.aside, site := 0, ttag := 0, pending := none, quiet := 0, mboxReq := none, mboxAns := none,
       rings := c.rings.map fun e => (e.1, holdPubs e.2) } ∧
     (∀ b, b ≠ s.cur → t.berth b = s.berth b) ∧
     t = { s.loseOwn ⟨code, addr, 0, 0⟩ with berths := t.berths, iss := .trapped none } ∧
     (code ≠ 0x24 → s.loseOwn ⟨code, addr, 0, 0⟩ = s) ∧
     (∀ g, code = 0x24 → (s.regions.filter fun y => y.lost && y.exporter == some c.self && decide (addr.toNat < y.base + 2 ^ y.log2)) = [g] →
       Memory.wf zeroByte s.hmem = true →
       t.regions = (s.regions.map fun y => if y = g then { y with lost := false, st := .quarantined } else y) ∧
       s.logged t ⟨srcHm, (Tab.get 0 s.evSeq srcHm + 1) % 2 ^ 32, s.time, 0x75, some g.job, w64 g.base⟩)) ∧
  (∀ (s : State) (code : Nat) (addr : W64) (m : Man),
     let c := s.ctx
     let u := s.loseOwn ⟨code, addr, 0, 0⟩
     let t := s.trapped code addr
     let k := if c.hs then 0x64 else code
     code < 256 → c.pc < 32768 →
     c.pending = none → s.man c.team = some m → m.ended = false → (c.tvec.getLsbD 63 = false ∨ c.hs = true) →
     Memory.wf zeroByte s.hmem = true →
     t.man c.team = some { m with ended := true, code := k } ∧ (∀ j, j ≠ c.team → t.man j = s.man j) ∧
     (∀ b, t.berth b = if (s.berth b).placed ∧ (s.berth b).ctx.team = c.team then (s.berth b).endNow else s.berth b) ∧
     (∀ b, t.ctxAt b = s.ctxAt b) ∧
     u.logged t ⟨srcBerth s.cur, (Tab.get 0 u.evSeq (srcBerth s.cur) + 1) % 2 ^ 32, s.time, k, some m.job,
       w64 (code + c.pc * 2 ^ 8 + addr.toNat % 2 ^ 32 * 2 ^ 32)⟩ ∧ u.keepsDevice t ∧
     (code ≠ 0x24 → u = s) ∧ s.evOrKeep u)

/-- R170, R171: TRAP and BKPT issue and leave a trap to take at the boundary after their group. RETT issues in handler state alone;
outside it, it raises SYS.PRIVILEGE. R171, R337: once the handler's results have landed, the interrupted context goes on at TPC: HS is
cleared, and with DROP 0 the held-aside results, branch and fences are in force again. With DROP 1 they are discarded, with every
operation that had not been sent: of the operations, those that had been sent alone are left, and no register and no byte of the
scratchpad changes. -/
def Obligations.TrapFormsAndReturn : Prop :=
  (∀ (s : State) (h : Hd) (imm : Nat), s.ctx.guard h = true →
     let c := s.ctx
     exec (.trap h imm) s = .next (s.withCtx { c with pending := some ⟨0x60, sx31 imm, 0, 0⟩ }) ∧
     exec (.bkpt h imm) s = .next (s.withCtx { c with pending := some ⟨0x61, w64 imm, 0, 0⟩ }) ∧
     (c.branch = none → c.quiet = 0 → c.hs = true → exec (.rett h) s = .next (s.withCtx { c with pilot := .rett })) ∧
     (c.branch = none → c.quiet = 0 → c.hs = false → exec (.rett h) s = .next (s.trapped 0x63 0))) ∧
  (∀ (s : State) (a : Snap),
     let b := s.subj.berth
     let c := s.ctxAt b
     c.pilot = .rett → c.flights = [] → c.aside = some a →
     ∃ t, exec .handlerResume s = .next t ∧ t = { s with berths := t.berths } ∧ (∀ k, k ≠ b → t.berth k = s.berth k) ∧
       (c.drop = false → t.ctxAt b = a.pubs.foldl Ctx.fillOn { c with
         hs := false, aside := none, pilot := .run, pc := c.tpc.toNat % 32768, flights := a.flights, branch := a.branch,
         fences := a.fences ++ c.fences, quiet := a.quiet, mboxReq := a.mbox.1, mboxAns := a.mbox.2 }) ∧
       (c.drop = true →
         let x := t.ctxAt b
         let sent := fun o : Op => (∀ h ∈ a.held, h.1 = o.id → h.2 = 0) ∧ ∀ f ∈ a.flights, ∀ d y, f.eff ≠ .rload o.id d y
         x = { c with
           hs := false, aside := none, pilot := .run, pc := c.tpc.toNat % 32768, flights := [], fences := [], mboxReq := a.mbox.1,
           mboxAns := a.mbox.2, ops := x.ops, rings := x.rings, streams := x.streams, windows := x.windows } ∧
         (∀ o, o ∈ x.ops ↔ ∃ p ∈ c.ops, sent p ∧ o = { p with rel := 0 })))

/-- R168, R169: MFSYS puts the register's value in flight; MTSYS puts its write in flight, or raises SYS.PRIVILEGE for a register that it
may not write; what a disabled probe table's PTCONF may hold is the model's choice (log entry 98). R175, R176: ID and TIME, at R78's
opcodes (log entry 19). -/
def Obligations.SystemRegistersAndIdentity : Prop :=
  (∀ (s : State) (h : Hd) (d a n : Nat), s.ctx.guard h = true →
     let c := s.ctx
     let v := c.reg a
     exec (.mfsys h d n) s = .next (s.flown 2 (.sreg d (s.sysreg c n)) false) ∧
     (n < 4 → c.hs = true → exec (.mtsys h a n) s = .next (s.flown 2 (.sysreg n v) false)) ∧
     (n < 4 → c.hs = false → exec (.mtsys h a n) s = .next (s.trapped 0x63 (w64 n))) ∧
     (n = 4 ∨ n = 5 → exec (.mtsys h a n) s = .next (s.flown 2 (.sysreg n v) false)) ∧
     (n = 0x40 → spexpBad v = true → exec (.mtsys h a n) s = .next (s.trapped 0x02 v)) ∧
     (n = 0x40 → spexpBad v = false → s.exportFree c.self = false → exec (.mtsys h a n) s = .next (s.trapped 0x06 v)) ∧
     (n = 0x40 → spexpBad v = false → s.exportFree c.self = true → exec (.mtsys h a n) s = .next (s.flown 2 (.sysreg n v) false)) ∧
     (0x70 ≤ n → n < 0x74 → c.ptBad (n - 0x70) v = false → c.ptFilling (n - 0x70) = false →
       exec (.mtsys h a n) s = .next (s.flown 2 (.sysreg n v) false)) ∧
     (5 < n → n ≠ 0x40 → n < 0x70 ∨ 0x74 ≤ n → exec (.mtsys h a n) s = .next (s.trapped 0x63 (w64 n)))) ∧
  (∀ (s : State) (h : Hd) (d key l : Nat) (m : Man), s.ctx.guard h = true → s.man s.ctx.team = some m →
     let r := s.ctx.rank
     let out := fun v : W64 => (Host.Outcome.next (s.flown 1 (.sreg d v) false) : Out)
     exec (.time h d false) s = out (w64 s.time) ∧ exec (.time h d true) s = out (w64 s.fabtime) ∧
     (l < 8 → l < m.nlev → exec (.id h d l) s = out (w64 (r % domSize (m.domain l))) ∧
       exec (.id h d (8 + l)) s = out (w64 (domSize (m.domain l)))) ∧
     (key < 16 → m.nlev ≤ key % 8 → exec (.id h d key) s = .next (s.trapped 0x02 (w64 (key % 8)))) ∧
     exec (.id h d 0x10) s = out (w64 r) ∧ exec (.id h d 0x11) s = out (w64 s.label) ∧ exec (.id h d 0x12) s = out (w64 m.job) ∧
     exec (.id h d 0x13) s = out (w64 m.nlev) ∧ exec (.id h d 0x14) s = out (w64 s.cur) ∧
     exec (.id h d 0x15) s = out (match m.mbox with | some x => w64 x.2 | none => BitVec.allOnes 64))

/-- R144, R172-R174, R180: PHASE at level 0, FENCE, PFENCE and EXIT, when nothing of theirs is outstanding; PFENCE first freezes for the
persist that it begins. The model's choices: in which ck a PHASE waits for stores in flight (log entry 99), and what an EXIT waits for
(log entry 30). R172, spec/01 R26, R27: PHASE at a level above 0 arrives once at its barrier and freezes; it completes when the barrier
has. That a store in flight is waited for in unfrozen ck is the model's choice (log entry 99). -/
def Obligations.FencesPhasesAndExit : Prop :=
  (∀ (s : State) (h : Hd) (ma mb : Nat) (die : Bool) (m : Man), s.ctx.guard h = true → s.ctx.holding = false →
     let c := s.ctx
     let x := s.berth s.cur
     x.persistBusy = false → s.man c.team = some m → 1 ≤ m.nlev → m.grace = none →
     ((∀ o ∈ c.ops, o.unruled = false) → ∃ t, exec (.phase h 0) s = .next t ∧ s.issuedAs t { c with phases := c.phases + 1 } 0 true) ∧
     (m.nlev ≤ mb → exec (.phase h mb) s = .next (s.trapped 0x02 (w64 mb))) ∧
     (ma = 0 ∨ mb = 0 → exec (.fence h ma mb) s = .next (s.withCtx c)) ∧
     (s.fenceDone ma = true → ma ≠ 0 → mb ≠ 0 → exec (.fence h ma mb) s =
       .next (s.withCtx (if c.drainTime ma = 0 then c else { c with fences := c.fences ++ [(c.drainTime ma, mb)] }))) ∧
     (s.fenceDone ma = false → ma ≠ 0 → mb ≠ 0 → exec (.fence h ma mb) s = .next s.frozen) ∧
     (c.persisted = true → exec (.pfence h die) s = .next (s.withCtx { c with persisting := false, persisted := false })) ∧
     (c.persisted = false → c.persisting = false → ∃ t, exec (.pfence h die) s = .next t ∧ t.iss = .frozen ∧
       t.ctx.persisting = true ∧ (t.berth s.cur).shadow.queue = x.shadow.queue ++ [s.saved s.cur]) ∧
     (s.exitReady = true → c.unraised = none → exec (.exit h) s = .next (s.withCtx { c with pilot := .exit })) ∧
     (s.exitReady = false → exec (.exit h) s = .next s.frozen)) ∧
  (∀ (s : State) (h : Hd) (l : Nat) (m : Man), s.ctx.guard h = true → s.ctx.holding = false → 0 < l →
     let c := s.ctx
     let e := Tab.get 0 c.epochs l
     let x := m.barrier l (m.inst l c.rank) e
     (s.berth s.cur).persistBusy = false → s.man c.team = some m → l < m.nlev → m.grace = none → s.writesSettled = true →
     -- a store in flight is waited for in unfrozen ck, in which it lands (spec/09 R139)
     (c.storing = true → exec (.phase h l) s = .next s.waiting) ∧
     (c.storing = false → (x.done = false → x.lost = false → exec (.phase h l) s = .next { s.modMan c.team (fun m => m.arrive l c.rank e) with iss := .frozen }) ∧
     (x.done = false → x.lost = true → exec (.phase h l) s = .next (s.trapped 0x25 0)) ∧
     (x.done = true → ∃ t, exec (.phase h l) s = .next t ∧
       s.issuedAs t { c with phases := c.phases + 1, epochs := Tab.set 0 c.epochs l (e + 1) } 0 true)))

/-- R177-R179: LAUNCH reads its manifest at issue and issues an operation that enqueues it; MBOXREG sends its request, freezes, and
completes with the answer; MBOXACK issues its acknowledgement in a handler, and raises SYS.PRIVILEGE elsewhere. -/
def Obligations.LaunchAndMailboxForms : Prop :=
  ∀ (s : State) (h : Hd) (d a q nm1 sm6 : Nat) (loc : Bool) (m : Man), s.ctx.guard h = true → s.man s.ctx.team = some m →
    let c := s.ctx
    let p := (c.reg a).toNat
    (p + 256 ≤ 0x100000 → p % 256 = 0 → (s.lq q).ctl.getLsbD 63 = true → bf (s.lq q).ctl 32 6 = m.job → s.ownFault p 256 .read = none →
      ∃ t, exec (.launch h a q) s = .next t ∧ s.issuedAs t { c with
        ops := c.ops ++ [s.newOp 0 (.launch q (Memory.read zeroByte c.spad p 256)) .count 0 (c.drainTime 7)] } 1 true) ∧
    (p + 256 ≤ 0x100000 → p % 256 = 0 → (s.lq q).ctl.getLsbD 63 = false → exec (.launch h a q) s = .next (s.trapped 0x63 (w64 q))) ∧
    (p % 2 ^ (sm6 + 6) = 0 → (loc = true → c.export_.1 ≤ p ∧ p + (nm1 + 1) * 2 ^ (sm6 + 6) ≤ c.export_.1 + c.export_.2) →
      (loc = false → s.mboxPages s.job p ((nm1 + 1) * 2 ^ (sm6 + 6)) = none) → c.holding = false →
      (∀ v, c.mboxReq = some (p, nm1 + 1, sm6 + 6, loc) → c.mboxAns = some v → exec (.mboxreg h d a nm1 sm6 loc) s = .next (s.withCtx { c with
        mboxReq := none, mboxAns := none, flights := c.flights ++ [⟨1, .sreg d v, false⟩] })) ∧
      (c.mboxReq ≠ some (p, nm1 + 1, sm6 + 6, loc) → (s.berth s.cur).persistBusy = false →
        s.mboxOverlap s.job (if loc then some c.self else none) p ((nm1 + 1) * 2 ^ (sm6 + 6)) = false →
        ∃ t, exec (.mboxreg h d a nm1 sm6 loc) s = .next t ∧ t.iss = .frozen ∧ t.ctx.mboxReq = some (p, nm1 + 1, sm6 + 6, loc))) ∧
    (m.mbox.isSome = true → ∃ t, exec (.mboxack h) s = .next t ∧ s.issuedAs t { c with
      ops := c.ops ++ [s.newOp 0 .mboxack .count 0 0] } 1 true) ∧
    (m.mbox = none → exec (.mboxack h) s = .next (s.trapped 0x63 0))

/-- R235, R236: a token form issues an operation for the region's home, a persist point. TKLEND, TKRET and TKSHARE first freeze until the
flush has no earlier write to wait for; TKLEND, TKRET and TKUNSHARE invalidate the probe entries in a global region; TKQUERY takes its
place in its stream register. The model's choices: the party operand is taken modulo 2^26 (log entry 39), the probe entries go at issue
(log entry 33), which writes a flush waits for (log entry 47), and the extent of a region of another device (log entry 100). -/
def Obligations.TokenFormsIssue : Prop :=
  ∀ (s : State) (h : Hd) (g n x : Nat) (back lvl sp : Bool), s.ctx.guard h = true →
    let c := s.ctx
    let v := c.reg g
    (sp = true → c.spBad v = false) →
    let block := fun y : Nat × Way => (y.2.tag, ptBlk (Tab.get 0 c.ptconf (y.1 / 4096)))
    let kept := if sp then c.ways else match s.region s.job none v.toNat, s.translate s.job v.toNat none with
      | some r, _ => c.ways.filter fun y => !overlaps (block y) r.base (2 ^ r.log2)
      | none, .ok (.peer _) => c.ways.filter fun y => !overlaps (block y) (s.farRegion 12 25 v.toNat).1 (s.farRegion 12 25 v.toNat).2
      | none, _ => c.ways
    let op := fun (f : TokForm) (l : List Nat) (rel : Nat) => s.newOp 8 (.token ⟨f, v, sp, l⟩) .count 0 rel
    let sent := fun (i : Instr) (c' : Ctx) => ∃ t, exec i s = .next t ∧ s.issuedAs t c' 1 true
    sent (.tksplit h g sp) { c with ops := c.ops ++ [op .split [] 0] } ∧
    sent (.tkjoin h g sp) { c with ops := c.ops ++ [op .join [] 0] } ∧
    sent (.tkatom h g back sp) { c with ops := c.ops ++ [op (.atom back) [] 0] } ∧
    sent (.tkclaim h g sp) { c with ops := c.ops ++ [op .claim [] 0] } ∧
    sent (.tkunshare h g sp) { c with ways := kept, ops := c.ops ++ [op .unshare [] 0] } ∧
    ((c.stream x).es = 8 → sent (.tkquery h g x sp) { c with
      ops := c.ops ++ [s.newOp 8 (.token ⟨.query, v, sp, []⟩) (.stream x) 0 0]
      streams := Tab.set Stream.unbound c.streams x
        { c.stream x with items := (c.stream x).items ++ [⟨s.nextId, [], false, none⟩] } }) ∧
    ((c.stream x).es ≠ 8 → exec (.tkquery h g x sp) s = .next (s.trapped 0x07 (w64 x))) ∧
    (c.holding = false → s.flushWaits v sp = false →
      sent (.tkret h g sp) { c with ways := kept, ops := c.ops ++ [op .ret [] (c.drainTime 7)] } ∧
      sent (.tklend h g n sp) { c with ways := kept, ops := c.ops ++ [op .lend [(c.reg n).toNat % 2 ^ 26] (c.drainTime 7)] } ∧
      (lvl = false → sent (.tkshare h g n lvl sp) { c with
        ops := c.ops ++ [op .share [(c.reg n).toNat % 2 ^ 26] (c.drainTime 7)] }) ∧
      (lvl = true → (c.reg n).toNat < s.nlev → sent (.tkshare h g n lvl sp) { c with
        ops := c.ops ++ [op .share (s.levelParties (c.reg n).toNat) (c.drainTime 7)] })) ∧
    (c.holding = false → s.flushWaits v sp = true →
      exec (.tkret h g sp) s = .next s.frozen ∧ exec (.tklend h g n sp) s = .next s.frozen ∧
      exec (.tkshare h g n false sp) s = .next s.frozen)

/-- R182-R187: floating-point forms. Operands are read at issue, each element selected by the lane mask is computed in the format of its
width, and the result is put in flight. -/
def Obligations.VectorFloatForms : Prop :=
  ∀ (s : State) (h : Hd) (d a b : MName) (f16 : Bool) (rm : RM) (w : Width) (k : Nat), s.ctx.guard h = true →
    let c := s.ctx
    let F := vecFF w f16
    let three := fun (l : Nat) (f : FV → FV → FV → FV) => (Host.Outcome.next (s.flown l (c.vecEff d w (c.writeMask k w)
      (((c.elems a w).zip ((c.elems b w).zip (c.elems d w))).map fun x =>
        F.encode rm false 0 0 (f (F.decode x.1) (F.decode x.2.1) (F.decode x.2.2)))) (names3 [d, a, b])) : Out)
    let pick := fun f : FV → FV → FV => (Host.Outcome.next (s.flown 3 (c.vecEff d w (c.writeMask k w)
      (((c.elems a w).zip ((c.elems b w).zip (c.elems d w))).map fun x => F.rne (f (F.decode x.1) (F.decode x.2.1))))
      (names3 [d, a, b])) : Out)
    let one := fun (l : Nat) (f : Nat → Nat) =>
      (Host.Outcome.next (s.flown l (c.vecEff d w (c.writeMask k w) ((c.elems a w).map f)) (names3 [d, a])) : Out)
    exec (.vadd h d a b f16 rm w k) s = three 3 (fun x y _ => FV.add rm x y) ∧
    exec (.vsub h d a b f16 rm w k) s = three 3 (fun x y _ => FV.add rm x (if y.isNan then y else y.neg)) ∧
    exec (.vmul h d a b f16 rm w k) s = three 5 (fun x y _ => FV.mul x y) ∧
    exec (.vfma h d a b f16 rm w k) s = three 5 (fun x y z => FV.fma rm x y z) ∧
    exec (.vfms h d a b f16 rm w k) s = three 5 (fun x y z => FV.fma rm x y (if z.isNan then z else z.neg)) ∧
    exec (.vmin h d a b f16 w k) s = pick FV.min ∧ exec (.vmax h d a b f16 w k) s = pick FV.max ∧
    exec (.vabs h d a f16 w k) s = one 3 (fun x => x % 2 ^ (w.bits - 1)) ∧
    exec (.vneg h d a f16 w k) s = one 3 (fun x => x ^^^ 2 ^ (w.bits - 1)) ∧
    exec (.vexp2 h d a f16 w k) s = one 9 (fun x => F.rne (FV.exp2 (F.decode x))) ∧
    exec (.vlog2 h d a f16 w k) s = one 9 (fun x => F.rne (FV.log2 (F.decode x))) ∧
    exec (.vrsq h d a f16 w k) s = one 9 (fun x => F.rne (FV.rsq (F.decode x))) ∧
    exec (.vrcp h d a f16 w k) s = one 9 (fun x => F.rne (FV.rcp (F.decode x)))

/-- R188-R190: integer, logical and shift forms, computed exactly on each element and then wrapped, saturated, or taken from the high
half. -/
def Obligations.VectorIntegerForms : Prop :=
  ∀ (s : State) (h : Hd) (d a b : MName) (hi u sat : Bool) (w : Width) (k : Nat), s.ctx.guard h = true →
    let c := s.ctx
    let n := w.bits
    let out := fun (l : Nat) (f : Nat → Nat → Nat) => (Host.Outcome.next (s.flown l (c.vecEff d w (c.writeMask k w)
      (((c.elems a w).zip ((c.elems b w).zip (c.elems d w))).map fun x => f x.1 x.2.1)) (names3 [d, a, b])) : Out)
    let sgn := fun x : Nat => if u then ((x % 2 ^ n : Nat) : Int) else toSigned n x
    let lo : Int := if u then 0 else -(2 ^ (n - 1))
    let top : Int := if u then 2 ^ n - 1 else 2 ^ (n - 1) - 1
    let fit := fun v : Int => ofSigned n (if sat then max lo (min top v) else v)
    exec (.viadd h d a b u sat w k) s = out 3 (fun x y => fit (sgn x + sgn y)) ∧
    exec (.visub h d a b u sat w k) s = out 3 (fun x y => fit (sgn x - sgn y)) ∧
    exec (.vimul h d a b hi u sat w k) s =
      out 5 (fun x y => if hi then ofSigned n (sgn x * sgn y / 2 ^ n) else fit (sgn x * sgn y)) ∧
    exec (.vand h d a b w k) s = out 3 (fun x y => x &&& y) ∧ exec (.vor h d a b w k) s = out 3 (fun x y => x ||| y) ∧
    exec (.vxor h d a b w k) s = out 3 (fun x y => x ^^^ y) ∧
    exec (.vshl h d a b w k) s = out 3 (fun x y => x * 2 ^ (y % n) % 2 ^ n) ∧
    exec (.vshr h d a b w k) s = out 3 (fun x y => x / 2 ^ (y % n)) ∧
    exec (.vsar h d a b w k) s = out 3 (fun x y => ofSigned n (toSigned n x / 2 ^ (y % n)))

/-- R191, R192, R199-R202, R204: comparison, selection, rearrangement and lane-mask forms. -/
def Obligations.VectorMaskAndMoveForms : Prop :=
  ∀ (s : State) (h : Hd) (d a b : MName) (kd ka kb r j imm : Nat) (t : CmpType) (cd : VCond) (z hi sx : Bool) (w : Width) (k : Nat),
    s.ctx.guard h = true →
    let c := s.ctx
    let mk := c.writeMask k w
    let n := widthCount w
    let out := fun (l : Nat) (e : Eff) (ns : List MName) => (Host.Outcome.next (s.flown l e (names3 ns)) : Out)
    let kept := (mk.zip (c.elems a w)).filterMap fun x => if x.1 then some x.2 else none
    (∃ v : BitVec 512, exec (.vcmp h kd a b t cd w k) s = out 3 (.kmask kd v) [a, b] ∧ ∀ i, i < 512 → v.getLsbD i =
      (decide (i < n) && mk.getD i false && cmpElems t cd w ((c.elems a w).getD i 0) ((c.elems b w).getD i 0))) ∧
    exec (.vsel h d a b w k) s = out 3 (c.vecEff d w (allMask w)
      ((mk.zip ((c.elems a w).zip (c.elems b w))).map fun x => if x.1 then x.2.1 else x.2.2)) [d, a, b] ∧
    exec (.vcomp h d a w k) s = out 4 (c.vecEff d w (allMask w) (kept ++ List.replicate (n - kept.length) 0)) [d, a] ∧
    exec (.vexpd h d a w k) s = out 4 (c.vecEff d w (allMask w) (expandGo mk (c.elems a w))) [d, a] ∧
    exec (.vperm h d a b z hi w k) s = out 4 (c.vecEff d w mk ((c.elems b w).map fun y =>
      if z ∧ n ≤ y + (if hi then 256 else 0) then 0 else (c.elems a w).getD ((y + if hi then 256 else 0) % n) 0)) [d, a, b] ∧
    exec (.vbcast h d r w imm) s = out 3 (c.vecEff d w (allMask w) (List.replicate n ((c.reg r + sx21 imm).toNat % 2 ^ w.bits))) [d] ∧
    exec (.vmovs h d r sx true w j) s = out 4 (c.vecEff d w ((List.range n).map (· == j))
      (List.replicate n ((c.reg r).toNat % 2 ^ w.bits))) [d] ∧
    exec (.vmovs h d r sx false w j) s = out 4 (.sreg r (if sx then BitVec.ofInt 64 (toSigned w.bits ((c.elems d w).getD j 0))
      else w64 ((c.elems d w).getD j 0))) [d] ∧
    exec (.kand h kd ka kb) s = out 1 (.kmask kd (c.kmask ka &&& c.kmask kb)) [] ∧
    exec (.kor h kd ka kb) s = out 1 (.kmask kd (c.kmask ka ||| c.kmask kb)) [] ∧
    exec (.knot h kd ka) s = out 1 (.kmask kd (~~~(c.kmask ka))) [] ∧
    (∃ v : W64, exec (.kpopc h r ka) s = out 2 (.sreg r v) [] ∧
      v.toNat = ((List.range 512).filter fun i => (c.kmask ka).getLsbD i).length)

/-- R193-R198, R203: conversion, key, histogram, scan, reduction and rotating-region forms. -/
def Obligations.VectorReshapingForms : Prop :=
  ∀ (s : State) (h : Hd) (d a : MName) (src dst : Fmt) (rm : RM) (sat desc half acc rev int u f16 : Bool) (nm1 p lo dbm1 r imm : Nat)
    (t : KeyType) (kind : RedKind) (w : Width) (k : Nat), s.ctx.guard h = true →
    let c := s.ctx
    let mk := c.writeMask k w
    let es := c.elems a w
    let out := fun (l : Nat) (e : Eff) => (Host.Outcome.next (s.flown l e (names3 [d, a])) : Out)
    let y := convElems c d a src dst rm sat nm1 p k
    let add := if int then fun x y => (x + y) % 2 ^ w.bits else faddCode rm
    let live := (mk.zip es).map fun x => if x.1 then x.2 else if int then 0 else 0x80000000
    let v := c.reg r + w64 imm
    exec (.vcvt h d a src dst rm sat nm1 p k) s = out 3 (c.vecEff d (widthOf dst.bits) y.1 y.2) ∧
    exec (.vkey h d a desc t f16 w k) s = out 3 (c.vecEff d w mk (es.map (keyOf desc t f16 w))) ∧
    exec (.vhist h d a lo dbm1 half acc w k) s = out 8 (c.vecEff d .w32 (allMask .w32)
      (((histOf lo dbm1 half (mk.zip es)).zip (c.elems d .w32)).map fun x => if acc then (x.2 + x.1) % 2 ^ 32 else x.1)) ∧
    exec (.vscan h d a rev int rm w k) s = out 6 (c.vecEff d w (allMask w)
      (if rev then (scanGo add 10 1 live.reverse).reverse else scanGo add 10 1 live)) ∧
    exec (.vred h d a kind u f16 rm w k) s = out 7 (c.vecEff d .w32 (allMask .w32) (List.replicate 128 (treeGo (redOp kind rm) 10
      ((mk.zip es).map fun x => if x.1 then redWiden kind u f16 w x.2 else redIdent kind)))) ∧
    exec (.vrot h r imm) s = .next (s.flown 1 (.rot (v.toNat % 128)) false) ∧
    (1 ≤ v.toNat → v.toNat ≤ 128 → c.m3Busy = false → exec (.vmconf h r imm) s = .next (s.flown 1 (.depth v.toNat) false)) ∧
    (v.toNat < 1 ∨ 128 < v.toNat → exec (.vmconf h r imm) s = .next (s.trapped 0x02 v)) ∧
    (1 ≤ v.toNat → v.toNat ≤ 128 → c.m3Busy = true → exec (.vmconf h r imm) s = .next (s.trapped 0x06 0))

/-- R211-R215: a copy that passes its checks issues one operation with the operands as read; on a stream register it takes its place
there, publishing it claims its ring slot, and an outbound window copy takes a unit of the allowance. With the queue full it freezes.
R215: what a copy's checks are, for a plain inbound or outbound CP on the count route with no layout record: its COUNT is at most 2^20,
its scratchpad range is within the scratchpad, and its own tokens allow it; in that order it raises BOUND, BOUND, the token fault. -/
def Obligations.CopiesIssue : Prop :=
  (∀ (s : State) (h : Hd) (g l n x tag : Nat) (q : CopyQ) (out st zero : Bool), s.ctx.guard h = true → s.ctx.holding = false →
     let c := s.ctx
     let hd := (c.reg n).toNat / 2 ^ 48
     let lay := if hd = 0 then none else some (s.layout s.job hd)
     let issued := fun (i : Instr) (path : Nat) (r : CopyReq) (x : Nat) (st : Bool) (win : Tab Window) => ∃ t, exec i s = .next t ∧
       s.issuedAs t { c with
         ops := c.ops ++ [s.newOp path (.copy r) (copyRoute c r x st) tag 0],
         windows := win,
         streams := if st then Tab.set Stream.unbound c.streams x
           { c.stream x with items := (c.stream x).items ++ [⟨s.nextId, [], false, none⟩] } else c.streams,
         rings := match copyRoute c r x st with
           | .ring k i => Tab.set Ring.none c.rings k ((c.ring k).modSlot i fun z => { z with pub := true })
           | _ => c.rings } 1 false
     let ok := fun (r : CopyReq) (x : Nat) (st : Bool) => checks (s.copyChecks r (c.reg n) x st) = none
     let cp := copyReq .cp c lay g l n q out
     let cpw := copyReq .cpw c lay g l n q out
     let cpg := copyReq .cpg c lay g l n (if zero then .zero else .none) false
     let cps := copyReq .cps c none g l n q out
     let i := winOf (c.reg g).toNat
     let w := Tab.get Window.none c.windows i
     (c.queueFull = false →
       (ok cp x st → issued (.cp h g l n x q out st tag) 8 cp x st c.windows) ∧
       (ok cps x st → issued (.cps h g l n x q out st tag) 8 cps x st c.windows) ∧
       (ok cpg 0 false → issued (.cpg h g l n zero tag) 8 cpg 0 false c.windows) ∧
       (ok cpw x st → out = false → issued (.cpw h g l n x q out st tag) 32 cpw x st c.windows) ∧
       (ok cpw x st → out = true → w.out < w.limit → issued (.cpw h g l n x q out st tag) 32 cpw x st
         (Tab.set Window.none c.windows i { w with out := w.out + 1 }))) ∧
     (c.queueFull = true → ok cp x st → exec (.cp h g l n x q out st tag) s = .next s.frozen)) ∧
  (∀ (s : State) (h : Hd) (g l n tag : Nat) (out : Bool), s.ctx.guard h = true → s.ctx.holding = false → s.ctx.queueFull = false →
     let c := s.ctx
     let v := c.reg n
     let p := (c.reg l).toNat
     let i := Instr.cp h g l n 0 .none out false tag
     v.toNat < 2 ^ 32 →
     (0x100000 < v.toNat → exec i s = .next (s.trapped 0x02 v)) ∧
     (v.toNat ≤ 0x100000 → 0x100000 < p + v.toNat → exec i s = .next (s.trapped 0x02 (c.reg l))) ∧
     (v.toNat ≤ 0x100000 → p + v.toNat ≤ 0x100000 → s.ownFault p v.toNat (if out then .read else .write) = none →
       ∃ t o, exec i s = .next t ∧ t.ctx.ops = c.ops ++ [o] ∧ o.stage = .sent ∧ o.route = .count ∧ o.tag = tag) ∧
     (∀ code a, v.toNat ≤ 0x100000 → p + v.toNat ≤ 0x100000 →
       s.ownFault p v.toNat (if out then .read else .write) = some (code, a) → exec i s = .next (s.trapped code (w64 a))))

/-- R219, R227, R231: the waits. LWAIT issues when few enough copies are outstanding and freezes otherwise; PWAIT when no fill of its
entry is; ATOMFENCE when nothing that it waits for is. R218, R219, R231: with every write performed or failed, LWAIT and ATOMFENCE raise
the earliest unraised failure among those they wait for, and remove it. -/
def Obligations.WaitsAndTheirFailures : Prop :=
  (∀ (s : State) (h : Hd) (n l scope : Nat), s.ctx.guard h = true → s.ctx.holding = false →
     let c := s.ctx
     let out := (c.ops.filter Op.counts).length
     (c.cfails = [] → out ≤ n → exec (.lwait h n) s = .next { s with iss := .issued }) ∧
     (c.cfails = [] → n < out → exec (.lwait h n) s = .next s.frozen) ∧
     (∀ t e, c.slotAt (c.reg l) = some (t, e) → (c.way t e).fail = none →
       exec (.pwait h l) s = .next (if (c.way t e).valid && c.wayFilling t e then s.frozen else { s with iss := .issued })) ∧
     (c.slotAt (c.reg l) = none → exec (.pwait h l) s = .next (s.trapped 0x02 (c.reg l))) ∧
     (s.scopeBad scope = false → s.atomfenceWaits scope = true → exec (.atomfence h scope) s = .next s.frozen) ∧
     (s.scopeBad scope = false → s.atomfenceWaits scope = false → c.nfails = [] →
       exec (.atomfence h scope) s = .next { s with iss := .issued }) ∧
     (s.scopeBad scope = true → exec (.atomfence h scope) s = .next (s.trapped 0x02 (w64 scope)))) ∧
  (∀ (s : State) (h : Hd) (n scope : Nat) (f : Fail), s.ctx.guard h = true → s.ctx.holding = false →
     let c := s.ctx
     let raised := fun (site : Nat) (c' : Ctx) => ({ (s.modCtx fun _ => c').takeTrap ⟨f.code, f.addr, site, f.tag⟩ with
       iss := .trapped (some f.op) } : State)
     (f ∈ c.cfails → (∀ g ∈ c.cfails, g ≠ f → f.op < g.op) →
       exec (.lwait h n) s = .next (raised 1 { c with cfails := c.cfails.filter (· != f) })) ∧
     (f ∈ c.nfails → (∀ g ∈ c.nfails, g ≠ f → f.op < g.op) → s.scopeBad scope = false → s.atomfenceWaits scope = false →
       exec (.atomfence h scope) s = .next (raised 5 { c with nfails := c.nfails.filter (· != f) })))

/-- R220-R225: streams and rings. -/
def Obligations.StreamAndRingForms : Prop :=
  ∀ (s : State) (h : Hd) (q l n x es g : Nat), s.ctx.guard h = true → s.ctx.holding = false →
    let c := s.ctx
    let r := c.ring q
    let a := (c.reg l).toNat
    let v := (c.reg n).toNat
    let set := fun r' : Ring => Tab.set Ring.none c.rings q r'
    let t := c.stream x
    let strm := fun y : Stream => Tab.set Stream.unbound c.streams x y
    (a % 512 = 0 → v < 2 ^ 20 → v / 2 ^ 8 ≤ 2048 → a + (v % 2 ^ 8 + 1) * (v / 2 ^ 8 * 512) ≤ 0x100000 → r.busy = false →
      exec (.rconf h q l n) s = .next (s.withCtx { c with
        rings := set (if v / 2 ^ 8 = 0 then Ring.none else ⟨a, v / 2 ^ 8 * 512, v % 2 ^ 8 + 1, 0, 0, []⟩) })) ∧
    (r.n ≠ 0 → (r.slot r.acq).st = .empty → exec (.racq h q l) s = .next (s.withCtx { c with
      rings := set { r.modSlot r.acq (fun _ => { Slot.empty with st := .filling }) with acq := (r.acq + 1) % r.n },
      flights := c.flights ++ [⟨1, .sreg l (w64 (r.base + r.acq * r.z)), false⟩] })) ∧
    (r.n ≠ 0 → (r.slot r.acq).st ≠ .empty → exec (.racq h q l) s = .next s.frozen) ∧
    (r.n ≠ 0 → (r.slot r.take).st = .full → (r.slot r.take).fail = none → exec (.rtake h q l) s = .next (s.withCtx { c with
      rings := set { r.modSlot r.take (fun y => { y with st := .draining }) with take := (r.take + 1) % r.n },
      flights := c.flights ++ [⟨1, .sreg l (w64 (r.base + r.take * r.z)), false⟩] })) ∧
    (r.n ≠ 0 → (r.slot r.take).st ≠ .full → exec (.rtake h q l) s = .next s.frozen) ∧
    (r.n = 0 → exec (.racq h q l) s = .next (s.trapped 0x05 (w64 (16 + q))) ∧
      exec (.rtake h q l) s = .next (s.trapped 0x05 (w64 (16 + q)))) ∧
    -- full after the stores in flight to it; a store held aside with an interrupted context counts from its replay (spec/03 R63)
    (∀ i, r.publishable a = some i → (r.slot i).filling = none →
      let held := storesIn (r.base + i * r.z) r.z ((c.aside.map Snap.flights).getD [])
      exec (.rpub h q l) s = .next (s.withCtx (if held = 0 then
        { c with rings := set (r.modSlot i fun y => { y with filling := some (Nat.max 1 (c.storesDue (r.base + i * r.z) r.z)) }) }
        else { c with aside := c.aside.map fun y => { y with pubs := y.pubs ++ [(q, i, held, true)] } }))) ∧
    (r.publishable a = none → exec (.rpub h q l) s = .next (s.trapped 0x05 (c.reg l))) ∧
    (∀ i, r.oldest = some i → (∀ o ∈ c.ops, o.reads (r.base + i * r.z) r.z = false) →
      exec (.rrel h q) s = .next (s.withCtx { c with rings := set (r.modSlot i fun _ => Slot.empty) })) ∧
    (t.arrived = [] → t.items = [] → exec (.stbind h x es) s = .next (s.withCtx { c with
      streams := strm { t with es := if es = 0 then 0 else if es = 1 then 8 else 512 } })) ∧
    (t.arrived ≠ [] ∨ t.items ≠ [] → exec (.stbind h x es) s = .next (s.trapped 0x06 (w64 x))) ∧
    (∀ e rest, t.es = 8 → t.arrived = e :: rest → exec (.strel h g l x) s = .next (s.withCtx { c with
      streams := strm { t with arrived := rest }, flights := c.flights ++ [⟨1, .sreg g (w64 (leValue e)), false⟩] })) ∧
    (∀ e rest, t.es = 512 → t.arrived = e :: rest → a + 512 ≤ 0x100000 → a % 512 = 0 → s.ownFault a 512 .write = none →
      exec (.strel h g l x) s = .next (s.withCtx { c with
        streams := strm { t with arrived := rest }, flights := c.flights ++ [⟨2, .store 1 (cellsFrom a e), false⟩] })) ∧
    (t.es = 8 → t.arrived = [] → t.items = [] → exec (.strel h g l x) s = .next s.frozen)

/-- R226, R227: a PROBE that hits gives the slot's address, and its two delay groups hold no transfer; one that misses issues the fill of
its victim and branches. PINV invalidates. The model's choices: a way taken by a miss keeps its earlier failure to be raised (log entry
43), and PINV invalidates from its issue on (33). -/
def Obligations.ProbeForms : Prop :=
  ∀ (s : State) (h : Hd) (g l pt off : Nat), s.ctx.guard h = true → s.ctx.branch = none → s.ctx.quiet = 0 →
    let c := s.ctx
    let v : W64 := Tab.get 0 c.ptconf pt
    let k := 2 ^ (v.toNat / 2 ^ 24 % 16)
    let p := (c.reg g).toNat
    let b := p - p % k
    let slot := fun e => v.toNat % 2 ^ 20 + e * k
    let res := fun e => (⟨2, .sreg l (w64 (slot e + p % k)), false⟩ : Flight)
    -- PINV, of every block and of one
    exec (.pinv h g pt true) s = .next (s.withCtx { c with ways := c.ways.filter fun y => y.1 / 4096 != pt }) ∧
    (∀ e, c.ptHit pt ((c.reg g).toNat - (c.reg g).toNat % ptBlk (Tab.get 0 c.ptconf pt)) = some e →
      exec (.pinv h g pt false) s = .next (s.withCtx (c.modWay pt e fun _ => Way.invalid))) ∧
    (v.toNat / 2 ^ 20 % 16 ≠ 0 →
    (∀ e, c.ptHit pt b = some e → exec (.probe h g l pt off) s = .next (s.withCtx { c with
      ways := Tab.set Way.invalid c.ways (wayKey pt e) { c.way pt e with used := c.ptUse pt b }, flights := c.flights ++ [res e],
      quiet := 2 })) ∧
    (c.ptHit pt b = none → c.holding = false → c.queueFull = false → ∃ t, exec (.probe h g l pt off) s = .next t ∧
      s.issuedAs t { c with
        ops := c.ops ++ [s.newOp 8 (.fill pt (c.ptVictim pt b) b k (slot (c.ptVictim pt b))) .count 0 0],
        ways := Tab.set Way.invalid c.ways (wayKey pt (c.ptVictim pt b)) ⟨true, b, (c.way pt (c.ptVictim pt b)).fills ++ [s.nextId], (c.way pt (c.ptVictim pt b)).fail, c.ptUse pt b⟩,
        flights := c.flights ++ [res (c.ptVictim pt b)],
        branch := some ⟨w64 s.woff + (BitVec.ofNat 10 off).signExtend 64, 2⟩ } 1 false) ∧
    (c.ptHit pt b = none → c.holding = false → c.queueFull = true → exec (.probe h g l pt off) s = .next s.frozen))

/-- R228-R230, R233, R234, R238, R239: atomics, semaphores, pushes and code loads issue an operation; all but IMLOAD are persist points. A
poll goes out when SEMWAIT first freezes, and SEMWAIT issues once it holds. That a SEMPOST goes on path L wherever its home is, as R141's
table has it, is the model's reading (log entry 114). R240, R241: LAYSET writes the job's layout record from 64 bytes of the scratchpad;
WCONF writes a window. -/
def Obligations.AtomicsLayoutsAndWindows : Prop :=
  (∀ (s : State) (h : Hd) (g l n x ord scope tag : Nat) (op : AtomOp) (wide sub : Bool) (cd : SCond),
     s.ctx.guard h = true → s.ctx.holding = false →
     let c := s.ctx
     let p := (c.reg g).toNat
     let v := (c.reg n).toNat
     let a := (c.reg l).toNat
     let cut := fun w : W64 => if wide then w else w64 (w.toNat % 2 ^ 32)
     let req : AtomReq := ⟨p, op, wide, cut (c.reg n), cut (c.reg l), ord, scope⟩
     let rel := if ord.testBit 1 then c.drainTime 7 else 0
     let issued := fun (i : Instr) (o : Op) (c' : Ctx) (want : Bool) => ∃ t, exec i s = .next t ∧
       s.issuedAs t { c' with ops := c.ops ++ [o] } 1 want
     let poll : SemReq := ⟨p, v, cd, sub⟩
     (c.queueFull = false →
       (p % (if wide then 8 else 4) = 0 → s.scopeBad scope = false →
         ((c.stream x).es = 8 → issued (.atom h g l n x op ord wide scope) (s.newOp (s.atomPath p) (.atom req) (.stream x) 0 rel)
           { c with
             streams := Tab.set Stream.unbound c.streams x { c.stream x with items := (c.stream x).items ++ [⟨s.nextId, [], false, none⟩] } } true) ∧
         issued (.atomnr h g l n op ord wide scope) (s.newOp (s.atomPath p) (.atomnr req) .count 0 rel) c true) ∧
       (p % 8 = 0 → v < 2 ^ 63 → issued (.sempost h g n) (s.newOp 8 (.sempost p v) .count 0 (c.drainTime 7)) c true) ∧
       (v ≠ 0 → a + v ≤ 32768 → (a = 0 ∨ ((s.berth s.cur).word (a - 1)).getLsbD 63 = true) → p % 8 = 0 →
         issued (.imload h g l n tag) (s.newOp 8 (.imload p a v) .count tag 0) c false)) ∧
     (c.queueFull = true → p % 8 = 0 → v < 2 ^ 63 → exec (.sempost h g n) s = .next s.frozen) ∧
     (p ≤ 255 → 1 ≤ v → v ≤ 64 → a + 8 * v ≤ 0x100000 → a % 8 = 0 → s.unitOpen p = true → (s.unit p).stop = false →
       ((s.unit p).ring.length + v ≤ 2 ^ (s.unit p).wrlog2 →
         issued (.whpush h g l n) (s.newOp 24 (.whpush p a v) .count 0 0) c true) ∧
       (2 ^ (s.unit p).wrlog2 < (s.unit p).ring.length + v → exec (.whpush h g l n) s = .next s.frozen)) ∧
     (p % 8 = 0 → v < 2 ^ 63 →
       (c.poll poll = none → sub = false → ∃ t, exec (.semwait h g n cd sub) s = .next t ∧ t.iss = .frozen ∧
         t.ctx = { c with ops := c.ops ++ [s.newOp 8 (.semwait poll) .count 0 0] }) ∧
       (∀ o ws, c.poll poll = some o → o.stage = .replied ws →
         exec (.semwait h g n cd sub) s = .next (s.withCtx { c with ops := c.ops.filter fun y => y.id != o.id })))) ∧
  (∀ (s : State) (h : Hd) (w g l n : Nat), s.ctx.guard h = true →
     let c := s.ctx
     let a := (c.reg l).toNat
     let k := (c.reg n).toNat
     let p := (c.reg g).toNat
     let bs := Memory.read zeroByte c.spad a 64
     let y := layoutOf s.job bs
     (1 ≤ k → k ≤ 0xFFFF → a % 64 = 0 → a + 64 ≤ 0x100000 → layoutBad bs = false → exec (.layset h l n) s = .next { s with
       layouts := Tab.set Layout.invalid s.layouts (s.job * 65536 + k) (if y.valid then y else Layout.invalid), iss := .issued }) ∧
     ((Tab.get Window.none c.windows w).out = 0 → p < 2 ^ 26 → p / 2 ^ 7 % 2 ^ 9 = 0 → a < 0x100000 → a % 512 = 0 → k ≤ 255 →
       exec (.wconf h w g l n) s = .next (s.withCtx { c with
         windows := Tab.set Window.none c.windows w (if k = 0 then Window.none else ⟨true, p / 2 ^ 16, p % 2 ^ 7, a, 0, k, none⟩) })) ∧
     ((Tab.get Window.none c.windows w).out ≠ 0 → exec (.wconf h w g l n) s = .next (s.trapped 0x06 (w64 w))))

/-- R246, R248, R250, R255, R259, R260: the matrix words that change the engine's own state. WSWAP swaps the banks of every member of its
gang; the others change the issuing berth alone. R256, R257, R259: ACCREAD, ACCWRITE, ACCDRAIN and MPBLD read their operands at issue,
hold their port, and put their result in flight. -/
def Obligations.MatrixStateAndTransfers : Prop :=
  (∀ (s : State) (h : Hd) (m qb k : Nat) (unb : Bool) (gang : Gang), s.ctx.guard h = true →
     let c := s.ctx
     let v := c.reg m
     let alone := checks (s.matrixChecks .single) = none
     let asGang := checks (s.matrixChecks gang) = none
     (alone → v.toNat < 2 ^ 24 → v.toNat / 16 % 16 = 0 → (∃ f, afmtOf v = some f ∧ (s.lowWater = true → lowWaterFmt f = true)) →
       (c.fq.length < 16 → exec (.fmtpush h m) s = .next (s.withCtx { c with fq := c.fq ++ [v] })) ∧
       (16 ≤ c.fq.length → exec (.fmtpush h m) s = .next (s.trapped 0x02 16))) ∧
     (alone → exec (.fmtclr h) s = .next (s.withCtx { c with fq := [] })) ∧
     (alone → c.sqBusy = false → exec (.sqbind h qb unb) s = .next (s.withCtx { c with sq := if unb then none else some qb })) ∧
     (alone → c.maskedFlight = false → c.mpbFlight = false → exec (.mpbclr h) s = .next (s.withCtx { c with mpb := none })) ∧
     (asGang → ∃ t, exec (.wswap h gang) s = .next t ∧ t = { s with berths := t.berths, iss := .issued } ∧
       ∀ b, t.berth b = if s.cur ≤ b ∧ b < s.cur + gang.size then
         { s.berth b with ctx := { s.ctxAt b with active := 1 - (s.ctxAt b).active } } else s.berth b) ∧
     (asGang → exec (.acczero h k gang) s = .next (s.flown 4 (.accZero k (s.gangOf gang)) false)) ∧
     (asGang → c.accBusy k = false → exec (.accfree h k gang) s = .next (s.flown 4 (.accFree k (s.gangOf gang)) false)) ∧
     (asGang → c.accBusy k = true → exec (.accfree h k gang) s = .next (s.trapped 0x06 (w64 k))) ∧
     (v.toNat ≤ 2 → (v.toNat ≠ 0 → s.cur % 2 ^ v.toNat ≠ 0) → (∀ f ∈ c.flights, f.eff.isM = false) → s.leaderBusy s.cur = false →
       c.aside = none → c.fq = [] → ∃ t, exec (.accconf h m) s = .next t ∧ s.issuedAs t
         { c with acc := [], live := [], banks := [], mpb := none,
                  mode := if v.toNat = 1 then .pair else if v.toNat = 2 then .quad else .own } 0 true)) ∧
  (∀ (s : State) (h : Hd) (x : MName) (k m ra rb : Nat) (gang : Gang) (fmt : Fmt) (rm : RM) (sat : Bool), s.ctx.guard h = true →
     let c := s.ctx
     let v := (c.reg m).toNat
     let a := (c.reg ra).toNat
     let b := (c.reg rb).toNat
     let alone := checks (s.matrixChecks .single) = none
     let asGang := checks (s.matrixChecks gang) = none
     let row := 128 * gang.size * (fmt.bits / 8)
     let starts := fun (p n l : Nat) (e : Eff) (m3 : Bool) =>
       s.withCtx { c with ports := Tab.set 0 c.ports p n, flights := c.flights ++ [⟨l, e, m3⟩] }
     (alone → v ≤ 255 → c.portHeld 2 = 0 → exec (.accread h x k m) s = .next (starts 2 1 8 (.mcells (c.cellsOf x
       (List.replicate 128 (BitVec.allOnes 32)) ((List.range 128).map fun n => c.accCell k v n))) (names3 [x]))) ∧
     (alone → v ≤ 255 → exec (.accwrite h k m x) s = .next (s.flown 8 (.accRow k v (c.lanes x)) (names3 [x]))) ∧
     (alone → 255 < v → exec (.accwrite h k m x) s = .next (s.trapped 0x02 (c.reg m))) ∧
     (asGang → 1 ≤ v → v ≤ 256 → b + v ≤ 256 → a + v * row ≤ 0x100000 → a % 64 = 0 → c.portHeld 2 = 0 →
       s.ownFault a (v * row) .write = none → exec (.accdrain h k m gang fmt rm sat ra rb) s = .next (starts 2 v (8 + v)
         (.drain (cellsFrom a ((List.range v).flatMap fun i => (List.range gang.size).flatMap fun j =>
           (List.range 128).flatMap fun n => leBytes (fmt.bits / 8)
             (drainCode fmt rm sat ((s.ctxAt (s.cur + j)).accCell k (b + i) n)))) (s.gangOf gang)) false)) ∧
     (alone → v % 512 = 0 → v + 0x2000 ≤ 0x100000 → mpbBad (Memory.read zeroByte c.spad v 0x2000) = none →
       s.ownFault v 0x2000 .read = none → c.maskedFlight = false → c.portHeld 3 = 0 →
       exec (.mpbld h m) s = .next (starts 3 16 16 (.mpb (Memory.read zeroByte c.spad v 0x2000)) false)))

/-- R249, R252, R253: WLOAD and MMUL take the next slots of their rings, which are full and carry no failure, hold their port, and put one
operation in flight; while a slot is not full they freeze. WLOAD gives the shadow banks their format; MMUL takes the head format word and
reads the active bank of each member in that bank's own format. -/
def Obligations.MatrixOperationsIssue : Prop :=
  ∀ (s : State) (h : Hd) (k q m : Nat) (gang : Gang) (fmt : Fmt) (z mask : Bool), s.ctx.guard h = true → s.ctx.holding = false →
    let c := s.ctx
    let full := fun l : List (Nat × Nat) => ∀ y ∈ l, ((c.ring y.1).slot y.2).st = .full ∧ ((c.ring y.1).slot y.2).fail = none
    let taken := fun (l : List (Nat × Nat)) (c' : Ctx) => l.foldl (fun c' y => c'.takeSlot y.1) c'
    let addr := fun (l : List (Nat × Nat)) (i : Nat) => (l[i]?.map fun y => (c.ring y.1).addr y.2).getD 0
    let wl := c.slotsOf q (c.scaleRing fmt)
    let wchecks := s.matrixChecks gang ++ [c.portChk 1] ++ c.ringChecks q (gang.size * 256 * 16 * fmt.bits) (gang.size * 1024) fmt
      ++ [chk (s.lowWater && !lowWaterFmt fmt) 0x02 (w64 fmt.code)]
      ++ s.slotChecks wl [gang.size * 256 * 16 * fmt.bits, gang.size * 1024 * scaleBytes fmt]
    let fw := c.fq.headD 0
    let af := (afmtOf fw).getD .bf16
    let wf := (c.bank c.active).fmt.getD .bf16
    let ml := c.slotsOf q (c.scaleRing af)
    let p := (c.reg m).toNat
    let mchecks := s.matrixChecks gang ++ s.mmulChecks q m gang mask
    (checks wchecks = none → full wl → ∃ t, exec (.wload h q gang fmt) s = .next t ∧
      t = { s with berths := t.berths, iss := .issued } ∧
      t.ctx = { taken wl c with
        banks := Tab.set Bank.none c.banks (1 - c.active) { c.bank (1 - c.active) with fmt := some fmt },
        ports := Tab.set 0 c.ports 1 256,
        flights := c.flights ++ [⟨256, .wload ⟨c.uck, q, addr wl 0, c.scaleRing fmt, addr wl 1, fmt, s.gangBanks gang true⟩, false⟩] } ∧
      (∀ b, b ≠ s.cur → t.berth b = if s.cur ≤ b ∧ b < s.cur + gang.size then
        { s.berth b with ctx := (s.ctxAt b).modBank (1 - (s.ctxAt b).active) fun x => { x with fmt := some fmt } } else s.berth b)) ∧
    (checks wchecks = none → (∃ y ∈ wl, ((c.ring y.1).slot y.2).st ≠ .full) → exec (.wload h q gang fmt) s = .next s.frozen) ∧
    (checks mchecks = none → full ml → exec (.mmul h k q m gang z mask) s = .next (s.withCtx { taken ml c with
        fq := c.fq.tail,
        ports := Tab.set 0 c.ports 0 p,
        flights := c.flights ++ [⟨p + 395, .mmul {
          t0 := c.uck, slot := k, row0 := fw.toNat / 2 ^ 8 % 2 ^ 8, mrow0 := fw.toNat / 2 ^ 16 % 2 ^ 8, z := z,
          mask := if mask then c.mpb else none, masked := mask, afmt := af, wfmt := wf,
          rows := rowsOf (widerOf af wf) p, qa := q, aslot := addr ml 0, sq := c.scaleRing af, sslot := addr ml 1,
          members := s.memberBanks gang, acts := [] }, false⟩] })) ∧
    (checks mchecks = none → (∃ y ∈ ml, ((c.ring y.1).slot y.2).st ≠ .full) →
      exec (.mmul h k q m gang z mask) s = .next s.frozen)

/-- R249, R253, R261: when an MMUL retires, every cell of its rows lands in each member of its gang that still follows, no other cell
changes, and its slots are released; when a WLOAD retires, its slots are. R45, R255, R256: what the accumulator words put in flight lands:
ACCWRITE writes one row of a slot, ACCZERO makes every cell of a slot +0 and the slot live, ACCFREE leaves it free; no other slot changes.
-/
def Obligations.MatrixResultsLand : Prop :=
  (∀ (s : State) (l : List Flight) (r : MRec) (w : WRec),
     let b := s.subj.berth
     let c := s.ctxAt b
     let rest := fun e : Eff => c.flights = ⟨0, e, false⟩ :: l
     let free := fun (q : Nat) (sq : Option Nat) (x : Ctx) =>
       let y := x.releaseOldest q
       match sq with | some k => y.releaseOldest k | none => y
     (rest (.wload w) → ∃ t, exec .wloadRetire s = .next t ∧ t = { s with berths := t.berths } ∧
       (∀ k, k ≠ b → t.berth k = s.berth k) ∧ t.ctxAt b = free w.qb w.sq { c with flights := l }) ∧
     (rest (.mmul r) → (r.members.map Prod.fst).Nodup → r.row0 + r.rows ≤ 256 → ∃ t, exec .mmulRetire s = .next t ∧
       t = { s with berths := t.berths } ∧
       (∀ (j mb bank : Nat) (f : Fmt), r.members[j]? = some (mb, bank, f) → (mb = b ∨ mb ∈ s.followers b) →
         let old := s.ctxAt mb
         (∀ i n, i < r.rows → n < 128 → (t.ctxAt mb).accCell r.slot (r.row0 + i) n =
           r.cell (old.bank bank) f j i n (old.accCell r.slot (r.row0 + i) n)) ∧
         (∀ k a n, a < 256 → n < 128 → (k ≠ r.slot ∨ a < r.row0 ∨ r.row0 + r.rows ≤ a) →
           (t.ctxAt mb).accCell k a n = old.accCell k a n)) ∧
       (∀ k, k ≠ b → k ∉ r.members.map Prod.fst → t.berth k = s.berth k) ∧
       (t.ctxAt b).rings = (free r.qa r.sq { c with flights := l }).rings ∧ (t.ctxAt b).flights = l)) ∧
  (∀ (s : State) (b k r : Nat) (e : Eff) (m : Bool) (l : List W32),
     let c := s.ctxAt b
     s.subj.berth = b → s.agent = .land b → c.open_ = true → c.landed = false → c.flights = [⟨1, e, m⟩] →
     let lands := fun P : Ctx → Prop => ∃ t, exec .resultLand s = .next t ∧ t = { s with agent := .release b, berths := t.berths } ∧
       (∀ j, j ≠ b → t.berth j = s.berth j) ∧ P (t.ctxAt b) ∧
       t.ctxAt b = { c with acc := (t.ctxAt b).acc, live := (t.ctxAt b).live, landed := true, flights := [] }
     let others := fun c' : Ctx => ∀ j a n, j ≠ k → a < 256 → n < 128 → c'.accCell j a n = c.accCell j a n
     (e = .accRow k r l → r < 256 → l.length = 128 → lands fun c' => others c' ∧ k ∈ c'.live ∧
       ∀ a n, a < 256 → n < 128 → c'.accCell k a n = if a = r then l.getD n 0 else c.accCell k a n) ∧
     (e = .accZero k [b] → lands fun c' => others c' ∧ k ∈ c'.live ∧ ∀ a n, a < 256 → n < 128 → c'.accCell k a n = 0) ∧
     (e = .accFree k [b] → lands fun c' => others c' ∧ k ∉ c'.live ∧ ∀ a n, a < 256 → n < 128 → c'.accCell k a n = 0))

/-- R284, R289-R291, R293: the pier words that change their run alone. An operand of a vector form is taken lane by lane; ps0 and pv0
discard writes; the run goes on at the next word, and nothing else but whose turn it is changes. -/
def Obligations.PierRegisterForms : Prop :=
  ∀ (s : State) (p k : Nat) (r : Run) (v bs ib u x : Bool) (c : PCond) (sh : ShKind) (d a b n imm : Nat),
    s.agent = .pier p k → s.pcur = (p, k) → s.run p k = some r → imm < 2 ^ 10 →
    r.off + 1 < (if r.run = 0 then r.kern.body else r.kern.code.length) →
    let goesOn := fun (i : Instr) (r' : Run) => ∃ t, exec i s = .next t ∧ t = { s with ports := t.ports, agent := t.agent } ∧
      (∀ j, j ≠ p → t.port j = s.port j) ∧
      t.port p = { s.port p with runs := Tab.set none (s.port p).runs k (some { r' with off := r.off + 1 }) }
    let sr := fun i : Nat => if i = 0 then (0 : W32) else Tab.get 0 r.ps i
    let vr := fun i : Nat => if i = 0 then List.replicate 64 (0 : W32) else Tab.get (List.replicate 64 0) r.pv i
    let ps := fun w : W32 => if d = 0 then r else { r with ps := Tab.set 0 r.ps d w }
    let pv := fun l : List W32 => if d = 0 then r else { r with pv := Tab.set (List.replicate 64 0) r.pv d l }
    let k10 : W32 := BitVec.ofInt 32 (if imm < 2 ^ 9 then imm else (imm : Int) - 2 ^ 10)
    let k6 : W32 := BitVec.ofInt 32 (if imm % 2 ^ 6 < 2 ^ 5 then (imm % 2 ^ 6 : Nat) else (imm % 2 ^ 6 : Nat) - 2 ^ 6)
    let op := fun (im : Bool) (w : W32) => List.replicate 64 (if im then w else sr b)
    let two := fun (i : Instr) (im : Bool) (w : W32) (f : W32 → W32 → W32) => goesOn i (if v then
        pv (((vr a).zip (if im || bs then op im w else vr b)).map fun y => f y.1 y.2)
      else ps (f (sr a) (if im then w else sr b)))
    let f32 := fun (f : FV → FV → FV) (y z : W32) => BitVec.ofNat 32 (FF.fp32.rne (f (FF.fp32.decode y.toNat) (FF.fp32.decode z.toNat)))
    let lt := fun y z : W32 => if u then decide (y.toNat < z.toNat) else decide (y.toInt < z.toInt)
    let holds := fun y z : W32 => match c with
      | .eq => decide (y = z) | .ne => decide (y ≠ z) | .lt => lt y z | .le => lt y z || decide (y = z)
      | .gt => lt z y | .ge => !lt y z
      | .flt => FV.lt (FF.fp32.decode y.toNat) (FF.fp32.decode z.toNat)
      | .feq => FV.eq (FF.fp32.decode y.toNat) (FF.fp32.decode z.toNat)
    two (.addp v bs ib d a b imm) ib k10 (· + ·) ∧ two (.subp v bs ib d a b imm) ib k10 (· - ·) ∧
    two (.mulp v bs ib d a b imm) ib k10 (· * ·) ∧ two (.andp v bs ib d a b imm) ib k10 (· &&& ·) ∧
    two (.orp v bs ib d a b imm) ib k10 (· ||| ·) ∧ two (.xorp v bs ib d a b imm) ib k10 (· ^^^ ·) ∧
    two (.minp v bs ib u d a b imm) ib k10 (fun y z => if lt z y then z else y) ∧
    two (.maxp v bs ib u d a b imm) ib k10 (fun y z => if lt y z then z else y) ∧
    two (.faddp v bs d a b) false 0 (f32 (FV.add .rne)) ∧ two (.fmaxp v bs d a b) false 0 (f32 FV.max) ∧
    two (.shp v bs sh d a b) false 0 (fun y z => match sh with
      | .l => BitVec.ofNat 32 (y.toNat * 2 ^ (z.toNat % 32))
      | .r => BitVec.ofNat 32 (y.toNat / 2 ^ (z.toNat % 32))
      | .a => BitVec.ofInt 32 (y.toInt / 2 ^ (z.toNat % 32))) ∧
    two (.cmpp v bs u c d a b) false 0 (fun y z => if holds y z then (if v then BitVec.allOnes 32 else 1) else 0) ∧
    goesOn (.selp v bs ib d n a b imm) (if v then
        pv ((((vr a).zip (if ib || bs then op ib k6 else vr b)).zip (vr n)).map fun y => if y.2 ≠ 0 then y.1.1 else y.1.2)
      else ps (if sr n ≠ 0 then sr a else if ib then k6 else sr b)) ∧
    goesOn (.hld x d a n) (ps (r.pkt.hdr.getD (if x then ((sr a).toNat + n) % 64 else n) 0)) ∧
    goesOn (.pld d) (pv (if r.run = 0 then r.pkt.hdr else bytesW32 ((r.pkt.pay.drop (256 * (r.run - 1))).take 256))) ∧
    (r.run = 0 → goesOn (.pst a) { r with pkt := { r.pkt with hdr := r.pkt.hdr.take 16 ++ (vr a).drop 16 } }) ∧
    (r.run ≠ 0 →
      let o := 256 * (r.run - 1)
      let flit := (vr a).flatMap fun w => leBytes 4 w.toNat
      goesOn (.pst a) { r with pkt := { r.pkt with pay := r.pkt.pay.take o ++ flit ++ r.pkt.pay.drop (o + 256) } }) ∧
    goesOn .hold { r with disp := .hold } ∧ goesOn .fwd { r with disp := .fwd } ∧ goesOn .drop { r with disp := .drop } ∧
    goesOn (.brf x a 1) r

/-- R286, R287, R292-R294: flow entries, combine buffers, marks, redirections, branches and ends. -/
def Obligations.PierFlowAndActions : Prop :=
  ∀ (s : State) (p k : Nat) (r : Run) (x : Bool) (mode : CombMode) (d a b n imm off : Nat),
    s.agent = .pier p k → s.pcur = (p, k) → s.run p k = some r → n < 16 →
    let last := if r.run = 0 then r.kern.body else r.kern.code.length
    let q := s.port p
    let pj := s.pj r.kern.job
    let sr := fun i : Nat => if i = 0 then (0 : W32) else Tab.get 0 r.ps i
    let goesOn := fun (i : Instr) (q' : Port) (r' : Run) => ∃ t, exec i s = .next t ∧
      t = { s with ports := t.ports, agent := t.agent } ∧ (∀ j, j ≠ p → t.port j = s.port j) ∧
      t.port p = { q' with runs := Tab.set none q.runs k (some r') }
    let ps := fun w : W32 => if d = 0 then r else { r with ps := Tab.set 0 r.ps d w }
    let on := fun y : Run => { y with off := r.off + 1 }
    let e := (pj.fbase + (sr a).toNat % 2 ^ pj.flog2) * 16
    let hit := pj.fen = true ∧ Tab.get 0 q.flow e = (sr a ||| 0x80000000)
    let w := Tab.get 0 q.flow (e + n)
    let i := (sr b).toNat
    let g := pj.cb + i
    let buf := Tab.get Comb.free q.combs g
    let l := (sr a).toNat
    (r.off + 1 < last →
      (hit → goesOn (.fld x d a n) q (on (ps w)) ∧ goesOn (.fst a b n) { q with flow := Tab.set 0 q.flow (e + n) (sr b) } (on r) ∧
        (w = sr d → goesOn (.fcas d a b n) { q with flow := Tab.set 0 q.flow (e + n) (sr b) } (on (ps w))) ∧
        (w ≠ sr d → goesOn (.fcas d a b n) q (on (ps w)))) ∧
      (l % 1024 < 2 ^ s.ndim → l % 1024 ≠ s.label → goesOn (.redirect false a) q
        (on { r with pkt := pkSetDst r.pkt (l % 1024), disp := .redirect })) ∧
      ((Tab.get (0 : W64) s.mctree (l % 4096)).getLsbD 63 = true → (Tab.get (0 : W64) s.mctree (l % 4096)).toNat / 2 ^ 57 % 2 ^ 6 = r.kern.job →
        goesOn (.redirect true a) q (on { r with
          pkt := pkSet (pkSet r.pkt 0 (pkW r.pkt 0 / 16 * 16 + 5)) 3 (l % 4096), disp := .redirect })) ∧
      (i < pj.ncb → buf = Comb.free → r.disp ≠ .hold → goesOn (.combine mode a b)
        { q with combs := Tab.set Comb.free q.combs g ⟨[(r.run - 1, r.vreg a)], [(r.pid, k)]⟩ }
        (on { r with contrib := insertNat g r.contrib })) ∧
      (i < pj.ncb → buf.flits ≠ [] → goesOn (.emit false a b) q
        (on { r with marks := r.marks.filter (fun y => y.1 != g) ++ [(g, none)] })) ∧
      (i < pj.ncb → buf.flits ≠ [] → l % 1024 < 2 ^ s.ndim → l % 1024 ≠ s.label → goesOn (.emit true a b) q
        (on { r with marks := r.marks.filter (fun y => y.1 != g) ++ [(g, some (l % 1024))] })) ∧
      ((sr a = 0 ↔ x = false) → goesOn (.brf x a off) q (on r))) ∧
    (r.off + off < last → (sr a = 0 ↔ x = true) → goesOn (.brf x a off) q { r with off := r.off + off }) ∧
    (r.run = 0 → r.disp ≠ .drop → r.kern.body < r.kern.code.length → 0 < pkLen r.pkt → goesOn .endk q
      { r with ps0 := r.ps, pv0 := r.pv, run := 1, off := r.kern.body }) ∧
    (pj.mbox = 0 → r.kern.drop = false → pkType r.orig ≠ 5 → pkDst r.orig = s.label → p < 11 → ∃ t, exec (.trapp imm) s = .next t ∧
      t.run p k = none ∧ Tab.get 0 (t.port p).traps r.kern.job = (Tab.get 0 q.traps r.kern.job + 1) % 2 ^ 32 ∧
      (t.port selfPort).inq = (s.port selfPort).inq ++ [r.orig] ∧ (t.port p).combs = q.combs ∧ (t.port p).flow = q.flow)

/-- R299, R309: how a command ends, when it has no LOCAL destination to publish and posts no signal: its entry leaves the ring and one
more command is done; a nonzero status is kept in WUSTAT with its JOB if it is the first, and counted. R232-R234, R307, R309: NOPW, SETD,
SEMWAIT, SEMPOST and BARRIER, for a word whose own wait is satisfied and whose SIGNAL names a semaphore. SETD writes one word of a
descriptor and gives it the word's JOB; a SEMWAIT that does not hold stays at the head; BARRIER adds 1 once, then waits. -/
def Obligations.WharfEndsAndControlForms : Prop :=
  (∀ (s : State) (u code idx : Nat) (e : Entry) (l : List Entry),
     let x := s.unit u
     let t := s.wharfFinish u e none code idx
     x.ring = e :: l → x.claims.getD [] = [] → e.man = none → code < 256 → e.job < 64 → (code = 0 ∨ x.phase ≠ .split) →
     let first := x.stat.getLsbD 63 = false
     (t.unit u).ring = l ∧ (t.unit u).done = (x.done + 1) % 65536 ∧ (t.unit u).phase = .fresh ∧ (t.unit u).descs = x.descs ∧
     (∀ v, v ≠ u → t.unit v = s.unit v) ∧ (∀ b, t.berth b = s.berth b) ∧ t.hbm = s.hbm ∧ t.regions = s.regions ∧
     (code = 0 → t = { s with units := t.units } ∧ (t.unit u).stat = x.stat) ∧
     (code ≠ 0 →
       let w := (t.unit u).stat.toNat
       w / 2 ^ 63 = 1 ∧ w % 2 ^ 32 = (x.stat.toNat + 1) % 2 ^ 32 ∧
       (first → w / 2 ^ 48 % 2 ^ 8 = code ∧ w / 2 ^ 42 % 2 ^ 6 = e.job) ∧
       (¬first → w / 2 ^ 42 % 2 ^ 14 = x.stat.toNat / 2 ^ 42 % 2 ^ 14))) ∧
  (∀ (s s1 : State) (x : WX) (d w v da : Nat) (cd : SCond) (sub err : Bool) (e : Entry) (l : List Entry),
     let u := s.wcur
     let c : WC := ⟨u, e.job, e.by_, e.man⟩
     let post := if x.post then some x.sdesc else none
     (s.unit u).ring = e :: l → (s.unit u).stop = false → (s.wharfStart c []).wordWait u e.job x = .ok s1 →
     (x.post = true → ((s1.unit u).sem x.sdesc e.job).isSome = true) →
     let ends := fun (i : Instr) (t : State) (code : Nat) => exec i s = .next (t.wharfFinish u e post code 0).wharfNext
     let stays := fun (i : Instr) (t : State) => exec i s = .next t.wharfNext
     let setd := s1.modUnit u fun y => { y with
       descs := Tab.set Desc.zero y.descs d ⟨Tab.set 0 (Tab.get Desc.zero y.descs d).w w (BitVec.ofNat 32 v), e.job⟩ }
     let fresh := fun y : WUnit => if y.phase = .fresh then { y with phase := .waited } else y
     ends (.nopw x) s1 0 ∧ ends (.setd x d w v) setd 0 ∧
     -- no semaphore: LOCAL where it is well formed and in the scratchpad, else DESC
     ((s1.unit u).sem da e.job = none →
       let code := if ((s1.unit u).desc da).loc = true ∧ ((s1.unit u).desc da).job = e.job ∧ ((s1.unit u).desc da).bad = false then 0x49 else 0x43
       ends (.wharfSemwait x da cd sub) s1 code ∧ ends (.wharfSempost x da err) s1 code ∧ ends (.barrier x da) s1 code) ∧
     (∀ va k, (s1.unit u).sem da e.job = some (va, k) →
       (∀ s2, s1.wharfWait u e.job va k cd sub = .ok s2 → ends (.wharfSemwait x da cd sub) s2 0) ∧
       (∀ s2, s1.wharfWait u e.job va k cd sub = .wait s2 → stays (.wharfSemwait x da cd sub) (s2.modUnit u fresh)) ∧
       (∀ s2 old, s1.postHome [.unit u] e.job va k err = (s2, .ok old) → ends (.wharfSempost x da err) s2 0) ∧
       ((s1.unit u).phase ≠ .added → ∀ s2 old s3, s1.postHome [.unit u] e.job va 1 false = (s2, .ok old) →
         let s2' := s2.modUnit u fun y => { y with phase := .added, since := none }
         (s2'.unit u).sem da e.job = some (va, k) →
         (s2'.wharfWait u e.job va k .geu false = .ok s3 → ends (.barrier x da) s3 0) ∧
         (s2'.wharfWait u e.job va k .geu false = .wait s3 → stays (.barrier x da) (s3.modUnit u fresh))) ∧
       ((s1.unit u).phase = .added → ∀ s3, (s1.wharfWait u e.job va k .geu false = .ok s3 → ends (.barrier x da) s3 0) ∧
         (s1.wharfWait u e.job va k .geu false = .wait s3 → stays (.barrier x da) (s3.modUnit u fresh)))))

/-- R314, R315, R318: the forms that go row by row. σ i is the state before row i; when every row is read and every result is written, the
command is performed with the values that the rules give, and ends with status 0; where R103 leaves the order of several NaN open, it is
the model's (log entry 116). The model's choices too: a lane of DOT starts from +0 (log entry 58), CLAMP takes its bounds from the low
bits of CONST (60), and with ACC a LOCAL destination is read from the pusher's scratchpad (107). -/
def Obligations.WharfRowForms : Prop :=
  ∀ (s : State) (x : WX) (da db dc : Nat) (rm : RM) (sat pad acc : Bool) (e : Entry) (l : List Entry) (σ ρ τ : Nat → State)
    (bs cs : Nat → List Nat) (raw : Nat → List Byte) (k : Nat → Nat),
    let u := s.wcur
    let c : WC := ⟨u, e.job, e.by_, e.man⟩
    let post := if x.post then some x.sdesc else none
    let starts := fun dst => (s.unit u).ring = e :: l ∧ (s.unit u).stop = false ∧ (s.wharfStart c dst).wordWait u e.job x = .ok (σ 0) ∧
      (x.post = true → (((σ 0).unit u).sem x.sdesc e.job).isSome = true)
    let desc := fun n => (σ 0).wd c n
    let a := desc da
    let b := desc db
    let d := desc dc
    let fits := fun ds => wchecks ((σ 0).descChecks c ds) = none
    let ends := fun (i : Instr) (n : Nat) => exec i s = .next ((σ n).wharfFinish u e post 0 0).wharfNext
    let row := fun (st : Nat → State) (y : DV) (i : Nat) (es : List Nat) => (st i).rowElems c false y i = .ok (ρ i) es
    let puts := fun (st : State) (y : DV) (r off : Nat) (v : List Byte) (i : Nat) => st.putAt c y r off v = .ok (σ (i + 1)) ()
    -- the forms that move rows: row dr i is written, the granules that the rows so far cover are whole, and the arrivals come at the end
    let upTo := fun (dr : Nat → Nat) (i : Nat) => (List.range i).reverse.map dr
    let moves := fun (st : State) (y : DV) (dr : Nat → Nat) (v : List Byte) (i : Nat) =>
      ∃ st', st.putRow c y (dr i) 0 v = .ok st' () ∧ σ (i + 1) = st'.rowWhole c y (upTo dr (i + 1)) (dr i)
    let moved := fun (i : Instr) (y : DV) (dr : Nat → Nat) (n : Nat) =>
      exec i s = .next (((σ n).rowsCame c y (upTo dr n)).wharfFinish u e post 0 0).wharfNext
    let m := 2 ^ (8 * a.size)
    let codes := fun (y : DV) (es : List Nat) => es.flatMap fun v => leBytes y.size v
    (starts [] → fits [(a, false), (b, false)] →
      let v := if a.ety = 5 then ofSigned 64 (toSigned 32 b.const) else b.const % 2 ^ (8 * a.size)
      (∀ i, i < a.count → puts (σ i) a i 0 (codes a (List.replicate a.len v)) i) → ends (.fill x da db) a.count) ∧
    (starts [db] → fits [(a, false), (b, true)] → a.len = b.len → a.ety = b.ety → a.count ≤ b.count →
      (∀ i, i < a.count → (σ i).wharfRead c false (a.rowVa i) a.rowBytes = .ok (ρ i) (raw i) ∧ moves (ρ i) b id (raw i) i) →
      moved (.copyc x da db) b id a.count) ∧
    (starts [db] → fits [(a, false), (b, true)] → a.ety ≤ 4 → b.ety ≤ 4 → a.elems = b.elems →
      (∀ i, i < b.count → (σ i).spanElems c a (b.len + 1) (i * b.len) b.len = .ok (ρ i) (bs i) ∧
        moves (ρ i) b id (codes b ((bs i).map (convElem a b rm sat))) i) → moved (.convert x da db rm sat) b id b.count) ∧
    (starts [dc] → fits [(a, false), (b, false), (d, true)] → b.list = true → d.len = a.len → d.ety = a.ety → b.count ≤ d.count →
      (∀ i, i < b.count → (σ i).wharfIdx c b i = .ok (ρ i) (k i) ∧
        if pad = true ∧ k i = 0xFFFFFFFF then moves (ρ i) d id (List.replicate d.rowBytes 0) i
        else k i < a.count ∧ (ρ i).wharfRead c true (a.rowVa (k i)) a.rowBytes = .ok (τ i) (raw i) ∧ moves (τ i) d id (raw i) i) →
      moved (.gather x da db dc pad) d id b.count) ∧
    (starts [] → fits [(a, false), (b, false), (d, false)] → b.list = true → d.len = a.len → d.ety = a.ety → b.count ≤ d.count →
      (∀ i, i < b.count → (σ i).wharfIdx c b i = .ok (ρ i) (k i) ∧ k i < a.count ∧
        (ρ i).wharfRead c false (d.rowVa i) d.rowBytes = .ok (τ i) (raw i) ∧ moves (τ i) a k (raw i) i) →
      moved (.scatter x da db dc) a k b.count) ∧
    (starts [] → fits [(a, false), (b, false), (d, false)] → a.ety < 3 → a.len = b.len → a.ety = b.ety → a.count ≤ b.count →
      (∀ i, i < a.count → row σ a i (bs i) ∧ (ρ i).rowElems c false b i = .ok (τ i) (cs i) ∧
        puts (τ i) b i 0 (codes b (((bs i).zip (cs i)).map fun y =>
          b.round (FV.fma .rne (FF.fp32.decode d.const) (a.val y.1) (b.val y.2)))) i) → ends (.axpy x da db dc) a.count) ∧
    (starts [] → fits [(a, false), (b, false)] → a.ety < 3 →
      (∀ i, i < a.count → row σ a i (bs i) ∧
        puts (ρ i) a i 0 (codes a ((bs i).map fun y => a.round (FV.mul (a.val y) (FF.fp32.decode b.const)))) i) →
      ends (.scale x da db) a.count) ∧
    (starts [] → fits [(a, false), (b, false), (d, false)] → a.ety < 5 → clampBad a (b.const % m) (d.const % m) = false →
      (∀ i, i < a.count → row σ a i (bs i) ∧ puts (ρ i) a i 0 (codes a ((bs i).map (clampElem a (b.const % m) (d.const % m)))) i) →
      ends (.clamp x da db dc) a.count) ∧
    (starts [dc] → fits [(a, false), (b, false), (d, true)] → a.ety < 3 → b.ety < 3 → d.ety < 3 →
      b.elems = a.len → a.count ≤ d.elems →
      (∀ i, i < a.count → row σ a i (bs i) ∧ (ρ i).spanElems c b (a.len + 1) 0 a.len = .ok (τ i) (cs i) ∧
        let y := dotOf (((bs i).map a.val).zip ((cs i).map b.val))
        if acc then ∃ s' o, (τ i).oldRead c d (i / d.len) (i % d.len * d.size) d.size = .ok s' o ∧
          puts s' d (i / d.len) (i % d.len * d.size) (codes d [d.round (FV.add .rne (d.val (leValue o)) y)]) i
        else puts (τ i) d (i / d.len) (i % d.len * d.size) (codes d [d.round y]) i) → ends (.gemv x da db dc acc) a.count)

/-- R316, R318-R320: the forms that combine rows or elements. σ i is the state before row i is read; the result is computed in the order
that the rules give where they give one, and written at the end. The model's choices: REDUCE and MERGEDUP start from the first row of a
run (log entry 59), a lane of NORM2 and DOT from +0 (58), the room that MERGEDUP needs (61), ACC with a LOCAL destination (107), which of
several NaN prevails (116), and SORTIDX without PERM, which uses no DB (134). -/
def Obligations.WharfReducingForms : Prop :=
  ∀ (s : State) (x : WX) (da db dc dd km1 : Nat) (kind : RedOp) (mode : PoolMode) (sq perm mn pad : Bool) (e : Entry) (l : List Entry)
    (σ ρ : Nat → State) (r : Nat → List Nat) (k : Nat → Nat) (s2 s3 s4 : State) (xs ys : List Nat) (rows : List (List Nat)) (raw : List Byte),
    let u := s.wcur
    let c : WC := ⟨u, e.job, e.by_, e.man⟩
    let post := if x.post then some x.sdesc else none
    let starts := fun dst => (s.unit u).ring = e :: l ∧ (s.unit u).stop = false ∧ (s.wharfStart c dst).wordWait u e.job x = .ok (σ 0) ∧
      (x.post = true → (((σ 0).unit u).sem x.sdesc e.job).isSome = true)
    let desc := fun n => (σ 0).wd c n
    let a := desc da
    let b := desc db
    let d := desc dc
    let g := desc dd
    let fits := fun ds => wchecks ((σ 0).descChecks c ds) = none
    let ends := fun (i : Instr) (t : State) => exec i s = .next (t.wharfFinish u e post 0 0).wharfNext
    let all := fun (st : State) (y : DV) (es : List Nat) (st' : State) => st.allElems c y y.elems = .ok st' es
    let dot := fun (y z : DV) => dotOf ((xs.map y.val).zip (ys.map z.val))
    let target := fun (op : AtomOp) => ∀ i, i < b.count → (σ i).wharfIdx c b i = .ok (ρ i) (k i) ∧ k i < a.count ∧
      ∃ s', (ρ i).rowElems c false d i = .ok s' (r i) ∧ s'.atomRow c op (a.ety == 5) (a.rowVa (k i)) (r i) = .ok (σ (i + 1)) ()
    (starts [db] → fits [(a, false), (b, true)] → (a.ety < 3 ∧ b.ety < 3 ∨ (a.ety = 3 ∨ a.ety = 4) ∧ a.ety = b.ety) → b.len = a.len →
      b.count ≠ 0 →
      let wide := fun i => (r i).map a.widen
      let step := fun (acc : List Nat) (i : Nat) => (acc.zip (wide i)).map fun y => redStep kind a.ety y.1 y.2
      (a.count ≠ 0 → (∀ i, i < a.count → (σ i).rowElems c false a i = .ok (σ (i + 1)) (r i)) →
        let v := (List.range (a.count - 1)).foldl (fun acc i => step acc (i + 1)) (wide 0)
        (σ a.count).putAt c b 0 0 (elemBytes b.size (v.map b.narrow)) = .ok s3 () → ends (.reduce x da db kind false) s3) ∧
      -- with ACC the old row is the first
      ((σ 0).oldRead c b 0 0 b.rowBytes = .ok (ρ 0) raw → (∀ i, i < a.count → (ρ i).rowElems c false a i = .ok (ρ (i + 1)) (r i)) →
        let v := (List.range a.count).foldl step ((byteElems b.size raw).map b.widen)
        (ρ a.count).putAt c b 0 0 (elemBytes b.size (v.map b.narrow)) = .ok s3 () → ends (.reduce x da db kind true) s3)) ∧
    (starts [dc] → fits [(a, false), (b, false), (d, true)] → a.ety < 3 → b.ety < 3 → d.ety < 3 → a.elems = b.elems → d.count ≠ 0 →
      all (σ 0) a xs s2 → all s2 b ys s3 → s3.putAt c d 0 0 (elemBytes d.size [d.round (dot a b)]) = .ok s4 () →
      ends (.dot x da db dc) s4) ∧
    (starts [db] → fits [(a, false), (b, true)] → a.ety < 3 → b.ety < 3 → b.count ≠ 0 → all (σ 0) a xs s2 → ys = xs →
      s2.putAt c b 0 0 (elemBytes b.size [b.round (if sq then dot a a else r32 (dot a a).sqrt)]) = .ok s3 () →
      ends (.norm2 x da db sq) s3) ∧
    (starts [db] → fits [(a, false), (b, true)] → a.ety ≤ 4 → b.ety = 4 → b.count ≠ 0 → (σ 0).rowsBytes c a a.count 0 = .ok s2 raw →
      s2.putAt c b 0 0 (leBytes 4 (crc32c raw).toNat) = .ok s3 () → ends (.crc x da db) s3) ∧
    (starts [] → fits [(a, false), (b, false), (d, false)] → b.list = true → d.len = a.len → d.ety = a.ety →
      (a.ety = 0 ∨ a.ety = 3 ∨ a.ety = 4 ∨ a.ety = 5) → b.count ≤ d.count →
      (target (if a.ety = 0 then .fadd else .add) → ends (.atomadd x da db dc) (σ b.count)) ∧
      (target (match a.ety, mn with
        | 0, true => .fmin | 0, false => .fmax | 4, true => .minu | 4, false => .maxu | _, true => .min | _, false => .max) →
        ends (.atommax x da db dc mn) (σ b.count))) ∧
    (starts [] → fits ([(a, false)] ++ if perm then [(b, false)] else []) → a.list = true → a.count ≤ 2048 →
      (perm = true → b.ety = 4 ∧ a.count ≤ b.count) → (σ 0).allElems c a a.count = .ok s2 xs →
      let y := sortBy (xs.zip (List.range a.count))
      s2.putElems c a (a.count + 1) 0 (y.map Prod.fst) = .ok s3 () →
      (perm = false → ends (.sortidx x da db perm) s3) ∧
      (perm = true → s3.putElems c b (a.count + 1) 0 (y.map Prod.snd) = .ok s4 () → ends (.sortidx x da db perm) s4)) ∧
    (starts [] → fits [(a, false), (b, false), (d, false), (g, false)] → a.list = true → d.list = true → b.ety < 5 → g.len = b.len →
      g.ety = b.ety → a.count ≤ b.count → (σ 0).allElems c a a.count = .ok s2 xs → s2.readRows c b a.count 0 = .ok s3 rows →
      let runs := runsOf (xs.zip (rows.map fun y => y.map b.widen))
      let n := runs.length
      n ≤ d.count → n ≤ g.count → s3.putElems c d (n + 1) 0 (runs.map Prod.fst) = .ok s4 () →
      ∀ s5, s4.putElems c g (n + 1) 0 (runs.flatMap fun y => (sumRows b y.2).map g.narrow) = .ok s5 () →
      ends (.mergedup x da db dc dd) (s5.modUnit u fun y =>
        let set := fun (t : Tab Desc) (j : Nat) => Tab.upd Desc.zero t j fun z => { z with w := Tab.set 0 z.w 2 (BitVec.ofNat 32 n) }
        { y with descs := set (set y.descs dc) dd })) ∧
    (starts [db, dc] → fits [(a, false), (b, true), (d, true)] → a.ety < 3 → b.ety = a.ety → d.ety = 4 → a.elems ≤ 1048576 →
      km1 < b.elems → km1 < d.elems → all (σ 0) a xs s2 →
      let y := (sortBy ((xs.map fun v => 2 ^ (8 * a.size) - rankKey a v).zip (List.range xs.length))).take (km1 + 1)
      let pad := fun v => List.replicate (km1 + 1 - y.length) v
      s2.putElems c b (km1 + 2) 0 ((y.map fun z => xs.getD z.2 0) ++ pad (a.round FV.canon)) = .ok s3 () →
      s3.putElems c d (km1 + 2) 0 ((y.map Prod.snd) ++ pad 0xFFFFFFFF) = .ok s4 () → ends (.topkv x da db dc km1) s4) ∧
    (starts [dc] → mode ≠ .weighted → fits [(a, false), (b, false), (d, true)] → b.list = true → a.ety < 3 → d.ety < 3 → d.len = a.len →
      d.count ≠ 0 → (∀ i, i < b.count → (σ i).wharfIdx c b i = .ok (ρ i) (k i) ∧ k i < a.count ∧
        (ρ i).rowElems c true a (k i) = .ok (σ (i + 1)) (r i)) →
      (σ b.count).poolCount c b false = .ok s2 b.count →
      let sums := (List.range b.count).foldl (fun acc i => (acc.zip (r i)).map fun y => r32 (FV.add .rne y.1 (a.val y.2)))
        (List.replicate a.len (FV.zero false))
      let out := fun v => if mode = .mean ∧ b.count ≠ 0 then divCount v b.count else v
      s2.putAt c d 0 0 (elemBytes d.size (sums.map fun v => d.round (out v))) = .ok s3 () → ends (.pool x da db dc dd mode false false) s3) ∧
    -- every mode, padded lists too; SPLIT from WHPUSH is illegal, with no wait and no access (R317)
    (starts [dc] → fits ([(a, false), (b, false), (d, true)] ++ if mode = .weighted then [(g, false)] else []) → b.list = true →
      a.ety < 3 → d.ety < 3 → d.len = a.len → d.count ≠ 0 → (mode = .weighted → g.ety = 0 ∧ b.count ≤ g.elems) → ∀ n acc,
      (σ 0).poolRows c a b g (mode == .weighted) pad none b.count 0 (List.replicate a.len (.zero false)) = .ok s2 acc →
      s2.poolCount c b pad = .ok s3 n → s3.putAt c d 0 0 (poolRow d (mode == .mean) n acc) = .ok s4 () →
      ends (.pool x da db dc dd mode false pad) s4) ∧
    ((s.unit u).ring = e :: l → e.man = none → exec (.pool x da db dc dd mode true pad) s =
      .next (s.wharfFinish u e e.post (if (s.unit u).stop then 0x40 else 0x42) 0).wharfNext) ∧
    -- SPLIT in a manifest: a unit that does not lead hands its partial to the one that does
    (starts [dc] → fits ([(a, false), (b, false), (d, false)] ++ if mode = .weighted then [(g, false)] else []) → b.list = true →
      a.ety < 3 → d.ety < 3 → d.len = a.len → d.count ≠ 0 → (mode = .weighted → g.ety = 0 ∧ b.count ≤ g.elems) → ∀ id m acc,
      e.man = some id → (σ 0).man id = some m → m.unitSet.headD 0 ≠ u →
      (σ 0).poolRows c a b g (mode == .weighted) pad (some m.unitSet) b.count 0 (List.replicate a.len (.zero false)) = .ok s2 acc →
      ends (.pool x da db dc dd mode true pad) (s2.modUnit (m.unitSet.headD 0) fun y => { y with parts := y.parts ++
        [(partKey u (((σ 0).unit u).ring.filter fun f => f.man == e.man).length m.id,
          acc.map fun v => BitVec.ofNat 32 (FF.fp32.rne v), 0)] }))

/-- R45, R144, R344: the end of a berth's ck. In an unfrozen ck every hold and every FENCE in force counts down by one; the turn passes
on; a group that issued is journalled. R49, R130, R178: a remote load's answer lands in its register; an element reaches its stream;
MBOXREG is answered with a mailbox of a number not in use, or 0 when the device holds 4,096. Which number it is is the model's choice (log
entry 129). -/
def Obligations.EndOfTheCkAndAnswers : Prop :=
  (∀ (s : State) (b : Nat), s.subj.berth = b → s.agent = .release b → (s.berth b).shadow.want = false →
     let x := s.berth b
     let c := x.ctx
     ∃ t, exec .heldOpRelease s = .next t ∧ t = { s with berths := t.berths, agent := t.berthFrom (b + 1) } ∧
       (∀ k, k ≠ b → t.berth k = s.berth k) ∧
       (t.ctxAt b).open_ = false ∧ (t.ctxAt b).landed = false ∧ (t.ctxAt b).went = false ∧
       (t.ctxAt b).sregs = c.sregs ∧ (t.ctxAt b).spad = c.spad ∧ (t.ctxAt b).pc = c.pc ∧ (t.ctxAt b).flights = c.flights ∧
       (c.open_ = false → (t.ctxAt b).ops = c.ops ∧ (t.ctxAt b).fences = c.fences ∧ (t.ctxAt b).uck = c.uck) ∧
       -- what waits for every earlier store waits for those that a trap handler holds aside
       (c.open_ = true → let least := c.asideDue 7
         (t.ctxAt b).ops = c.ops.map (fun o => if c.parked o then o else
           { o with held := o.held - 1, rel := if o.rel = 0 then 0 else Nat.max (o.rel - 1) least }) ∧
         (t.ctxAt b).fences = (c.fences.map fun f => (Nat.max (f.1 - 1) least, f.2)).filter fun f => f.1 != 0) ∧
       (t.berth b).shadow.entries = x.shadow.entries + (if c.went && x.placed then 1 else 0)) ∧
  (∀ (s : State) (b : Nat), s.subj.berth = b →
     let x := s.berth b
     let c := x.ctx
     (∀ o w addr n d v m3, c.op s.subj.op = some o → o.kind = .rload w addr n → o.stage = .replied [v] →
       c.flights = [⟨0, .rload o.id (.sreg d) none, m3⟩] → exec .remoteLoadReturn s =
         .next (s.modCtxAt b fun c => { (c.setReg d v).dropOp o.id with flights := [] })) ∧
     (∀ k i e es l, (c.stream k).items = i :: l → i.elems = e :: es → i.fail = none → (c.stream k).arrived.length < 16 →
       ∃ t, exec (.streamElementArrive b k) s = .next t ∧ ((t.ctxAt b).stream k).arrived = (c.stream k).arrived ++ [e] ∧
         ((t.ctxAt b).stream k).items = trimItems ({ i with elems := es } :: l) ∧ (∀ j, j ≠ k → (t.ctxAt b).stream j = c.stream j) ∧
         (t.ctxAt b).ops = (if es = [] ∧ i.done = true then c.ops.filter fun o => o.id != i.op else c.ops)) ∧
     (∀ k, (c.stream k).arrived.length = 16 → exec (.streamElementArrive b k) s = .next s) ∧
     (∀ base n lg loc, c.mboxReq = some (base, n, lg, loc) → c.mboxAns = none → x.persistBusy = false →
       let ex := if loc then some c.self else none
       let id := s.freeMbox
       (∀ m ∈ s.mboxes, ¬(m.job = s.jobAt b ∧ m.local_ = ex ∧ m.base = base ∧ m.n = n ∧ m.log2s = lg)) →
       ∃ t, exec .mboxregAnswer s = .next t ∧ (t.ctxAt b).mboxAns = some (w64 id) ∧
         t.mboxes = (if id = 0 then s.mboxes else s.mboxes ++ [⟨id, s.jobAt b, base, n, lg, ex, [], none⟩]) ∧
         (id ≠ 0 → ∀ m ∈ s.mboxes, m.id ≠ id) ∧ (4096 ≤ s.mboxes.length → id = 0) ∧ (∀ k, k ≠ b → t.berth k = s.berth k)))

/-- R65: the first CRC failure of a wire group puts its spare in place and replays the burst; the replay ends; a second failure in the
group retires a berth (here one that holds nothing). R349, R382: a berth that has been frozen for PGDELAY by a form that gates is to be
gated. At its boundary its state is persisted, snapshot included, and it is gated; gated, none of its groups issues. It is in the same
place, at the same boundary, when it goes on. What of a held group's conditions the boundary leaves fulfilled is the model's choice (log
entry 123). -/
def Obligations.VerticalBusAndPlannedGates : Prop :=
  (∀ (s : State) (b group wire : Nat), s.subj.berth = b →
     let x := s.berth b
     -- the ck of a replay count down while the berth is frozen (R51); its end is the step after the last
     (x.replay = some 0 → exec .vbusReplayDone s = .next (s.modBerth b fun y => { y with replay := none })) ∧
     (x.replay ≠ some 0 → exec .vbusReplayDone s = .next s) ∧
     (x.retired = false → (∀ p ∈ x.spares, p.1 ≠ group) → ∃ t, exec (.vbusCrcFailure b group wire) s = .next t ∧
       t.berth b = { x with spares := x.spares ++ [(group, wire)], replay := some (x.replay.getD 0 + 6) } ∧ (∀ k, k ≠ b → t.berth k = s.berth k) ∧
       t.hbm = s.hbm ∧ t.regions = s.regions ∧ t.mans = s.mans ∧
       Tab.get 0 t.evSeq (srcBerth b) = (Tab.get 0 s.evSeq (srcBerth b) + 1) % 2 ^ 32) ∧
     (x.retired = false → (∃ w, (group, w) ∈ x.spares) → x.st = .idle → s.man x.ctx.team = none →
       ∃ t, exec (.vbusCrcFailure b group wire) s = .next t ∧ t.berth b = { x.free with retired := true } ∧
         (∀ k, k ≠ b → t.berth k = s.berth k) ∧ t.regions = s.regions) ∧
     (x.retired = true → exec (.vbusCrcFailure b group wire) s = .next s)) ∧
  (∀ (s : State) (b : Nat), s.subj.berth = b →
     let x := s.berth b
     let c := x.ctx
     let held := { c.abandonLoads with persisting := false, persisted := false }
     (x.st = .run → c.pilot = .run → bt s.pwrctl 63 = true → Nat.max 1 (bf s.pwrctl 32 16) * 1024 ≤ c.frozenFor →
       s.gateForm b = true → exec .powerGate s = .next (s.modBerth b fun y => { y with gate := true })) ∧
     (c.frozenFor < 1024 → exec .powerGate s = .next s) ∧
     (bt s.pwrctl 63 = false → exec .powerGate s = .next s) ∧
     (s.agent = .issue b → x.st = .run → s.throttled = false → c.pilot = .run → c.pending = none →
       (s.teamOf c).map Man.ended = some false → bt x.dbgctl 63 = false → x.stepping = none → x.bps = [] → x.preempt = false →
       x.gate = true → exec .groupIssue s = .next { s.setBerth b { x with
         st := .gated, gate := false, ctx := held
         shadow := { x.shadow with queue := x.shadow.queue ++ [(s.modCtxAt b fun _ => held).saved b] } } with
         agent := .land b, cur := b, woff := 0, skip := none }) ∧
     (s.agent = .issue b → x.st = .gated →
       exec .groupIssue s = .next { s with agent := .land b, cur := b, woff := 0, skip := none }) ∧
     (x.st = .gated → x.persistBusy = false → s.stillHeld b = false →
       exec .powerUngate s = .next (s.modBerth b fun y => { y with st := .run, ctx := { y.ctx.atBoundary with frozenFor := 0 } })) ∧
     (x.persistBusy = true → exec .powerUngate s = .next s))

/-- R149, R150, R344, R345: a persist writes the copy that is not committed and commits it; the 1,024th entry forces one. That a torn
persist counts as not made is the model's choice (log entry 81). -/
def Obligations.PersistsComplete : Prop :=
  ∀ (s : State) (b : Nat), s.subj.berth = b →
    let x := s.berth b
    let h := x.shadow
    (∀ v q, h.queue = v :: q → h.dirty v ≤ x.freeBlocks ∨ x.pool = [] → ∃ t, exec .persistComplete s = .next t ∧
      t = { s with berths := t.berths } ∧ (∀ k, k ≠ b → t.berth k = s.berth k) ∧
      let g := (t.berth b).shadow
      g.queue.length = q.length ∧ g.entries = h.entries - v.mark ∧
      (∃ r, g.pick = some (h.next, r) ∧ r.seq = h.seq + 1 ∧ r.ok = true ∧ r.saved.ctx = v.ctx ∧ r.saved.gang = v.gang) ∧
      (h.next = 0 → g.copyB = h.copyB) ∧ (h.next ≠ 0 → g.copyA = h.copyA) ∧
      (∀ o ∈ (t.ctxAt b).ops, (∃ p ∈ v.ctx.ops, p.id = o.id) → o.logged = true) ∧ (t.ctxAt b).spad = x.ctx.spad) ∧
    (h.queue = [] → exec .persistComplete s = .next s) ∧
    (1024 ≤ h.entries → x.persistBusy = false → exec .journalForcedPersist s =
      .next (s.modBerth b fun y => { y with shadow := { y.shadow with queue := [s.saved b] } })) ∧
    (h.entries < 1024 → exec .journalForcedPersist s = .next s)

/-- R140, R152, R213, R217, R239, R323, R177: what arrives at its home. σ is the state in which the berth of the operation is the running
one. An inbound copy or a fill of one piece in HBM takes its data, an IMLOAD too when its last word has the stop bit; an outbound copy
writes them, as it has read them; a refused token or a poisoned granule fails the operation. WHPUSH puts its words in the unit's ring,
LAUNCH enqueues its manifest, MBOXACK acknowledges. That a WHPUSH waits at a unit that is closed, and that single bytes are read ahead of
the rest, are the model's choices (log entries 119, 10); how a handler's other devices reach the origin is its own too (log entry 15). -/
def Obligations.ArrivalAtTheHome : Prop :=
  ∀ (s : State) (o : Op), s.subj.op = o.id → (s.ctxAt s.subj.berth).op o.id = some o → o.stage = .sent →
    let b := s.subj.berth
    let σ := { s with cur := b }
    let c := s.ctxAt b
    let job := s.jobAt b
    let ps := c.copyParties b (o.tag == stagingTag)
    -- one piece in HBM: the walk of its page, then the tokens of its region and of what the operation touches of its own export
    let reads := fun (acc : Acc) (segs : List (Nat × Nat)) (va n pa : Nat) (ch : Option Nat) (r : State × Option (Nat × Nat)) =>
      s.plan job (some acc) (segPieces segs) = .ok [(va, n, .hbm pa ch)] ∧
      (σ.healWalk job va).tokens ps (s.chkRange job none acc va n ++ s.ownChecks b o) = r
    let seen := fun (t : State) (va n pa : Nat) => ((t.healWalk job va).heal pa n).modCtxAt b fun c => c.hasRead o.id
    σ.ready o = true →
    let ends := fun t : State => exec .copyHomeArrival s = .next t
    -- a byte of an outbound copy's source may be read ahead of the rest (R140)
    (∀ r k, s.subj.item = k + 1 → o.kind = .copy r → r.out = true → r.q ≠ .zero → k < r.bytes → o.hasMoved k = false → ∃ t, ends t ∧
      ((t.ctxAt b).op o.id).map Op.moved = some (o.moved ++ [(k, Memory.get zeroByte c.spad (r.l + k))]) ∧
      ((t.ctxAt b).op o.id).map Op.stage = some .sent ∧ (t.ctxAt b).spad = c.spad ∧ t.hbm = s.hbm) ∧
    (s.subj.item = 0 →
    (∀ r va n pa ch s2 d, o.kind = .copy r → r.form = .cp → r.out = false → r.q ≠ .zero → n = r.bytes →
      reads .read (r.segments c) va n pa ch (s2, none) → (seen s2 va n pa).hbmRead pa n = some d →
      ends ((seen s2 va n pa).setStage b o.id (.passed d))) ∧
    (∀ r va n pa ch s2, o.kind = .copy r → r.form = .cp → r.out = false → r.q ≠ .zero → n = r.bytes →
      reads .read (r.segments c) va n pa ch (s2, none) → (seen s2 va n pa).hbmRead pa n = none →
      ends ((seen s2 va n pa).failOp b o 0x33 va)) ∧
    (∀ r va n pa ch s2 code a, o.kind = .copy r → r.form = .cp → r.out = false → r.q ≠ .zero →
      reads .read (r.segments c) va n pa ch (s2, some (code, a)) → ends (s2.failOp b o code a)) ∧
    (∀ t e n slot va pa ch s2 d, o.kind = .fill t e va n slot → reads .read [(va, n)] va n pa ch (s2, none) →
      (seen s2 va n pa).hbmRead pa n = some d → ends ((seen s2 va n pa).setStage b o.id (.passed d))) ∧
    (∀ va l n pa ch s2 d, o.kind = .imload va l n → reads .instr [(va, 8 * n)] va (8 * n) pa ch (s2, none) →
      (seen s2 va (8 * n) pa).hbmRead pa (8 * n) = some d →
      (2 ^ 63 ≤ leValue (d.drop (8 * n - 8)) → ends ((seen s2 va (8 * n) pa).setStage b o.id (.passed d))) ∧
      (leValue (d.drop (8 * n - 8)) < 2 ^ 63 → ends ((seen s2 va (8 * n) pa).failOp b o 0x02 (va + 8 * (n - 1))))) ∧
    (∀ r va n pa ch s2, o.kind = .copy r → r.form = .cp → r.out = true → r.q ≠ .zero → n = r.bytes → o.globalWrites c = [(va, n)] →
      reads .write [(va, n)] va n pa ch (s2, none) → let s3 := s2.modCtxAt b fun c => c.hasRead o.id
      s3.plan (s3.jobAt b) (some .write) (segPieces (o.globalWrites (s3.ctxAt b))) = .ok [(va, n, .hbm pa ch)] →
      ∃ t, ends t ∧ t.hbmRaw pa n = o.mixed (c.spadRead r.l n) ∧ ((t.ctxAt b).op o.id).map Op.stage = some (.replied []) ∧
        (∀ a, a < pa ∨ pa + n ≤ a → Memory.get t.hbmByte t.hbm a = Memory.get s2.hbmByte s2.hbm a)) ∧
    (∀ u l n, o.kind = .whpush u l n → s.unitOpen u = true → (s.unit u).room n = true → ∃ t, ends t ∧
      (t.unit u).ring = (s.unit u).ring ++ (bytesWords (8 * n) (o.mixed (c.spadRead l (8 * n)))).map (fun w => ⟨w, job, c.self, none, false, o.id⟩) ∧
      (∀ v, v ≠ u → t.unit v = s.unit v) ∧ (t.ctxAt b).op o.id = none ∧ (t.ctxAt b).spad = c.spad) ∧
    (∀ u l n, o.kind = .whpush u l n → s.unitOpen u = false ∨ (s.unit u).room n = false → ends σ) ∧
    (∀ q m s2, o.kind = .launch q m → σ.enqueue q m c.self = s2 → ∃ t, ends t ∧ (t.ctxAt b).op o.id = none ∧ t.lqs = s2.lqs ∧
      t.hbm = s2.hbm ∧ t.evtail = s2.evtail) ∧
    (∀ team id slot, o.kind = .mboxack → s.man c.team = some team → team.mbox = some (id, slot) → ∃ t, ends t ∧
      (t.man c.team).map Man.acked = some true ∧
      (team.origin = none → (t.ctxAt b).op o.id = none ∧
        t.mboxes = s.mboxes.map (fun m => if m.id = id then { m with pend := m.pend.filter (· != slot) } else m)) ∧
      -- the mailbox of a subcube handler's copy is the origin's, which is asked to
      (team.origin ≠ none → ((t.ctxAt b).op o.id).isSome = true ∧ t.mboxes = s.mboxes)))

/-- R140, R214, R217, R218, R239, R226: what completes at the berth. That a failed fill keeps the earliest failure of its way, and that
single bytes land ahead of the rest, are the model's choices (log entries 43, 10). -/
def Obligations.CopiesAndFillsComplete : Prop :=
  ∀ (s : State) (o : Op), s.subj.op = o.id → (s.ctxAt s.subj.berth).op o.id = some o →
    let b := s.subj.berth
    let c := s.ctxAt b
    let ops := c.ops.filter fun p => p.id != o.id
    -- the bytes that have landed before stay as they are (R140)
    let lands := fun (i : Instr) (l : Nat) (d : List Byte) => s.subj.item = 0 → ∃ t, exec i s = .next t ∧
      (t.ctxAt b).spadRead l d.length = o.landing (c.spadRead l d.length) d ∧
      (∀ a, a < l ∨ l + d.length ≤ a → Memory.get zeroByte (t.ctxAt b).spad a = Memory.get zeroByte c.spad a) ∧
      (t.ctxAt b).ops = ops ∧ (t.ctxAt b).sregs = c.sregs ∧ (t.ctxAt b).cfails = c.cfails ∧ t.hbm = s.hbm ∧ t.regions = s.regions
    -- a byte of an inbound copy may land ahead of the rest (R140)
    let early := fun (i : Instr) (l : Nat) (d : List Byte) => ∀ k v, s.subj.item = k + 1 → d[k]? = some v → o.hasMoved k = false → ∃ t,
      exec i s = .next t ∧ (∀ a, Memory.get zeroByte (t.ctxAt b).spad a = if a = l + k then v else Memory.get zeroByte c.spad a) ∧
      ((t.ctxAt b).op o.id).map Op.moved = some (o.moved ++ [(k, v)]) ∧ ((t.ctxAt b).op o.id).map Op.stage = some o.stage ∧ t.hbm = s.hbm
    let fails := fun (f : Fail) => ∃ t, exec .copyComplete s = .next t ∧ (t.ctxAt b).cfails = c.cfails ++ [f] ∧ (t.ctxAt b).ops = ops ∧
      (t.ctxAt b).spad = c.spad ∧ (∀ k, k ≠ b → t.berth k = s.berth k) ∧ t.hbm = s.hbm
    (∀ r d, o.kind = .copy r → o.stage = .passed d → o.route = .count → r.out = false → (r.q = .none ∨ r.q = .zero) →
      lands .copyComplete r.l d ∧ early .copyComplete r.l d) ∧
    (∀ r d q i, o.kind = .copy r → o.stage = .passed d → o.route = .ring q i → r.out = false → r.q = .publish → s.subj.item = 0 →
      ∃ t, exec .copyComplete s = .next t ∧ (t.ctxAt b).spadRead r.l d.length = o.landing (c.spadRead r.l d.length) d ∧ (((t.ctxAt b).ring q).slot i).st = .full ∧ (((t.ctxAt b).ring q).slot i).fail = none) ∧
    (∀ r, o.kind = .copy r → r.out = true → r.form = .cp → o.stage = .replied [] → o.route = .count → ∃ t, exec .copyComplete s = .next t ∧
      t.ctxAt b = { c with ops := ops } ∧ (∀ k, k ≠ b → t.berth k = s.berth k) ∧ t.hbm = s.hbm) ∧
    (∀ r f, o.kind = .copy r → r.form = .cp → o.stage = .failed f → o.route = .count → fails f) ∧
    (∀ va l n f, o.kind = .imload va l n → o.stage = .failed f → o.route = .count → fails f) ∧
    (∀ va l n d, o.kind = .imload va l n → o.stage = .passed d → o.route = .count → d.length = 8 * n → ∃ t, exec .copyComplete s = .next t ∧
      (∀ k w, k < n → leBytes 8 (w : W64).toNat = (d.drop (8 * k)).take 8 → Tab.get stopNop (t.berth b).im (l + k) = w) ∧
      (∀ k, k < l ∨ l + n ≤ k → Tab.get stopNop (t.berth b).im k = Tab.get stopNop (s.berth b).im k) ∧
      (t.berth b).codelen = Nat.max (s.berth b).codelen (l + n) ∧ (t.ctxAt b).ops = ops) ∧
    (∀ t e blk n l d, o.kind = .fill t e blk n l → o.stage = .passed d → lands .probeFillComplete l d ∧ early .probeFillComplete l d) ∧
    (∀ t e blk n l f, o.kind = .fill t e blk n l → o.stage = .failed f → (c.way t e).valid = true → o.id ∈ (c.way t e).fills →
      ∃ u, exec .probeFillComplete s = .next u ∧ ((u.ctxAt b).way t e).fail = earlier (c.way t e).fail f ∧ (u.ctxAt b).ops = ops ∧ (u.ctxAt b).spad = c.spad)

/-- R123: stores and loads through a window. Where the peer is on berth p of this device they go by the peer's tokens: a store writes each
of its bytes and no other, a load takes the bytes as they stand; a refusal fails the operation, and a peer that is away is waited for. To
another device they go out as requests, or fail where no way leads there. The reply gives the unit of the allowance back; a refusal is
raised at the next boundary. The model's choices: when a window is bound to its peer and what is known of one on another device (log
entries 51, 102), and how a request is laid out in a packet (log entry 13). R374, R375: the oldest UIO request of a copy's pool side
completes. The completion of the last request of a read gives the copy its bytes, which the pool then holds; that of a write gives the
pool the bytes sent, and the copy is performed at its other homes. A failed or poisoned completion fails the copy at its first byte, and
so does the time-out. The model's choices: one UIO address space behind the pool's ports (log entry 26), and when poison leaves a granule
of the pool (log entry 122). -/
def Obligations.WindowAndPoolTraffic : Prop :=
  (∀ (s : State) (o : Op) (k addr : Nat), s.subj.op = o.id → (s.ctxAt s.subj.berth).op o.id = some o →
     let b := s.subj.berth
     let σ := { s with cur := b }
     let c := s.ctxAt b
     let w := o.win
     let β := σ.bindWindow b o.winIndex w
     let may := o.stage = .sent ∧ σ.ready o = true
     let here := s.peer (s.jobAt b) w
     let there := s.farPeer (s.jobAt b) w
     let away := fun (t : Option (State × List (Nat × Nat × Nat))) => match t with
       | none => σ.failOp b o 0x34 addr
       | some (t, keys) => t.setStage b o.id (.remote keys [])
     (∀ n, o.kind = .rload k addr n → may →
       let ends := fun t : State => exec .remoteLoadArrive s = .next t
       (w.label = s.label →
         (∀ p q, here = .at_ p q → let r := β.tokens [(β.ctxAt b).self] (β.peerChecks p .read (w.at_ addr) n)
           ends (match r.2 with
             | none => r.1.setStage b o.id (.replied (bytesWords n ((r.1.ctxAt p).spadRead (w.at_ addr) n)))
             | some (code, _) => r.1.failOp b o code addr)) ∧
         (∀ code, here = .refused code → ends (β.failOp b o code addr)) ∧ (here = .wait → ends β)) ∧
       (w.label ≠ s.label →
         (∀ p q, there = .at_ p q → ends (away (β.askWindow b o.id w 1 [] 0 [(w.at_ addr, n)]))) ∧
         (∀ code, there = .refused code → ends (β.failOp b o code addr)) ∧ (there = .wait → ends σ))) ∧
     (∀ l, o.kind = .wstore k addr l → may →
       let ends := fun t : State => exec .windowStoreArrive s = .next t
       let lo := (l.headD (addr, 0)).1
       let n := if l = [] then 0 else (l.getLastD (lo, 0)).1 + 1 - lo
       (w.label = s.label →
         (∀ p q, here = .at_ p q → let r := β.tokens [(β.ctxAt b).self] (β.peerChecks p .write (w.at_ lo) n)
           (∀ code x, r.2 = some (code, x) → ends (r.1.failOp b o code addr)) ∧
           (r.2 = none → (l.map fun x => w.at_ x.1).Nodup → ∃ t, ends t ∧ t.hbm = r.1.hbm ∧
             (∀ x ∈ l, Memory.get zeroByte (t.ctxAt p).spad (w.at_ x.1) = x.2) ∧
             (∀ a, a ∉ l.map (fun x => w.at_ x.1) → Memory.get zeroByte (t.ctxAt p).spad a = Memory.get zeroByte (r.1.ctxAt p).spad a) ∧
             ((t.ctxAt b).op o.id).map Op.stage = some (.replied []))) ∧
         (∀ code, here = .refused code → ends (β.failOp b o code addr)) ∧ (here = .wait → ends β)) ∧
       (w.label ≠ s.label →
         (∀ p q, there = .at_ p q → ends (away (β.askWindow b o.id w 0 (l.map Prod.snd) 0
           (if l = [] then [(w.at_ addr, 0)] else cellRuns (l.map fun x => w.at_ x.1))))) ∧
         (∀ code, there = .refused code → ends (β.failOp b o code addr)) ∧ (there = .wait → ends σ))) ∧
     (∀ l, o.kind = .wstore k addr l →
       let back := { c.dropOp o.id with windows := Tab.upd Window.none c.windows k fun x => { x with out := x.out - 1 } }
       (∀ ws, o.stage = .replied ws → exec .windowReplyReturn s = .next (σ.modCtxAt b fun _ => back)) ∧
       (∀ f, o.stage = .failed f → exec .windowReplyReturn s = .next (σ.modCtxAt b fun _ => { back with refusals := c.refusals ++ [f] })))) ∧
  (∀ (s : State) (b : Nat) (o : Op) (r : CopyReq) (k va n pa : Nat) (m : List Host.Cell) (d : List Byte),
     (s.ctxAt b).op o.id = some o → o.kind = .copy r → r.form = .cp → o.errs = [] → isUio k = true → isAsk k = false →
      o.stage = .remote [(k, 0, n)] m →
     n = r.bytes → s.translate (s.jobAt b) va none = .ok (.pool pa) →
     let a := s.uioAddr pa
     let pooled := fun l : List Byte => { s with
       pool := Memory.write zeroByte s.pool a l
       poolPoison := s.poolPoison.filter fun g => !decide (a ≤ 64 * g ∧ 64 * g + 64 ≤ a + l.length) }
     let failed := fun code => (s.modCtxAt b fun c => c.modOp o.id fun o => { o with errs := [(va, 0, code)] }).failOp b o code va
     let read := r.out = false ∧ o.source (s.ctxAt b) = some ([(va, n)], .read) ∧ isWrite k = false
     let write := r.out = true ∧ o.globalWrites (s.ctxAt b) = [(va, n)] ∧ isWrite k = true
     (read → d.length = n → exec (.uioCompletion b o.id d false true) s = .next ((pooled d).setStage b o.id (.passed d))) ∧
     (write → exec (.uioCompletion b o.id d false true) s = .next ((pooled (Memory.read zeroByte m 0 n)).putRest b o
       (Memory.read zeroByte m 0 n))) ∧
     (read ∨ write → exec (.uioCompletion b o.id d true true) s = .next (failed 0x33) ∧
       exec (.uioCompletion b o.id d false false) s = .next (failed 0x34) ∧
       (s.subj.berth = b → s.subj.op = o.id → exec .uioCompletionTimeout s =
          .next (if o.uioAt + 1048576 ≤ s.time then failed 0x34 else s))))

/-- R229, R233, R236, R237: atomics, semaphore polls and token forms at homes on this device; a token form that is refused is raised at
the next boundary. The model's choices: a token form that is refused has dropped the caller's entries at its issue (log entry 33), and its
outcome holds back later copies that ask several homes (49). -/
def Obligations.AtomicsPollsAndTokens : Prop :=
  ∀ (s : State) (o : Op), s.subj.op = o.id → (s.ctxAt s.subj.berth).op o.id = some o →
    let b := s.subj.berth
    let σ := { s with cur := b }
    let c := s.ctxAt b
    let job := s.jobAt b
    let ps := c.copyParties b
    let here := fun va => o.stage = .sent ∧ σ.ready o = true ∧ s.homeOf job va = s.label
    (∀ r s2 pa old x, o.kind = .atom r → here r.va → r.op ≠ .read → o.route = .stream x →
      σ.atomPlace ps job r.va (atomBytes r.w64) false = (s2, .ok (pa, old)) →
      ∃ t, exec .atomicApply s = .next t ∧ t.hbmRaw pa (atomBytes r.w64) = leBytes (atomBytes r.w64) (atomNew r.op r.w64 old r.b r.c).toNat ∧
        (t.ctxAt b).op o.id = none ∧ (t.ctxAt b).spad = (s2.ctxAt b).spad) ∧
    (∀ r s2 pa old, o.kind = .atom r → here r.va → r.op = .read → σ.atomPlace ps job r.va (atomBytes r.w64) true = (s2, .ok (pa, old)) →
      exec .atomicApply s = .next (s2.atomDone b o (.ok old) r.va)) ∧
    (∀ r s2 e, (o.kind = .atomnr r) → here r.va → r.op ≠ .read → o.route = .count → σ.atomPlace ps job r.va (atomBytes r.w64) false = (s2, .error e) →
      ∃ t, exec .atomicApply s = .next t ∧ (t.ctxAt b).nfails = (s2.ctxAt b).nfails ++ [⟨e, w64 r.va, 0, o.id⟩] ∧ t.hbm = s2.hbm) ∧
    (∀ va inc s2 pa old, o.kind = .sempost va inc → here va → o.route = .count → σ.atomPlace ps job va 8 false = (s2, .ok (pa, old)) →
      ∃ t, exec .atomicApply s = .next t ∧
        t.hbmRaw pa 8 = leBytes 8 ((bf old 0 63 + inc) % 2 ^ 63 + (if bt old 63 = true then 2 ^ 63 else 0)) ∧ (t.ctxAt b).nfails = (s2.ctxAt b).nfails) ∧
    (∀ r s2 pa w, o.kind = .semwait r → here r.va → σ.atomPlace ps job r.va 8 (!r.sub) = (s2, .ok (pa, w)) →
      (bt w 63 = true → exec .semaphorePoll s = .next (s2.failOp b o 0x41 r.va)) ∧
      (bt w 63 = false → r.sub = false → semHolds r.cond (bf w 0 63) r.t = true → exec .semaphorePoll s = .next (s2.setStage b o.id (.replied []))) ∧
      -- SUB takes the target from COUNT where the wait is satisfied
      (bt w 63 = false → r.sub = true → r.cond = .geu → r.t ≤ bf w 0 63 → ∃ t, exec .semaphorePoll s = .next t ∧
        t.hbmRaw pa 8 = leBytes 8 (w.toNat - r.t) ∧ ((t.ctxAt b).op o.id).map Op.stage = some (.replied [])) ∧
      (bt w 63 = false → semHolds r.cond (bf w 0 63) r.t = false → (r.sub = false ∨ r.cond = .geu) →
        exec .semaphorePoll s = .next (s2.setStage b o.id .sent))) ∧
    (∀ r l s2, o.kind = .token r → o.stage = .sent → σ.ready o = true → r.sp = false → s.translate job r.g.toNat none = .ok l →
      (∀ k, l ≠ .peer k) → o.route = .count → (r.form = .share → r.targets ≠ []) →
      (∀ es, σ.tokenHome c.self job none r.g.toNat r.form (r.targets.map s.party) = (s2, .ok es) →
        exec .tokenFormAtHome s = .next ((s2.keep b o (.done es)).modCtxAt b fun c => c.dropOp o.id)) ∧
      (∀ e, σ.tokenHome c.self job none r.g.toNat r.form (r.targets.map s.party) = (s2, .error e) →
        exec .tokenFormAtHome s = .next ((s2.keep b o (.failed ⟨e, r.g, 0, o.id⟩)).setStage b o.id (.failed ⟨e, r.g, 0, o.id⟩)))) ∧
    -- a grant to no party reaches none (log entry 96)
    (∀ r, o.kind = .token r → o.stage = .sent → σ.ready o = true → o.route = .count → r.form = .share → r.targets = [] →
      exec .tokenFormAtHome s = .next ((σ.keep b o (.done [])).modCtxAt b fun c => c.dropOp o.id)) ∧
    (∀ r f, o.kind = .token r → o.stage = .failed f →
      exec .tokenRefusalReturn s = .next (σ.modCtxAt b fun c => { c.dropOp o.id with refusals := c.refusals ++ [f] }))

/-- R14, R15: the doorbell and the control register of a launch queue. That HEAD moves to TAIL when EN is cleared is the model's choice
(log entry 53). R8-R10, R15, R17, R29: a manifest is taken from the head of its queue and judged, once the homes of its addresses on other
devices have answered (how they are asked is the model's choice, log entry 103); a rejected one gets STATE 4 with its code, an event, and
its POST where it could be read; an accepted one STATE 1 and its place in queue order, or the place of its mailbox's template. It is
eligible when every wait holds, and gains priority, up to 15, with each 2 ms of its eligible time. That a wait homed elsewhere counts from
the answer that first found it to hold is the model's choice (log entry 112). -/
def Obligations.LaunchQueuesAndManifests : Prop :=
  (∀ (s : State) (q v : Nat),
     let x := s.lq q
     let w := w64 v
     let en := bt x.ctl 63 = true
     let set := fun y : LQ => { s with lqs := Tab.set LQ.reset s.lqs q y }
     (¬en → exec (.lqtailDoorbell q v) s = .next s) ∧
     (en → (v % 2 ^ 32 + 2 ^ 32 - x.head) % 2 ^ 32 ≤ x.slots → exec (.lqtailDoorbell q v) s = .next (set { x with tail := v % 2 ^ 32 })) ∧
     (en → x.slots < (v % 2 ^ 32 + 2 ^ 32 - x.head) % 2 ^ 32 → exec (.lqtailDoorbell q v) s = .next (s.queueEvent q v)) ∧
     (en → bt w 63 = true → exec (.lqctlWrite q v) s = .next s) ∧
     (en → bt w 63 = false → ∃ t, exec (.lqctlWrite q v) s = .next t ∧ bt (t.lq q).ctl 63 = false ∧ (t.lq q).head = x.tail ∧
       (t.lq q).tail = x.tail ∧ (t.lq q).base = x.base ∧ (∀ k, k ≠ q → t.lq k = s.lq k) ∧ t.mans = s.mans) ∧
     (¬en → bt w 63 = true → 4 ≤ bf w 16 5 → bf w 16 5 ≤ 16 → ∃ t, exec (.lqctlWrite q v) s = .next t ∧
       bt (t.lq q).ctl 63 = true ∧ (t.lq q).slots = 2 ^ bf w 16 5 ∧ (t.lq q).job = bf w 32 6 ∧ (t.lq q).head = 0 ∧ (t.lq q).tail = 0 ∧
       (t.lq q).base = x.base ∧ (∀ k, k ≠ q → t.lq k = s.lq k)) ∧
     (¬en → (bf w 16 5 < 4 ∨ 16 < bf w 16 5) → ∃ t, exec (.lqctlWrite q v) s = .next t ∧ bt (t.lq q).ctl 63 = false ∧ (t.lq q).head = x.head)) ∧
  (∀ (s : State) (raw : List Byte),
     let q := s.subj.item
     let x := s.lq q
     let va := x.slotVa x.head
     let by_ := Tab.get .host x.by_ x.head
     let made := fun r : List Byte => { newMan s.nextId r q x.job va by_ with accepted := s.time, seen := x.seen }
     let m := made raw
     let head := s.modLq q fun x => { x with head := (x.head + 1) % 2 ^ 32, by_ := Tab.erase x.by_ x.head, seen := [] }
     let taken := head.healTables m
     let code := taken.rejectCode m
     let asked := ∀ a ∈ s.farNames m, ∃ y ∈ x.seen, y.addr = a
     let answered := ∀ y ∈ x.seen, y.code.isSome = true
     let rejected := fun (t : State) (m : Man) (code : Nat) => (t.status m 4 code).event 0x1000 0x81 (some x.job) (w64 (va % 2 ^ 57 + code * 2 ^ 57))
     let accepted := fun m : Man => ({ taken with nextId := s.nextId + 1, mans := enlist m taken.mans }).status m 1 0
     let template := m.kind = 1 ∧ m.mailbox ≠ 0
     (bt x.ctl 63 = true → x.used ≠ 0 →
       (s.hmRead x.job va 256 = .ok raw →
         (¬asked → exec .manifestValidate s = .next (s.askHomes q m (s.farNames m))) ∧
         (asked → ¬answered → exec .manifestValidate s = .next s) ∧
         (asked → answered → s.statusHeld m = none →
           (code ≠ 0 → exec .manifestValidate s = .next ((rejected taken m code).post m)) ∧
           (code = 0 → ¬template → exec .manifestValidate s = .next (accepted { m with eprio := m.prio })) ∧
           (code = 0 → template →
             let t := accepted { m with eprio := m.prio, st := .template }
             exec .manifestValidate s = .next { t with mboxes := t.mboxes.map fun b : Mailbox =>
               if b.id = m.mailbox ∧ b.job = m.job then { b with template := some m.id } else b }))) ∧
       (∀ e, s.hmRead x.job va 256 = .error e → answered → s.statusHeld (made []) = none →
         exec .manifestValidate s = .next (rejected head (made []) 12))) ∧
     (x.used = 0 → exec .manifestValidate s = .next s) ∧
     (∀ k, s.man q = some k → k.st = .waiting →
       let holds := ∀ i w, i < k.nwait → k.waits[i]? = some w →
         if s.homeOf k.job w.1 = s.label then s.waitHolds k w = true else i ∈ k.waitsOk
       (holds → exec .manifestEligible s = .next (s.modMan k.id fun y => { y with st := .eligible, since := s.time })) ∧
       (¬holds → exec .manifestEligible s = .next (s.pollWaits k))) ∧
     (∀ k, s.man q = some k → exec .manifestAge s = .next (s.modMan k.id fun y =>
       let n := y.eligTime s.time / 3200000
       { y with ages := Nat.max y.ages n, eprio := Nat.min 15 (y.eprio + (n - y.ages)) })))

/-- R17, R18, R19: a team, the only manifest in choice, is placed on the lowest free instance in service; a team that cannot be placed
reserves an instance. The model's choices: how long a reservation lasts and which of several chooses first (log entry 104), what takes
part in a team placed in this ck (96), and what becomes of a WHARF manifest whose stream cannot be read (127). R22-R25: a placed team of
one berth with no staging and no token table starts: STATE 2, its code in instruction memory; then its berth-thread runs at ENTRY, with
ARGS in s2 and its mailbox slot in s1, and every other register 0. The event of a start that fails is the model's choice (log entry 106).
-/
def Obligations.TeamsPlacedAndStarted : Prop :=
  (∀ (s : State) (m : Man), s.level = 2 → s.raising = false → s.mans = [m] → m.st = .eligible → m.kind = 1 → m.origin = none →
     (∀ b, m.top ≤ 7 → s.baseFor m = some b → ∃ t, exec .manifestPlace s = .next t ∧
       (∃ k, t.mans = [k] ∧ k.id = m.id ∧ k.st = .placed ∧ k.base = b ∧ k.rank0 = 0 ∧ k.raw = m.raw) ∧
       (∀ k, b ≤ k → k < b + m.aligned → (t.berth k).st = .starting) ∧
       (∀ k, k < b ∨ b + m.aligned ≤ k → t.berth k = s.berth k) ∧ t.reserve = [] ∧ t.hbm = s.hbm) ∧
     (s.baseFor m = none → exec .manifestPlace s = .next { s with
       mans := [m.aged s.time]
       reserve := match s.bestInstance m (fun _ => false) with | some b => [(m.id, b)] | none => [] }) ∧
     (∀ s', s' = { s with raising := true } → exec .manifestPlace s' = .next s')) ∧
  (∀ (s : State) (m : Man) (ws : List W64), s.man s.subj.item = some m → m.kind = 1 → m.top = 0 →
     let b := m.base
     (m.st = .placed → (s.berth b).st = .starting → m.begun = false → m.awaits = [] → m.nstage = 0 → m.ntoken = 0 → m.refusal = none →
       s.statusHeld m = none → ((s.healStart m).status m 2 0).codeWords m = .ok ws →
       ∃ t, exec .teamStart s = .next t ∧ (t.man m.id).map Man.st = some .starting ∧ (t.berth b).codelen = m.codelen ∧
         (∀ i, i < ws.length → Tab.get stopNop (t.berth b).im i = ws[i]!) ∧ (∀ i, ws.length ≤ i → Tab.get stopNop (t.berth b).im i = stopNop) ∧
         t.ctxAt b = { Ctx.start with team := m.id, rank := m.rank0 } ∧ (∀ k, k ≠ b → t.berth k = s.berth k)) ∧
     (m.st = .starting → m.start = none → m.owed = false → (s.ctxAt b) = { Ctx.start with team := m.id, rank := m.rank0 } →
       ∃ t, exec .berthThreadStart s = .next t ∧ (t.man m.id).map Man.st = some .running ∧ (t.berth b).st = .run ∧
         (t.ctxAt b).pc = m.entry ∧ (t.ctxAt b).reg 2 = w64 m.args ∧ (t.ctxAt b).reg 1 = w64 ((m.mbox.map Prod.snd).getD 0) ∧
         (∀ r, r ≠ 1 → r ≠ 2 → (t.ctxAt b).reg r = 0) ∧ (t.ctxAt b).spad = [] ∧
         (t.berth b).im = (s.berth b).im ∧ (∃ c, (t.berth b).shadow.pick = some (0, c) ∧ c.saved.ctx = t.ctxAt b) ∧
         (∀ k, k ≠ b → t.berth k = s.berth k)) ∧
     -- a fault at the start ends the team (R22)
     (∀ code, m.st = .placed → (s.berth b).st = .starting → m.begun = true → m.awaits = [] → m.ntoken = 0 → m.refusal = some code →
       s.statusHeld m = none → exec .teamStart s = .next (s.failStart m code)))

/-- R29-R31, R137, R301: a team whose budget is used ends with WATCHDOG (SOURCE and DATA of its event are the model's choice, log entry
106). One whose berth-threads have all exited retires: first its regions return to their lend origins and its shares are dropped, here
and, as they answer, on the other devices (how those are told is the model's choice, log entry 23; so is what becomes of a region that
R137 gives no receiver, log entry 128); its berths are free; then STATUS is written, then POST is posted. A handler template takes STATE 3
once its mailbox has another or is gone, and its last copy has retired. A WHARF manifest retires when its units are done. -/
def Obligations.TeamsEnd : Prop :=
  ∀ (s : State) (m : Man), s.man s.subj.item = some m →
    let spent := s.endTeam m.id 0x62
    let mine := ofTeam m.id
    let freed := fun t : State =>
      (∀ b ∈ m.held, (s.ctxAt b).team = m.id → (s.berth b).placed = true → (s.berth b).retired = false →
        (∀ i ∈ (s.berth b).pool, i.ctx.team ≠ m.id) → (t.berth b).st = .idle ∧ (t.berth b).im = [] ∧ (t.berth b).ctx = Ctx.start) ∧
      (∀ e ∈ t.codeStore, e.1 ≠ m.id) ∧ (∀ i ∈ t.dock, i.ctx.team ≠ m.id)
    -- every region that the team has a part in goes to the lowest entry of its stack that is not of the team
    let returned := fun t : State => ∃ f : Region → Region, t.regions = s.regions.map f ∧ ∀ r ∈ s.regions,
      (f r).job = r.job ∧ (f r).exporter = r.exporter ∧ (f r).base = r.base ∧ (f r).log2 = r.log2 ∧
      (f r).shares = r.shares.filter (fun x => !mine x.1) ∧
      (∀ above p below, r.st ≠ .quarantined → (mine r.owner = true ∨ ∃ q ∈ r.stack, mine q = true) → r.stack = above ++ p :: below →
        mine p = false → (∀ q ∈ below, mine q = true) → (f r).owner = p ∧ (f r).stack = below) ∧
      (mine r.owner = false → (∀ q ∈ r.stack, mine q = false) → (f r).owner = r.owner ∧ (f r).stack = r.stack)
    -- STATUS, then POST, then the team is gone
    let ends := fun σ t : State => t = ((σ.status m (if m.code = 0 then 3 else 5) m.code).post m).modMan m.id (fun y => { y with st := .retired }) ∧
      (t.man m.id).map Man.st = some .retired
    ((m.st = .running ∨ m.st = .preempting) → m.ended = false → s.budgetOf m ≤ m.used →
      exec .budgetExpiry s = .next (if m.mbox = none then spent.event 0x1000 0x62 (some m.job) (w64 m.slotVa) else spent)) ∧
    (m.used < s.budgetOf m → exec .budgetExpiry s = .next s) ∧
    (m.kind = 1 → m.top ≤ 7 → m.origin = none → m.mbox = none → s.statusHeld m = none → s.goneOpen m = false →
      (m.closing = false → (m.st = .running ∨ m.st = .preempting) → m.allExited = true →
        (s.others = [] → ∃ σ t, exec .teamRetire s = .next t ∧ ends σ t ∧ returned σ ∧ freed σ ∧ freed t ∧ σ.hbm = s.hbm) ∧
        (s.ndim ≤ 10 → (∃ l ∈ s.others, (s.route l).isSome = true) → ∃ t, exec .teamRetire s = .next t ∧ returned t ∧
          (t.man m.id).map Man.st = some .retiring ∧ (t.man m.id).map Man.closing = some true ∧ t.goneOpen m = true ∧
          t.hbm = s.hbm ∧ t.berths = s.berths)) ∧
      (m.closing = true → m.st = .retiring → m.awaits = [] → ∃ σ t, exec .teamRetire s = .next t ∧ ends σ t ∧ freed σ ∧ freed t ∧
        σ.regions = s.regions ∧ σ.hbm = s.hbm)) ∧
    (m.kind = 1 → m.st ≠ .template → m.closing = true → (m.awaits ≠ [] ∨ s.goneOpen m = true) → exec .teamRetire s = .next s) ∧
    (m.kind = 1 → m.st ≠ .template → m.closing = false → m.allExited = false → exec .teamRetire s = .next s) ∧
    (m.kind = 1 → m.st = .template → (∃ b ∈ s.mboxes, b.template = some m.id) ∨ (∃ c ∈ s.mans, c.tmpl = some m.id ∧ c.st ≠ .retired) →
      exec .teamRetire s = .next s) ∧
    (m.kind = 1 → m.st = .template → (∀ b ∈ s.mboxes, b.template ≠ some m.id) → (∀ c ∈ s.mans, c.tmpl = some m.id → c.st = .retired) →
      s.statusHeld m = none → exec .teamRetire s = .next ((s.status m 3 0).modMan m.id fun y => { y with st := .retired })) ∧
    (m.kind = 2 → m.st = .running → m.units = [] → m.wcode = [] → s.statusHeld m = none → exec .wharfStreamDone s = .next
      (((s.status m 3 0).post m).modMan m.id fun y => { y with st := .retired, code := 0 })) ∧
    (m.kind = 2 → m.units ≠ [] → exec .wharfStreamDone s = .next s)

/-- R20, R339-R341, R361: pre-emption takes every team of lower effective priority whose images have room off the reserved instance, on
all its berths: they drain, spill into their pools and become idle; with a grace window the team's berths go on until it is over; when the
team is placed again they are filled. The model's choices: what an image counts for in the dock store (log entry 64), and that a
berth-thread that was halted is halted again when it is back (log entry 83). R26-R28, R34: a barrier of one device completes, at the start
of a ck, when its members have all arrived and it is not LOST, and one of several devices moves along its tree; a pending slot of a
mailbox makes one copy of its handler template. That a subcube barrier is LOST where no route reaches a child or the parent is the model's
choice (log entry 74). -/
def Obligations.PreemptionAndBarriers : Prop :=
  (∀ (s : State) (b : Nat) (m : Man), s.subj.berth = b →
     let x := s.berth b
     let c := x.ctx
     (∀ p base, s.reserve = [(p.id, base)] → p ∈ s.mans → (s.mans.map Man.id).Nodup →
       let victim := fun m : Man => m.kind = 1 ∧ m.st = .running ∧ (m.aged s.time).eprio < (p.aged s.time).eprio ∧
         (∃ k ∈ m.held, k ∈ p.berths base) ∧ ({ s with mans := s.mans.map fun y : Man => y.aged s.time }).spillRoom (m.aged s.time) = true
       let atOnce := fun m : Man => bf (Tab.get 0 s.jobsched m.job) 40 24 = 0
       ∃ t, exec .preempt s = .next t ∧ t.hbm = s.hbm ∧ t.regions = s.regions ∧
         (∀ y ∈ s.mans, victim y → ∃ z, t.man y.id = some z ∧ z.st = .preempting ∧
           (atOnce y → ∀ k ∈ y.held, t.berth k = (s.berth k).preemptNow) ∧ (¬atOnce y → z.grace = some 0)) ∧
         (∀ k, (∀ y ∈ s.mans, victim y → atOnce y → k ∉ y.held) → t.berth k = s.berth k) ∧
         (∀ y ∈ s.mans, ¬victim y → t.man y.id = some (y.aged s.time))) ∧
     (s.reserve = [] → exec .preempt s = .next { s with mans := s.mans.map fun m => m.aged s.time }) ∧
     (∀ n, s.man s.subj.item = some m → m.grace = some n →
       (n < bf (Tab.get 0 s.jobsched m.job) 40 24 * 1024 ∨ s.spillRoom m = false → exec .graceExpiry s = .next s) ∧
       (bf (Tab.get 0 s.jobsched m.job) 40 24 * 1024 ≤ n → s.spillRoom m = true → ∃ t, exec .graceExpiry s = .next t ∧
         (∀ k ∈ m.held, t.berth k = (s.berth k).preemptNow) ∧ (∀ k, k ∉ m.held → t.berth k = s.berth k) ∧
         (t.man m.id).map Man.grace = some none ∧ t.hbm = s.hbm)) ∧
     (x.st = .draining → s.drainDone b = true → exec .preemptDrainDone s = .next (s.modBerth b fun y => { y with st := .spilling })) ∧
     (x.st ≠ .draining ∨ s.drainDone b = false → exec .preemptDrainDone s = .next s) ∧
     (x.st = .spilling → x.pool.length < 3 → c.blocks ≤ x.freeBlocks → (∀ y ∈ s.berths, y.1 ≠ b → y.2.st = .run → (s.followers y.1).contains b = false) →
       s.man c.team = some m → ∃ t, exec .spillDone s = .next t ∧
         (∃ i, (t.berth b).pool = x.pool ++ [i] ∧ i.ctx = c ∧ i.seq = x.shadow.seq + 1 ∧ i.berth = b ∧ i.skip = x.bpSkip ∧
           i.halted = if x.wasHalted then some x.reason else none) ∧
         (t.berth b).st = .idle ∧ (t.berth b).im = [] ∧ (∀ k, k ≠ b → t.berth k = s.berth k)) ∧
     (3 ≤ x.pool.length ∨ x.freeBlocks < c.blocks → exec .spillDone s = .next s) ∧
     (∀ i l, x.pool = i :: l → x.needsRoom = true → s.carveUsed + 2 ^ 21 ≤ s.carveBytes → ∃ t, exec .imageEvict s = .next t ∧
       (t.berth b).pool = l ∧ t.dock = s.dock ++ [i] ∧ (∀ k, k ≠ b → t.berth k = s.berth k)) ∧
     (x.needsRoom = false ∨ s.carveBytes < s.carveUsed + 2 ^ 21 → exec .imageEvict s = .next s) ∧
     (∀ i im n, s.mans = [m] → m.st = .placed → m.kind = 1 → m.top = 0 → m.failed = [] → m.owed = false → m.base = b → x.st = .filling → s.findImage m.id m.rank0 = some i →
       (∀ e ∈ s.berths, ∀ k ∈ e.2.pool, k.order ≠ i.order) → s.dock = [i] → (s.codeStore.find? fun e => e.1 == m.id && e.2.1 == m.rank0) = some (m.id, m.rank0, im, n) →
       -- what it names of its own berth follows it
       let c' := i.ctx.rebase fun k => k + b - i.berth
       ∃ t, exec .fillDone s = .next t ∧ (t.berth b).ctx = c' ∧ (t.berth b).im = im ∧ (t.berth b).codelen = n ∧ (t.berth b).bpSkip = i.skip ∧
         t.dock = [] ∧ (∃ r, (t.berth b).shadow.pick = some (0, r) ∧ r.saved.ctx = c' ∧ r.seq = i.seq + 1))) ∧
  (∀ (s : State) (t l inst : Nat) (m : Man),
     let done := fun (m : Man) (x : Barrier) =>
       if x.level = l ∧ x.inst = inst ∧ m.localDone x = true ∧ x.lost = false then { x with done := true } else x
     (s.man t = some m → m.wide l = false →
       (s.ckStart = true → exec (.barrierComplete t l inst) s = .next (s.modMan t fun m => { m with barriers := m.barriers.map (done m) })) ∧
       (s.ckStart = false → exec (.barrierComplete t l inst) s = .next s)) ∧
     (s.man t = some m → m.wide l = true → exec (.barrierComplete t l inst) s =
       .next (((m.barriers.filter fun x => x.level == l && x.inst == inst).foldl (fun s x => s.barrierMove t x) s).levelMove m l)) ∧
     (s.man t = none → exec (.barrierComplete t l inst) s = .next s) ∧
     (∀ x h id slot, (s.mboxes.find? fun y => y.id == id) = some x → x.template = some h → s.man h = some m → slot ∈ x.pend →
       ((∀ k ∈ s.mans, k.mbox = some (id, slot) → k.origin = none → k.st = .retired) → ∃ u k, exec (.mailboxHandlerEnter id slot) s = .next u ∧
         u = { s with nextId := s.nextId + 1, mans := enlist k s.mans } ∧ k.id = s.nextId ∧ k.raw = m.raw ∧ k.st = .waiting ∧
         k.mbox = some (id, slot) ∧ k.writes = false ∧ k.eprio = m.prio ∧ k.accepted = s.time) ∧
       ((∃ k ∈ s.mans, k.mbox = some (id, slot) ∧ k.origin = none ∧ k.st ≠ .retired) → exec (.mailboxHandlerEnter id slot) s = .next s)))

/-- R265-R270, R275: the registers and the links of the fabric. While FABCTL.EN is 1 a write can only clear EN; PORTMAP must name ports
that exist, each once; a frame is taken when its decoded columns meet its CRC and its sequence number fits, and asked for again when they
do not; a retry request sends the frame and those after it again; a lane that fails is left out; a port goes down at the ninth retry of a
frame; a request that is unanswered 2^20 ck after it was sent is refused; a link's timestamps slew the counter towards the master's. The
first root of the column code is free, and the layout of a timestamp is the model's (log entries 117, 121). The model's choices also: at
which retry a port goes down, and that it stays down (log entries 71, 73), and that the frames after the one asked for are sent again (log
entry 72). -/
def Obligations.FabricRegistersAndLinks : Prop :=
  ∀ (s : State) (v p lane seq n : Nat) (f : Frame),
    let w := w64 v
    let en := bt s.fabctl 63 = true
    let x := s.port p
    let quiet := ∀ e ∈ s.ports, e.2.outq = []
    let maps := mapPorts w.toNat
    let up := s.portUp p = true
    let got := flitOf x.dataLanes (f.cols.map fun c => (rsDecode x.gap c).1)
    let clean := ∀ c ∈ f.cols, (rsDecode x.gap c).2 = none
    (en → bt w 63 = true → exec (.fabctlWrite v) s = .next s) ∧
    (en → bt w 63 = false → quiet → ∃ t, exec (.fabctlWrite v) s = .next t ∧ bt t.fabctl 63 = false ∧ t.label = s.label ∧ t.ndim = s.ndim ∧
      t.reqs = s.reqs ∧ t.hbm = s.hbm ∧ bf t.svc 12 11 = 0) ∧
    (¬en → ∃ t, exec (.fabctlWrite v) s = .next t ∧ t.label = bf w 0 10 ∧ t.ndim = bf w 16 4 ∧
      (bt t.fabctl 63 = true ↔ bt w 63 = true ∧ bf w 16 4 ≤ 10) ∧ t.reqs = s.reqs ∧ t.ports = s.ports) ∧
    ((∀ q ∈ maps, q ≤ 10 ∨ q = 15) → distinct maps = true → quiet → ∃ t, exec (.portmapWrite v) s = .next t ∧
      t.portmap = w64 (bf w 0 40) ∧ t.fabctl = s.fabctl ∧ t.reqs = s.reqs) ∧
    ((∃ q ∈ maps, 10 < q ∧ q < 15) ∨ distinct maps = false → ∃ t, exec (.portmapWrite v) s = .next t ∧ t.portmap = s.portmap ∧
      t.ports = s.ports ∧ t.reqs = s.reqs) ∧
    (lane < 18 → lane ∉ x.bad → x.down = false → x.bad.length < 9 → ∃ t, exec (.laneFail p lane) s = .next t ∧
      (t.port p).bad = insertNat lane x.bad ∧ (t.port p).good = x.good - 1 ∧ (t.port p).used = (t.port p).lanes ∧
      (∀ q, q ≠ p → t.port q = s.port q) ∧ t.reqs = s.reqs) ∧
    (lane ∈ x.bad → exec (.laneFail p lane) s = .next s) ∧
    (s.subj.port = p → exec .portRetrainDone s = .next (s.modPort p fun y => { y with retrain := false, stamp := none })) ∧
    (up → x.retrain = false → clean → f.cols.length = x.columns → crc32c got.1 = got.2 → f.seq = x.rxSeq → x.rx = [] →
      let k : Packet := ⟨bytesW32 got.1, []⟩
      ∃ t, exec (.frameReceive p f) s = .next t ∧ (t.port p).rxSeq = x.rxSeq + 1 ∧
        (pkLen k = 0 → pkBad k = false → (t.port p).inq = x.inq ++ [k] ∧ (t.port p).rx = []) ∧
        (pkLen k = 0 → pkBad k = true → (t.port p).inq = x.inq ∧ (t.port p).rx = []) ∧
        (0 < pkLen k → pkLen k ≤ 16 → (t.port p).inq = x.inq ∧ (t.port p).rx = [got.1])) ∧
    (up → x.retrain = false → clean → f.cols.length ≠ x.columns ∨ crc32c got.1 ≠ got.2 → ∃ t, exec (.frameReceive p f) s = .next t ∧
      (t.port p).asks = x.asks ++ [f.seq] ∧ (t.port p).rxSeq = x.rxSeq ∧ (t.port p).rx = x.rx ∧ (t.port p).inq = x.inq) ∧
    (s.portUp p = false → exec (.frameReceive p f) s = .next s ∧ exec (.retryRequest p seq) s = .next s) ∧
    (up → (∃ r ∈ x.replay, r.1 = seq) → x.fails = (seq, n) → (n < 8 → exec (.retryRequest p seq) s =
        .next (s.modPort p fun y => { y with fails := (seq, n + 1), sent := seq })) ∧
      (8 ≤ n → x.outq = [] → ∃ t, exec (.retryRequest p seq) s = .next t ∧ (t.port p).down = true ∧ t.reqs = s.reqs)) ∧
    (∀ r b i, (s.reqs.find? fun r => r.tag == s.subj.item && r.since.any fun t => decide (t + 2 ^ 20 ≤ s.time)) = some r → r.who = .op b i →
      exec .requestTimeout s = .next
        (({ s with reqs := s.reqs.filter (· != r) }).opAnswered b i (s.tagKey b i r.tag) (.error 0x34))) ∧
    ((∀ r ∈ s.reqs, ∀ t, r.since = some t → s.time < t + 2 ^ 20) → exec .requestTimeout s = .next s) ∧
    (up → x.retrain = false → s.stampDue p = true →
      let t := s.modPort p fun y => { y with stamp := some s.time, heard := some (v % 1024) }
      (t.master = s.label → exec (.timestampExchange p v) s = .next { t with slew := 0 }) ∧
      (t.master ≠ s.label → v % 1024 = t.master → (∀ q, t.portUp q = true → (t.port q).heard = some t.master → p ≤ q) →
        exec (.timestampExchange p v) s = .next { t with slew := ((v / 1024 : Nat) : Int) - (s.fabtime : Int) })) ∧
    (s.portUp p = false ∨ x.retrain = true ∨ s.stampDue p = false → exec (.timestampExchange p v) s = .next s)

/-- R266, R272, R273, R390: requests that have reached their device and that no kernel takes: a write is checked and stored, a read
answered with its data, an atomic, a semaphore operation or a token form performed, and a refusal answered with its code; a response ends
the wait of the request that it answers. The model's choices: the fields of these packets that no table gives (log entries 13, 52), a
misaligned operand dropped as reserved (log entry 77), the type of a refusal's answer (log entry 79), a request that only asks (log entry
49), and the way back of a flow write's answer (log entry 65). -/
def Obligations.RequestsAreServed : Prop :=
  ∀ (s : State) (p : Packet) (q g : Nat),
    let port := s.subj.port
    let r := s.dropHead port p
    let arrived := fun type : Nat => ((s.heads port).find? fun k => pkType k == type) = some p
    let mine := pkDst p = s.label
    let ps := r.packetParties p
    let job := pkJob p
    let va := pkVa p
    let n := pkBytes p
    let data := pkData p
    let info := pkInfo p
    let reply := fun (t : State) (b : Ans) => t.answer b
    let noFlush := (s.heads port).findSome? s.packetFlush = none
    let sends := fun (t : State) (status : Nat) (ack : Bool) (bs : List Byte) =>
      (t.port g).outq = (r.port g).outq ++ [(true, mkPacket (r.answerHdr p 2 ack status 0 0 bs.length) bs)]
    (arrived 0 → mine → pkPath p ≠ 1 → pkSrc p ≠ s.label → s.route (pkSrc p) = some g → ∀ pa ch s2,
      r.plan job (some .write) (pieces va data.length) = .ok [(va, data.length, .hbm pa ch)] →
      ((r.walkHeal job [(va, data.length, .hbm pa ch)]).tokens ps (r.chkRange job none .write va data.length) = (s2, none) → ∃ t, exec .postedWrite s = .next t ∧
        t.hbmRaw pa data.length = data ∧ sends t 0 true [] ∧
        (∀ a, a < pa ∨ pa + data.length ≤ a → Memory.get t.hbmByte t.hbm a = Memory.get s.hbmByte s.hbm a)) ∧
      (∀ code a, (r.walkHeal job [(va, data.length, .hbm pa ch)]).tokens ps (r.chkRange job none .write va data.length) = (s2, some (code, a)) →
        ∃ t, exec .postedWrite s = .next t ∧
        t.hbm = s.hbm ∧ sends t code true [])) ∧
    -- a read whose first operand is 1 asks whether a write would pass (log entry 49)
    (arrived 1 → mine → pkPath p ≠ 1 → pkOpA p = 1 → exec .readRequest s = .next
      (let x := r.homeWrite ps job va []
       reply x.1 (Ans.ackOf p x.2))) ∧
    (arrived 1 → mine → pkPath p ≠ 1 → pkOpA p ≠ 1 → pkSrc p ≠ s.label → s.route (pkSrc p) = some g → ∀ pa ch s2 bs,
      r.plan job (some .read) (pieces va n) = .ok [(va, n, .hbm pa ch)] → r.tokens ps (r.chkRange job none .read va n) = (s2, none) →
      (s2.planHeal job [(va, n, .hbm pa ch)]).hbmRead pa n = some bs → ∃ t, exec .readRequest s = .next t ∧ t.hbm = s.hbm ∧ sends t 0 false bs) ∧
    (arrived 0 → mine → pkPath p = 1 → ∀ x, r.peerWrite p = some x → exec .postedWrite s = .next (reply x.1 (Ans.ackOf p x.2))) ∧
    (arrived 7 → mine → exec .flowWrite s = .next
      (let x := r.homeWrite [r.party (pkParty p)] job va data
       -- back towards the pier that emitted it
       reply x.1 (r.ackVia p x.2 port))) ∧
    (∀ type i, (type = 0 ∧ i = Instr.postedWrite) ∨ (type = 1 ∧ i = Instr.readRequest) ∨ (type = 3 ∧ i = Instr.atomicPacket) ∨
        (type = 5 ∧ i = Instr.multicastWrite) ∨ (type = 7 ∧ i = Instr.flowWrite) → arrived type → pkDst p ≠ s.label → port < 11 →
      (type = 3 → noFlush) →
      (s.route (pkDst p) = some q → ∃ t, exec i s = .next t ∧ (t.port q).outq = (r.port q).outq ++ [(false, p)] ∧ t.hbm = s.hbm) ∧
      (s.route (pkDst p) = none → exec i s = .next ((if type = 7 then r.notePass p port else r).refuse p 0x34))) ∧
    -- a token form of the host waits until its lines are back (R367)
    (∀ t, (s.heads port).findSome? s.packetFlush = some t → exec .atomicPacket s = .next t) ∧
    (arrived 3 → mine → noFlush → info.testBit 13 = false →
      let sem := fld info 8 3
      let wide := info.testBit 0
      let nr := info.testBit 7
      (sem = 3 → va % 8 = 0 → exec .atomicPacket s = .next (State.atomAnswer p nr (r.postHome ps job va (pkOpA p % 2 ^ 63) false))) ∧
      (sem = 1 ∨ sem = 2 → va % 8 = 0 → exec .atomicPacket s = .next (State.atomAnswer p nr (r.pollHome ps job va (pkOpA p) (sem == 2)))) ∧
      (∀ op, sem = 0 → va % (if wide then 8 else 4) = 0 → AtomOp.ofCode? (fld info 3 4) = some op →
        let cut := fun v : Nat => w64 (if wide then v else v % 2 ^ 32)
        exec .atomicPacket s = .next (State.atomAnswer p nr (r.atomHome ps job va op wide (cut (pkOpA p)) (cut (pkOpB p))))) ∧
      (va % (if wide ∨ sem ≠ 0 then 8 else 4) ≠ 0 → exec .atomicPacket s = .next (r.portEvent port evFabDrop 0))) ∧
    (∀ t es, arrived 3 → mine → noFlush → info.testBit 13 = true → r.packetToken p = some (t, .ok es) → exec .atomicPacket s = .next
      (reply t ⟨p, 4, false, 0, (es.headD 0).toNat, (es.tail.headD 0).toNat, [], none⟩)) ∧
    (∀ t e, arrived 3 → mine → noFlush → info.testBit 13 = true → r.packetToken p = some (t, .error e) → exec .atomicPacket s = .next
      (reply t ⟨p, 4, false, tokFault e, 0, 0, [], none⟩)) ∧
    (∀ b i a, (arrived 2 ∧ a = Instr.readResponse) ∨ (arrived 4 ∧ a = Instr.atomicResponse) → mine →
      r.emission (pkParty p) (pkTag p) = none → r.mcastReq (pkSrc p) (pkParty p) (pkTag p) = none →
      r.reqs.find? (Req.passes (pkParty p) (pkTag p)) = none →
      ∀ w, r.reqOf (pkTag p) = some w → w.who = .op b i → exec a s = .next
        (({ r with reqs := r.reqs.filter (· != w) }).opAnswered b i (r.tagKey b i w.tag)
          (if pkStatus p ≠ 0 then .error (pkStatus p)
           else .ok (if pkType p = 4 then leBytes 8 (pkOpA p) ++ leBytes 8 (pkOpB p) else data)))) ∧
    (s.heads port = [] → exec .postedWrite s = .next s ∧ exec .readRequest s = .next s ∧ exec .atomicPacket s = .next s ∧
      exec .flowWrite s = .next s ∧ exec .multicastWrite s = .next s)

/-- R276-R279: a multicast copy goes on to the dimensions of its entry and is delivered here when the entry says so; barriers, launches
and notices of a subcube team, whose fields are where the model puts them (log entry 15). The SRC and TAG of a multicast copy and the way
back of its answer are the model's choice (log entry 22), and so is that a record of another office has no effect here (log entry 75). -/
def Obligations.TreesAndTeams : Prop :=
  ∀ (s : State) (p : Packet) (m : Man),
    let port := s.subj.port
    let r := s.dropHead port p
    let arrived := fun type : Nat => ((s.heads port).find? fun k => pkType k == type) = some p ∧ pkDst p = s.label
    let e := Tab.get (0 : W64) s.mctree (pkTree p)
    let key := pkOpA p
    let known := r.manByKey key = some m
    let l := fld (pkOpB p) 48 3
    let x := m.barrier l (m.inst l m.rank0) (fld (pkOpB p) 0 48)
    let msg := BarMsg.ofCode (fld (pkOpB p) 56 3)
    let came := fun child : Nat =>
      let y := { x with kids := insertNat child x.kids }
      (r.modMan m.id fun k => k.setBarrier y).barrierMove m.id y
    let rec_ := fun i => leValue ((p.pay.drop (8 * i)).take 8)
    let kids := (List.range 10).filter fun d => bt e (47 + d)
    let up := fun d => decide (d < s.ndim) && s.portUp (s.dimPort d)
    let live := kids.filter up
    let dead := kids.filter fun d => !up d
    let copy := fun d => (pkSrc p == s.label, pkSetDst p (s.label ^^^ 2 ^ d))
    -- the local delivery, by the party that the entry names: its code, and whether it writes
    let n := (pkData p).length
    let checks := fun (pa : Nat) (ch : Option Nat) => (r.walkHeal (pkJob p) [(pkVa p, n, .hbm pa ch)]).tokens
      [r.party (s.label * 65536 + bf e 0 16)] (r.chkRange (pkJob p) none .write (pkVa p) n)
    let at_ := fun (pa : Nat) (ch : Option Nat) => r.plan (pkJob p) (some .write) (pieces (pkVa p) n) = .ok [(pkVa p, n, .hbm pa ch)]
    let part := fun (c : Nat) (w : Bool) => if bt e 46 then
        ∃ pa ch s2, at_ pa ch ∧ (w = true ∧ c = 0 ∧ checks pa ch = (s2, none) ∨ w = false ∧ ∃ a, checks pa ch = (s2, some (c, a)))
      else c = 0 ∧ w = false
    let written := fun (w : Bool) (t : State) => if w then
        ∀ pa ch, at_ pa ch → t.hbmRaw pa n = pkData p ∧
          (∀ a, a < pa ∨ pa + n ≤ a → Memory.get t.hbmByte t.hbm a = Memory.get s.hbmByte s.hbm a)
      else t.hbm = s.hbm
    (arrived 5 → bt e 63 = false ∨ bf e 57 6 ≠ pkJob p → exec .multicastWrite s = .next (r.answer (r.ackVia p 0x20 port))) ∧
    -- the copies go out over every dimension that its entry names and that is up; the parts that are over are kept for the answer
    (∀ c w, arrived 5 → bt e 63 = true → bf e 57 6 = pkJob p → (∀ k ∈ s.mcasts, k.id ≠ s.nextId) → part c w →
      (live ≠ [] → ∃ t, exec .multicastWrite s = .next t ∧
        (∀ g, (t.port g).outq = (r.port g).outq ++ (live.filter fun d => s.dimPort d == g).map copy) ∧
        t.mcasts = s.mcasts ++ [⟨s.nextId, port, p, live.map (· + 1),
          (dead.map fun d => (d + 1, 0x34)).reverse ++ if bt e 46 then [(0, c)] else []⟩] ∧ written w t) ∧
      -- with no part open the answer goes back to where the packet came from, with the code of the first part that failed
      (live = [] → let code := if c ≠ 0 then c else if dead = [] then 0 else 0x34
        ∃ t, exec .multicastWrite s = .next t ∧ t.mcasts = s.mcasts ∧ written w t ∧
          (∀ k g, (r.ackVia p code port).parent = some k → k < 1024 → k ≠ s.label → s.route k = some g → (t.port g).outq = (r.port g).outq ++
            [(true, mkPacket { r.answerHdr p 2 true code 0 0 0 with dst := k, party := pkParty p } [])]))) ∧
    (arrived 6 → known →
      (msg = .release → exec .barrierPacket s = .next (if x.done then r else r.barrierEnd m x false)) ∧
      (msg = .releaseLost → exec .barrierPacket s = .next (if x.done then r else r.barrierEnd m x true)) ∧
      (msg = .arrive → exec .barrierPacket s = .next (came (pkSrc p))) ∧
      (msg = .arriveLost → exec .barrierPacket s = .next (came (pkSrc p + 1024))) ∧
      (msg = .exited → exec .barrierPacket s = .next (r.modMan m.id fun k => { k with still := (l, pkSrc p) :: k.still })) ∧
      (msg = .levelLost → exec .barrierPacket s = .next (r.levelLost m l (pkSrc p)))) ∧
    (arrived 6 → r.manByKey key = none → exec .barrierPacket s = .next r) ∧
    (arrived 8 → pkLen p ≠ 0 → (∀ k ∈ s.mans, s.manKey k ≠ key) → ∃ t n, exec .launchPacket s = .next t ∧
      n ∈ t.mans ∧ n.raw = p.pay ∧ n.job = pkJob p ∧ n.st = .eligible ∧ n.origin = some (key / 2 ^ 32) ∧ n.asked = true ∧ n.writes = false ∧
      n.eprio = fld (pkOpB p) 0 8) ∧
    (arrived 8 → pkLen p = 0 → pkOpB p = 0 → known → exec .launchResponse s = .next
      ((r.modMan m.id fun k => { k with awaits := k.awaits.filter (· != pkSrc p) }).launchUp m.id)) ∧
    (arrived 8 → pkLen p = 0 → pkOpB p ≠ 0 → known → exec .launchStartTime s = .next
      ((r.sendStart m (key / 2 ^ 32) (pkOpB p)).modMan m.id fun k => { k with start := some (pkOpB p) })) ∧
    (arrived 9 → fld (rec_ 2) 0 8 ≠ 0 → exec .eventPacket s = .next r) ∧
    (arrived 9 → fld (rec_ 2) 0 8 = 0 → r.manByKey (rec_ 3 % 2 ^ 48) = some m →
      (rec_ 0 / 2 ^ 32 = noticePreempt → m.st = .running → exec .eventPacket s = .next ((r.spread m noticePreempt 0 (pkSrc p)).beginPreempt m)) ∧
      (rec_ 0 / 2 ^ 32 = noticeEnd → m.st = .running → exec .eventPacket s = .next
        (((r.spread m noticeEnd (rec_ 3 / 2 ^ 48) (pkSrc p)).modMan m.id fun k => { k with told := true }).endTeam m.id (rec_ 3 / 2 ^ 48))))

/-- R280-R284: a partition is written unless it is misaligned, too large, overlaps another, or its job has a kernel loaded; a kernel that
verifies is put in its slot of every port, one that does not retires its manifest with PIER.VERIFY; unloading empties the slot; a packet
that a kernel takes enters its slot's buffer whole, and its first run starts at word 0 when none is under way. That SEQ of a trap message
counts the trap itself is the model's choice (log entry 80). R298, R299, R303, R310: a unit's registers; a word that has no meaning and a
wait that has lapsed end their commands with ILLEGAL and TIMEOUT. -/
def Obligations.PierKernelsAndWharfRegisters : Prop :=
  (∀ (s : State) (j v port slot : Nat) (m : Man) (k : Kernel) (p : Packet),
     let x := PJ.of (w64 v)
     let pm := s.man s.subj.item = some m ∧ m.kind = 3 ∧ m.st = .placed ∧ s.statusHeld m = none
     let puts := fun (y : Option Kernel) (s : State) (q : Nat) => s.modPort q fun z => { z with slots := Tab.set none z.slots m.kslot y }
     (x.mbox = 0 ∨ (∃ y ∈ s.mboxes, y.id = x.mbox ∧ y.job = j ∧ x.mslot + 11 ≤ y.n) → x.fbase % 2 ^ x.flog2 = 0 → x.flog2 ≤ 13 → x.cb + x.ncb ≤ 256 → s.kernelOf j = false →
       (∀ e ∈ s.pierjob, e.1 ≠ j → (PJ.of e.2).en = true → x.overlaps (PJ.of e.2) = false) →
       exec (.pierjobWrite j v) s = .next { s with pierjob := Tab.set 0 s.pierjob j (w64 v &&& ~~~(6 : W64)) }) ∧
     (x.fbase % 2 ^ x.flog2 ≠ 0 ∨ 13 < x.flog2 ∨ 256 < x.cb + x.ncb ∨ s.kernelOf j = true ∨
       (∃ e ∈ s.pierjob, e.1 ≠ j ∧ (PJ.of e.2).en = true ∧ x.overlaps (PJ.of e.2) = true) ∨
       (x.mbox ≠ 0 ∧ ∀ y ∈ s.mboxes, y.id = x.mbox → y.job = j → y.n < x.mslot + 11) →
       ∃ t, exec (.pierjobWrite j v) s = .next t ∧ t.pierjob = s.pierjob ∧ t.ports = s.ports) ∧
     (pm → m.pierOp = 1 → s.kernelFor m = some k → exec .pierKernelLoad s = .next
       ((m.portSet.foldl (puts (some k)) (s.hmHeal m.job m.code_ (32 + 4 * m.count))).pierRetire m 0)) ∧
     (pm → m.pierOp = 1 → s.kernelFor m = none → exec .pierKernelLoad s = .next (s.pierRetire m 0x54)) ∧
     (pm → m.pierOp = 2 → (∀ q ∈ m.portSet, s.run q m.kslot = none ∧ Tab.get [] (s.port q).bufs m.kslot = []) → let t := m.portSet.foldl (puts none) s
       t.statusHeld m = none → exec .pierKernelUnload s = .next ((m.portSet.foldl (State.unloadPort · m.kslot) t).pierRetire m 0)) ∧
     (pm → m.pierOp = 2 → (∃ q ∈ m.portSet, s.run q m.kslot ≠ none ∨ Tab.get [] (s.port q).bufs m.kslot ≠ []) → exec .pierKernelUnload s = .next (m.portSet.foldl (puts none) s)) ∧
     (∀ fresh, port < 11 → Tab.get none (s.port port).slots slot = some k → s.matching port slot k = some (fresh, p) →
       let new : Run := { kern := k, orig := p, pkt := p, pid := s.nextId, run := 0, off := 0, ps := [], pv := [], ps0 := [], pv0 := [],
                          disp := .fwd, marks := [], contrib := [] }
       let taken := fun t : State => (∀ q, q ≠ port → t.port q = s.port q) ∧
         (k.out = false → (t.port port).inq = (s.port port).inq.erase p ∧ (t.port port).outq = (s.port port).outq) ∧
         (k.out = true → (t.port port).outq = (s.port port).outq.erase (fresh, p) ∧ (t.port port).inq = (s.port port).inq)
       (s.run port slot = none → Tab.get [] (s.port port).bufs slot = [] → 0 < k.body → ∃ t, exec (.pierPacketMatch port slot) s = .next t ∧
         taken t ∧ t.run port slot = some new ∧ Tab.get [] (t.port port).bufs slot = []) ∧
       (s.run port slot ≠ none → ∃ t, exec (.pierPacketMatch port slot) s = .next t ∧ taken t ∧ t.run port slot = s.run port slot ∧
         Tab.get [] (t.port port).bufs slot = Tab.get [] (s.port port).bufs slot ++ [new])) ∧
     (Tab.get none (s.port port).slots slot = none ∨ (Tab.get none (s.port port).slots slot = some k ∧ s.matching port slot k = none) →
       s.run port slot ≠ none ∨ Tab.get [] (s.port port).bufs slot = [] → exec (.pierPacketMatch port slot) s = .next s)) ∧
  (∀ (s : State) (u v : Nat),
     let x := s.unit u
     let w := w64 v
     let set := fun y : WUnit => { s with units := Tab.set WUnit.reset s.units u y }
     (s.unitServed u = false → exec (.wuctlWrite u v) s = .next s) ∧
     (s.unitServed u = true → x.en = true → exec (.wuctlWrite u v) s = .next (set { x with en := bt w 63 })) ∧
     (s.unitServed u = true → x.en = false → exec (.wuctlWrite u v) s =
       .next (set { x with wrlog2 := bf w 32 4, en := bt w 63 && decide (6 ≤ bf w 32 4 ∧ bf w 32 4 ≤ 12) })) ∧
     (bt w 63 = true → exec (.wustatWrite u v) s = .next (set { x with stat := bput x.stat 63 1 0 })) ∧
     (bt w 63 = false → exec (.wustatWrite u v) s = .next s) ∧
     (∀ e l, s.subj.item = u → x.ring = e :: l →
       (decodeWharf e.word.toNat = none → exec .illegalCommand s =
         .next (({ s with wcur := u }).wharfFinish u e e.post 0x42 0).wharfNext) ∧
       (∀ t, x.since = some t → t + Nat.max 1 (bf s.wtimeout 0 32) * 1024 ≤ s.time →
         exec .wharfWaitTimeout s = .next (s.wharfAbort u e 0x48)) ∧
       (∀ t, x.since = some t → s.time < t + Nat.max 1 (bf s.wtimeout 0 32) * 1024 → exec .wharfWaitTimeout s = .next s) ∧
       (x.since = none → exec .wharfWaitTimeout s = .next s)))

/-- R326, R329-R331: a channel that fails stops its unit and completes its commands with WHARF.CHANNEL; a remap copy is rewritten from the
other; the scrub reads the next granule; a sensor is HOT from 95 degrees and no longer from 90. What the events' DATA hold is in part open
(log entry 8), and no clause rests on it. The model's choices: TMAX and PEAK restart from the present value at a read (log entries 68,
69), and a refresh is made when its step comes (70). R382, R383: power and thermal throttling. What POWER reads when throttling ends and
the code and DATA of these events are free (log entry 8). The model's choice: PEAK restarts from the present POWER at a read (log entry
69). -/
def Obligations.ChannelsAndPower : Prop :=
  (∀ (s : State) (c copy deg g : Nat),
     let w := Tab.get (0 : W64) s.wtemp c
     let x := Tab.get (false, false) s.remap c
     (s.subj.item % 256 = c →
       let s1 := ({ s with remap := Tab.set (false, false) s.remap c (true, true), failedCh := insertNat c s.failedCh }).modUnit c
         fun y => { y with stop := true }
       exec .channelFailure s =
         .next (((s1.unit c).ring.foldl (fun s e => s.wharfAbort c e 0x40) s1).eventOpen (srcChannel c) fcMachChannel none)) ∧
     (s.subj.item % 256 = c → (s.unit c).ring = [] → ∃ t, exec .channelFailure s = .next t ∧ (t.unit c).stop = true ∧
       t.failedCh = insertNat c s.failedCh ∧ Tab.get (false, false) t.remap c = (true, true) ∧ (∀ u, u ≠ c → t.unit u = s.unit u) ∧ t.hbm = s.hbm) ∧
     (s.subj.item = c → exec .refresh s = .next { s with postponed := Tab.set 0 s.postponed c 0 }) ∧
     ((if copy = 0 then x.2 else x.1) = false → ∃ t, exec (.remapRewrite c copy) s = .next t ∧
       Tab.get (false, false) t.remap c = (false, false) ∧ (∀ k, k ≠ c → Tab.get (false, false) t.remap k = Tab.get (false, false) s.remap k) ∧
       t.hbm = s.hbm ∧ t.units = s.units) ∧
     ((if copy = 0 then x.2 else x.1) = true → exec (.remapRewrite c copy) s = .next s) ∧
     (s.scrubNext ≤ g → g ∉ s.scrubbed → (∀ k, s.scrubNext ≤ k → k < g → k ∈ s.scrubbed) →
       let t := if s.chanUp (chanOf (64 * g)) then s.healOne g else s
       (g + 1 < hbmGranules → exec .patrolScrub s = .next { t with scrubNext := g + 1 }) ∧
       (g + 1 = hbmGranules → exec .patrolScrub s = .next { t with scrubNext := 0, scrubbed := [] }) ∧
       (hbmGranules ≤ g → exec .patrolScrub s = .next { s with scrubNext := 0, scrubbed := [] })) ∧
     (∃ t, exec (.tempSample c deg) s = .next t ∧
       let y := Tab.get (0 : W64) t.wtemp c
       let d := deg % 256
       bf y 0 8 = d ∧ bf y 8 8 = Nat.max (bf w 8 8) d ∧ bt y 16 = (if bt w 16 then decide (90 < d) else decide (95 ≤ d)) ∧
       (∀ k, k ≠ c → Tab.get 0 t.wtemp k = Tab.get 0 s.wtemp k)) ∧
     (s.subj.item = c → ∃ t, exec .wtempRead s = .next t ∧ t.reply = some (leBytes 8 w.toNat, false) ∧
       bf (Tab.get (0 : W64) t.wtemp c) 8 8 = bf w 0 8 ∧ bf (Tab.get (0 : W64) t.wtemp c) 0 8 = bf w 0 8)) ∧
  (∀ (s : State) (watts : Nat),
     let st := s.pwrstat
     let p := watts % 65536
     (∃ t, exec (.powerThrottleBegin watts) s = .next t ∧ bf t.pwrstat 0 16 = p ∧ bf t.pwrstat 32 16 = Nat.max p (bf st 32 16) ∧
       bt t.pwrstat 16 = (bt st 16 || decide (s.limit < p)) ∧ bt t.pwrstat 17 = bt st 17 ∧ t.berths = s.berths) ∧
     (bt st 16 = true → ∃ t, exec .powerThrottleEnd s = .next t ∧ bt t.pwrstat 16 = false ∧ bf t.pwrstat 0 16 ≤ s.limit * 95 / 100 ∧
       bf t.pwrstat 32 16 = Nat.max (bf t.pwrstat 0 16) (bf st 32 16) ∧ t.berths = s.berths) ∧
     (bt st 16 = false → exec .powerThrottleEnd s = .next s) ∧
     (∃ t, exec .thermalThrottleBegin s = .next t ∧ bt t.pwrstat 17 = true ∧ bt t.pwrstat 16 = bt st 16 ∧ t.berths = s.berths) ∧
     (∃ t, exec .thermalThrottleEnd s = .next t ∧ bt t.pwrstat 17 = false ∧ bt t.pwrstat 16 = bt st 16 ∧ t.berths = s.berths) ∧
     (∃ t, exec .thermalTrip s = .next t ∧ exec .modulePowerLoss s = .next t) ∧
     exec .pwrstatRead s = .next { s with reply := some (leBytes 8 st.toNat, false), pwrstat := bput st 32 16 (bf st 0 16) })

/-- R344-R351: a berth that fails is retired and its berth-thread's regions are quarantined; tile power that is lost and restored resumes
the berth-thread from its last entry, its state as it was. The model's choices: how a failed berth-thread is named and counted (log entry
21), and what an exact resume goes on from (82). R348, R377, R378, R380: what loss of power and reset leave. Every register is at its
value at reset; host memory, the pool, the flash and MINSVN stay; a reset brings a module that has a firmware to boot into low-water
service; full service begins when no team is placed. The model's choice: an unlisted byte of HBM after a loss of power is a free value
(log entry 4). -/
def Obligations.FailureResumeAndReset : Prop :=
  (∀ (s : State) (b code : Nat) (m : Man),
     let x := s.berth b
     let c := x.ctx
     (code = 0x71 ∨ code = 0x73 → x.retired = false → x.st = .run → c.pilot = .run → s.leaderOf b = none → s.man c.team = some m → m.st = .running →
       ∃ t, exec (.berthFailure b code 0) s = .next t ∧ (t.berth b).retired = true ∧ (t.berth b).st = .idle ∧
         (∀ k, k ≠ b → t.berth k = s.berth k) ∧ (∀ r ∈ t.regions, r.owner = c.self → r.st = .quarantined) ∧
         (∀ r ∈ t.regions, r.exporter ≠ some c.self) ∧ (t.man c.team).map Man.failed = some (insertNat c.rank m.failed) ∧ t.hbm = s.hbm) ∧
     (x.retired = true → code = 0x71 → exec (.berthFailure b code 0) s = .next s) ∧
     (s.subj.berth = b → x.st = .run → c.pilot = .run → x.shadow.queue = [] → x.shadow.last = some (s.saved b) →
       exec .tilePowerLoss s = .next (s.modBerth b fun y => { y with st := .off, wasHalted := y.wasHalted, stepping := none })) ∧
     (s.subj.berth = b → x.st = .idle → exec .tilePowerLoss s = .next s) ∧
     (s.subj.berth = b → x.st ≠ .off → exec .tilePowerRestore s = .next s) ∧
     (∀ v r e, s.subj.berth = b → x.st = .off → x.wasHalted = false → s.leaderOf b = none → s.followers b = [] → x.shadow.flagged = 0 →
       x.shadow.last = some v → x.shadow.pick = some r → v.gang = [] → v.ctx.ops = [] → v.ctx.team = c.team → v.ctx.rank = c.rank →
       (s.codeStore.find? fun y => y.1 == c.team && y.2.1 == c.rank) = some e →
       ∃ t, exec .tilePowerRestore s = .next t ∧ (t.berth b).st = .run ∧ (t.berth b).im = e.2.2.1 ∧
         (t.ctxAt b).sregs = v.ctx.sregs ∧ (t.ctxAt b).pc = v.ctx.pc ∧ (t.ctxAt b).spad = v.ctx.spad ∧ (t.ctxAt b).mrf = v.ctx.mrf ∧
         (t.ctxAt b).acc = v.ctx.acc ∧ (∀ k, k ≠ b → t.berth k = s.berth k))) ∧
  (∀ (s : State),
     let zeroed := fun t : State => t.berths = [] ∧ t.mans = [] ∧ t.regions = [] ∧ t.lqs = [] ∧ t.units = [] ∧ t.ports = [] ∧ t.fabctl = 0 ∧
       t.carve = 0 ∧ t.hrqbase = 0 ∧ t.jobpt = [] ∧ t.hbm = []
     let kept := fun t : State => t.pool = s.pool ∧ t.poolPoison = s.poolPoison ∧ t.slotA = s.slotA ∧ t.slotB = s.slotB ∧ t.minsvn = s.minsvn ∧ t.flashRoles = s.flashRoles
     (∃ t, exec .modulePowerLoss s = .next t ∧ zeroed t ∧ kept t ∧ t.level = 0 ∧ t.losses = s.losses + 1 ∧ t.hmem = s.hmem) ∧
     (s.level = 0 → (∃ a, s.bootSlot = some a) → ∃ t, exec .moduleReset s = .next t ∧ t.level = 1 ∧ t.booted = s.bootSlot ∧ kept t ∧ t.hbm = s.hbm ∧
       bf t.cxlcfg 0 2 = 1) ∧
     (s.level = 0 → s.bootSlot = none → ∃ t, exec .moduleReset s = .next t ∧ t.level = 3 ∧ t.booted = none) ∧
     (s.level ≠ 0 → ∃ t, exec .moduleReset s = .next t ∧ (t.level = 1 ∨ t.level = 3) ∧ kept t ∧ zeroed t) ∧
     (s.level = 1 → s.mans = [] → ∃ t, exec .fullService s = .next t ∧ t.level = 2 ∧ t.raising = false ∧ bf t.svc 32 8 = 128 ∧ bf t.svc 24 8 = 255 ∧
       t.berths = s.berths) ∧
     (s.level ≠ 1 → exec .fullService s = .next s))

/-- R366, R367, R28: a host access that its reverse-map entry and its tokens allow reads the line, or writes its bytes; a refused read
returns poison and a refused write writes nothing; dirty data that a back-invalidation returns are written. That the host caches a line
that it has read while the filter has room is the model's choice (log entry 85). R354, R364, R365, R369, R374, R382: registers that the
host writes: the event ring, the carve-out, the pool windows, the request ring's doorbell; a write of BAR0 at a register's offset is that
register's write, field by field, and one at a read-only register, at an offset that the table does not list or that is not a multiple of
8 is ignored; what a read of a register returns (that no step of its own reads one is the model's, log entry 1). -/
def Obligations.HostAccessesAndRegisters : Prop :=
  (∀ (s : State) (port pa : Nat) (bytes : List Byte), s.hostPort port = true →
     let line := pa / 64
     let bs := bytes.take (64 - pa % 64)
     (∀ s2 d, s.hostDecide port pa (64 * line) 64 .read = .done s2 → (s2.heal (64 * line) 64).hbmRead (64 * line) 64 = some d →
       ∃ t, exec (.hostRead port pa) s = .next t ∧ t.reply = some (d, false) ∧ t.hbm = s2.hbm ∧
         (t.filter = s2.filter ∨ t.filter = s2.filter ++ [(port, line)])) ∧
     (∀ s2, s.hostDecide port pa (64 * line) 64 .read = .refused s2 → exec (.hostRead port pa) s =
       .next { s2 with reply := some (List.replicate 64 0, true) }) ∧
     (∀ s2, bs ≠ [] → s.hostDecide port pa pa bs.length .write = .done s2 → ∃ t, exec (.hostWrite port pa bytes) s = .next t ∧
       t.hbmRaw pa bs.length = bs ∧ (∀ a, a < pa ∨ pa + bs.length ≤ a → Memory.get t.hbmByte t.hbm a = Memory.get s2.hbmByte s2.hbm a)) ∧
     (∀ s2, bs ≠ [] → s.hostDecide port pa pa bs.length .write = .refused s2 → exec (.hostWrite port pa bytes) s = .next s2) ∧
     let asked := s.binv.find? fun f => f.2 == line
     (asked = none → exec (.backInvalidateResponse line bytes) s = .next s) ∧
     (∀ f, asked = some f → exec (.backInvalidateResponse line []) s = .next { s with binv := s.binv.erase f }) ∧
     -- what comes back is written as by the port that held the line
     (∀ f s2, asked = some f → bytes.length = 64 → ({ s with binv := s.binv.erase f }).hostDecide f.1 (64 * line) (64 * line) 64 .write = .done s2 →
       ∃ t, exec (.backInvalidateResponse line bytes) s = .next t ∧ t.hbmRaw (64 * line) 64 = bytes) ∧
     (∀ f s2, asked = some f → bytes ≠ [] → ({ s with binv := s.binv.erase f }).hostDecide f.1 (64 * line) (64 * line) 64 .write = .refused s2 →
       exec (.backInvalidateResponse line bytes) s = .next s2)) ∧
  (∀ (s : State) (v n off : Nat),
     let w := w64 v
     let t := v % 2 ^ 32
     (bt s.evbase 63 = true → exec (.evbaseWrite v) s = .next { s with evbase := bput s.evbase 63 1 (if bt w 63 then 1 else 0) }) ∧
     (bt s.evbase 63 = false → s.evHeld = [] → ∃ u, exec (.evbaseWrite v) s = .next u ∧
       (bt u.evbase 63 = true ↔ bt w 63 = true ∧ 6 ≤ bf w 0 5 ∧ bf w 0 5 ≤ 20) ∧ bf u.evbase 12 45 = bf w 12 45 ∧ bf u.evbase 0 5 = bf w 0 5 ∧
       u.hmem = s.hmem ∧ u.evtail = s.evtail) ∧
     (bt s.carve 63 = true → exec (.carveWrite v) s = .next s) ∧
     (bt s.carve 63 = false → ∃ u, exec (.carveWrite v) s = .next u ∧ u = { s with carve := u.carve } ∧ bf u.carve 0 12 = bf w 0 12 ∧
       (bt u.carve 63 = true ↔ bt w 63 = true ∧ 4 ≤ bf w 0 12 ∧ bf w 0 12 ≤ 2688)) ∧
     (bt w 63 = false → ∃ u, exec (.poolwinWrite n v) s = .next u ∧ bt (Tab.get 0 u.poolwin n) 63 = false ∧
       (∀ k, k ≠ n → Tab.get 0 u.poolwin k = Tab.get 0 s.poolwin k)) ∧
     (bt w 63 = true → s.role n ≠ 2 → ∃ u, exec (.poolwinWrite n v) s = .next u ∧ u.poolwin = s.poolwin) ∧
     (bt w 63 = true → s.role n = 2 → (∀ k, k < 4 → k ≠ n → bt (Tab.get 0 s.poolwin k) 63 = false) → ∃ u,
       exec (.poolwinWrite n v) s = .next u ∧ let y := Tab.get (0 : W64) u.poolwin n
       bt y 63 = true ∧ bf y 48 8 = bf w 48 8 ∧ bf y 30 18 = bf w 30 18) ∧
     ((t + 2 ^ 32 - s.hrqhead) % 2 ^ 32 ≤ 2 ^ bf s.hrqbase 0 5 → exec (.hrqtailDoorbell v) s = .next { s with hrqtail := t }) ∧
     (2 ^ bf s.hrqbase 0 5 < (t + 2 ^ 32 - s.hrqhead) % 2 ^ 32 → ∃ u, exec (.hrqtailDoorbell v) s = .next u ∧ u.hrqtail = s.hrqtail) ∧
     (off % 8 ≠ 0 → exec (.registerWrite off v) s = .next s) ∧
     let wr := fun o : Nat => exec (.registerWrite o v) s
     wr 0x10 = exec (.carveWrite v) s ∧ wr 0x18 = exec (.fabctlWrite v) s ∧ wr 0x20 = exec (.portmapWrite v) s ∧
     wr 0x40 = exec (.evbaseWrite v) s ∧ wr 0x60 = exec (.hrqtailDoorbell v) s ∧
     wr 0x28 = .next { s with wtimeout := w64 (bf w 0 32) } ∧ wr 0x50 = .next { s with evhead := t } ∧
     (∃ u, wr 0x30 = .next u ∧ bt u.pwrctl 63 = bt w 63 ∧ bf u.pwrctl 32 16 = bf w 32 16 ∧ bf u.pwrctl 0 12 = bf w 0 12 ∧
       bf u.pwrstat 0 16 = bf s.pwrstat 0 16 ∧ bt u.pwrstat 16 = (bt s.pwrstat 16 || decide (u.limit < bf s.pwrstat 0 16)) ∧ u.berths = s.berths) ∧
     (bt s.hrqbase 63 = false → ∃ u, wr 0x58 = .next u ∧ u = { s with hrqbase := u.hrqbase } ∧ bf u.hrqbase 12 45 = bf w 12 45 ∧
       bf u.hrqbase 0 5 = bf w 0 5 ∧ (bt u.hrqbase 63 = true ↔ bt w 63 = true ∧ 4 ≤ bf w 0 5 ∧ bf w 0 5 ≤ 12)) ∧
     (bt s.hrqbase 63 = true → wr 0x58 = .next { s with hrqbase := bput s.hrqbase 63 1 (if bt w 63 then 1 else 0) }) ∧
     (n < 4 → wr (0x80 + 16 * n) = exec (.poolwinWrite n v) s ∧
       wr (0x88 + 16 * n) = .next { s with pooltgt := Tab.set 0 s.pooltgt n (w64 (bf w 30 34 * 2 ^ 30)) }) ∧
     (n < 16 → wr (0x1000 + 32 * n) = exec (.lqctlWrite n v) s ∧ wr (0x1010 + 32 * n) = exec (.lqtailDoorbell n v) s ∧
       (bt (s.lq n).ctl 63 = true → wr (0x1008 + 32 * n) = .next s) ∧
       (bt (s.lq n).ctl 63 = false → wr (0x1008 + 32 * n) =
         .next { s with lqs := Tab.set LQ.reset s.lqs n { s.lq n with base := w64 (bf w 0 57) } })) ∧
     (n < 64 → wr (0x2000 + 8 * n) = .next { s with jobsched := Tab.set 0 s.jobsched n w } ∧
       wr (0x2200 + 8 * n) = .next { s with
         jobpt := Tab.set 0 s.jobpt n (w64 ((if bt w 63 then 2 ^ 63 else 0) + bf w 12 42 * 4096 + bf w 0 5)) } ∧
       wr (0x2400 + 8 * n) = exec (.pierjobWrite n v) s) ∧
     (n < 256 → wr (0x10000 + 8 * n) = exec (.wuctlWrite n v) s ∧ wr (0x10800 + 8 * n) = exec (.wustatWrite n v) s ∧
       wr (0x11000 + 8 * n) = .next { s with wshare := Tab.set 8 s.wshare n (w64 (bf w 0 5)) } ∧ wr (0x11800 + 8 * n) = .next s) ∧
     (n < 16 → wr (0x12000 + 8 * n) = .next { s with
       ckset := Tab.set 0 s.ckset n (w64 (bf w 57 7 * 2 ^ 57 + bf w 12 45 * 4096 + bf w 0 6)) }) ∧
     (n < 4096 → wr (0x20000 + 8 * n) = .next { s with mctree := Tab.set 0 s.mctree n (w64 (bf w 46 18 * 2 ^ 46 + bf w 0 16)) }) ∧
     (n < 128 → wr (0x30008 + 64 * n) = .next s ∧
       wr (0x30030 + 64 * n) = .next (s.modBerth n fun x => { x with dbgimg := w64 (bf w 12 45 * 4096) }) ∧
       (∀ i, i < 4 → wr (0x30010 + 64 * n + 8 * i) = .next (s.modBerth n fun x => { x with
         bps := Tab.set 0 x.bps i (w64 ((if bt w 63 then 2 ^ 63 else 0) + bf w 0 15)) }))) ∧
     -- registers that are only read, and offsets that the table does not list
     (∀ o ∈ [0x0, 0x8, 0x38, 0x48, 0x68, 0x70, 0x78], wr o = .next s) ∧ (0x40000 ≤ off → wr off = .next s) ∧
     -- what a read returns; an access of another form, and any other offset, reads as zero
     (let rd := fun o : Nat => s.barRead o 8
      rd 0x10 = s.carve ∧ rd 0x18 = s.fabctl ∧ rd 0x20 = s.portmap ∧ rd 0x28 = s.wtimeout ∧ rd 0x30 = s.pwrctl ∧ rd 0x38 = s.pwrstat ∧
      rd 0x40 = s.evbase ∧ rd 0x48 = w64 s.evtail ∧ rd 0x50 = w64 s.evhead ∧ rd 0x58 = s.hrqbase ∧ rd 0x60 = w64 s.hrqtail ∧
      rd 0x68 = w64 s.hrqhead ∧ (n < 256 → rd (0x10800 + 8 * n) = (s.unit n).stat) ∧ rd 0x70 = 0 ∧ rd 0x78 = 0 ∧ (0x40000 ≤ off → rd off = 0) ∧
      (off % 8 ≠ 0 ∨ n ≠ 8 → s.barRead off n = 0)))

/-- R356-R360, R170: the debugger. HALT halts at the next boundary with REASON 0, a step that is over with REASON 1, BKPT under BKEN with
REASON 2, an address breakpoint that the group at the PC holds, unless it was just taken, with REASON 3; clearing HALT lets a halted berth
go on; STEP issues one group; IMGOUT and IMGIN are heeded only while the berth is halted and no transfer is under way; an image whose CRC
and checks hold replaces the berth's state. -/
def Obligations.DebuggingABerth : Prop :=
  ∀ (s : State) (b : Nat), s.subj.berth = b →
    let x := s.berth b
    let c := x.ctx
    exec .debugHalt s = .next (s.modBerth b fun y => { y with dbgctl := bput y.dbgctl 63 1 1 }) ∧
    exec .debugResume s = .next (s.modBerth b fun y =>
      { y with dbgctl := bput y.dbgctl 63 1 0, wasHalted := false, st := if y.st = .halted then .run else y.st }) ∧
    (x.st = .halted → bt x.dbgctl 62 = false → x.imgbusy = none →
      exec .step s = .next (s.modBerth b fun y => { y with st := .run, stepping := some 0, bpSkip := true }) ∧
      exec .imgin s = .next (s.modBerth b fun y => { y with imgbusy := some (bf x.dbgimg 12 45 * 4096, false) }) ∧
      (∃ t, exec .imgout s = .next t ∧ (t.berth b).imgbusy = some (bf x.dbgimg 12 45 * 4096, true) ∧ (t.berth b).st = .halted)) ∧
    (x.st ≠ .halted ∨ x.imgbusy ≠ none → exec .step s = .next s ∧ exec .imgin s = .next s ∧ exec .imgout s = .next s) ∧
    (∀ va, x.imgbusy = some (va, true) → exec .imageTransferDone s = .next (s.modBerth b fun y => { y with imgbusy := none })) ∧
    (∀ va, x.imgbusy = some (va, false) → x.st = .halted → let σ := s.modBerth b fun y => { y with imgbusy := none }
      let r := σ.imageRead (σ.jobAt b) va 512
      (r.2 = none ∧ exec .imageTransferDone s = .next r.1) ∨ ∃ img, r.2 = some img ∧
        ((imageCrc img = false ∧ exec .imageTransferDone s = .next r.1) ∨
         (imageCrc img = true ∧ ∃ c, r.1.imageCtx b img = some c ∧ exec .imageTransferDone s = .next ({ r.1 with nextId := r.1.nextId + c.ops.length }.imageIn b c)) ∨
         (imageCrc img = true ∧ r.1.imageCtx b img = none ∧ ∃ t, exec .imageTransferDone s = .next t ∧ t.ctxAt b = r.1.ctxAt b))) ∧
    (x.imgbusy = none → exec .imageTransferDone s = .next s) ∧
    -- the halt of GROUP_ISSUE at a boundary
    (s.agent = .issue b → x.st = .run → s.throttled = false → c.pilot = .run →
      let halts := fun reason : Nat => exec .groupIssue s = .next { s.setBerth b { x with
        st := .halted, reason := reason, stepping := none, bpSkip := decide (reason = 3)
        ctx := { c.atBoundary with pending := none } } with agent := .land b, cur := b, woff := 0, skip := none }
      (∀ k, c.pending = some k → k.code = 0x61 → bt x.dbgctl 59 = true → halts 2) ∧
      (c.pending = none → (s.teamOf c).map Man.ended = some false →
        (bt x.dbgctl 63 = true → x.stepping = none → halts 0) ∧
        (x.stepping = some 1 → halts 1) ∧ (x.stepping = some 2 → c.branch = none → halts 1) ∧
        (x.stepping = none → bt x.dbgctl 63 = false → x.bpSkip = false → (∃ e ∈ x.bps, bt e.2 63 = true ∧ c.pc ≤ bf e.2 0 15 ∧
          bf e.2 0 15 < x.groupEnd groupFuel c.pc) → halts 3)))

/-- R369-R373, R376: requests for mappings, migration and jobs: the request at HRQHEAD is performed on the state, and its result is
written with code 0; one that fails changes nothing but its result and what reading the tables corrects (R328). MIGRATE takes the page's
regions for the tug in one step, and moves the page in the next. The model's choices: the order of a request's checks (log entry 29), a
range beyond the root (log entry 88), the rights of a MAPX leaf (log entry 89), a mapping that cannot be read (log entry 108), and where
blocks of the carve-out lie (log entries 5, 131). -/
def Obligations.MappingAndTokenRequests : Prop :=
  ∀ (s s2 : State) (r : HReq), s.headReq = some r → s.level = 1 ∨ s.level = 2 → s.raising = false → r.ctl / 2 ^ 24 = 0 → r.ctl.testBit 15 = false →
    let op := fun n => r.op = n
    let ends := fun (i : Instr) (t : State) (code : Nat) => exec i s = .next (t.finish r code 0 0)
    let ok := fun (i : Instr) (t : State) => ends i t 0
    let no := fun (i : Instr) (code : Nat) => ends i s code
    let a := (r.a 0).toNat
    let tmpl := (r.a 2).toNat
    -- the tables of the request's pages have been read
    let h := s.mapHeal r
    (op 1 → s.mapCode r (!r.zeroFrom 3 || tmpl.testBit 5) tmpl = none → h.mapAll r tmpl .owned = some s2 → ok .map s2) ∧
    (op 1 → s.mapCode r (!r.zeroFrom 3 || tmpl.testBit 5) tmpl = none → h.mapAll r tmpl .owned = none → ends .map h 4) ∧
    (∀ c, op 1 → s.mapCode r (!r.zeroFrom 3 || tmpl.testBit 5) tmpl = some c → ends .map (if c = 3 then h else s) c) ∧
    (let x := tmpl / 64 * 64 + 32 + 8 + tmpl % 8
     let kind := (r.a 3).toNat % 256
     let n := (r.a 3).toNat / 256
     let count := if kind = 2 then n + 1 else 0
     op 2 → kind < 3 → count ≤ 128 → (kind ≠ 2 → n = 0) → r.zeroFrom 4 = true → fld x 6 2 < 2 →
      (∀ c, s.mapCode r false x = some c → ends .mapx (if c = 3 then h else s) c) ∧
      (s.mapCode r false x = none → h.mapAll r x .exec = none → ends .mapx h 4) ∧
      (s.mapCode r false x = none → (h.mapAll r x .exec).isSome = true → (∀ hit, h.backInvLines hit = none) → ∀ t,
        (h.scanMapping r x kind count = (t, none) → t.mapAll r x .exec = some s2 →
          ok .mapx { s2 with codeMaps := s2.codeMaps ++ [⟨r.job, a, r.bytes, kind, count⟩] }) ∧
        (∀ o c, h.scanMapping r x kind count = (t, some (o, c)) → exec .mapx s = .next (t.finish r 6 c o)))) ∧
    (op 3 → r.count = 1 → r.zeroFrom 2 = true → r.sub < 4 → s.rangeBad r.job (r.a 0) r.lg 1 = false → s.noJob r.job = false →
      ∀ e at_, s.walk r.job a = .ok (e, r.lg, at_) →
      ((∃ x ∈ s.regions, x.touches r.job a r.bytes = true ∧ x.st ≠ .exec ∧ x.owner ≠ .host) → ends .unmap h 7) ∧
      ((∀ x ∈ s.regions, x.touches r.job a r.bytes = true → a ≤ x.base ∧ x.base + 2 ^ x.log2 ≤ a + r.bytes ∧
          (x.st = .exec ∨ (x.st = .owned ∧ x.owner = .host ∧ x.stack = [] ∧ x.shares = []))) →
        ∃ t, exec .unmap s = .next t ∧ t.hbmRaw at_ 8 = List.replicate 8 0 ∧
        t.regions = (s.regions.filter fun x => !x.touches r.job a r.bytes) ∧ t.hrqhead = (s.hrqhead + 1) % 2 ^ 32)) ∧
    (op 6 → r.zeroFrom 0 = true → r.sub < 32 → bt s.carve 63 = true → bt (Tab.get 0 s.jobpt r.job) 63 = false →
      let n := Nat.min 21 r.sub
      (∀ p, s.alloc (8 * 2 ^ n) (Nat.max 4096 (8 * 2 ^ n)) = some (p, s2) → ok .jobinit
        { s2 with jobpt := Tab.set 0 s2.jobpt r.job (w64 (2 ^ 63 + p + r.sub)), roots := s2.roots ++ [p] }) ∧
      (s.alloc (8 * 2 ^ n) (Nat.max 4096 (8 * 2 ^ n)) = none → no .jobinit 4)) ∧
    (op 7 → r.zeroFrom 0 = true → r.sub = 0 → s.noJob r.job = false → (∀ q ∈ s.lqs, bt q.2.ctl 63 = false) → s.mans = [] → s.ports = [] →
      ∃ t, exec .jobrel s = .next t ∧ bt (Tab.get 0 t.jobpt r.job) 63 = false ∧ (∀ x ∈ t.regions, x.job ≠ r.job) ∧ (∀ x ∈ t.mboxes, x.job ≠ r.job) ∧
        (∀ x ∈ t.codeMaps, x.job ≠ r.job) ∧ t.hrqhead = (s.hrqhead + 1) % 2 ^ 32) ∧
    -- the first step of a MIGRATE
    (op 5 → s.moving ≠ some (r.job, a) → r.zeroFrom 2 = true → r.sub = 0 → s.noJob r.job = false →
      let h := s.healWalk r.job a
      (∀ e, h.walk r.job a = .error e → ends .migrate h 3) ∧
      (∀ old lg at_ new, h.walk r.job a = .ok (old, lg, at_) → a % 2 ^ lg = 0 → new = (r.a 1).toNat / 4 * 4 + 3 → h.leafBad new lg = false →
        fld new 6 2 ≠ 3 → fld new 3 3 = fld old 3 3 →
        let rs := h.regions.filter fun y => y.touches r.job a (2 ^ lg)
        let whole := rs ≠ [] ∧ ∀ x ∈ rs, x.owner = .hm ∧ x.st = .owned ∧ x.shares = []
        (h.mapLevel new = true → ends .migrate h 8) ∧
        (h.mapLevel new = false → ¬whole → ends .migrate h 7) ∧
        (h.mapLevel new = false → whole → (∃ x ∈ rs, 4 ≤ x.stack.length) → exec .migrate s = .next (h.finish r 5 1 0)) ∧
        (h.mapLevel new = false → whole → (∀ x ∈ rs, x.stack.length < 4) → (∀ hit, h.backInvLines hit = none) → exec .migrate s =
          .next { (rs.foldl (fun (s : State) (x : Region) => s.modRegion r.job none x.base fun x => s.giveTo Party.tug (x.owner :: x.stack) x) h).setRev
            new lg a (fun _ => RevMap.tug) with moving := some (r.job, a) }))) ∧
    -- and the second
    (∀ old lg at_, op 5 → s.moving = some (r.job, a) → s.walk r.job a = .ok (old, lg, at_) →
      ok .migrate ({ s with moving := none }.tugMove r.job a lg at_ old ((r.a 1).toNat / 4 * 4 + 3)
        (s.regions.filter fun y => y.touches r.job a (2 ^ lg) && y.owner == Party.tug)))

/-- R365, R367, R373, R385, R237: a TOKEN request is the token form of its selector on a region homed here, with the host as caller, once
the host's lines of the region are back where the form narrows its rights; a refusal is answered with the fault's code, and one for want
of a block of records with ARENA. TKRET of a region of the harbourmaster that the host lent it is the harbourmaster's own; any other such
region is refused. What the request's checks answer first is the model's choice (log entry 29). -/
def Obligations.HostTokenRequests : Prop :=
  ∀ (s s2 : State) (r : HReq) (l : Loc) (es : List W64) (e : Nat), s.headReq = some r → s.level = 1 ∨ s.level = 2 → s.raising = false →
    r.ctl / 2 ^ 24 = 0 → r.ctl.testBit 15 = false → r.op = 4 → r.zeroFrom 2 = true → s.noJob r.job = false →
    let a := (r.a 0).toNat
    let p := (r.a 1).toNat
    let h := s.healWalk r.job a
    h.translate r.job a none = .ok l → (∀ k, l ≠ .peer k) →
    let form := fun (i : Instr) (n : Nat) (f : TokForm) (ps : List Party) => r.sub = n →
      (∀ t, h.hostFlush r.job a f = some t → exec i s = .next t) ∧
      (h.hostFlush r.job a f = none → h.tokenHome .host r.job none a f ps = (s2, .ok []) → exec i s = .next (s2.finish r 0 0 0)) ∧
      (h.hostFlush r.job a f = none → h.tokenHome .host r.job none a f ps = (s2, .error e) →
        exec i s = .next (if e = 256 then s2.finish r 4 0 0 else s2.finish r 5 e 0))
    (p < 2 ^ 26 → form .hostTklend 0 .lend [s.party p] ∧ form .hostTkshare 4 .share [s.party p]) ∧
    (p = 0 → form .hostTkret 1 .ret [] ∧ form .hostTksplit 2 .split [] ∧ form .hostTkjoin 3 .join [] ∧ form .hostTkunshare 5 .unshare [] ∧
      form .hostTkclaim 8 .claim [] ∧ form .hostTkatom 6 (.atom false) []) ∧
    (p = 2 ^ 32 → form .hostTkatom 6 (.atom true) []) ∧
    (p = 0 → r.sub = 7 → h.tokenHome .host r.job none a .query [] = (s2, .ok es) → es.length = 2 → ∃ t, exec .hostTkquery s = .next t ∧
      Memory.read zeroByte t.hmem (r.addr + 0x28) 16 = es.flatMap (fun v => leBytes 8 v.toNat) ∧ t.hrqhead = (s.hrqhead + 1) % 2 ^ 32 ∧
      t.regions = s2.regions) ∧
    -- R385
    (∀ x, p = 0 → r.sub = 1 → h.hostFlush r.job a .ret = none → h.region r.job none a = some x → x.lost = false → x.owner = .hm →
      let lent := x.stack.head? = some .host ∧ x.shares = []
      (lent → h.tokenForm .hm r.job none a .ret [] = .ok s2 → exec .hostTkret s = .next (s2.finish r 0 0 0)) ∧
      (¬lent → exec .hostTkret s = .next (h.finish r 5 0x20 0)))

/-- R379-R381: attestation and firmware. The report begins with version 1; a staged image that passes every check goes to the slot that
did not boot; a commit raises MINSVN to the booted image's SVN. SHA-384 and ECDSA P-384, with the byte order of keys and signatures, are
taken from outside the specification (log entry 16), what the fuses hold is open (log entry 7), and so is FWSTAGE where no slot is booted
(log entry 91). -/
def Obligations.FirmwareRequests : Prop :=
  ∀ (s : State) (r : HReq) (f : Firmware), s.headReq = some r → (s.level = 1 ∨ s.level = 2 ∨ s.level = 3) → s.raising = false → r.ctl / 2 ^ 24 = 0 →
    r.ctl.testBit 15 = false → r.sub = 0 →
    let len := (r.a 1).toNat
    let dst := len
    let img := Memory.read zeroByte s.hmem (r.a 0).toNat len
    let num := fun o n => leValue ((img.drop o).take n)
    let body := img.drop 0x100
    let key := (img.drop 0x40).take 96
    (r.op = 8 → r.zeroFrom 2 = true → s.bootedFw = some f → ∃ t, exec .attest s = .next t ∧ t.hrqhead = (s.hrqhead + 1) % 2 ^ 32 ∧ t.hbm = s.hbm ∧
      t.minsvn = s.minsvn ∧ (r.addr + 0x40 ≤ dst → Memory.read zeroByte t.hmem dst 4 = [1, 0, 0, 0])) ∧
    (r.op = 9 → r.zeroFrom 2 = true → 0x100 ≤ len → len ≤ 2 ^ 26 + 0x100 → num 0 4 = 0x5A394657 → num 4 4 = 1 → num 0x0C 4 % 4096 = 0 →
      len = 0x100 + num 0x0C 4 → sha384 body = (img.drop 0x10).take 48 →
      let g : Firmware := ⟨num 8 4, BitVec.ofNat 768 (leValue key), body, true⟩
      let signed := ecdsaVerify key (sha384 (img.take 0xA0)) ((img.drop 0xA0).take 96)
      exec .fwstage s = .next (if keyKnown key = false then s.finish r 9 2 0 else if signed = false then s.finish r 9 3 0
        else if num 8 4 < s.minsvn then s.finish r 9 4 0
        else (if s.booted = some true then { s with slotB := some g } else { s with slotA := some g }).finish r 0 0 0)) ∧
    (r.op = 9 → len < 0x100 → exec .fwstage s = .next (s.finish r 1 0 0)) ∧
    (s.level ≠ 3 → r.op = 10 → r.zeroFrom 0 = true → s.bootedFw = some f → exec .fwcommit s =
      .next ({ s with minsvn := Nat.max s.minsvn f.svn }.finish r 0 0 0)) ∧
    (s.level = 3 → r.op = 10 → exec .fwcommit s = .next (s.finish r 8 0 0))

/-- Words that the examples of the specification write out, and what they stand for. -/
def Obligations.WrittenWords : Prop :=
  decodePier 0x54046080 = some (.fst 2 3 1) ∧
  decodeBerth 0xF900000000000000 = .ok (.acczero ⟨true, false, 0, 0⟩ 0 .single) ∧
  decodeBerth 0xA10007E00000012C = .ok (.call ⟨true, false, 0, 0⟩ 63 300) ∧
  decodeBerth 0xA300001F80000000 = .ok (.ret ⟨true, false, 0, 0⟩ 63) ∧
  decodeBerth 0xFC000000A0000000 = .ok (.mpbld ⟨true, false, 0, 0⟩ 20) ∧
  decodeBerth 0x6D0001A600000006 = .ok (.probe ⟨false, false, 0, 0⟩ 13 12 0 6) ∧
  decodeBerth 0xE000000050000000 = .ok (.vld ⟨true, false, 0, 0⟩ ⟨0, .h, 0⟩ 20 0 .w32 0) ∧
  decodeBerth 0xF60002403A010000 = .ok (.mmul ⟨true, false, 0, 0⟩ 1 2 7 .quad true false) ∧
  decodeWharf 0x0000241083000000 = some (.pool ⟨.none, 0, false, 0⟩ 1 2 3 0 .sum false false)

/-- How a step runs instructions (log entry 1). A turn of the agenda that is no word of a berth, a pier or a wharf unit is executed on its
subject. A turn of a berth is its GROUP_ISSUE. A pier run executes the instruction that the word at its offset decodes to, and a wharf
unit the command at the head of its ring. A word that the decoder refuses ends the step in a fault (log entry 12), and how a program comes
to run is log entry 18. -/
def Obligations.StepRunsTheDecodedInstruction : Prop :=
  ∀ s : State,
    (∀ t l, s.agenda = some t :: l → isStep t.instr = true → step s = exec t.instr { s with agenda := l, subj := t.subj }) ∧
    (s.agenda = [] →
      (∀ b, s.agent = .issue b → step s = exec .groupIssue { s with subj := ⟨b, 0, 0, 0⟩ }) ∧
      (∀ b, s.agent = .land b → step s = exec .resultLand { s with subj := ⟨b, 0, 0, 0⟩ }) ∧
      (∀ b, s.agent = .release b → step s = exec .heldOpRelease { s with subj := ⟨b, 0, 0, 0⟩ }) ∧
      (∀ p k w i, s.agent = .pier p k → s.pierFetch p k = some w → decodePier w.toNat = some i →
        step s = exec i { s with pcur := (p, k) }) ∧
      (∀ u e l i, s.agent = .wharf u → (s.unit u).ring = e :: l → decodeWharf e.word.toNat = some i →
        step s = exec i { s with wcur := u, subj := ⟨0, 0, 0, u⟩ }))

/-- R35, R36, R64: GROUP_ISSUE when nothing stands at the boundary. A fetch past the code raises BOUND at the word that is not there.
Where every word of the group has its answer: the fault of the group is raised and nothing else happens; or a word waits, or the group
issues whole and its ck ends. For a group of one word the word's own meaning says which; a word that the decoder refuses stops the machine
by name (spec/05 R86). That the fault of the word of lowest offset is raised is the model's choice (log entry 9), as is the stop at an
undecodable word (12). -/
def Obligations.GroupsIssue : Prop :=
  ∀ (s : State) (b : Nat),
    let x := s.berth b
    let c := x.ctx
    let S := { s with cur := b, subj := ⟨b, 0, 0, 0⟩ }
    s.agent = .issue b → x.st = .run → s.throttled = false → c.pilot = .run → c.pending = none →
    (s.teamOf c).map Man.ended = some false → bt x.dbgctl 63 = false → x.stepping = none → x.bps = [] → x.preempt = false →
    x.gate = false → x.replay = none → c.refusals = [] → x.shadow.entries < 1024 → (∀ f ∈ c.flights, f.rem ≠ 0) →
    let go := exec .groupIssue { s with subj := ⟨b, 0, 0, 0⟩ }
    (∀ o, fetchGroup x groupFuel c.pc = .error o → go = .next (S.takeTrap ⟨0x02, w64 o, 0, 0⟩)) ∧
    (∀ raw ws l, fetchGroup x groupFuel c.pc = .ok raw → decodeGroup raw = .ok ws → tryWords S ws = .all l →
      (∀ t, groupFault l = some t → go = .next { t with woff := 0, skip := none }) ∧
      (groupFault l = none → (∃ y ∈ l, y.2.iss = .waiting) → go = .next S.waitCk) ∧
      (groupFault l = none → (∀ y ∈ l, y.2.iss = .issued) → ∀ u, issueWords S ws = some u →
        go = .next (u.afterWords S ws (c.pc + raw.length)))) ∧
    (∀ w, c.pc < x.codelen → c.pc ≤ 32767 → c.loading c.pc = false → x.word c.pc = w → bt w 63 = true →
      (∀ code, decodeBerth w.toNat = .error code → go = .fault (.undecodable code)) ∧
      (∀ i, decodeBerth w.toNat = .ok i → ∀ u, exec i { S with woff := c.pc } = .next u →
        (∀ op, u.iss = .trapped op → go = .next { u with woff := 0, skip := none }) ∧
        (u.iss = .waiting → go = .next S.waitCk) ∧
        (u.iss = .frozen → go = .next u.frozenCk) ∧
        (u.iss = .issued → go = .next ((u.holdNew S).afterWords S [⟨c.pc, slotClass (fld w.toNat 56 7), i⟩] (c.pc + 1)))))

/-- The state after reset, with the values at reset that the register maps of R14, R16, R124, R265, R267, R278, R280, R298, R299, R310,
R324, R354, R356, R365, R369, R374, R378 and R382 give, and those of R38 for a berth-thread that starts; the memories are in canonical
form and no berth-thread is placed. Of the values stated, those that no rule gives are the model's choice (log entries 1, 2, 3, 4, 6, 7,
126). -/
def Obligations.ResetState : Prop :=
  let s := State.reset
  s.memOk = true ∧ s.level = 0 ∧ (∀ b, (s.berth b).placed = false) ∧
  (∀ n, s.lq n = ⟨0, 0, 0, 0, [], []⟩ ∧ Tab.get (0 : W64) s.jobsched n = 0 ∧ Tab.get (0 : W64) s.jobpt n = 0 ∧
    Tab.get (0 : W64) s.pierjob n = 0 ∧ Tab.get (0 : W64) s.mctree n = 0 ∧ Tab.get (8 : W64) s.wshare n = 8 ∧
    Tab.get (0 : W64) s.poolwin n = 0 ∧ Tab.get (0 : W64) s.pooltgt n = 0) ∧
  (∀ u, (s.unit u).en = false ∧ (s.unit u).stop = false ∧ (s.unit u).done = 0 ∧ (s.unit u).ring = [] ∧ (s.unit u).stat = 0) ∧
  (∀ b, (s.berth b).dbgctl = 0 ∧ (s.berth b).bps = [] ∧ (s.berth b).dbgimg = 0) ∧
  s.fabctl = 0 ∧ s.portmap = 0x9876543210 ∧ s.wtimeout = 0x800 ∧ s.evbase = 0 ∧ s.evtail = 0 ∧ s.lost = 0 ∧ s.evhead = 0 ∧
  s.carve = 0 ∧ s.hrqbase = 0 ∧ s.hrqtail = 0 ∧ s.hrqhead = 0 ∧ s.pwrctl = 0x8000001000000960 ∧ s.pwrstat = 0 ∧
  (let c := Ctx.start
   (∀ l, Tab.get Loop.zero c.loops l = ⟨0, 0, 0, 0, 0⟩) ∧ (∀ k, k ≠ 0 → c.kmask k = 0) ∧ c.kmask 0 = BitVec.allOnes 512 ∧
   c.streams = [] ∧ c.rings = [] ∧ c.windows = [] ∧ c.fq = [] ∧ c.sq = none ∧ c.rb = 0 ∧ c.ld = 128 ∧ c.mrf = [] ∧
   (∀ k r n, c.accCell k r n = 0) ∧ c.banks = [] ∧ (∀ a, Memory.get zeroByte c.spad a = 0) ∧ c.ways = [] ∧ c.aside = none ∧
   c.tcause = 0 ∧ c.tpc = 0 ∧ c.taddr = 0 ∧ c.tvec = 0 ∧ c.tscratch = 0 ∧ c.hs = false ∧ c.drop = false ∧ c.spexp = 0 ∧
   ∀ n, Tab.get (0 : W64) c.ptconf n = 0)

/-- R67: a well-formed berth word is encoded in 64 bits, and decoding gives it back. -/
def Obligations.BerthEncoding : Prop :=
  ∀ (i : Instr) (h : Hd), wordHead i = some h → i.wf = true → ∃ w, encodeBerth i = some w ∧ w < 2 ^ 64 ∧ decodeBerth w = .ok i

/-- R289 and R304: a well-formed pier word is encoded in 32 bits and a well-formed wharf command in 64; each has its word, and decoding
gives it back. -/
def Obligations.PierAndWharfEncoding : Prop :=
  ∀ i : Instr, i.wf = true →
    (pierHead i = true → ∃ w, encodePier i = some w ∧ w < 2 ^ 32 ∧ decodePier w = some i) ∧
    (∀ x, wharfHead i = some x → ∃ w, encodeWharf i = some w ∧ w < 2 ^ 64 ∧ decodeWharf w = some i) ∧
    (pierHead i = false → encodePier i = none) ∧ (wharfHead i = none → encodeWharf i = none)

/-- The byte memories keep their canonical form: HBM, the pool and host memory. -/
def Obligations.MemoryStaysCanonical : Prop :=
  ∀ s t : State, s.memOk = true → step s = .next t → t.memOk = true

/-- R45: what a berth word changes when it is tried or issues. The device keeps everything but the event log, the teams, the berths and,
for LAYSET, the layout records; a fault TOKEN.LOST also marks the record it met (R351). Another berth changes only its weight banks
(WLOAD) and its active bank (WSWAP), and, where the word's fault ends the team (R336), whether it goes on to its end (R31). In its own
berth no scalar register, mask, matrix register, scratchpad byte or (but for ACCCONF, which frees all) accumulator changes at issue:
results land later. Host memory changes only in the 32 bytes of an event record: that of TOKEN.LOST, and after it that of a fault that
ends the team. -/
def Obligations.BerthWordFrame : Prop :=
  ∀ (i : Instr) (h : Hd) (s t : State), wordHead i = some h → Memory.wf zeroByte s.hmem = true → exec i s = .next t →
    let c := s.ctx
    let ends := (∃ op, t.iss = .trapped op) ∧ (c.tvec.getLsbD 63 = false ∨ c.hs = true)
    ∃ u, (u = s ∨ ∃ x : TrapInfo, x.code = 0x24 ∧ u = s.loseOwn x) ∧
      -- the device
      u.keepsDevice { t with layouts := u.layouts } ∧ u.layouts = s.layouts ∧
      ((∀ l n, i ≠ .layset h l n) → t.layouts = s.layouts) ∧
      -- the event log and host memory
      s.evOrKeep u ∧ u.evOrKeep t ∧ (¬ends → t.hmem = u.hmem ∧ t.evtail = u.evtail ∧ t.msi = u.msi ∧ t.evHeld = u.evHeld ∧ t.lost = u.lost) ∧
      -- the other berths
      (∀ b, b ≠ s.cur → ∃ y, (y = s.berth b ∨ ends ∧ (s.berth b).placed = true ∧ (s.ctxAt b).team = c.team ∧ y = (s.berth b).endNow) ∧
        t.berth b = { y with ctx := { s.ctxAt b with banks := (t.ctxAt b).banks, active := (t.ctxAt b).active } } ∧
        ((∀ q g f, i ≠ .wload h q g f) → (∀ g, i ≠ .wswap h g) → t.berth b = y)) ∧
      -- its own
      (let d := t.ctxAt s.cur
       d.sregs = c.sregs ∧ d.kmasks = c.kmasks ∧ d.mrf = c.mrf ∧ d.spad = c.spad ∧ d.rb = c.rb ∧ d.ld = c.ld ∧
       ((∀ m, i ≠ .accconf h m) → d.acc = c.acc ∧ d.live = c.live))
end

