-- ==== Sys2Proof/Laws/Frames.lean ====
section
/-! SUPPORT. What a link frame carries: the data symbols of its columns give back the flit and its CRC (spec/19 R269). -/

namespace Sys2Proof.Machine
open Sys2Proof

theorem chunks_flatten {α : Type} (n k : Nat) (l : List α) (h : l.length = n * k) : (chunks n k l).flatten = l := by
  induction k generalizing l with
  | zero => simp only [Nat.mul_zero, List.length_eq_zero_iff] at h; simp [chunks, h]
  | succ k ih => rw [chunks, List.flatten_cons, ih _ (by simp [h, Nat.mul_succ]), List.take_append_drop]

theorem length_of_mem_chunks {α : Type} (n k : Nat) (l c : List α) (h : l.length = n * k) (hc : c ∈ chunks n k l) : c.length = n := by
  induction k generalizing l with
  | zero => simp [chunks] at hc
  | succ k ih =>
    rcases List.mem_cons.1 hc with rfl | hc
    · simp [h, Nat.mul_succ]
    · exact ih _ (by simp [h, Nat.mul_succ]) hc

theorem chunks_flatMap {α β : Type} (n : Nat) (l : List α) (f : α → List β) (h : ∀ a, (f a).length = n) :
    chunks n l.length (l.flatMap f) = l.map f := by
  induction l with
  | nil => rfl
  | cons a l ih => simp [chunks, List.take_left' (h a), List.drop_left' (h a), ih]

theorem bitsNat_testBit (c : List Bool) (i : Nat) : (bitsNat c).testBit i = c.getD i false := by
  induction c generalizing i with
  | nil => simp [bitsNat]
  | cons b c ih =>
    have hb : bitsNat (b :: c) = 2 * bitsNat c + bit b := rfl
    cases i with
    | zero => cases b <;> simp [hb, bit, Nat.testBit_zero, Nat.add_mod]
    | succ i =>
      have : bitsNat (b :: c) / 2 = bitsNat c := by cases b <;> simp [hb, bit]; omega
      rw [Nat.testBit_succ, this, ih]; rfl

theorem bitsNat_bits (n : Nat) (c : List Bool) (h : c.length = n) : (List.range n).map (bitsNat c).testBit = c := by
  apply List.ext_getElem (by simp [h])
  intro i h1 h2
  simp [bitsNat_testBit, List.getD_eq_getElem?_getD, List.getElem?_eq_getElem h2]

theorem symbolBits_chunks (k : Nat) (l : List Bool) (h : l.length = 10 * k) : symbolBits ((chunks 10 k l).map bitsNat) = l := by
  rw [symbolBits, List.flatMap_map, List.flatMap_def, List.map_congr_left (g := id)]
  · simp [chunks_flatten 10 k l h]
  · intro c hc; exact bitsNat_bits 10 c (length_of_mem_chunks 10 k l c h hc)

theorem byteBits_length (l : List Byte) : (byteBits l).length = 8 * l.length := by
  simp [byteBits, List.length_flatMap, Nat.mul_comm]

theorem bitBytes_byteBits (l : List Byte) : bitBytes (byteBits l) = l := by
  rw [bitBytes, byteBits_length, Nat.mul_div_cancel_left _ (by decide), byteBits, chunks_flatMap 8 _ _ (by simp), List.map_map]
  refine (List.map_congr_left fun b _ => ?_).trans (List.map_id l)
  apply BitVec.eq_of_getLsbD_eq
  intro i hi
  rw [Function.comp, BitVec.getLsbD, BitVec.toNat_ofNat, Nat.testBit_mod_two_pow]
  simp [bitsNat_testBit, hi, BitVec.getLsbD]

theorem leBytes_length (n v : Nat) : (leBytes n v).length = n := by
  induction n generalizing v with
  | zero => rfl
  | succ n ih => simp [leBytes, ih]

theorem leValue_leBytes (n v : Nat) : leValue (leBytes n v) = v % 2 ^ (8 * n) := by
  induction n generalizing v with
  | zero => simp [leBytes, leValue, Nat.mod_one]
  | succ n ih =>
    have : (2 : Nat) ^ (8 * (n + 1)) = 256 * 2 ^ (8 * n) := by rw [Nat.mul_succ, Nat.pow_add]; omega
    simp [leBytes, leValue, ih, this, Nat.mod_mul]

/-- Whatever a coder appends to the data symbols of the columns, they give back the flit and the CRC word that stand in them. -/
theorem flitOf_columns (x : List Byte) (w : W32) (lanes n : Nat) (f : List Nat → List Nat) (hx : x.length = 256)
    (hn : lanes * n = 208) (hf : ∀ c, c.length = lanes → (f c).take lanes = c) :
    flitOf lanes ((chunks lanes n ((chunks 10 208 (byteBits (x ++ leBytes 4 w.toNat))).map bitsNat)).map f) = (x, w) := by
  have hb : (byteBits (x ++ leBytes 4 w.toNat)).length = 10 * 208 := by simp [byteBits_length, hx, leBytes_length]
  have hl : ∀ (k : Nat) (l : List Bool), (chunks 10 k l).length = k := by
    intro k; induction k with
    | zero => intro; rfl
    | succ k ih => intro l; simp [chunks, ih]
  have hs : ((chunks 10 208 (byteBits (x ++ leBytes 4 w.toNat))).map bitsNat).length = lanes * n := by rw [List.length_map, hl, hn]
  have hc : ((chunks lanes n ((chunks 10 208 (byteBits (x ++ leBytes 4 w.toNat))).map bitsNat)).map f).flatMap (fun c => c.take lanes) =
      (chunks 10 208 (byteBits (x ++ leBytes 4 w.toNat))).map bitsNat := by
    rw [List.flatMap_map, List.flatMap_def, List.map_congr_left (g := id), List.map_id, chunks_flatten _ _ _ hs]
    intro c h
    exact hf c (length_of_mem_chunks _ _ _ c hs h)
  rw [flitOf, hc, symbolBits_chunks _ _ hb, bitBytes_byteBits]
  have hw : BitVec.ofNat 32 (w.toNat % 4294967296) = w := by rw [Nat.mod_eq_of_lt w.isLt]; simp
  simp [← hx, leValue_leBytes, hw]

/-- A frame as a port sends it carries its flit and the flit's CRC. -/
theorem flitOf_frameOf (p : Port) (seq : Nat) (x : List Byte) (hx : x.length = 256) :
    flitOf p.dataLanes (p.frameOf seq x).cols = (x, crc32c x) := by
  apply flitOf_columns x (crc32c x) _ _ rsEncode hx
  · unfold Port.dataLanes Port.columns; split <;> rfl
  · intro c hc; simp [rsEncode, ← hc]

end Sys2Proof.Machine
end

