-- ==== Sys2Proof/Laws/Tab.lean ====
section
/-! SUPPORT. Laws of sparse tables and byte memories: a read after a write, and the canonical form. -/

namespace Sys2Proof.Machine
open Sys2Proof

-- tables ----------------------------------------------------------------------------------------------------------

theorem Tab.get_erase {α : Type} (z : α) (t : Tab α) (i j : Nat) :
    Tab.get z (Tab.erase t i) j = if j = i then z else Tab.get z t j := by
  induction t with
  | nil => simp [Tab.erase, Tab.get]
  | cons p t ih =>
    obtain ⟨k, v⟩ := p
    by_cases h : i = k
    · subst h
      simp only [Tab.erase, if_true, ih, Tab.get]
      split <;> simp_all
    · by_cases hk : j = k
      · subst hk
        simp [Tab.erase, Tab.get, h, Ne.symm h]
      · simp [Tab.erase, Tab.get, ih, h, hk]

theorem Tab.get_insert {α : Type} (z : α) (t : Tab α) (i j : Nat) (x : α) :
    Tab.get z (Tab.insert t i x) j = if j = i then x else Tab.get z t j := by
  induction t with
  | nil => simp [Tab.insert, Tab.get]
  | cons p t ih =>
    obtain ⟨k, v⟩ := p
    by_cases h : i = k
    · subst h
      by_cases hj : j = i <;> simp [Tab.insert, Tab.get, hj]
    · by_cases hl : i < k
      · by_cases hj : j = i <;> simp [Tab.insert, Tab.get, h, hl, hj]
      · by_cases hk : j = k
        · subst hk
          simp [Tab.insert, Tab.get, h, hl, Ne.symm h]
        · simp [Tab.insert, Tab.get, h, hl, hk, ih]

/-- A read after a write of a table. -/
@[simp] theorem Tab.get_set {α : Type} [DecidableEq α] (z : α) (t : Tab α) (i j : Nat) (x : α) :
    Tab.get z (Tab.set z t i x) j = if j = i then x else Tab.get z t j := by
  unfold Tab.set
  split
  · rename_i h
    subst h
    exact Tab.get_erase x t i j
  · exact Tab.get_insert z t i j x

/-- A read after an update of a table. -/
@[simp] theorem Tab.get_upd {α : Type} [DecidableEq α] (z : α) (t : Tab α) (i j : Nat) (f : α → α) :
    Tab.get z (Tab.upd z t i f) j = if j = i then f (Tab.get z t i) else Tab.get z t j := by
  simp [Tab.upd]

theorem Tab.rising_mono {α : Type} (t : Tab α) {lo lo' : Nat} (h : lo' ≤ lo) (ht : Tab.rising lo t = true) :
    Tab.rising lo' t = true := by
  cases t with
  | nil => rfl
  | cons p t =>
    obtain ⟨k, v⟩ := p
    simp only [Tab.rising, Bool.and_eq_true, decide_eq_true_eq] at ht ⊢
    exact ⟨le_trans h ht.1, ht.2⟩

theorem Tab.rising_erase {α : Type} (t : Tab α) (lo i : Nat) (ht : Tab.rising lo t = true) :
    Tab.rising lo (Tab.erase t i) = true := by
  induction t generalizing lo with
  | nil => rfl
  | cons p t ih =>
    obtain ⟨k, v⟩ := p
    simp only [Tab.rising, Bool.and_eq_true, decide_eq_true_eq] at ht
    by_cases h : i = k
    · simp only [Tab.erase, h, if_true]
      exact Tab.rising_mono _ (by omega) (h ▸ ih (k + 1) ht.2)
    · simp only [Tab.erase, h, if_false, Tab.rising, Bool.and_eq_true, decide_eq_true_eq]
      exact ⟨ht.1, ih (k + 1) ht.2⟩

theorem Tab.rising_insert {α : Type} (t : Tab α) (lo i : Nat) (x : α) (hi : lo ≤ i) (ht : Tab.rising lo t = true) :
    Tab.rising lo (Tab.insert t i x) = true := by
  induction t generalizing lo with
  | nil => simp [Tab.insert, Tab.rising, hi]
  | cons p t ih =>
    obtain ⟨k, v⟩ := p
    simp only [Tab.rising, Bool.and_eq_true, decide_eq_true_eq] at ht
    by_cases h : i = k
    · subst h
      simp [Tab.insert, Tab.rising, hi, ht.2]
    · by_cases hl : i < k
      · simp only [Tab.insert, h, hl, if_false, if_true, Tab.rising, Bool.and_eq_true, decide_eq_true_eq]
        exact ⟨hi, by omega, ht.2⟩
      · simp only [Tab.insert, h, hl, if_false, Tab.rising, Bool.and_eq_true, decide_eq_true_eq]
        exact ⟨ht.1, ih (k + 1) (by omega) ht.2⟩

theorem Tab.all_erase {α : Type} (p : Nat × α → Bool) (t : Tab α) (i : Nat) (ht : t.all p = true) : (Tab.erase t i).all p = true := by
  induction t with
  | nil => rfl
  | cons q t ih =>
    obtain ⟨k, v⟩ := q
    simp only [List.all_cons, Bool.and_eq_true] at ht
    by_cases h : i = k
    · simp only [Tab.erase, h, if_true]
      exact h ▸ ih ht.2
    · simp [Tab.erase, h, ht.1, ih ht.2]

theorem Tab.all_insert {α : Type} (p : Nat × α → Bool) (t : Tab α) (i : Nat) (x : α) (hx : p (i, x) = true) (ht : t.all p = true) :
    (Tab.insert t i x).all p = true := by
  induction t with
  | nil => simp [Tab.insert, hx]
  | cons q t ih =>
    obtain ⟨k, v⟩ := q
    simp only [List.all_cons, Bool.and_eq_true] at ht
    by_cases h : i = k
    · simp [Tab.insert, h, ht.2]
      exact h ▸ hx
    · by_cases hl : i < k
      · simp only [Tab.insert, h, hl, if_false, if_true, List.all_cons, hx, ht.1, ht.2, Bool.and_self]
      · simp [Tab.insert, h, hl, ht.1, ih ht.2]

/-- A write keeps the canonical form of a table. -/
theorem Tab.wf_set {α : Type} [DecidableEq α] (z : α) (t : Tab α) (i : Nat) (x : α) (h : Tab.wf z t = true) :
    Tab.wf z (Tab.set z t i x) = true := by
  simp only [Tab.wf, Bool.and_eq_true] at h ⊢
  unfold Tab.set
  split
  · exact ⟨Tab.rising_erase _ _ _ h.1, Tab.all_erase _ _ _ h.2⟩
  · rename_i hx
    exact ⟨Tab.rising_insert _ _ _ _ (Nat.zero_le _) h.1, Tab.all_insert _ _ _ _ (by simpa using hx) h.2⟩

-- byte memories ---------------------------------------------------------------------------------------------------

theorem Memory.get_erase (u : Nat → Byte) (m : Memory) (a b : Nat) :
    Memory.get u (Memory.erase m a) b = if b = a then u b else Memory.get u m b := by
  induction m with
  | nil => simp [Memory.erase, Memory.get]
  | cons c m ih =>
    obtain ⟨k, v⟩ := c
    by_cases h : a = k
    · subst h
      simp only [Memory.erase, if_true, ih, Memory.get]
      split <;> simp_all
    · by_cases hk : b = k
      · subst hk
        simp [Memory.erase, Memory.get, h, Ne.symm h]
      · simp [Memory.erase, Memory.get, ih, h, hk]

theorem Memory.get_insert (u : Nat → Byte) (m : Memory) (a b : Nat) (x : Byte) :
    Memory.get u (Memory.insert m a x) b = if b = a then x else Memory.get u m b := by
  induction m with
  | nil => simp [Memory.insert, Memory.get]
  | cons c m ih =>
    obtain ⟨k, v⟩ := c
    by_cases h : a = k
    · subst h
      by_cases hb : b = a <;> simp [Memory.insert, Memory.get, hb]
    · by_cases hl : a < k
      · by_cases hb : b = a <;> simp [Memory.insert, Memory.get, h, hl, hb]
      · by_cases hk : b = k
        · subst hk
          simp [Memory.insert, Memory.get, h, hl, Ne.symm h]
        · simp [Memory.insert, Memory.get, h, hl, hk, ih]

/-- A read after a write of one byte. -/
@[simp] theorem Memory.get_set (u : Nat → Byte) (m : Memory) (a b : Nat) (x : Byte) :
    Memory.get u (Memory.set u m a x) b = if b = a then x else Memory.get u m b := by
  unfold Memory.set
  split
  · rename_i h
    rw [Memory.get_erase]
    split <;> simp_all
  · exact Memory.get_insert u m a b x

/-- A write of bytes leaves every other address alone. -/
theorem Memory.get_write_outside (u : Nat → Byte) (bs : List Byte) (m : Memory) (a b : Nat)
    (h : b < a ∨ a + bs.length ≤ b) : Memory.get u (Memory.write u m a bs) b = Memory.get u m b := by
  induction bs generalizing m a with
  | nil => rfl
  | cons x bs ih =>
    simp only [List.length_cons] at h
    rw [Memory.write, ih _ _ (by omega), Memory.get_set]
    split
    · omega
    · rfl

/-- A write of bytes gives each of its addresses its byte. -/
theorem Memory.get_write_inside (u : Nat → Byte) (bs : List Byte) (m : Memory) (a k : Nat) (h : k < bs.length) :
    Memory.get u (Memory.write u m a bs) (a + k) = bs[k] := by
  induction bs generalizing m a k with
  | nil => exact absurd h (Nat.not_lt_zero _)
  | cons x bs ih =>
    cases k with
    | zero => rw [Memory.write, Memory.get_write_outside _ _ _ _ _ (by omega)]; simp
    | succ k =>
      have h' : k < bs.length := by simpa using h
      rw [Memory.write, show a + (k + 1) = a + 1 + k by omega, ih _ _ _ h']
      rfl

/-- What was written is read back. -/
theorem Memory.read_write (u : Nat → Byte) (bs : List Byte) (m : Memory) (a : Nat) :
    Memory.read u (Memory.write u m a bs) a bs.length = bs := by
  suffices h : ∀ n (m : Memory) (a : Nat) (l : List Byte), l.length = n → (∀ k (hk : k < l.length), Memory.get u m (a + k) = l[k]) →
      Memory.read u m a n = l from
    h bs.length _ a bs rfl fun k hk => Memory.get_write_inside u bs m a k hk
  intro n
  induction n with
  | zero => intro m a l hl _; rw [List.length_eq_zero_iff.mp hl]; rfl
  | succ n ih =>
    intro m a l hl hg
    cases l with
    | nil => simp at hl
    | cons x l =>
      have h0 := hg 0 (by simp)
      simp only [Nat.add_zero, List.getElem_cons_zero] at h0
      rw [Memory.read, h0]
      congr 1
      apply ih m (a + 1) l (by simpa using hl)
      intro k hk
      have := hg (k + 1) (by simpa using hk)
      rw [show a + 1 + k = a + (k + 1) by omega, this]
      rfl

theorem Memory.rising_mono (m : Memory) {lo lo' : Nat} (h : lo' ≤ lo) (hm : Memory.rising lo m = true) :
    Memory.rising lo' m = true := by
  cases m with
  | nil => rfl
  | cons c m =>
    obtain ⟨k, v⟩ := c
    simp only [Memory.rising, Bool.and_eq_true, decide_eq_true_eq] at hm ⊢
    exact ⟨le_trans h hm.1, hm.2⟩

theorem Memory.rising_erase (m : Memory) (lo a : Nat) (hm : Memory.rising lo m = true) :
    Memory.rising lo (Memory.erase m a) = true := by
  induction m generalizing lo with
  | nil => rfl
  | cons c m ih =>
    obtain ⟨k, v⟩ := c
    simp only [Memory.rising, Bool.and_eq_true, decide_eq_true_eq] at hm
    by_cases h : a = k
    · simp only [Memory.erase, h, if_true]
      exact Memory.rising_mono _ (by omega) (h ▸ ih (k + 1) hm.2)
    · simp only [Memory.erase, h, if_false, Memory.rising, Bool.and_eq_true, decide_eq_true_eq]
      exact ⟨hm.1, ih (k + 1) hm.2⟩

theorem Memory.rising_insert (m : Memory) (lo a : Nat) (x : Byte) (ha : lo ≤ a) (hm : Memory.rising lo m = true) :
    Memory.rising lo (Memory.insert m a x) = true := by
  induction m generalizing lo with
  | nil => simp [Memory.insert, Memory.rising, ha]
  | cons c m ih =>
    obtain ⟨k, v⟩ := c
    simp only [Memory.rising, Bool.and_eq_true, decide_eq_true_eq] at hm
    by_cases h : a = k
    · subst h
      simp [Memory.insert, Memory.rising, ha, hm.2]
    · by_cases hl : a < k
      · simp only [Memory.insert, h, hl, if_false, if_true, Memory.rising, Bool.and_eq_true, decide_eq_true_eq]
        exact ⟨ha, by omega, hm.2⟩
      · simp only [Memory.insert, h, hl, if_false, Memory.rising, Bool.and_eq_true, decide_eq_true_eq]
        exact ⟨hm.1, ih (k + 1) (by omega) hm.2⟩

theorem Memory.all_erase (p : Host.Cell → Bool) (m : Memory) (a : Nat) (hm : m.all p = true) : (Memory.erase m a).all p = true := by
  induction m with
  | nil => rfl
  | cons c m ih =>
    obtain ⟨k, v⟩ := c
    simp only [List.all_cons, Bool.and_eq_true] at hm
    by_cases h : a = k
    · simp only [Memory.erase, h, if_true]
      exact h ▸ ih hm.2
    · simp [Memory.erase, h, hm.1, ih hm.2]

theorem Memory.all_insert (p : Host.Cell → Bool) (m : Memory) (a : Nat) (x : Byte) (hx : p (a, x) = true) (hm : m.all p = true) :
    (Memory.insert m a x).all p = true := by
  induction m with
  | nil => simp [Memory.insert, hx]
  | cons c m ih =>
    obtain ⟨k, v⟩ := c
    simp only [List.all_cons, Bool.and_eq_true] at hm
    by_cases h : a = k
    · simp [Memory.insert, h, hm.2]
      exact h ▸ hx
    · by_cases hl : a < k
      · simp only [Memory.insert, h, hl, if_false, if_true, List.all_cons, hx, hm.1, hm.2, Bool.and_self]
      · simp [Memory.insert, h, hl, hm.1, ih hm.2]

/-- A write of one byte keeps the canonical form. -/
theorem Memory.wf_set (u : Nat → Byte) (m : Memory) (a : Nat) (x : Byte) (h : Memory.wf u m = true) :
    Memory.wf u (Memory.set u m a x) = true := by
  simp only [Memory.wf, Bool.and_eq_true] at h ⊢
  unfold Memory.set
  split
  · exact ⟨Memory.rising_erase _ _ _ h.1, Memory.all_erase _ _ _ h.2⟩
  · rename_i hx
    exact ⟨Memory.rising_insert _ _ _ _ (Nat.zero_le _) h.1, Memory.all_insert _ _ _ _ (by simpa using hx) h.2⟩

/-- A write of bytes keeps the canonical form. -/
theorem Memory.wf_write (u : Nat → Byte) (bs : List Byte) (m : Memory) (a : Nat) (h : Memory.wf u m = true) :
    Memory.wf u (Memory.write u m a bs) = true := by
  induction bs generalizing m a with
  | nil => exact h
  | cons x bs ih => exact ih _ _ (Memory.wf_set u m a x h)

/-- A write of listed cells keeps the canonical form. -/
theorem Memory.wf_writeCells (u : Nat → Byte) (cs : List Host.Cell) (m : Memory) (h : Memory.wf u m = true) :
    Memory.wf u (Memory.writeCells u m cs) = true := by
  induction cs generalizing m with
  | nil => exact h
  | cons c cs ih => exact ih _ (Memory.wf_set u m c.1 c.2 h)

/-- A write of listed cells leaves an address that is not listed alone. -/
theorem Memory.get_writeCells_outside (u : Nat → Byte) (cs : List Host.Cell) (m : Memory) (b : Nat)
    (h : ∀ c ∈ cs, c.1 ≠ b) : Memory.get u (Memory.writeCells u m cs) b = Memory.get u m b := by
  induction cs generalizing m with
  | nil => rfl
  | cons c cs ih =>
    rw [Memory.writeCells, ih _ fun d hd => h d (List.mem_cons_of_mem _ hd), Memory.get_set]
    split
    · rename_i hb
      exact absurd hb.symm (h c (List.mem_cons_self ..))
    · rfl

end Sys2Proof.Machine
end

