-- ==== Sys2Proof/Laws/Issue.lean ====
section
/-! SUPPORT. What the issue of a berth word does, said once: guarded off, or its verdict; and the accessors of the berths. -/

namespace Sys2Proof.Machine
open Sys2Proof

/-- A word that is guarded off (spec/03 R37). -/
theorem issue_off {h : Hd} {v : State → Verdict} {eff : State → State} {s : State} (hg : s.ctx.guard h = false) :
    issue h v eff s = .next { s with iss := .issued } := by simp [issue, hg]

/-- A word whose checks say that it issues. -/
theorem issue_go {h : Hd} {v : State → Verdict} {eff : State → State} {s : State} (hg : s.ctx.guard h = true) (hv : v s = .go) :
    issue h v eff s = .next { eff s with iss := .issued } := by simp [issue, hg, hv]

/-- A word that faults at issue. -/
theorem issue_trap {h : Hd} {v : State → Verdict} {eff : State → State} {s : State} {t : TrapInfo} (hg : s.ctx.guard h = true)
    (hv : v s = .trap t) : issue h v eff s = .next { (s.loseOwn t).takeTrap t with iss := .trapped none } := by simp [issue, hg, hv]

/-- No fault but TOKEN.LOST marks a record of the own export (spec/23 R351). -/
theorem loseOwn_of_ne {s : State} {t : TrapInfo} (h : t.code ≠ 0x24) : s.loseOwn t = s := by simp [State.loseOwn, fcTokenLost, h]

/-- A word that raises a failure at its consuming group (spec/15 R218). -/
theorem issue_raise {h : Hd} {v : State → Verdict} {eff : State → State} {s u : State} {t : TrapInfo} {op : Nat}
    (hg : s.ctx.guard h = true) (hv : v s = .raise u t op) :
    issue h v eff s = .next { u.takeTrap t with iss := .trapped (some op) } := by simp [issue, hg, hv]

/-- A word that holds the freeze line. -/
theorem issue_freeze {h : Hd} {v : State → Verdict} {eff : State → State} {s u : State} (hg : s.ctx.guard h = true)
    (hv : v s = .freeze u) : issue h v eff s = .next { u with iss := .frozen } := by simp [issue, hg, hv]

/-- A word that waits for held operations (spec/09 R388). -/
theorem issue_wait {h : Hd} {v : State → Verdict} {eff : State → State} {s : State} (hg : s.ctx.guard h = true)
    (hv : v s = .wait) : issue h v eff s = .next { s with iss := .waiting } := by simp [issue, hg, hv]

/-- A word with no check whose result flies. -/
theorem issueFly_go {h : Hd} {l : Nat} {e : Ctx → Eff} {s : State} (hg : s.ctx.guard h = true) :
    issueFly h l e s = .next (s.flown l (e s.ctx) false) := issue_go hg rfl

/-- A scalar form: its result flies. -/
theorem scalar_go {h : Hd} {l d : Nat} {f : Ctx → W64} {s : State} (hg : s.ctx.guard h = true) :
    scalar h l d f s = .next (s.flown l (.sreg d (f s.ctx)) false) := issueFly_go hg

/-- A vector form: its result flies. -/
theorem vector_go {h : Hd} {l : Nat} {ns : List MName} {e : Ctx → Eff} {s : State} (hg : s.ctx.guard h = true) :
    vector h l ns e s = .next (s.flown l (e s.ctx) (names3 ns)) := issue_go hg rfl

/-- A change of the running context alone. -/
theorem modCtx_issued (s : State) (f : Ctx → Ctx) : ({ s.modCtx f with iss := .issued } : State) = s.withCtx (f s.ctx) := rfl

/-- A word that changes the running context alone. -/
theorem issue_ctx {h : Hd} {v : State → Verdict} {f : Ctx → Ctx} {s : State} (hg : s.ctx.guard h = true) (hv : v s = .go) :
    issue h v (fun s => s.modCtx f) s = .next (s.withCtx (f s.ctx)) := issue_go hg hv

/-- A control transfer in a delay group has no effect (spec/05 R85). -/
theorem issueTransfer_delay {h : Hd} {v : State → Verdict} {eff : State → State} {s : State} (hb : s.ctx.branch.isSome = true) :
    issueTransfer h v eff s = .next { s with iss := .issued } := by simp [issueTransfer, hb]

/-- The same in the delay groups of a PROBE that hits (spec/15 R226). -/
theorem issueTransfer_quiet {h : Hd} {v : State → Verdict} {eff : State → State} {s : State} (hq : s.ctx.quiet ≠ 0) :
    issueTransfer h v eff s = .next { s with iss := .issued } := by simp [issueTransfer, hq]

/-- A control transfer outside one issues as a word does. -/
theorem issueTransfer_free {h : Hd} {v : State → Verdict} {eff : State → State} {s : State} (hb : s.ctx.branch = none)
    (hq : s.ctx.quiet = 0) : issueTransfer h v eff s = issue h v eff s := by simp [issueTransfer, hb, hq]

-- checks --------------------------------------------------------------------------------------------------------------

theorem checks_nil : checks [] = none := rfl

/-- A list of checks passes when its first check and the rest pass. -/
theorem checks_cons_none {o : Option (Nat × W64)} {l : List (Option (Nat × W64))} (ho : o = none) (hl : checks l = none) :
    checks (o :: l) = none := by subst ho; exact hl

/-- The first check that fails decides. -/
theorem checks_cons_some {p : Nat × W64} {l : List (Option (Nat × W64))} : checks (some p :: l) = some p := rfl

/-- Checks pass exactly when every one passes. -/
theorem checks_eq_none {l : List (Option (Nat × W64))} : checks l = none ↔ ∀ o ∈ l, o = none := by
  induction l with
  | nil => simp [checks]
  | cons o l ih => cases o <;> simp [checks, ih]

/-- Checks of two lists. -/
theorem checks_append_none {l m : List (Option (Nat × W64))} (hl : checks l = none) (hm : checks m = none) :
    checks (l ++ m) = none := by
  rw [checks_eq_none] at *
  intro o ho
  rcases List.mem_append.mp ho with h | h
  · exact hl o h
  · exact hm o h

@[simp] theorem chk_false {code : Nat} {addr : W64} : chk false code addr = none := rfl
@[simp] theorem chk_true {code : Nat} {addr : W64} : chk true code addr = some (code, addr) := rfl

/-- The verdict when every check passes. -/
theorem verdict_of_none {l : List (Option (Nat × W64))} {k : Verdict} (h : checks l = none) : Verdict.of l k = k := by
  simp [Verdict.of, h]

/-- The verdict when a check fails. -/
theorem verdict_of_some {l : List (Option (Nat × W64))} {k : Verdict} {code : Nat} {addr : W64} (h : checks l = some (code, addr)) :
    Verdict.of l k = flt code addr := by simp [Verdict.of, h]

-- berths ----------------------------------------------------------------------------------------------------------------

@[simp] theorem berth_setBerth (s : State) (b k : Nat) (x : Berth) : (s.setBerth b x).berth k = if k = b then x else s.berth k := by
  simp [State.setBerth, State.berth]

@[simp] theorem berth_modBerth (s : State) (b k : Nat) (f : Berth → Berth) :
    (s.modBerth b f).berth k = if k = b then f (s.berth b) else s.berth k := by simp [State.modBerth]

@[simp] theorem ctxAt_modCtxAt (s : State) (b k : Nat) (f : Ctx → Ctx) :
    (s.modCtxAt b f).ctxAt k = if k = b then f (s.ctxAt b) else s.ctxAt k := by
  by_cases h : k = b <;> simp [State.modCtxAt, State.ctxAt, h]

@[simp] theorem ctx_withCtx (s : State) (c : Ctx) : (s.withCtx c).ctx = c := by
  simp [State.withCtx, State.ctx, State.ctxAt, State.berth]

/-- A word that changes its own context alone leaves every other berth as it was. -/
theorem berth_withCtx (s : State) (c : Ctx) (b : Nat) (hb : b ≠ s.cur) : (s.withCtx c).berth b = s.berth b := by
  simp [State.withCtx, State.berth, hb]

/-- Such a word keeps the device. -/
theorem withCtx_keepsDevice (s : State) (c : Ctx) : s.keepsDevice (s.withCtx c) := rfl

end Sys2Proof.Machine
end

