-- ==== Sys2Proof/Laws/State.lean ====
section
/-! SUPPORT. What the updates of parts of the state leave: one lemma per field and update, by definition. -/

namespace Sys2Proof.Machine
open Sys2Proof

variable (s : State)

-- setBerth ------------------------------------------------------------------------------------------------------

@[simp] theorem agenda_setBerth (b : Nat) (x : Berth) : (s.setBerth b x).agenda = s.agenda := rfl
@[simp] theorem agent_setBerth (b : Nat) (x : Berth) : (s.setBerth b x).agent = s.agent := rfl
@[simp] theorem subj_setBerth (b : Nat) (x : Berth) : (s.setBerth b x).subj = s.subj := rfl
@[simp] theorem cur_setBerth (b : Nat) (x : Berth) : (s.setBerth b x).cur = s.cur := rfl
@[simp] theorem wcur_setBerth (b : Nat) (x : Berth) : (s.setBerth b x).wcur = s.wcur := rfl
@[simp] theorem pcur_setBerth (b : Nat) (x : Berth) : (s.setBerth b x).pcur = s.pcur := rfl
@[simp] theorem woff_setBerth (b : Nat) (x : Berth) : (s.setBerth b x).woff = s.woff := rfl
@[simp] theorem skip_setBerth (b : Nat) (x : Berth) : (s.setBerth b x).skip = s.skip := rfl
@[simp] theorem iss_setBerth (b : Nat) (x : Berth) : (s.setBerth b x).iss = s.iss := rfl
@[simp] theorem free_setBerth (b : Nat) (x : Berth) : (s.setBerth b x).free = s.free := rfl
@[simp] theorem nextId_setBerth (b : Nat) (x : Berth) : (s.setBerth b x).nextId = s.nextId := rfl
@[simp] theorem reply_setBerth (b : Nat) (x : Berth) : (s.setBerth b x).reply = s.reply := rfl
@[simp] theorem hbm_setBerth (b : Nat) (x : Berth) : (s.setBerth b x).hbm = s.hbm := rfl
@[simp] theorem losses_setBerth (b : Nat) (x : Berth) : (s.setBerth b x).losses = s.losses := rfl
@[simp] theorem poison_setBerth (b : Nat) (x : Berth) : (s.setBerth b x).poison = s.poison := rfl
@[simp] theorem bad_setBerth (b : Nat) (x : Berth) : (s.setBerth b x).bad = s.bad := rfl
@[simp] theorem pool_setBerth (b : Nat) (x : Berth) : (s.setBerth b x).pool = s.pool := rfl
@[simp] theorem poolPoison_setBerth (b : Nat) (x : Berth) : (s.setBerth b x).poolPoison = s.poolPoison := rfl
@[simp] theorem hmem_setBerth (b : Nat) (x : Berth) : (s.setBerth b x).hmem = s.hmem := rfl
@[simp] theorem regions_setBerth (b : Nat) (x : Berth) : (s.setBerth b x).regions = s.regions := rfl
@[simp] theorem layouts_setBerth (b : Nat) (x : Berth) : (s.setBerth b x).layouts = s.layouts := rfl
@[simp] theorem mboxes_setBerth (b : Nat) (x : Berth) : (s.setBerth b x).mboxes = s.mboxes := rfl
@[simp] theorem codeMaps_setBerth (b : Nat) (x : Berth) : (s.setBerth b x).codeMaps = s.codeMaps := rfl
@[simp] theorem revmap_setBerth (b : Nat) (x : Berth) : (s.setBerth b x).revmap = s.revmap := rfl
@[simp] theorem filter_setBerth (b : Nat) (x : Berth) : (s.setBerth b x).filter = s.filter := rfl
@[simp] theorem binv_setBerth (b : Nat) (x : Berth) : (s.setBerth b x).binv = s.binv := rfl
@[simp] theorem moving_setBerth (b : Nat) (x : Berth) : (s.setBerth b x).moving = s.moving := rfl
@[simp] theorem carveNext_setBerth (b : Nat) (x : Berth) : (s.setBerth b x).carveNext = s.carveNext := rfl
@[simp] theorem roots_setBerth (b : Nat) (x : Berth) : (s.setBerth b x).roots = s.roots := rfl
@[simp] theorem tokBlocks_setBerth (b : Nat) (x : Berth) : (s.setBerth b x).tokBlocks = s.tokBlocks := rfl
@[simp] theorem mans_setBerth (b : Nat) (x : Berth) : (s.setBerth b x).mans = s.mans := rfl
@[simp] theorem lqs_setBerth (b : Nat) (x : Berth) : (s.setBerth b x).lqs = s.lqs := rfl
@[simp] theorem jobsched_setBerth (b : Nat) (x : Berth) : (s.setBerth b x).jobsched = s.jobsched := rfl
@[simp] theorem jobpt_setBerth (b : Nat) (x : Berth) : (s.setBerth b x).jobpt = s.jobpt := rfl
@[simp] theorem pierjob_setBerth (b : Nat) (x : Berth) : (s.setBerth b x).pierjob = s.pierjob := rfl
@[simp] theorem reserve_setBerth (b : Nat) (x : Berth) : (s.setBerth b x).reserve = s.reserve := rfl
@[simp] theorem dock_setBerth (b : Nat) (x : Berth) : (s.setBerth b x).dock = s.dock := rfl
@[simp] theorem codeStore_setBerth (b : Nat) (x : Berth) : (s.setBerth b x).codeStore = s.codeStore := rfl
@[simp] theorem images_setBerth (b : Nat) (x : Berth) : (s.setBerth b x).images = s.images := rfl
@[simp] theorem units_setBerth (b : Nat) (x : Berth) : (s.setBerth b x).units = s.units := rfl
@[simp] theorem wtimeout_setBerth (b : Nat) (x : Berth) : (s.setBerth b x).wtimeout = s.wtimeout := rfl
@[simp] theorem wshare_setBerth (b : Nat) (x : Berth) : (s.setBerth b x).wshare = s.wshare := rfl
@[simp] theorem wtemp_setBerth (b : Nat) (x : Berth) : (s.setBerth b x).wtemp = s.wtemp := rfl
@[simp] theorem ckset_setBerth (b : Nat) (x : Berth) : (s.setBerth b x).ckset = s.ckset := rfl
@[simp] theorem remap_setBerth (b : Nat) (x : Berth) : (s.setBerth b x).remap = s.remap := rfl
@[simp] theorem failedCh_setBerth (b : Nat) (x : Berth) : (s.setBerth b x).failedCh = s.failedCh := rfl
@[simp] theorem postponed_setBerth (b : Nat) (x : Berth) : (s.setBerth b x).postponed = s.postponed := rfl
@[simp] theorem scrubbed_setBerth (b : Nat) (x : Berth) : (s.setBerth b x).scrubbed = s.scrubbed := rfl
@[simp] theorem scrubNext_setBerth (b : Nat) (x : Berth) : (s.setBerth b x).scrubNext = s.scrubNext := rfl
@[simp] theorem fabctl_setBerth (b : Nat) (x : Berth) : (s.setBerth b x).fabctl = s.fabctl := rfl
@[simp] theorem portmap_setBerth (b : Nat) (x : Berth) : (s.setBerth b x).portmap = s.portmap := rfl
@[simp] theorem mctree_setBerth (b : Nat) (x : Berth) : (s.setBerth b x).mctree = s.mctree := rfl
@[simp] theorem ports_setBerth (b : Nat) (x : Berth) : (s.setBerth b x).ports = s.ports := rfl
@[simp] theorem reqs_setBerth (b : Nat) (x : Berth) : (s.setBerth b x).reqs = s.reqs := rfl
@[simp] theorem mcasts_setBerth (b : Nat) (x : Berth) : (s.setBerth b x).mcasts = s.mcasts := rfl
@[simp] theorem nextTag_setBerth (b : Nat) (x : Berth) : (s.setBerth b x).nextTag = s.nextTag := rfl
@[simp] theorem fabtime_setBerth (b : Nat) (x : Berth) : (s.setBerth b x).fabtime = s.fabtime := rfl
@[simp] theorem slew_setBerth (b : Nat) (x : Berth) : (s.setBerth b x).slew = s.slew := rfl
@[simp] theorem slewed_setBerth (b : Nat) (x : Berth) : (s.setBerth b x).slewed = s.slewed := rfl
@[simp] theorem evbase_setBerth (b : Nat) (x : Berth) : (s.setBerth b x).evbase = s.evbase := rfl
@[simp] theorem evtail_setBerth (b : Nat) (x : Berth) : (s.setBerth b x).evtail = s.evtail := rfl
@[simp] theorem evhead_setBerth (b : Nat) (x : Berth) : (s.setBerth b x).evhead = s.evhead := rfl
@[simp] theorem lost_setBerth (b : Nat) (x : Berth) : (s.setBerth b x).lost = s.lost := rfl
@[simp] theorem evOnce_setBerth (b : Nat) (x : Berth) : (s.setBerth b x).evOnce = s.evOnce := rfl
@[simp] theorem evHeld_setBerth (b : Nat) (x : Berth) : (s.setBerth b x).evHeld = s.evHeld := rfl
@[simp] theorem evSeq_setBerth (b : Nat) (x : Berth) : (s.setBerth b x).evSeq = s.evSeq := rfl
@[simp] theorem msi_setBerth (b : Nat) (x : Berth) : (s.setBerth b x).msi = s.msi := rfl
@[simp] theorem hrqbase_setBerth (b : Nat) (x : Berth) : (s.setBerth b x).hrqbase = s.hrqbase := rfl
@[simp] theorem hrqtail_setBerth (b : Nat) (x : Berth) : (s.setBerth b x).hrqtail = s.hrqtail := rfl
@[simp] theorem hrqhead_setBerth (b : Nat) (x : Berth) : (s.setBerth b x).hrqhead = s.hrqhead := rfl
@[simp] theorem hostAns_setBerth (b : Nat) (x : Berth) : (s.setBerth b x).hostAns = s.hostAns := rfl
@[simp] theorem raising_setBerth (b : Nat) (x : Berth) : (s.setBerth b x).raising = s.raising := rfl
@[simp] theorem cxlcfg_setBerth (b : Nat) (x : Berth) : (s.setBerth b x).cxlcfg = s.cxlcfg := rfl
@[simp] theorem svc_setBerth (b : Nat) (x : Berth) : (s.setBerth b x).svc = s.svc := rfl
@[simp] theorem carve_setBerth (b : Nat) (x : Berth) : (s.setBerth b x).carve = s.carve := rfl
@[simp] theorem poolwin_setBerth (b : Nat) (x : Berth) : (s.setBerth b x).poolwin = s.poolwin := rfl
@[simp] theorem pooltgt_setBerth (b : Nat) (x : Berth) : (s.setBerth b x).pooltgt = s.pooltgt := rfl
@[simp] theorem pwrctl_setBerth (b : Nat) (x : Berth) : (s.setBerth b x).pwrctl = s.pwrctl := rfl
@[simp] theorem pwrstat_setBerth (b : Nat) (x : Berth) : (s.setBerth b x).pwrstat = s.pwrstat := rfl
@[simp] theorem time_setBerth (b : Nat) (x : Berth) : (s.setBerth b x).time = s.time := rfl
@[simp] theorem flashRoles_setBerth (b : Nat) (x : Berth) : (s.setBerth b x).flashRoles = s.flashRoles := rfl
@[simp] theorem slotA_setBerth (b : Nat) (x : Berth) : (s.setBerth b x).slotA = s.slotA := rfl
@[simp] theorem slotB_setBerth (b : Nat) (x : Berth) : (s.setBerth b x).slotB = s.slotB := rfl
@[simp] theorem cfgSector_setBerth (b : Nat) (x : Berth) : (s.setBerth b x).cfgSector = s.cfgSector := rfl
@[simp] theorem minsvn_setBerth (b : Nat) (x : Berth) : (s.setBerth b x).minsvn = s.minsvn := rfl
@[simp] theorem booted_setBerth (b : Nat) (x : Berth) : (s.setBerth b x).booted = s.booted := rfl

-- modBerth ------------------------------------------------------------------------------------------------------

@[simp] theorem agenda_modBerth (b : Nat) (f : Berth → Berth) : (s.modBerth b f).agenda = s.agenda := rfl
@[simp] theorem agent_modBerth (b : Nat) (f : Berth → Berth) : (s.modBerth b f).agent = s.agent := rfl
@[simp] theorem subj_modBerth (b : Nat) (f : Berth → Berth) : (s.modBerth b f).subj = s.subj := rfl
@[simp] theorem cur_modBerth (b : Nat) (f : Berth → Berth) : (s.modBerth b f).cur = s.cur := rfl
@[simp] theorem wcur_modBerth (b : Nat) (f : Berth → Berth) : (s.modBerth b f).wcur = s.wcur := rfl
@[simp] theorem pcur_modBerth (b : Nat) (f : Berth → Berth) : (s.modBerth b f).pcur = s.pcur := rfl
@[simp] theorem woff_modBerth (b : Nat) (f : Berth → Berth) : (s.modBerth b f).woff = s.woff := rfl
@[simp] theorem skip_modBerth (b : Nat) (f : Berth → Berth) : (s.modBerth b f).skip = s.skip := rfl
@[simp] theorem iss_modBerth (b : Nat) (f : Berth → Berth) : (s.modBerth b f).iss = s.iss := rfl
@[simp] theorem free_modBerth (b : Nat) (f : Berth → Berth) : (s.modBerth b f).free = s.free := rfl
@[simp] theorem nextId_modBerth (b : Nat) (f : Berth → Berth) : (s.modBerth b f).nextId = s.nextId := rfl
@[simp] theorem reply_modBerth (b : Nat) (f : Berth → Berth) : (s.modBerth b f).reply = s.reply := rfl
@[simp] theorem hbm_modBerth (b : Nat) (f : Berth → Berth) : (s.modBerth b f).hbm = s.hbm := rfl
@[simp] theorem losses_modBerth (b : Nat) (f : Berth → Berth) : (s.modBerth b f).losses = s.losses := rfl
@[simp] theorem poison_modBerth (b : Nat) (f : Berth → Berth) : (s.modBerth b f).poison = s.poison := rfl
@[simp] theorem bad_modBerth (b : Nat) (f : Berth → Berth) : (s.modBerth b f).bad = s.bad := rfl
@[simp] theorem pool_modBerth (b : Nat) (f : Berth → Berth) : (s.modBerth b f).pool = s.pool := rfl
@[simp] theorem poolPoison_modBerth (b : Nat) (f : Berth → Berth) : (s.modBerth b f).poolPoison = s.poolPoison := rfl
@[simp] theorem hmem_modBerth (b : Nat) (f : Berth → Berth) : (s.modBerth b f).hmem = s.hmem := rfl
@[simp] theorem regions_modBerth (b : Nat) (f : Berth → Berth) : (s.modBerth b f).regions = s.regions := rfl
@[simp] theorem layouts_modBerth (b : Nat) (f : Berth → Berth) : (s.modBerth b f).layouts = s.layouts := rfl
@[simp] theorem mboxes_modBerth (b : Nat) (f : Berth → Berth) : (s.modBerth b f).mboxes = s.mboxes := rfl
@[simp] theorem codeMaps_modBerth (b : Nat) (f : Berth → Berth) : (s.modBerth b f).codeMaps = s.codeMaps := rfl
@[simp] theorem revmap_modBerth (b : Nat) (f : Berth → Berth) : (s.modBerth b f).revmap = s.revmap := rfl
@[simp] theorem filter_modBerth (b : Nat) (f : Berth → Berth) : (s.modBerth b f).filter = s.filter := rfl
@[simp] theorem binv_modBerth (b : Nat) (f : Berth → Berth) : (s.modBerth b f).binv = s.binv := rfl
@[simp] theorem moving_modBerth (b : Nat) (f : Berth → Berth) : (s.modBerth b f).moving = s.moving := rfl
@[simp] theorem carveNext_modBerth (b : Nat) (f : Berth → Berth) : (s.modBerth b f).carveNext = s.carveNext := rfl
@[simp] theorem roots_modBerth (b : Nat) (f : Berth → Berth) : (s.modBerth b f).roots = s.roots := rfl
@[simp] theorem tokBlocks_modBerth (b : Nat) (f : Berth → Berth) : (s.modBerth b f).tokBlocks = s.tokBlocks := rfl
@[simp] theorem mans_modBerth (b : Nat) (f : Berth → Berth) : (s.modBerth b f).mans = s.mans := rfl
@[simp] theorem lqs_modBerth (b : Nat) (f : Berth → Berth) : (s.modBerth b f).lqs = s.lqs := rfl
@[simp] theorem jobsched_modBerth (b : Nat) (f : Berth → Berth) : (s.modBerth b f).jobsched = s.jobsched := rfl
@[simp] theorem jobpt_modBerth (b : Nat) (f : Berth → Berth) : (s.modBerth b f).jobpt = s.jobpt := rfl
@[simp] theorem pierjob_modBerth (b : Nat) (f : Berth → Berth) : (s.modBerth b f).pierjob = s.pierjob := rfl
@[simp] theorem reserve_modBerth (b : Nat) (f : Berth → Berth) : (s.modBerth b f).reserve = s.reserve := rfl
@[simp] theorem dock_modBerth (b : Nat) (f : Berth → Berth) : (s.modBerth b f).dock = s.dock := rfl
@[simp] theorem codeStore_modBerth (b : Nat) (f : Berth → Berth) : (s.modBerth b f).codeStore = s.codeStore := rfl
@[simp] theorem images_modBerth (b : Nat) (f : Berth → Berth) : (s.modBerth b f).images = s.images := rfl
@[simp] theorem units_modBerth (b : Nat) (f : Berth → Berth) : (s.modBerth b f).units = s.units := rfl
@[simp] theorem wtimeout_modBerth (b : Nat) (f : Berth → Berth) : (s.modBerth b f).wtimeout = s.wtimeout := rfl
@[simp] theorem wshare_modBerth (b : Nat) (f : Berth → Berth) : (s.modBerth b f).wshare = s.wshare := rfl
@[simp] theorem wtemp_modBerth (b : Nat) (f : Berth → Berth) : (s.modBerth b f).wtemp = s.wtemp := rfl
@[simp] theorem ckset_modBerth (b : Nat) (f : Berth → Berth) : (s.modBerth b f).ckset = s.ckset := rfl
@[simp] theorem remap_modBerth (b : Nat) (f : Berth → Berth) : (s.modBerth b f).remap = s.remap := rfl
@[simp] theorem failedCh_modBerth (b : Nat) (f : Berth → Berth) : (s.modBerth b f).failedCh = s.failedCh := rfl
@[simp] theorem postponed_modBerth (b : Nat) (f : Berth → Berth) : (s.modBerth b f).postponed = s.postponed := rfl
@[simp] theorem scrubbed_modBerth (b : Nat) (f : Berth → Berth) : (s.modBerth b f).scrubbed = s.scrubbed := rfl
@[simp] theorem scrubNext_modBerth (b : Nat) (f : Berth → Berth) : (s.modBerth b f).scrubNext = s.scrubNext := rfl
@[simp] theorem fabctl_modBerth (b : Nat) (f : Berth → Berth) : (s.modBerth b f).fabctl = s.fabctl := rfl
@[simp] theorem portmap_modBerth (b : Nat) (f : Berth → Berth) : (s.modBerth b f).portmap = s.portmap := rfl
@[simp] theorem mctree_modBerth (b : Nat) (f : Berth → Berth) : (s.modBerth b f).mctree = s.mctree := rfl
@[simp] theorem ports_modBerth (b : Nat) (f : Berth → Berth) : (s.modBerth b f).ports = s.ports := rfl
@[simp] theorem reqs_modBerth (b : Nat) (f : Berth → Berth) : (s.modBerth b f).reqs = s.reqs := rfl
@[simp] theorem mcasts_modBerth (b : Nat) (f : Berth → Berth) : (s.modBerth b f).mcasts = s.mcasts := rfl
@[simp] theorem nextTag_modBerth (b : Nat) (f : Berth → Berth) : (s.modBerth b f).nextTag = s.nextTag := rfl
@[simp] theorem fabtime_modBerth (b : Nat) (f : Berth → Berth) : (s.modBerth b f).fabtime = s.fabtime := rfl
@[simp] theorem slew_modBerth (b : Nat) (f : Berth → Berth) : (s.modBerth b f).slew = s.slew := rfl
@[simp] theorem slewed_modBerth (b : Nat) (f : Berth → Berth) : (s.modBerth b f).slewed = s.slewed := rfl
@[simp] theorem evbase_modBerth (b : Nat) (f : Berth → Berth) : (s.modBerth b f).evbase = s.evbase := rfl
@[simp] theorem evtail_modBerth (b : Nat) (f : Berth → Berth) : (s.modBerth b f).evtail = s.evtail := rfl
@[simp] theorem evhead_modBerth (b : Nat) (f : Berth → Berth) : (s.modBerth b f).evhead = s.evhead := rfl
@[simp] theorem lost_modBerth (b : Nat) (f : Berth → Berth) : (s.modBerth b f).lost = s.lost := rfl
@[simp] theorem evOnce_modBerth (b : Nat) (f : Berth → Berth) : (s.modBerth b f).evOnce = s.evOnce := rfl
@[simp] theorem evHeld_modBerth (b : Nat) (f : Berth → Berth) : (s.modBerth b f).evHeld = s.evHeld := rfl
@[simp] theorem evSeq_modBerth (b : Nat) (f : Berth → Berth) : (s.modBerth b f).evSeq = s.evSeq := rfl
@[simp] theorem msi_modBerth (b : Nat) (f : Berth → Berth) : (s.modBerth b f).msi = s.msi := rfl
@[simp] theorem hrqbase_modBerth (b : Nat) (f : Berth → Berth) : (s.modBerth b f).hrqbase = s.hrqbase := rfl
@[simp] theorem hrqtail_modBerth (b : Nat) (f : Berth → Berth) : (s.modBerth b f).hrqtail = s.hrqtail := rfl
@[simp] theorem hrqhead_modBerth (b : Nat) (f : Berth → Berth) : (s.modBerth b f).hrqhead = s.hrqhead := rfl
@[simp] theorem hostAns_modBerth (b : Nat) (f : Berth → Berth) : (s.modBerth b f).hostAns = s.hostAns := rfl
@[simp] theorem raising_modBerth (b : Nat) (f : Berth → Berth) : (s.modBerth b f).raising = s.raising := rfl
@[simp] theorem cxlcfg_modBerth (b : Nat) (f : Berth → Berth) : (s.modBerth b f).cxlcfg = s.cxlcfg := rfl
@[simp] theorem svc_modBerth (b : Nat) (f : Berth → Berth) : (s.modBerth b f).svc = s.svc := rfl
@[simp] theorem carve_modBerth (b : Nat) (f : Berth → Berth) : (s.modBerth b f).carve = s.carve := rfl
@[simp] theorem poolwin_modBerth (b : Nat) (f : Berth → Berth) : (s.modBerth b f).poolwin = s.poolwin := rfl
@[simp] theorem pooltgt_modBerth (b : Nat) (f : Berth → Berth) : (s.modBerth b f).pooltgt = s.pooltgt := rfl
@[simp] theorem pwrctl_modBerth (b : Nat) (f : Berth → Berth) : (s.modBerth b f).pwrctl = s.pwrctl := rfl
@[simp] theorem pwrstat_modBerth (b : Nat) (f : Berth → Berth) : (s.modBerth b f).pwrstat = s.pwrstat := rfl
@[simp] theorem time_modBerth (b : Nat) (f : Berth → Berth) : (s.modBerth b f).time = s.time := rfl
@[simp] theorem flashRoles_modBerth (b : Nat) (f : Berth → Berth) : (s.modBerth b f).flashRoles = s.flashRoles := rfl
@[simp] theorem slotA_modBerth (b : Nat) (f : Berth → Berth) : (s.modBerth b f).slotA = s.slotA := rfl
@[simp] theorem slotB_modBerth (b : Nat) (f : Berth → Berth) : (s.modBerth b f).slotB = s.slotB := rfl
@[simp] theorem cfgSector_modBerth (b : Nat) (f : Berth → Berth) : (s.modBerth b f).cfgSector = s.cfgSector := rfl
@[simp] theorem minsvn_modBerth (b : Nat) (f : Berth → Berth) : (s.modBerth b f).minsvn = s.minsvn := rfl
@[simp] theorem booted_modBerth (b : Nat) (f : Berth → Berth) : (s.modBerth b f).booted = s.booted := rfl

-- modCtxAt ------------------------------------------------------------------------------------------------------

@[simp] theorem agenda_modCtxAt (b : Nat) (f : Ctx → Ctx) : (s.modCtxAt b f).agenda = s.agenda := rfl
@[simp] theorem agent_modCtxAt (b : Nat) (f : Ctx → Ctx) : (s.modCtxAt b f).agent = s.agent := rfl
@[simp] theorem subj_modCtxAt (b : Nat) (f : Ctx → Ctx) : (s.modCtxAt b f).subj = s.subj := rfl
@[simp] theorem cur_modCtxAt (b : Nat) (f : Ctx → Ctx) : (s.modCtxAt b f).cur = s.cur := rfl
@[simp] theorem wcur_modCtxAt (b : Nat) (f : Ctx → Ctx) : (s.modCtxAt b f).wcur = s.wcur := rfl
@[simp] theorem pcur_modCtxAt (b : Nat) (f : Ctx → Ctx) : (s.modCtxAt b f).pcur = s.pcur := rfl
@[simp] theorem woff_modCtxAt (b : Nat) (f : Ctx → Ctx) : (s.modCtxAt b f).woff = s.woff := rfl
@[simp] theorem skip_modCtxAt (b : Nat) (f : Ctx → Ctx) : (s.modCtxAt b f).skip = s.skip := rfl
@[simp] theorem iss_modCtxAt (b : Nat) (f : Ctx → Ctx) : (s.modCtxAt b f).iss = s.iss := rfl
@[simp] theorem free_modCtxAt (b : Nat) (f : Ctx → Ctx) : (s.modCtxAt b f).free = s.free := rfl
@[simp] theorem nextId_modCtxAt (b : Nat) (f : Ctx → Ctx) : (s.modCtxAt b f).nextId = s.nextId := rfl
@[simp] theorem reply_modCtxAt (b : Nat) (f : Ctx → Ctx) : (s.modCtxAt b f).reply = s.reply := rfl
@[simp] theorem hbm_modCtxAt (b : Nat) (f : Ctx → Ctx) : (s.modCtxAt b f).hbm = s.hbm := rfl
@[simp] theorem losses_modCtxAt (b : Nat) (f : Ctx → Ctx) : (s.modCtxAt b f).losses = s.losses := rfl
@[simp] theorem poison_modCtxAt (b : Nat) (f : Ctx → Ctx) : (s.modCtxAt b f).poison = s.poison := rfl
@[simp] theorem bad_modCtxAt (b : Nat) (f : Ctx → Ctx) : (s.modCtxAt b f).bad = s.bad := rfl
@[simp] theorem pool_modCtxAt (b : Nat) (f : Ctx → Ctx) : (s.modCtxAt b f).pool = s.pool := rfl
@[simp] theorem poolPoison_modCtxAt (b : Nat) (f : Ctx → Ctx) : (s.modCtxAt b f).poolPoison = s.poolPoison := rfl
@[simp] theorem hmem_modCtxAt (b : Nat) (f : Ctx → Ctx) : (s.modCtxAt b f).hmem = s.hmem := rfl
@[simp] theorem regions_modCtxAt (b : Nat) (f : Ctx → Ctx) : (s.modCtxAt b f).regions = s.regions := rfl
@[simp] theorem layouts_modCtxAt (b : Nat) (f : Ctx → Ctx) : (s.modCtxAt b f).layouts = s.layouts := rfl
@[simp] theorem mboxes_modCtxAt (b : Nat) (f : Ctx → Ctx) : (s.modCtxAt b f).mboxes = s.mboxes := rfl
@[simp] theorem codeMaps_modCtxAt (b : Nat) (f : Ctx → Ctx) : (s.modCtxAt b f).codeMaps = s.codeMaps := rfl
@[simp] theorem revmap_modCtxAt (b : Nat) (f : Ctx → Ctx) : (s.modCtxAt b f).revmap = s.revmap := rfl
@[simp] theorem filter_modCtxAt (b : Nat) (f : Ctx → Ctx) : (s.modCtxAt b f).filter = s.filter := rfl
@[simp] theorem binv_modCtxAt (b : Nat) (f : Ctx → Ctx) : (s.modCtxAt b f).binv = s.binv := rfl
@[simp] theorem moving_modCtxAt (b : Nat) (f : Ctx → Ctx) : (s.modCtxAt b f).moving = s.moving := rfl
@[simp] theorem carveNext_modCtxAt (b : Nat) (f : Ctx → Ctx) : (s.modCtxAt b f).carveNext = s.carveNext := rfl
@[simp] theorem roots_modCtxAt (b : Nat) (f : Ctx → Ctx) : (s.modCtxAt b f).roots = s.roots := rfl
@[simp] theorem tokBlocks_modCtxAt (b : Nat) (f : Ctx → Ctx) : (s.modCtxAt b f).tokBlocks = s.tokBlocks := rfl
@[simp] theorem mans_modCtxAt (b : Nat) (f : Ctx → Ctx) : (s.modCtxAt b f).mans = s.mans := rfl
@[simp] theorem lqs_modCtxAt (b : Nat) (f : Ctx → Ctx) : (s.modCtxAt b f).lqs = s.lqs := rfl
@[simp] theorem jobsched_modCtxAt (b : Nat) (f : Ctx → Ctx) : (s.modCtxAt b f).jobsched = s.jobsched := rfl
@[simp] theorem jobpt_modCtxAt (b : Nat) (f : Ctx → Ctx) : (s.modCtxAt b f).jobpt = s.jobpt := rfl
@[simp] theorem pierjob_modCtxAt (b : Nat) (f : Ctx → Ctx) : (s.modCtxAt b f).pierjob = s.pierjob := rfl
@[simp] theorem reserve_modCtxAt (b : Nat) (f : Ctx → Ctx) : (s.modCtxAt b f).reserve = s.reserve := rfl
@[simp] theorem dock_modCtxAt (b : Nat) (f : Ctx → Ctx) : (s.modCtxAt b f).dock = s.dock := rfl
@[simp] theorem codeStore_modCtxAt (b : Nat) (f : Ctx → Ctx) : (s.modCtxAt b f).codeStore = s.codeStore := rfl
@[simp] theorem images_modCtxAt (b : Nat) (f : Ctx → Ctx) : (s.modCtxAt b f).images = s.images := rfl
@[simp] theorem units_modCtxAt (b : Nat) (f : Ctx → Ctx) : (s.modCtxAt b f).units = s.units := rfl
@[simp] theorem wtimeout_modCtxAt (b : Nat) (f : Ctx → Ctx) : (s.modCtxAt b f).wtimeout = s.wtimeout := rfl
@[simp] theorem wshare_modCtxAt (b : Nat) (f : Ctx → Ctx) : (s.modCtxAt b f).wshare = s.wshare := rfl
@[simp] theorem wtemp_modCtxAt (b : Nat) (f : Ctx → Ctx) : (s.modCtxAt b f).wtemp = s.wtemp := rfl
@[simp] theorem ckset_modCtxAt (b : Nat) (f : Ctx → Ctx) : (s.modCtxAt b f).ckset = s.ckset := rfl
@[simp] theorem remap_modCtxAt (b : Nat) (f : Ctx → Ctx) : (s.modCtxAt b f).remap = s.remap := rfl
@[simp] theorem failedCh_modCtxAt (b : Nat) (f : Ctx → Ctx) : (s.modCtxAt b f).failedCh = s.failedCh := rfl
@[simp] theorem postponed_modCtxAt (b : Nat) (f : Ctx → Ctx) : (s.modCtxAt b f).postponed = s.postponed := rfl
@[simp] theorem scrubbed_modCtxAt (b : Nat) (f : Ctx → Ctx) : (s.modCtxAt b f).scrubbed = s.scrubbed := rfl
@[simp] theorem scrubNext_modCtxAt (b : Nat) (f : Ctx → Ctx) : (s.modCtxAt b f).scrubNext = s.scrubNext := rfl
@[simp] theorem fabctl_modCtxAt (b : Nat) (f : Ctx → Ctx) : (s.modCtxAt b f).fabctl = s.fabctl := rfl
@[simp] theorem portmap_modCtxAt (b : Nat) (f : Ctx → Ctx) : (s.modCtxAt b f).portmap = s.portmap := rfl
@[simp] theorem mctree_modCtxAt (b : Nat) (f : Ctx → Ctx) : (s.modCtxAt b f).mctree = s.mctree := rfl
@[simp] theorem ports_modCtxAt (b : Nat) (f : Ctx → Ctx) : (s.modCtxAt b f).ports = s.ports := rfl
@[simp] theorem reqs_modCtxAt (b : Nat) (f : Ctx → Ctx) : (s.modCtxAt b f).reqs = s.reqs := rfl
@[simp] theorem mcasts_modCtxAt (b : Nat) (f : Ctx → Ctx) : (s.modCtxAt b f).mcasts = s.mcasts := rfl
@[simp] theorem nextTag_modCtxAt (b : Nat) (f : Ctx → Ctx) : (s.modCtxAt b f).nextTag = s.nextTag := rfl
@[simp] theorem fabtime_modCtxAt (b : Nat) (f : Ctx → Ctx) : (s.modCtxAt b f).fabtime = s.fabtime := rfl
@[simp] theorem slew_modCtxAt (b : Nat) (f : Ctx → Ctx) : (s.modCtxAt b f).slew = s.slew := rfl
@[simp] theorem slewed_modCtxAt (b : Nat) (f : Ctx → Ctx) : (s.modCtxAt b f).slewed = s.slewed := rfl
@[simp] theorem evbase_modCtxAt (b : Nat) (f : Ctx → Ctx) : (s.modCtxAt b f).evbase = s.evbase := rfl
@[simp] theorem evtail_modCtxAt (b : Nat) (f : Ctx → Ctx) : (s.modCtxAt b f).evtail = s.evtail := rfl
@[simp] theorem evhead_modCtxAt (b : Nat) (f : Ctx → Ctx) : (s.modCtxAt b f).evhead = s.evhead := rfl
@[simp] theorem lost_modCtxAt (b : Nat) (f : Ctx → Ctx) : (s.modCtxAt b f).lost = s.lost := rfl
@[simp] theorem evOnce_modCtxAt (b : Nat) (f : Ctx → Ctx) : (s.modCtxAt b f).evOnce = s.evOnce := rfl
@[simp] theorem evHeld_modCtxAt (b : Nat) (f : Ctx → Ctx) : (s.modCtxAt b f).evHeld = s.evHeld := rfl
@[simp] theorem evSeq_modCtxAt (b : Nat) (f : Ctx → Ctx) : (s.modCtxAt b f).evSeq = s.evSeq := rfl
@[simp] theorem msi_modCtxAt (b : Nat) (f : Ctx → Ctx) : (s.modCtxAt b f).msi = s.msi := rfl
@[simp] theorem hrqbase_modCtxAt (b : Nat) (f : Ctx → Ctx) : (s.modCtxAt b f).hrqbase = s.hrqbase := rfl
@[simp] theorem hrqtail_modCtxAt (b : Nat) (f : Ctx → Ctx) : (s.modCtxAt b f).hrqtail = s.hrqtail := rfl
@[simp] theorem hrqhead_modCtxAt (b : Nat) (f : Ctx → Ctx) : (s.modCtxAt b f).hrqhead = s.hrqhead := rfl
@[simp] theorem hostAns_modCtxAt (b : Nat) (f : Ctx → Ctx) : (s.modCtxAt b f).hostAns = s.hostAns := rfl
@[simp] theorem raising_modCtxAt (b : Nat) (f : Ctx → Ctx) : (s.modCtxAt b f).raising = s.raising := rfl
@[simp] theorem cxlcfg_modCtxAt (b : Nat) (f : Ctx → Ctx) : (s.modCtxAt b f).cxlcfg = s.cxlcfg := rfl
@[simp] theorem svc_modCtxAt (b : Nat) (f : Ctx → Ctx) : (s.modCtxAt b f).svc = s.svc := rfl
@[simp] theorem carve_modCtxAt (b : Nat) (f : Ctx → Ctx) : (s.modCtxAt b f).carve = s.carve := rfl
@[simp] theorem poolwin_modCtxAt (b : Nat) (f : Ctx → Ctx) : (s.modCtxAt b f).poolwin = s.poolwin := rfl
@[simp] theorem pooltgt_modCtxAt (b : Nat) (f : Ctx → Ctx) : (s.modCtxAt b f).pooltgt = s.pooltgt := rfl
@[simp] theorem pwrctl_modCtxAt (b : Nat) (f : Ctx → Ctx) : (s.modCtxAt b f).pwrctl = s.pwrctl := rfl
@[simp] theorem pwrstat_modCtxAt (b : Nat) (f : Ctx → Ctx) : (s.modCtxAt b f).pwrstat = s.pwrstat := rfl
@[simp] theorem time_modCtxAt (b : Nat) (f : Ctx → Ctx) : (s.modCtxAt b f).time = s.time := rfl
@[simp] theorem flashRoles_modCtxAt (b : Nat) (f : Ctx → Ctx) : (s.modCtxAt b f).flashRoles = s.flashRoles := rfl
@[simp] theorem slotA_modCtxAt (b : Nat) (f : Ctx → Ctx) : (s.modCtxAt b f).slotA = s.slotA := rfl
@[simp] theorem slotB_modCtxAt (b : Nat) (f : Ctx → Ctx) : (s.modCtxAt b f).slotB = s.slotB := rfl
@[simp] theorem cfgSector_modCtxAt (b : Nat) (f : Ctx → Ctx) : (s.modCtxAt b f).cfgSector = s.cfgSector := rfl
@[simp] theorem minsvn_modCtxAt (b : Nat) (f : Ctx → Ctx) : (s.modCtxAt b f).minsvn = s.minsvn := rfl
@[simp] theorem booted_modCtxAt (b : Nat) (f : Ctx → Ctx) : (s.modCtxAt b f).booted = s.booted := rfl

-- modCtx --------------------------------------------------------------------------------------------------------

@[simp] theorem agenda_modCtx (f : Ctx → Ctx) : (s.modCtx f).agenda = s.agenda := rfl
@[simp] theorem agent_modCtx (f : Ctx → Ctx) : (s.modCtx f).agent = s.agent := rfl
@[simp] theorem subj_modCtx (f : Ctx → Ctx) : (s.modCtx f).subj = s.subj := rfl
@[simp] theorem cur_modCtx (f : Ctx → Ctx) : (s.modCtx f).cur = s.cur := rfl
@[simp] theorem wcur_modCtx (f : Ctx → Ctx) : (s.modCtx f).wcur = s.wcur := rfl
@[simp] theorem pcur_modCtx (f : Ctx → Ctx) : (s.modCtx f).pcur = s.pcur := rfl
@[simp] theorem woff_modCtx (f : Ctx → Ctx) : (s.modCtx f).woff = s.woff := rfl
@[simp] theorem skip_modCtx (f : Ctx → Ctx) : (s.modCtx f).skip = s.skip := rfl
@[simp] theorem iss_modCtx (f : Ctx → Ctx) : (s.modCtx f).iss = s.iss := rfl
@[simp] theorem free_modCtx (f : Ctx → Ctx) : (s.modCtx f).free = s.free := rfl
@[simp] theorem nextId_modCtx (f : Ctx → Ctx) : (s.modCtx f).nextId = s.nextId := rfl
@[simp] theorem reply_modCtx (f : Ctx → Ctx) : (s.modCtx f).reply = s.reply := rfl
@[simp] theorem hbm_modCtx (f : Ctx → Ctx) : (s.modCtx f).hbm = s.hbm := rfl
@[simp] theorem losses_modCtx (f : Ctx → Ctx) : (s.modCtx f).losses = s.losses := rfl
@[simp] theorem poison_modCtx (f : Ctx → Ctx) : (s.modCtx f).poison = s.poison := rfl
@[simp] theorem bad_modCtx (f : Ctx → Ctx) : (s.modCtx f).bad = s.bad := rfl
@[simp] theorem pool_modCtx (f : Ctx → Ctx) : (s.modCtx f).pool = s.pool := rfl
@[simp] theorem poolPoison_modCtx (f : Ctx → Ctx) : (s.modCtx f).poolPoison = s.poolPoison := rfl
@[simp] theorem hmem_modCtx (f : Ctx → Ctx) : (s.modCtx f).hmem = s.hmem := rfl
@[simp] theorem regions_modCtx (f : Ctx → Ctx) : (s.modCtx f).regions = s.regions := rfl
@[simp] theorem layouts_modCtx (f : Ctx → Ctx) : (s.modCtx f).layouts = s.layouts := rfl
@[simp] theorem mboxes_modCtx (f : Ctx → Ctx) : (s.modCtx f).mboxes = s.mboxes := rfl
@[simp] theorem codeMaps_modCtx (f : Ctx → Ctx) : (s.modCtx f).codeMaps = s.codeMaps := rfl
@[simp] theorem revmap_modCtx (f : Ctx → Ctx) : (s.modCtx f).revmap = s.revmap := rfl
@[simp] theorem filter_modCtx (f : Ctx → Ctx) : (s.modCtx f).filter = s.filter := rfl
@[simp] theorem binv_modCtx (f : Ctx → Ctx) : (s.modCtx f).binv = s.binv := rfl
@[simp] theorem moving_modCtx (f : Ctx → Ctx) : (s.modCtx f).moving = s.moving := rfl
@[simp] theorem carveNext_modCtx (f : Ctx → Ctx) : (s.modCtx f).carveNext = s.carveNext := rfl
@[simp] theorem roots_modCtx (f : Ctx → Ctx) : (s.modCtx f).roots = s.roots := rfl
@[simp] theorem tokBlocks_modCtx (f : Ctx → Ctx) : (s.modCtx f).tokBlocks = s.tokBlocks := rfl
@[simp] theorem mans_modCtx (f : Ctx → Ctx) : (s.modCtx f).mans = s.mans := rfl
@[simp] theorem lqs_modCtx (f : Ctx → Ctx) : (s.modCtx f).lqs = s.lqs := rfl
@[simp] theorem jobsched_modCtx (f : Ctx → Ctx) : (s.modCtx f).jobsched = s.jobsched := rfl
@[simp] theorem jobpt_modCtx (f : Ctx → Ctx) : (s.modCtx f).jobpt = s.jobpt := rfl
@[simp] theorem pierjob_modCtx (f : Ctx → Ctx) : (s.modCtx f).pierjob = s.pierjob := rfl
@[simp] theorem reserve_modCtx (f : Ctx → Ctx) : (s.modCtx f).reserve = s.reserve := rfl
@[simp] theorem dock_modCtx (f : Ctx → Ctx) : (s.modCtx f).dock = s.dock := rfl
@[simp] theorem codeStore_modCtx (f : Ctx → Ctx) : (s.modCtx f).codeStore = s.codeStore := rfl
@[simp] theorem images_modCtx (f : Ctx → Ctx) : (s.modCtx f).images = s.images := rfl
@[simp] theorem units_modCtx (f : Ctx → Ctx) : (s.modCtx f).units = s.units := rfl
@[simp] theorem wtimeout_modCtx (f : Ctx → Ctx) : (s.modCtx f).wtimeout = s.wtimeout := rfl
@[simp] theorem wshare_modCtx (f : Ctx → Ctx) : (s.modCtx f).wshare = s.wshare := rfl
@[simp] theorem wtemp_modCtx (f : Ctx → Ctx) : (s.modCtx f).wtemp = s.wtemp := rfl
@[simp] theorem ckset_modCtx (f : Ctx → Ctx) : (s.modCtx f).ckset = s.ckset := rfl
@[simp] theorem remap_modCtx (f : Ctx → Ctx) : (s.modCtx f).remap = s.remap := rfl
@[simp] theorem failedCh_modCtx (f : Ctx → Ctx) : (s.modCtx f).failedCh = s.failedCh := rfl
@[simp] theorem postponed_modCtx (f : Ctx → Ctx) : (s.modCtx f).postponed = s.postponed := rfl
@[simp] theorem scrubbed_modCtx (f : Ctx → Ctx) : (s.modCtx f).scrubbed = s.scrubbed := rfl
@[simp] theorem scrubNext_modCtx (f : Ctx → Ctx) : (s.modCtx f).scrubNext = s.scrubNext := rfl
@[simp] theorem fabctl_modCtx (f : Ctx → Ctx) : (s.modCtx f).fabctl = s.fabctl := rfl
@[simp] theorem portmap_modCtx (f : Ctx → Ctx) : (s.modCtx f).portmap = s.portmap := rfl
@[simp] theorem mctree_modCtx (f : Ctx → Ctx) : (s.modCtx f).mctree = s.mctree := rfl
@[simp] theorem ports_modCtx (f : Ctx → Ctx) : (s.modCtx f).ports = s.ports := rfl
@[simp] theorem reqs_modCtx (f : Ctx → Ctx) : (s.modCtx f).reqs = s.reqs := rfl
@[simp] theorem mcasts_modCtx (f : Ctx → Ctx) : (s.modCtx f).mcasts = s.mcasts := rfl
@[simp] theorem nextTag_modCtx (f : Ctx → Ctx) : (s.modCtx f).nextTag = s.nextTag := rfl
@[simp] theorem fabtime_modCtx (f : Ctx → Ctx) : (s.modCtx f).fabtime = s.fabtime := rfl
@[simp] theorem slew_modCtx (f : Ctx → Ctx) : (s.modCtx f).slew = s.slew := rfl
@[simp] theorem slewed_modCtx (f : Ctx → Ctx) : (s.modCtx f).slewed = s.slewed := rfl
@[simp] theorem evbase_modCtx (f : Ctx → Ctx) : (s.modCtx f).evbase = s.evbase := rfl
@[simp] theorem evtail_modCtx (f : Ctx → Ctx) : (s.modCtx f).evtail = s.evtail := rfl
@[simp] theorem evhead_modCtx (f : Ctx → Ctx) : (s.modCtx f).evhead = s.evhead := rfl
@[simp] theorem lost_modCtx (f : Ctx → Ctx) : (s.modCtx f).lost = s.lost := rfl
@[simp] theorem evOnce_modCtx (f : Ctx → Ctx) : (s.modCtx f).evOnce = s.evOnce := rfl
@[simp] theorem evHeld_modCtx (f : Ctx → Ctx) : (s.modCtx f).evHeld = s.evHeld := rfl
@[simp] theorem evSeq_modCtx (f : Ctx → Ctx) : (s.modCtx f).evSeq = s.evSeq := rfl
@[simp] theorem msi_modCtx (f : Ctx → Ctx) : (s.modCtx f).msi = s.msi := rfl
@[simp] theorem hrqbase_modCtx (f : Ctx → Ctx) : (s.modCtx f).hrqbase = s.hrqbase := rfl
@[simp] theorem hrqtail_modCtx (f : Ctx → Ctx) : (s.modCtx f).hrqtail = s.hrqtail := rfl
@[simp] theorem hrqhead_modCtx (f : Ctx → Ctx) : (s.modCtx f).hrqhead = s.hrqhead := rfl
@[simp] theorem hostAns_modCtx (f : Ctx → Ctx) : (s.modCtx f).hostAns = s.hostAns := rfl
@[simp] theorem raising_modCtx (f : Ctx → Ctx) : (s.modCtx f).raising = s.raising := rfl
@[simp] theorem cxlcfg_modCtx (f : Ctx → Ctx) : (s.modCtx f).cxlcfg = s.cxlcfg := rfl
@[simp] theorem svc_modCtx (f : Ctx → Ctx) : (s.modCtx f).svc = s.svc := rfl
@[simp] theorem carve_modCtx (f : Ctx → Ctx) : (s.modCtx f).carve = s.carve := rfl
@[simp] theorem poolwin_modCtx (f : Ctx → Ctx) : (s.modCtx f).poolwin = s.poolwin := rfl
@[simp] theorem pooltgt_modCtx (f : Ctx → Ctx) : (s.modCtx f).pooltgt = s.pooltgt := rfl
@[simp] theorem pwrctl_modCtx (f : Ctx → Ctx) : (s.modCtx f).pwrctl = s.pwrctl := rfl
@[simp] theorem pwrstat_modCtx (f : Ctx → Ctx) : (s.modCtx f).pwrstat = s.pwrstat := rfl
@[simp] theorem time_modCtx (f : Ctx → Ctx) : (s.modCtx f).time = s.time := rfl
@[simp] theorem flashRoles_modCtx (f : Ctx → Ctx) : (s.modCtx f).flashRoles = s.flashRoles := rfl
@[simp] theorem slotA_modCtx (f : Ctx → Ctx) : (s.modCtx f).slotA = s.slotA := rfl
@[simp] theorem slotB_modCtx (f : Ctx → Ctx) : (s.modCtx f).slotB = s.slotB := rfl
@[simp] theorem cfgSector_modCtx (f : Ctx → Ctx) : (s.modCtx f).cfgSector = s.cfgSector := rfl
@[simp] theorem minsvn_modCtx (f : Ctx → Ctx) : (s.modCtx f).minsvn = s.minsvn := rfl
@[simp] theorem booted_modCtx (f : Ctx → Ctx) : (s.modCtx f).booted = s.booted := rfl

-- modMan --------------------------------------------------------------------------------------------------------

@[simp] theorem agenda_modMan (i : Nat) (f : Man → Man) : (s.modMan i f).agenda = s.agenda := rfl
@[simp] theorem agent_modMan (i : Nat) (f : Man → Man) : (s.modMan i f).agent = s.agent := rfl
@[simp] theorem subj_modMan (i : Nat) (f : Man → Man) : (s.modMan i f).subj = s.subj := rfl
@[simp] theorem cur_modMan (i : Nat) (f : Man → Man) : (s.modMan i f).cur = s.cur := rfl
@[simp] theorem iss_modMan (i : Nat) (f : Man → Man) : (s.modMan i f).iss = s.iss := rfl
@[simp] theorem nextId_modMan (i : Nat) (f : Man → Man) : (s.modMan i f).nextId = s.nextId := rfl
@[simp] theorem berths_modMan (i : Nat) (f : Man → Man) : (s.modMan i f).berths = s.berths := rfl
@[simp] theorem hbm_modMan (i : Nat) (f : Man → Man) : (s.modMan i f).hbm = s.hbm := rfl
@[simp] theorem losses_modMan (i : Nat) (f : Man → Man) : (s.modMan i f).losses = s.losses := rfl
@[simp] theorem poison_modMan (i : Nat) (f : Man → Man) : (s.modMan i f).poison = s.poison := rfl
@[simp] theorem bad_modMan (i : Nat) (f : Man → Man) : (s.modMan i f).bad = s.bad := rfl
@[simp] theorem pool_modMan (i : Nat) (f : Man → Man) : (s.modMan i f).pool = s.pool := rfl
@[simp] theorem poolPoison_modMan (i : Nat) (f : Man → Man) : (s.modMan i f).poolPoison = s.poolPoison := rfl
@[simp] theorem hmem_modMan (i : Nat) (f : Man → Man) : (s.modMan i f).hmem = s.hmem := rfl
@[simp] theorem regions_modMan (i : Nat) (f : Man → Man) : (s.modMan i f).regions = s.regions := rfl
@[simp] theorem layouts_modMan (i : Nat) (f : Man → Man) : (s.modMan i f).layouts = s.layouts := rfl
@[simp] theorem mboxes_modMan (i : Nat) (f : Man → Man) : (s.modMan i f).mboxes = s.mboxes := rfl
@[simp] theorem lqs_modMan (i : Nat) (f : Man → Man) : (s.modMan i f).lqs = s.lqs := rfl
@[simp] theorem units_modMan (i : Nat) (f : Man → Man) : (s.modMan i f).units = s.units := rfl
@[simp] theorem ports_modMan (i : Nat) (f : Man → Man) : (s.modMan i f).ports = s.ports := rfl
@[simp] theorem reqs_modMan (i : Nat) (f : Man → Man) : (s.modMan i f).reqs = s.reqs := rfl
@[simp] theorem evtail_modMan (i : Nat) (f : Man → Man) : (s.modMan i f).evtail = s.evtail := rfl
@[simp] theorem evhead_modMan (i : Nat) (f : Man → Man) : (s.modMan i f).evhead = s.evhead := rfl
@[simp] theorem lost_modMan (i : Nat) (f : Man → Man) : (s.modMan i f).lost = s.lost := rfl
@[simp] theorem evHeld_modMan (i : Nat) (f : Man → Man) : (s.modMan i f).evHeld = s.evHeld := rfl
@[simp] theorem evSeq_modMan (i : Nat) (f : Man → Man) : (s.modMan i f).evSeq = s.evSeq := rfl
@[simp] theorem evbase_modMan (i : Nat) (f : Man → Man) : (s.modMan i f).evbase = s.evbase := rfl
@[simp] theorem time_modMan (i : Nat) (f : Man → Man) : (s.modMan i f).time = s.time := rfl

-- modUnit -------------------------------------------------------------------------------------------------------

@[simp] theorem agenda_modUnit (u : Nat) (f : WUnit → WUnit) : (s.modUnit u f).agenda = s.agenda := rfl
@[simp] theorem agent_modUnit (u : Nat) (f : WUnit → WUnit) : (s.modUnit u f).agent = s.agent := rfl
@[simp] theorem subj_modUnit (u : Nat) (f : WUnit → WUnit) : (s.modUnit u f).subj = s.subj := rfl
@[simp] theorem cur_modUnit (u : Nat) (f : WUnit → WUnit) : (s.modUnit u f).cur = s.cur := rfl
@[simp] theorem iss_modUnit (u : Nat) (f : WUnit → WUnit) : (s.modUnit u f).iss = s.iss := rfl
@[simp] theorem nextId_modUnit (u : Nat) (f : WUnit → WUnit) : (s.modUnit u f).nextId = s.nextId := rfl
@[simp] theorem berths_modUnit (u : Nat) (f : WUnit → WUnit) : (s.modUnit u f).berths = s.berths := rfl
@[simp] theorem hbm_modUnit (u : Nat) (f : WUnit → WUnit) : (s.modUnit u f).hbm = s.hbm := rfl
@[simp] theorem losses_modUnit (u : Nat) (f : WUnit → WUnit) : (s.modUnit u f).losses = s.losses := rfl
@[simp] theorem poison_modUnit (u : Nat) (f : WUnit → WUnit) : (s.modUnit u f).poison = s.poison := rfl
@[simp] theorem bad_modUnit (u : Nat) (f : WUnit → WUnit) : (s.modUnit u f).bad = s.bad := rfl
@[simp] theorem pool_modUnit (u : Nat) (f : WUnit → WUnit) : (s.modUnit u f).pool = s.pool := rfl
@[simp] theorem poolPoison_modUnit (u : Nat) (f : WUnit → WUnit) : (s.modUnit u f).poolPoison = s.poolPoison := rfl
@[simp] theorem hmem_modUnit (u : Nat) (f : WUnit → WUnit) : (s.modUnit u f).hmem = s.hmem := rfl
@[simp] theorem regions_modUnit (u : Nat) (f : WUnit → WUnit) : (s.modUnit u f).regions = s.regions := rfl
@[simp] theorem layouts_modUnit (u : Nat) (f : WUnit → WUnit) : (s.modUnit u f).layouts = s.layouts := rfl
@[simp] theorem mboxes_modUnit (u : Nat) (f : WUnit → WUnit) : (s.modUnit u f).mboxes = s.mboxes := rfl
@[simp] theorem mans_modUnit (u : Nat) (f : WUnit → WUnit) : (s.modUnit u f).mans = s.mans := rfl
@[simp] theorem lqs_modUnit (u : Nat) (f : WUnit → WUnit) : (s.modUnit u f).lqs = s.lqs := rfl
@[simp] theorem ports_modUnit (u : Nat) (f : WUnit → WUnit) : (s.modUnit u f).ports = s.ports := rfl
@[simp] theorem reqs_modUnit (u : Nat) (f : WUnit → WUnit) : (s.modUnit u f).reqs = s.reqs := rfl
@[simp] theorem evtail_modUnit (u : Nat) (f : WUnit → WUnit) : (s.modUnit u f).evtail = s.evtail := rfl
@[simp] theorem evhead_modUnit (u : Nat) (f : WUnit → WUnit) : (s.modUnit u f).evhead = s.evhead := rfl
@[simp] theorem lost_modUnit (u : Nat) (f : WUnit → WUnit) : (s.modUnit u f).lost = s.lost := rfl
@[simp] theorem evHeld_modUnit (u : Nat) (f : WUnit → WUnit) : (s.modUnit u f).evHeld = s.evHeld := rfl
@[simp] theorem evSeq_modUnit (u : Nat) (f : WUnit → WUnit) : (s.modUnit u f).evSeq = s.evSeq := rfl
@[simp] theorem evbase_modUnit (u : Nat) (f : WUnit → WUnit) : (s.modUnit u f).evbase = s.evbase := rfl
@[simp] theorem time_modUnit (u : Nat) (f : WUnit → WUnit) : (s.modUnit u f).time = s.time := rfl

-- modPort -------------------------------------------------------------------------------------------------------

@[simp] theorem agenda_modPort (p : Nat) (f : Port → Port) : (s.modPort p f).agenda = s.agenda := rfl
@[simp] theorem agent_modPort (p : Nat) (f : Port → Port) : (s.modPort p f).agent = s.agent := rfl
@[simp] theorem subj_modPort (p : Nat) (f : Port → Port) : (s.modPort p f).subj = s.subj := rfl
@[simp] theorem cur_modPort (p : Nat) (f : Port → Port) : (s.modPort p f).cur = s.cur := rfl
@[simp] theorem iss_modPort (p : Nat) (f : Port → Port) : (s.modPort p f).iss = s.iss := rfl
@[simp] theorem nextId_modPort (p : Nat) (f : Port → Port) : (s.modPort p f).nextId = s.nextId := rfl
@[simp] theorem berths_modPort (p : Nat) (f : Port → Port) : (s.modPort p f).berths = s.berths := rfl
@[simp] theorem hbm_modPort (p : Nat) (f : Port → Port) : (s.modPort p f).hbm = s.hbm := rfl
@[simp] theorem losses_modPort (p : Nat) (f : Port → Port) : (s.modPort p f).losses = s.losses := rfl
@[simp] theorem poison_modPort (p : Nat) (f : Port → Port) : (s.modPort p f).poison = s.poison := rfl
@[simp] theorem bad_modPort (p : Nat) (f : Port → Port) : (s.modPort p f).bad = s.bad := rfl
@[simp] theorem pool_modPort (p : Nat) (f : Port → Port) : (s.modPort p f).pool = s.pool := rfl
@[simp] theorem poolPoison_modPort (p : Nat) (f : Port → Port) : (s.modPort p f).poolPoison = s.poolPoison := rfl
@[simp] theorem hmem_modPort (p : Nat) (f : Port → Port) : (s.modPort p f).hmem = s.hmem := rfl
@[simp] theorem regions_modPort (p : Nat) (f : Port → Port) : (s.modPort p f).regions = s.regions := rfl
@[simp] theorem layouts_modPort (p : Nat) (f : Port → Port) : (s.modPort p f).layouts = s.layouts := rfl
@[simp] theorem mboxes_modPort (p : Nat) (f : Port → Port) : (s.modPort p f).mboxes = s.mboxes := rfl
@[simp] theorem mans_modPort (p : Nat) (f : Port → Port) : (s.modPort p f).mans = s.mans := rfl
@[simp] theorem lqs_modPort (p : Nat) (f : Port → Port) : (s.modPort p f).lqs = s.lqs := rfl
@[simp] theorem units_modPort (p : Nat) (f : Port → Port) : (s.modPort p f).units = s.units := rfl
@[simp] theorem reqs_modPort (p : Nat) (f : Port → Port) : (s.modPort p f).reqs = s.reqs := rfl
@[simp] theorem evtail_modPort (p : Nat) (f : Port → Port) : (s.modPort p f).evtail = s.evtail := rfl
@[simp] theorem evhead_modPort (p : Nat) (f : Port → Port) : (s.modPort p f).evhead = s.evhead := rfl
@[simp] theorem lost_modPort (p : Nat) (f : Port → Port) : (s.modPort p f).lost = s.lost := rfl
@[simp] theorem evHeld_modPort (p : Nat) (f : Port → Port) : (s.modPort p f).evHeld = s.evHeld := rfl
@[simp] theorem evSeq_modPort (p : Nat) (f : Port → Port) : (s.modPort p f).evSeq = s.evSeq := rfl
@[simp] theorem evbase_modPort (p : Nat) (f : Port → Port) : (s.modPort p f).evbase = s.evbase := rfl
@[simp] theorem time_modPort (p : Nat) (f : Port → Port) : (s.modPort p f).time = s.time := rfl

-- modLq ---------------------------------------------------------------------------------------------------------

@[simp] theorem agenda_modLq (q : Nat) (f : LQ → LQ) : (s.modLq q f).agenda = s.agenda := rfl
@[simp] theorem agent_modLq (q : Nat) (f : LQ → LQ) : (s.modLq q f).agent = s.agent := rfl
@[simp] theorem subj_modLq (q : Nat) (f : LQ → LQ) : (s.modLq q f).subj = s.subj := rfl
@[simp] theorem cur_modLq (q : Nat) (f : LQ → LQ) : (s.modLq q f).cur = s.cur := rfl
@[simp] theorem iss_modLq (q : Nat) (f : LQ → LQ) : (s.modLq q f).iss = s.iss := rfl
@[simp] theorem nextId_modLq (q : Nat) (f : LQ → LQ) : (s.modLq q f).nextId = s.nextId := rfl
@[simp] theorem berths_modLq (q : Nat) (f : LQ → LQ) : (s.modLq q f).berths = s.berths := rfl
@[simp] theorem hbm_modLq (q : Nat) (f : LQ → LQ) : (s.modLq q f).hbm = s.hbm := rfl
@[simp] theorem losses_modLq (q : Nat) (f : LQ → LQ) : (s.modLq q f).losses = s.losses := rfl
@[simp] theorem poison_modLq (q : Nat) (f : LQ → LQ) : (s.modLq q f).poison = s.poison := rfl
@[simp] theorem bad_modLq (q : Nat) (f : LQ → LQ) : (s.modLq q f).bad = s.bad := rfl
@[simp] theorem pool_modLq (q : Nat) (f : LQ → LQ) : (s.modLq q f).pool = s.pool := rfl
@[simp] theorem poolPoison_modLq (q : Nat) (f : LQ → LQ) : (s.modLq q f).poolPoison = s.poolPoison := rfl
@[simp] theorem hmem_modLq (q : Nat) (f : LQ → LQ) : (s.modLq q f).hmem = s.hmem := rfl
@[simp] theorem regions_modLq (q : Nat) (f : LQ → LQ) : (s.modLq q f).regions = s.regions := rfl
@[simp] theorem layouts_modLq (q : Nat) (f : LQ → LQ) : (s.modLq q f).layouts = s.layouts := rfl
@[simp] theorem mboxes_modLq (q : Nat) (f : LQ → LQ) : (s.modLq q f).mboxes = s.mboxes := rfl
@[simp] theorem mans_modLq (q : Nat) (f : LQ → LQ) : (s.modLq q f).mans = s.mans := rfl
@[simp] theorem units_modLq (q : Nat) (f : LQ → LQ) : (s.modLq q f).units = s.units := rfl
@[simp] theorem ports_modLq (q : Nat) (f : LQ → LQ) : (s.modLq q f).ports = s.ports := rfl
@[simp] theorem reqs_modLq (q : Nat) (f : LQ → LQ) : (s.modLq q f).reqs = s.reqs := rfl
@[simp] theorem evtail_modLq (q : Nat) (f : LQ → LQ) : (s.modLq q f).evtail = s.evtail := rfl
@[simp] theorem evhead_modLq (q : Nat) (f : LQ → LQ) : (s.modLq q f).evhead = s.evhead := rfl
@[simp] theorem lost_modLq (q : Nat) (f : LQ → LQ) : (s.modLq q f).lost = s.lost := rfl
@[simp] theorem evHeld_modLq (q : Nat) (f : LQ → LQ) : (s.modLq q f).evHeld = s.evHeld := rfl
@[simp] theorem evSeq_modLq (q : Nat) (f : LQ → LQ) : (s.modLq q f).evSeq = s.evSeq := rfl
@[simp] theorem evbase_modLq (q : Nat) (f : LQ → LQ) : (s.modLq q f).evbase = s.evbase := rfl
@[simp] theorem time_modLq (q : Nat) (f : LQ → LQ) : (s.modLq q f).time = s.time := rfl

-- modRegion -----------------------------------------------------------------------------------------------------

@[simp] theorem agenda_modRegion (j : Nat) (e : Option Party) (a : Nat) (f : Region → Region) : (s.modRegion j e a f).agenda = s.agenda := rfl
@[simp] theorem agent_modRegion (j : Nat) (e : Option Party) (a : Nat) (f : Region → Region) : (s.modRegion j e a f).agent = s.agent := rfl
@[simp] theorem subj_modRegion (j : Nat) (e : Option Party) (a : Nat) (f : Region → Region) : (s.modRegion j e a f).subj = s.subj := rfl
@[simp] theorem cur_modRegion (j : Nat) (e : Option Party) (a : Nat) (f : Region → Region) : (s.modRegion j e a f).cur = s.cur := rfl
@[simp] theorem iss_modRegion (j : Nat) (e : Option Party) (a : Nat) (f : Region → Region) : (s.modRegion j e a f).iss = s.iss := rfl
@[simp] theorem nextId_modRegion (j : Nat) (e : Option Party) (a : Nat) (f : Region → Region) : (s.modRegion j e a f).nextId = s.nextId := rfl
@[simp] theorem berths_modRegion (j : Nat) (e : Option Party) (a : Nat) (f : Region → Region) : (s.modRegion j e a f).berths = s.berths := rfl
@[simp] theorem hbm_modRegion (j : Nat) (e : Option Party) (a : Nat) (f : Region → Region) : (s.modRegion j e a f).hbm = s.hbm := rfl
@[simp] theorem losses_modRegion (j : Nat) (e : Option Party) (a : Nat) (f : Region → Region) : (s.modRegion j e a f).losses = s.losses := rfl
@[simp] theorem poison_modRegion (j : Nat) (e : Option Party) (a : Nat) (f : Region → Region) : (s.modRegion j e a f).poison = s.poison := rfl
@[simp] theorem bad_modRegion (j : Nat) (e : Option Party) (a : Nat) (f : Region → Region) : (s.modRegion j e a f).bad = s.bad := rfl
@[simp] theorem pool_modRegion (j : Nat) (e : Option Party) (a : Nat) (f : Region → Region) : (s.modRegion j e a f).pool = s.pool := rfl
@[simp] theorem poolPoison_modRegion (j : Nat) (e : Option Party) (a : Nat) (f : Region → Region) : (s.modRegion j e a f).poolPoison = s.poolPoison := rfl
@[simp] theorem hmem_modRegion (j : Nat) (e : Option Party) (a : Nat) (f : Region → Region) : (s.modRegion j e a f).hmem = s.hmem := rfl
@[simp] theorem layouts_modRegion (j : Nat) (e : Option Party) (a : Nat) (f : Region → Region) : (s.modRegion j e a f).layouts = s.layouts := rfl
@[simp] theorem mboxes_modRegion (j : Nat) (e : Option Party) (a : Nat) (f : Region → Region) : (s.modRegion j e a f).mboxes = s.mboxes := rfl
@[simp] theorem mans_modRegion (j : Nat) (e : Option Party) (a : Nat) (f : Region → Region) : (s.modRegion j e a f).mans = s.mans := rfl
@[simp] theorem lqs_modRegion (j : Nat) (e : Option Party) (a : Nat) (f : Region → Region) : (s.modRegion j e a f).lqs = s.lqs := rfl
@[simp] theorem units_modRegion (j : Nat) (e : Option Party) (a : Nat) (f : Region → Region) : (s.modRegion j e a f).units = s.units := rfl
@[simp] theorem ports_modRegion (j : Nat) (e : Option Party) (a : Nat) (f : Region → Region) : (s.modRegion j e a f).ports = s.ports := rfl
@[simp] theorem reqs_modRegion (j : Nat) (e : Option Party) (a : Nat) (f : Region → Region) : (s.modRegion j e a f).reqs = s.reqs := rfl
@[simp] theorem evtail_modRegion (j : Nat) (e : Option Party) (a : Nat) (f : Region → Region) : (s.modRegion j e a f).evtail = s.evtail := rfl
@[simp] theorem evhead_modRegion (j : Nat) (e : Option Party) (a : Nat) (f : Region → Region) : (s.modRegion j e a f).evhead = s.evhead := rfl
@[simp] theorem lost_modRegion (j : Nat) (e : Option Party) (a : Nat) (f : Region → Region) : (s.modRegion j e a f).lost = s.lost := rfl
@[simp] theorem evHeld_modRegion (j : Nat) (e : Option Party) (a : Nat) (f : Region → Region) : (s.modRegion j e a f).evHeld = s.evHeld := rfl
@[simp] theorem evSeq_modRegion (j : Nat) (e : Option Party) (a : Nat) (f : Region → Region) : (s.modRegion j e a f).evSeq = s.evSeq := rfl
@[simp] theorem evbase_modRegion (j : Nat) (e : Option Party) (a : Nat) (f : Region → Region) : (s.modRegion j e a f).evbase = s.evbase := rfl
@[simp] theorem time_modRegion (j : Nat) (e : Option Party) (a : Nat) (f : Region → Region) : (s.modRegion j e a f).time = s.time := rfl

-- hbmWrite ------------------------------------------------------------------------------------------------------

@[simp] theorem agenda_hbmWrite (a : Nat) (bs : List Byte) : (s.hbmWrite a bs).agenda = s.agenda := rfl
@[simp] theorem agent_hbmWrite (a : Nat) (bs : List Byte) : (s.hbmWrite a bs).agent = s.agent := rfl
@[simp] theorem subj_hbmWrite (a : Nat) (bs : List Byte) : (s.hbmWrite a bs).subj = s.subj := rfl
@[simp] theorem cur_hbmWrite (a : Nat) (bs : List Byte) : (s.hbmWrite a bs).cur = s.cur := rfl
@[simp] theorem iss_hbmWrite (a : Nat) (bs : List Byte) : (s.hbmWrite a bs).iss = s.iss := rfl
@[simp] theorem nextId_hbmWrite (a : Nat) (bs : List Byte) : (s.hbmWrite a bs).nextId = s.nextId := rfl
@[simp] theorem berths_hbmWrite (a : Nat) (bs : List Byte) : (s.hbmWrite a bs).berths = s.berths := rfl
@[simp] theorem losses_hbmWrite (a : Nat) (bs : List Byte) : (s.hbmWrite a bs).losses = s.losses := rfl
@[simp] theorem pool_hbmWrite (a : Nat) (bs : List Byte) : (s.hbmWrite a bs).pool = s.pool := rfl
@[simp] theorem poolPoison_hbmWrite (a : Nat) (bs : List Byte) : (s.hbmWrite a bs).poolPoison = s.poolPoison := rfl
@[simp] theorem hmem_hbmWrite (a : Nat) (bs : List Byte) : (s.hbmWrite a bs).hmem = s.hmem := rfl
@[simp] theorem regions_hbmWrite (a : Nat) (bs : List Byte) : (s.hbmWrite a bs).regions = s.regions := rfl
@[simp] theorem layouts_hbmWrite (a : Nat) (bs : List Byte) : (s.hbmWrite a bs).layouts = s.layouts := rfl
@[simp] theorem mboxes_hbmWrite (a : Nat) (bs : List Byte) : (s.hbmWrite a bs).mboxes = s.mboxes := rfl
@[simp] theorem mans_hbmWrite (a : Nat) (bs : List Byte) : (s.hbmWrite a bs).mans = s.mans := rfl
@[simp] theorem lqs_hbmWrite (a : Nat) (bs : List Byte) : (s.hbmWrite a bs).lqs = s.lqs := rfl
@[simp] theorem units_hbmWrite (a : Nat) (bs : List Byte) : (s.hbmWrite a bs).units = s.units := rfl
@[simp] theorem ports_hbmWrite (a : Nat) (bs : List Byte) : (s.hbmWrite a bs).ports = s.ports := rfl
@[simp] theorem reqs_hbmWrite (a : Nat) (bs : List Byte) : (s.hbmWrite a bs).reqs = s.reqs := rfl
@[simp] theorem evtail_hbmWrite (a : Nat) (bs : List Byte) : (s.hbmWrite a bs).evtail = s.evtail := rfl
@[simp] theorem evhead_hbmWrite (a : Nat) (bs : List Byte) : (s.hbmWrite a bs).evhead = s.evhead := rfl
@[simp] theorem lost_hbmWrite (a : Nat) (bs : List Byte) : (s.hbmWrite a bs).lost = s.lost := rfl
@[simp] theorem evHeld_hbmWrite (a : Nat) (bs : List Byte) : (s.hbmWrite a bs).evHeld = s.evHeld := rfl
@[simp] theorem evSeq_hbmWrite (a : Nat) (bs : List Byte) : (s.hbmWrite a bs).evSeq = s.evSeq := rfl
@[simp] theorem evbase_hbmWrite (a : Nat) (bs : List Byte) : (s.hbmWrite a bs).evbase = s.evbase := rfl
@[simp] theorem time_hbmWrite (a : Nat) (bs : List Byte) : (s.hbmWrite a bs).time = s.time := rfl

-- poisonRange ---------------------------------------------------------------------------------------------------

@[simp] theorem agenda_poisonRange (a n : Nat) : (s.poisonRange a n).agenda = s.agenda := rfl
@[simp] theorem agent_poisonRange (a n : Nat) : (s.poisonRange a n).agent = s.agent := rfl
@[simp] theorem subj_poisonRange (a n : Nat) : (s.poisonRange a n).subj = s.subj := rfl
@[simp] theorem cur_poisonRange (a n : Nat) : (s.poisonRange a n).cur = s.cur := rfl
@[simp] theorem iss_poisonRange (a n : Nat) : (s.poisonRange a n).iss = s.iss := rfl
@[simp] theorem nextId_poisonRange (a n : Nat) : (s.poisonRange a n).nextId = s.nextId := rfl
@[simp] theorem berths_poisonRange (a n : Nat) : (s.poisonRange a n).berths = s.berths := rfl
@[simp] theorem hbm_poisonRange (a n : Nat) : (s.poisonRange a n).hbm = s.hbm := rfl
@[simp] theorem losses_poisonRange (a n : Nat) : (s.poisonRange a n).losses = s.losses := rfl
@[simp] theorem bad_poisonRange (a n : Nat) : (s.poisonRange a n).bad = s.bad := rfl
@[simp] theorem pool_poisonRange (a n : Nat) : (s.poisonRange a n).pool = s.pool := rfl
@[simp] theorem poolPoison_poisonRange (a n : Nat) : (s.poisonRange a n).poolPoison = s.poolPoison := rfl
@[simp] theorem hmem_poisonRange (a n : Nat) : (s.poisonRange a n).hmem = s.hmem := rfl
@[simp] theorem regions_poisonRange (a n : Nat) : (s.poisonRange a n).regions = s.regions := rfl
@[simp] theorem layouts_poisonRange (a n : Nat) : (s.poisonRange a n).layouts = s.layouts := rfl
@[simp] theorem mboxes_poisonRange (a n : Nat) : (s.poisonRange a n).mboxes = s.mboxes := rfl
@[simp] theorem mans_poisonRange (a n : Nat) : (s.poisonRange a n).mans = s.mans := rfl
@[simp] theorem lqs_poisonRange (a n : Nat) : (s.poisonRange a n).lqs = s.lqs := rfl
@[simp] theorem units_poisonRange (a n : Nat) : (s.poisonRange a n).units = s.units := rfl
@[simp] theorem ports_poisonRange (a n : Nat) : (s.poisonRange a n).ports = s.ports := rfl
@[simp] theorem reqs_poisonRange (a n : Nat) : (s.poisonRange a n).reqs = s.reqs := rfl
@[simp] theorem evtail_poisonRange (a n : Nat) : (s.poisonRange a n).evtail = s.evtail := rfl
@[simp] theorem evhead_poisonRange (a n : Nat) : (s.poisonRange a n).evhead = s.evhead := rfl
@[simp] theorem lost_poisonRange (a n : Nat) : (s.poisonRange a n).lost = s.lost := rfl
@[simp] theorem evHeld_poisonRange (a n : Nat) : (s.poisonRange a n).evHeld = s.evHeld := rfl
@[simp] theorem evSeq_poisonRange (a n : Nat) : (s.poisonRange a n).evSeq = s.evSeq := rfl
@[simp] theorem evbase_poisonRange (a n : Nat) : (s.poisonRange a n).evbase = s.evbase := rfl
@[simp] theorem time_poisonRange (a n : Nat) : (s.poisonRange a n).time = s.time := rfl

-- poolWrite -----------------------------------------------------------------------------------------------------

@[simp] theorem hbm_poolWrite (a : Nat) (bs : List Byte) : (s.poolWrite a bs).hbm = s.hbm := rfl
@[simp] theorem poison_poolWrite (a : Nat) (bs : List Byte) : (s.poolWrite a bs).poison = s.poison := rfl
@[simp] theorem bad_poolWrite (a : Nat) (bs : List Byte) : (s.poolWrite a bs).bad = s.bad := rfl
@[simp] theorem agenda_poolWrite (a : Nat) (bs : List Byte) : (s.poolWrite a bs).agenda = s.agenda := rfl
@[simp] theorem agent_poolWrite (a : Nat) (bs : List Byte) : (s.poolWrite a bs).agent = s.agent := rfl
@[simp] theorem subj_poolWrite (a : Nat) (bs : List Byte) : (s.poolWrite a bs).subj = s.subj := rfl
@[simp] theorem cur_poolWrite (a : Nat) (bs : List Byte) : (s.poolWrite a bs).cur = s.cur := rfl
@[simp] theorem iss_poolWrite (a : Nat) (bs : List Byte) : (s.poolWrite a bs).iss = s.iss := rfl
@[simp] theorem nextId_poolWrite (a : Nat) (bs : List Byte) : (s.poolWrite a bs).nextId = s.nextId := rfl
@[simp] theorem berths_poolWrite (a : Nat) (bs : List Byte) : (s.poolWrite a bs).berths = s.berths := rfl
@[simp] theorem losses_poolWrite (a : Nat) (bs : List Byte) : (s.poolWrite a bs).losses = s.losses := rfl
@[simp] theorem hmem_poolWrite (a : Nat) (bs : List Byte) : (s.poolWrite a bs).hmem = s.hmem := rfl
@[simp] theorem regions_poolWrite (a : Nat) (bs : List Byte) : (s.poolWrite a bs).regions = s.regions := rfl
@[simp] theorem layouts_poolWrite (a : Nat) (bs : List Byte) : (s.poolWrite a bs).layouts = s.layouts := rfl
@[simp] theorem mboxes_poolWrite (a : Nat) (bs : List Byte) : (s.poolWrite a bs).mboxes = s.mboxes := rfl
@[simp] theorem mans_poolWrite (a : Nat) (bs : List Byte) : (s.poolWrite a bs).mans = s.mans := rfl
@[simp] theorem lqs_poolWrite (a : Nat) (bs : List Byte) : (s.poolWrite a bs).lqs = s.lqs := rfl
@[simp] theorem units_poolWrite (a : Nat) (bs : List Byte) : (s.poolWrite a bs).units = s.units := rfl
@[simp] theorem ports_poolWrite (a : Nat) (bs : List Byte) : (s.poolWrite a bs).ports = s.ports := rfl
@[simp] theorem reqs_poolWrite (a : Nat) (bs : List Byte) : (s.poolWrite a bs).reqs = s.reqs := rfl
@[simp] theorem evtail_poolWrite (a : Nat) (bs : List Byte) : (s.poolWrite a bs).evtail = s.evtail := rfl
@[simp] theorem evhead_poolWrite (a : Nat) (bs : List Byte) : (s.poolWrite a bs).evhead = s.evhead := rfl
@[simp] theorem lost_poolWrite (a : Nat) (bs : List Byte) : (s.poolWrite a bs).lost = s.lost := rfl
@[simp] theorem evHeld_poolWrite (a : Nat) (bs : List Byte) : (s.poolWrite a bs).evHeld = s.evHeld := rfl
@[simp] theorem evSeq_poolWrite (a : Nat) (bs : List Byte) : (s.poolWrite a bs).evSeq = s.evSeq := rfl
@[simp] theorem evbase_poolWrite (a : Nat) (bs : List Byte) : (s.poolWrite a bs).evbase = s.evbase := rfl
@[simp] theorem time_poolWrite (a : Nat) (bs : List Byte) : (s.poolWrite a bs).time = s.time := rfl

-- coverGranule --------------------------------------------------------------------------------------------------

@[simp] theorem hbm_coverGranule (g : Nat) : (s.coverGranule g).hbm = s.hbm := rfl
@[simp] theorem pool_coverGranule (g : Nat) : (s.coverGranule g).pool = s.pool := rfl
@[simp] theorem poolPoison_coverGranule (g : Nat) : (s.coverGranule g).poolPoison = s.poolPoison := rfl
@[simp] theorem agenda_coverGranule (g : Nat) : (s.coverGranule g).agenda = s.agenda := rfl
@[simp] theorem agent_coverGranule (g : Nat) : (s.coverGranule g).agent = s.agent := rfl
@[simp] theorem subj_coverGranule (g : Nat) : (s.coverGranule g).subj = s.subj := rfl
@[simp] theorem cur_coverGranule (g : Nat) : (s.coverGranule g).cur = s.cur := rfl
@[simp] theorem iss_coverGranule (g : Nat) : (s.coverGranule g).iss = s.iss := rfl
@[simp] theorem nextId_coverGranule (g : Nat) : (s.coverGranule g).nextId = s.nextId := rfl
@[simp] theorem berths_coverGranule (g : Nat) : (s.coverGranule g).berths = s.berths := rfl
@[simp] theorem losses_coverGranule (g : Nat) : (s.coverGranule g).losses = s.losses := rfl
@[simp] theorem hmem_coverGranule (g : Nat) : (s.coverGranule g).hmem = s.hmem := rfl
@[simp] theorem regions_coverGranule (g : Nat) : (s.coverGranule g).regions = s.regions := rfl
@[simp] theorem layouts_coverGranule (g : Nat) : (s.coverGranule g).layouts = s.layouts := rfl
@[simp] theorem mboxes_coverGranule (g : Nat) : (s.coverGranule g).mboxes = s.mboxes := rfl
@[simp] theorem mans_coverGranule (g : Nat) : (s.coverGranule g).mans = s.mans := rfl
@[simp] theorem lqs_coverGranule (g : Nat) : (s.coverGranule g).lqs = s.lqs := rfl
@[simp] theorem units_coverGranule (g : Nat) : (s.coverGranule g).units = s.units := rfl
@[simp] theorem ports_coverGranule (g : Nat) : (s.coverGranule g).ports = s.ports := rfl
@[simp] theorem reqs_coverGranule (g : Nat) : (s.coverGranule g).reqs = s.reqs := rfl
@[simp] theorem evtail_coverGranule (g : Nat) : (s.coverGranule g).evtail = s.evtail := rfl
@[simp] theorem evhead_coverGranule (g : Nat) : (s.coverGranule g).evhead = s.evhead := rfl
@[simp] theorem lost_coverGranule (g : Nat) : (s.coverGranule g).lost = s.lost := rfl
@[simp] theorem evHeld_coverGranule (g : Nat) : (s.coverGranule g).evHeld = s.evHeld := rfl
@[simp] theorem evSeq_coverGranule (g : Nat) : (s.coverGranule g).evSeq = s.evSeq := rfl
@[simp] theorem evbase_coverGranule (g : Nat) : (s.coverGranule g).evbase = s.evbase := rfl
@[simp] theorem time_coverGranule (g : Nat) : (s.coverGranule g).time = s.time := rfl

end Sys2Proof.Machine
end

