-- ==== Sys2Proof/Laws/Ops.lean ====
section
/-! SUPPORT. What the shared operations can do, said once: the log, traps, the issue of a word, the checks of tokens, arrivals, and the
canonical form of the byte memories. -/

namespace Sys2Proof.Machine
open Sys2Proof

-- the log ---------------------------------------------------------------------------------------------------------------

/-- An event changes the log and the ring in host memory, and nothing else (spec/23 R354). -/
theorem event_frame (s : State) (src code : Nat) (job : Option Nat) (d : W64) :
    let t := s.event src code job d
    t = { s with evSeq := t.evSeq, evHeld := t.evHeld, hmem := t.hmem, evtail := t.evtail, msi := t.msi, lost := t.lost } := by
  simp only [State.event]
  split
  · simp only [State.evPut]; split <;> rfl
  · split <;> rfl

@[simp] theorem berths_event (s : State) (src code : Nat) (job : Option Nat) (d : W64) : (s.event src code job d).berths = s.berths := by
  rw [event_frame]
@[simp] theorem mans_event (s : State) (src code : Nat) (job : Option Nat) (d : W64) : (s.event src code job d).mans = s.mans := by
  rw [event_frame]
@[simp] theorem hbm_event (s : State) (src code : Nat) (job : Option Nat) (d : W64) : (s.event src code job d).hbm = s.hbm := by
  rw [event_frame]
@[simp] theorem losses_event (s : State) (src code : Nat) (job : Option Nat) (d : W64) : (s.event src code job d).losses = s.losses := by
  rw [event_frame]
@[simp] theorem pool_event (s : State) (src code : Nat) (job : Option Nat) (d : W64) : (s.event src code job d).pool = s.pool := by
  rw [event_frame]
@[simp] theorem regions_event (s : State) (src code : Nat) (job : Option Nat) (d : W64) : (s.event src code job d).regions = s.regions := by
  rw [event_frame]
@[simp] theorem mboxes_event (s : State) (src code : Nat) (job : Option Nat) (d : W64) : (s.event src code job d).mboxes = s.mboxes := by
  rw [event_frame]
@[simp] theorem cur_event (s : State) (src code : Nat) (job : Option Nat) (d : W64) : (s.event src code job d).cur = s.cur := by
  rw [event_frame]
@[simp] theorem units_event (s : State) (src code : Nat) (job : Option Nat) (d : W64) : (s.event src code job d).units = s.units := by
  rw [event_frame]
@[simp] theorem ports_event (s : State) (src code : Nat) (job : Option Nat) (d : W64) : (s.event src code job d).ports = s.ports := by
  rw [event_frame]
@[simp] theorem agent_event (s : State) (src code : Nat) (job : Option Nat) (d : W64) : (s.event src code job d).agent = s.agent := by
  rw [event_frame]
@[simp] theorem subj_event (s : State) (src code : Nat) (job : Option Nat) (d : W64) : (s.event src code job d).subj = s.subj := by
  rw [event_frame]

/-- The sequence number of the source counts every event of it. -/
theorem evSeq_event (s : State) (src code : Nat) (job : Option Nat) (d : W64) (k : Nat) :
    Tab.get 0 (s.event src code job d).evSeq k =
      if k = src then (Tab.get 0 s.evSeq src + 1) % 2 ^ 32 else Tab.get 0 s.evSeq k := by
  simp only [State.event]
  split
  · simp only [State.evPut]; split <;> simp [Tab.get_set]
  · split <;> simp [Tab.get_set]

-- traps -----------------------------------------------------------------------------------------------------------------

/-- A trap with a handler changes the running context alone, and its breakpoints fire again (spec/23 R335, R358). -/
theorem takeTrap_handled {s : State} {t : TrapInfo} (h : bt s.ctx.tvec 63 = true) (hs : s.ctx.hs = false) :
    s.takeTrap t = s.modBerth s.cur fun x => { x with bpSkip := false, ctx := x.ctx.enterTrap t } := by simp [State.takeTrap, h, hs]

/-- A trap leaves the device alone (spec/23 R335, R336). -/
theorem takeTrap_keepsDevice (s : State) (t : TrapInfo) : s.keepsDevice (s.takeTrap t) := by
  simp only [State.takeTrap]
  split
  · rfl
  · rename_i hc
    generalize he : State.endTeam _ _ _ = u
    have hu : u = { s with berths := u.berths, mans := u.mans } := by subst he; rfl
    have ht := event_frame u (srcBerth s.cur) (if s.ctx.hs = true then fcDouble else t.code) (some s.job)
      (w64 (t.code % 256 + s.ctx.pc % 32768 * 256 + t.addr.toNat % 2 ^ 32 * 2 ^ 32))
    generalize u.event _ _ _ _ = x at ht ⊢
    rw [State.keepsDevice, ht, hu]

/-- A lost record that a fault has met changes the regions and the log alone (spec/23 R351). -/
theorem loseOwn_frame (s : State) (t : TrapInfo) :
    let u := s.loseOwn t
    u = { s with
      regions := u.regions, evSeq := u.evSeq, evHeld := u.evHeld, hmem := u.hmem, evtail := u.evtail, msi := u.msi, lost := u.lost } := by
  simp only
  generalize hu : s.loseOwn t = u
  simp only [State.loseOwn] at hu
  split at hu
  · subst hu; rfl
  · split at hu
    · subst hu; rfl
    · rw [event_frame] at hu; subst hu; rfl

-- the issue of a word -----------------------------------------------------------------------------------------------------

/-- Everything that the issue of a word can do: it always has a next state, which is one of these. -/
theorem issue_cases (h : Hd) (v : State → Verdict) (eff : State → State) (s : State) :
    (s.ctx.guard h = false ∧ issue h v eff s = .next { s with iss := .issued }) ∨
    (s.ctx.guard h = true ∧
      ((v s = .go ∧ issue h v eff s = .next { eff s with iss := .issued }) ∨
       (∃ t, v s = .trap t ∧ issue h v eff s = .next { (s.loseOwn t).takeTrap t with iss := .trapped none }) ∨
       (∃ u t op, v s = .raise u t op ∧ issue h v eff s = .next { u.takeTrap t with iss := .trapped (some op) }) ∨
       (∃ u, v s = .freeze u ∧ issue h v eff s = .next { u with iss := .frozen }) ∨
       (v s = .wait ∧ issue h v eff s = .next { s with iss := .waiting }))) := by
  cases hg : s.ctx.guard h
  · exact .inl ⟨rfl, by simp [issue, hg]⟩
  · refine .inr ⟨rfl, ?_⟩
    cases hv : v s with
    | go => exact .inl ⟨rfl, by simp [issue, hg, hv]⟩
    | trap t => exact .inr (.inl ⟨t, rfl, by simp [issue, hg, hv]⟩)
    | raise u t op => exact .inr (.inr (.inl ⟨u, t, op, rfl, by simp [issue, hg, hv]⟩))
    | freeze u => exact .inr (.inr (.inr (.inl ⟨u, rfl, by simp [issue, hg, hv]⟩)))
    | wait => exact .inr (.inr (.inr (.inr ⟨rfl, by simp [issue, hg, hv]⟩)))

/-- An operation issued: its number, and the running context's list of operations (spec/15 R211). -/
theorem pushOp_eq (s : State) (path : Nat) (kind : OpKind) (route : Route) (tag rel : Nat) :
    s.pushOp path kind route tag rel =
      { s.modCtx (fun c => { c with ops := c.ops ++ [s.newOp path kind route tag rel] }) with nextId := s.nextId + 1 } := rfl

-- tokens and arrivals -------------------------------------------------------------------------------------------------------

/-- The checks of tokens change the regions and the log alone (spec/09 R132, spec/23 R351). -/
theorem tokens_frame (s : State) (ps : List Party) (l : List TokChk) :
    let t := (s.tokens ps l).1
    t = { s with regions := t.regions, evSeq := t.evSeq, evHeld := t.evHeld, hmem := t.hmem, evtail := t.evtail, msi := t.msi,
                 lost := t.lost } := by
  induction l with
  | nil => rfl
  | cons c cs ih =>
    simp only [State.tokens]
    split
    · split
      · dsimp only; rw [event_frame]; rfl
      · split
        · rfl
        · exact ih
    · split
      · rfl
      · exact ih

@[simp] theorem berths_arriveSlot (s : State) (i k : Nat) : (s.arriveSlot i k).berths = s.berths := by
  simp only [State.arriveSlot]; split
  · rfl
  · split <;> simp
@[simp] theorem hbm_arriveSlot (s : State) (i k : Nat) : (s.arriveSlot i k).hbm = s.hbm := by
  simp only [State.arriveSlot]; split
  · rfl
  · split <;> simp
@[simp] theorem losses_arriveSlot (s : State) (i k : Nat) : (s.arriveSlot i k).losses = s.losses := by
  simp only [State.arriveSlot]; split
  · rfl
  · split <;> simp
@[simp] theorem pool_arriveSlot (s : State) (i k : Nat) : (s.arriveSlot i k).pool = s.pool := by
  simp only [State.arriveSlot]; split
  · rfl
  · split <;> simp

/-- What each member of a fold keeps, the fold keeps. -/
theorem foldl_keeps {α β γ : Type} (g : β → γ) (f : β → α → β) (h : ∀ b a, g (f b a) = g b) (l : List α) (b : β) :
    g (l.foldl f b) = g b := by
  induction l generalizing b with
  | nil => rfl
  | cons a l ih => rw [List.foldl_cons, ih, h]

/-- A property that each member of a fold keeps, the fold keeps. -/
theorem foldl_inv {α β : Type} (p : β → Prop) (f : β → α → β) (h : ∀ b a, p b → p (f b a)) (l : List α) (b : β) (hb : p b) :
    p (l.foldl f b) := by
  induction l generalizing b with
  | nil => exact hb
  | cons a l ih => exact ih _ (h _ _ hb)

@[simp] theorem berths_arrive (s : State) (j : Nat) (e : Option Party) (a n : Nat) : (s.arrive j e a n).berths = s.berths := by
  simp only [State.arrive]
  refine foldl_keeps State.berths _ (fun s m => ?_) _ _
  split
  · exact foldl_keeps State.berths _ (fun s i => by simp) _ _
  · rfl
@[simp] theorem hbm_arrive (s : State) (j : Nat) (e : Option Party) (a n : Nat) : (s.arrive j e a n).hbm = s.hbm := by
  simp only [State.arrive]
  refine foldl_keeps State.hbm _ (fun s m => ?_) _ _
  split
  · exact foldl_keeps State.hbm _ (fun s i => by simp) _ _
  · rfl

-- the canonical form of the byte memories --------------------------------------------------------------------------------------

/-- The three memories one by one. -/
theorem memOk_iff (s : State) :
    s.memOk = true ↔ Memory.wf s.hbmByte s.hbm = true ∧ Memory.wf zeroByte s.pool = true ∧ Memory.wf zeroByte s.hmem = true := by
  simp [State.memOk, and_assoc]

/-- The form depends on the memories and the count of losses alone. -/
theorem memOk_congr {s t : State} (h1 : t.hbm = s.hbm) (h2 : t.losses = s.losses) (h3 : t.pool = s.pool) (h4 : t.hmem = s.hmem)
    (h : s.memOk = true) : t.memOk = true := by
  have : t.hbmByte = s.hbmByte := by simp [State.hbmByte, h2]
  simpa [State.memOk, this, h1, h3, h4] using h

/-- A write of HBM keeps it. -/
theorem memOk_hbmWrite {s : State} (a : Nat) (bs : List Byte) (h : s.memOk = true) : (s.hbmWrite a bs).memOk = true := by
  rw [memOk_iff] at *
  exact ⟨Memory.wf_write _ _ _ _ h.1, h.2.1, h.2.2⟩

/-- An event keeps it. -/
theorem memOk_event {s : State} (src code : Nat) (job : Option Nat) (d : W64) (h : s.memOk = true) :
    (s.event src code job d).memOk = true := by
  simp only [State.event]
  split
  · simp only [State.evPut]
    split
    · exact memOk_congr (s := s) rfl rfl rfl rfl h
    · rw [memOk_iff] at *
      exact ⟨h.1, h.2.1, Memory.wf_write _ _ _ _ h.2.2⟩
  · split <;> exact memOk_congr (s := s) rfl rfl rfl rfl h

/-- A change of the berths keeps it. -/
theorem memOk_modBerth {s : State} (b : Nat) (f : Berth → Berth) (h : s.memOk = true) : (s.modBerth b f).memOk = true :=
  memOk_congr (s := s) rfl rfl rfl rfl h

/-- A trap keeps it. -/
theorem memOk_takeTrap {s : State} (t : TrapInfo) (h : s.memOk = true) : (s.takeTrap t).memOk = true := by
  simp only [State.takeTrap]
  split
  · exact memOk_modBerth _ _ h
  · exact memOk_event _ _ _ _ (memOk_congr (s := s) rfl rfl rfl rfl h)

/-- An arrival keeps it. -/
theorem memOk_arrive {s : State} (j : Nat) (e : Option Party) (a n : Nat) (h : s.memOk = true) : (s.arrive j e a n).memOk = true := by
  simp only [State.arrive]
  refine foldl_inv (fun s : State => s.memOk = true) _ (fun s m h => ?_) _ _ h
  split
  · refine foldl_inv (fun s : State => s.memOk = true) _ (fun s i h => ?_) _ _ h
    simp only [State.arriveSlot]
    split
    · exact h
    · split
      · exact memOk_event _ _ _ _ h
      · exact memOk_congr (s := s) rfl rfl rfl rfl h
  · exact h

/-- The checks of tokens keep it. -/
theorem memOk_tokens {s : State} (ps : List Party) (l : List TokChk) (h : s.memOk = true) : (s.tokens ps l).1.memOk = true := by
  induction l with
  | nil => exact h
  | cons c cs ih =>
    simp only [State.tokens]
    split
    · split
      · exact memOk_event _ _ _ _ (memOk_congr (s := s) rfl rfl rfl rfl h)
      · split
        · exact h
        · exact ih
    · split
      · exact h
      · exact ih

/-- What a read heals keeps it. -/
theorem memOk_heal {s : State} (a n : Nat) (h : s.memOk = true) : (s.heal a n).memOk = true := by
  simp only [State.heal]
  refine foldl_inv (fun s : State => s.memOk = true) _ (fun s g h => ?_) _ _ h
  have hh : (s.healOne g).memOk = true := by
    simp only [State.healOne]; split
    · exact memOk_event _ _ _ _ (memOk_congr (s := s) rfl rfl rfl rfl h)
    · exact h
  split
  · exact memOk_congr (s := s.healOne g) rfl rfl rfl rfl hh
  · exact hh

/-- A write of the pool keeps it. -/
theorem memOk_poolWrite {s : State} (a : Nat) (bs : List Byte) (h : s.memOk = true) : (s.poolWrite a bs).memOk = true := by
  rw [memOk_iff] at *
  exact ⟨h.1, Memory.wf_write _ _ _ _ h.2.1, h.2.2⟩

/-- A write of any place keeps it. -/
theorem memOk_locWrite {s : State} (l : Loc) (bs : List Byte) (h : s.memOk = true) : (s.locWrite l bs).memOk = true := by
  cases l with
  | hbm pa ch => exact memOk_hbmWrite _ _ h
  | pool pa => exact memOk_poolWrite _ _ h
  | peer k => exact h

/-- A write over a plan keeps it. -/
theorem memOk_planWrite {s : State} (ps : List (Nat × Nat × Loc)) (bs : List Byte) (h : s.memOk = true) :
    (s.planWrite ps bs).memOk = true := by
  induction ps generalizing s bs with
  | nil => exact h
  | cons p ps ih => exact ih _ (memOk_locWrite _ _ h)

/-- A granule written whole keeps it. -/
theorem memOk_coverGranule {s : State} (g : Nat) (h : s.memOk = true) : (s.coverGranule g).memOk = true :=
  memOk_congr (s := s) rfl rfl rfl rfl h

/-- Poison keeps it. -/
theorem memOk_poisonRange {s : State} (a n : Nat) (h : s.memOk = true) : (s.poisonRange a n).memOk = true :=
  memOk_congr (s := s) rfl rfl rfl rfl h

/-- What a table walk reads keeps it. -/
theorem memOk_healWalk {s : State} (job va : Nat) (h : s.memOk = true) : (s.healWalk job va).memOk = true := by
  simp only [State.healWalk]
  split
  · exact foldl_inv (fun s : State => s.memOk = true) _ (fun s a h => memOk_heal _ _ h) _ _ h
  · exact h

/-- Healing a place keeps it. -/
theorem memOk_locHeal {s : State} (l : Loc) (n : Nat) (h : s.memOk = true) : (s.locHeal l n).memOk = true := by
  cases l with
  | hbm pa ch => exact memOk_heal _ _ h
  | pool pa => exact h
  | peer k => exact h

/-- What reading a plan leaves keeps it. -/
theorem memOk_planHeal {s : State} (job : Nat) (ps : List (Nat × Nat × Loc)) (h : s.memOk = true) : (s.planHeal job ps).memOk = true := by
  rw [State.planHeal]
  induction ps generalizing s with
  | nil => exact h
  | cons p ps ih => rw [List.foldl_cons]; exact ih (memOk_locHeal p.2.2 p.2.1 (memOk_healWalk job p.1 h))

/-- A table entry keeps it. -/
theorem memOk_putEntry {s : State} (a e : Nat) (h : s.memOk = true) : (s.putEntry a e).memOk = true := by
  rw [memOk_iff] at *
  exact ⟨Memory.wf_write _ _ _ _ h.1, h.2.1, h.2.2⟩

/-- The result of a host request keeps it. -/
theorem memOk_finish {s : State} (r : HReq) (code fault data : Nat) (h : s.memOk = true) : (s.finish r code fault data).memOk = true := by
  obtain ⟨bs, n, m, hb⟩ : ∃ bs n m, s.finish r code fault data =
      { s with hmem := Memory.write zeroByte s.hmem (r.addr + 0x38) bs, hrqhead := n, msi := m } := ⟨_, _, _, rfl⟩
  rw [hb]
  rw [memOk_iff] at *
  exact ⟨h.1, h.2.1, Memory.wf_write _ _ _ _ h.2.2⟩

end Sys2Proof.Machine
end

