-- ==== Sys2Proof/Laws/PerInstr.lean ====
section
/-! SUPPORT. One lemma per instruction: an instruction has at most one of the three encodings, and a berth word is what has a head. -/

namespace Sys2Proof.Laws
open Sys2Proof Sys2Proof.Machine

/-- What every instruction's encodings satisfy. -/
def Encoding.Statement (i : Instr) : Prop :=
  (encodeBerth i).isSome = (wordHead i).isSome ∧ ((encodeBerth i).isSome && (encodePier i).isSome) = false ∧
  ((encodeBerth i).isSome && (encodeWharf i).isSome) = false ∧ ((encodePier i).isSome && (encodeWharf i).isSome) = false

theorem Encoding.vbusCrcFailure (b group wire : Nat) : Encoding.Statement (.vbusCrcFailure b group wire) := ⟨Eq.trans (b := false) rfl rfl, rfl, rfl, rfl⟩
theorem Encoding.nop (h : Hd) : Encoding.Statement (.nop h) := ⟨Eq.trans (b := true) rfl rfl, rfl, rfl, rfl⟩
theorem Encoding.add (h : Hd) (d a b : Nat) : Encoding.Statement (.add h d a b) := ⟨Eq.trans (b := true) rfl rfl, rfl, rfl, rfl⟩
theorem Encoding.sub (h : Hd) (d a b : Nat) : Encoding.Statement (.sub h d a b) := ⟨Eq.trans (b := true) rfl rfl, rfl, rfl, rfl⟩
theorem Encoding.and (h : Hd) (d a b : Nat) : Encoding.Statement (.and h d a b) := ⟨Eq.trans (b := true) rfl rfl, rfl, rfl, rfl⟩
theorem Encoding.or (h : Hd) (d a b : Nat) : Encoding.Statement (.or h d a b) := ⟨Eq.trans (b := true) rfl rfl, rfl, rfl, rfl⟩
theorem Encoding.xor (h : Hd) (d a b : Nat) : Encoding.Statement (.xor h d a b) := ⟨Eq.trans (b := true) rfl rfl, rfl, rfl, rfl⟩
theorem Encoding.andn (h : Hd) (d a b : Nat) : Encoding.Statement (.andn h d a b) := ⟨Eq.trans (b := true) rfl rfl, rfl, rfl, rfl⟩
theorem Encoding.shl (h : Hd) (d a b : Nat) : Encoding.Statement (.shl h d a b) := ⟨Eq.trans (b := true) rfl rfl, rfl, rfl, rfl⟩
theorem Encoding.shr (h : Hd) (d a b : Nat) : Encoding.Statement (.shr h d a b) := ⟨Eq.trans (b := true) rfl rfl, rfl, rfl, rfl⟩
theorem Encoding.sar (h : Hd) (d a b : Nat) : Encoding.Statement (.sar h d a b) := ⟨Eq.trans (b := true) rfl rfl, rfl, rfl, rfl⟩
theorem Encoding.rol (h : Hd) (d a b : Nat) : Encoding.Statement (.rol h d a b) := ⟨Eq.trans (b := true) rfl rfl, rfl, rfl, rfl⟩
theorem Encoding.min (h : Hd) (d a b : Nat) : Encoding.Statement (.min h d a b) := ⟨Eq.trans (b := true) rfl rfl, rfl, rfl, rfl⟩
theorem Encoding.max (h : Hd) (d a b : Nat) : Encoding.Statement (.max h d a b) := ⟨Eq.trans (b := true) rfl rfl, rfl, rfl, rfl⟩
theorem Encoding.minu (h : Hd) (d a b : Nat) : Encoding.Statement (.minu h d a b) := ⟨Eq.trans (b := true) rfl rfl, rfl, rfl, rfl⟩
theorem Encoding.maxu (h : Hd) (d a b : Nat) : Encoding.Statement (.maxu h d a b) := ⟨Eq.trans (b := true) rfl rfl, rfl, rfl, rfl⟩
theorem Encoding.clz (h : Hd) (d a : Nat) : Encoding.Statement (.clz h d a) := ⟨Eq.trans (b := true) rfl rfl, rfl, rfl, rfl⟩
theorem Encoding.popc (h : Hd) (d a : Nat) : Encoding.Statement (.popc h d a) := ⟨Eq.trans (b := true) rfl rfl, rfl, rfl, rfl⟩
theorem Encoding.mov (h : Hd) (d a : Nat) : Encoding.Statement (.mov h d a) := ⟨Eq.trans (b := true) rfl rfl, rfl, rfl, rfl⟩
theorem Encoding.mul (h : Hd) (d a b : Nat) : Encoding.Statement (.mul h d a b) := ⟨Eq.trans (b := true) rfl rfl, rfl, rfl, rfl⟩
theorem Encoding.mulh (h : Hd) (d a b : Nat) : Encoding.Statement (.mulh h d a b) := ⟨Eq.trans (b := true) rfl rfl, rfl, rfl, rfl⟩
theorem Encoding.mulhu (h : Hd) (d a b : Nat) : Encoding.Statement (.mulhu h d a b) := ⟨Eq.trans (b := true) rfl rfl, rfl, rfl, rfl⟩
theorem Encoding.div (h : Hd) (d a b : Nat) : Encoding.Statement (.div h d a b) := ⟨Eq.trans (b := true) rfl rfl, rfl, rfl, rfl⟩
theorem Encoding.divu (h : Hd) (d a b : Nat) : Encoding.Statement (.divu h d a b) := ⟨Eq.trans (b := true) rfl rfl, rfl, rfl, rfl⟩
theorem Encoding.rem (h : Hd) (d a b : Nat) : Encoding.Statement (.rem h d a b) := ⟨Eq.trans (b := true) rfl rfl, rfl, rfl, rfl⟩
theorem Encoding.remu (h : Hd) (d a b : Nat) : Encoding.Statement (.remu h d a b) := ⟨Eq.trans (b := true) rfl rfl, rfl, rfl, rfl⟩
theorem Encoding.addi (h : Hd) (d a imm : Nat) : Encoding.Statement (.addi h d a imm) := ⟨Eq.trans (b := true) rfl rfl, rfl, rfl, rfl⟩
theorem Encoding.movi (h : Hd) (d imm : Nat) : Encoding.Statement (.movi h d imm) := ⟨Eq.trans (b := true) rfl rfl, rfl, rfl, rfl⟩
theorem Encoding.movh (h : Hd) (d a imm : Nat) : Encoding.Statement (.movh h d a imm) := ⟨Eq.trans (b := true) rfl rfl, rfl, rfl, rfl⟩
theorem Encoding.shli (h : Hd) (d a n : Nat) : Encoding.Statement (.shli h d a n) := ⟨Eq.trans (b := true) rfl rfl, rfl, rfl, rfl⟩
theorem Encoding.shri (h : Hd) (d a n : Nat) : Encoding.Statement (.shri h d a n) := ⟨Eq.trans (b := true) rfl rfl, rfl, rfl, rfl⟩
theorem Encoding.sari (h : Hd) (d a n : Nat) : Encoding.Statement (.sari h d a n) := ⟨Eq.trans (b := true) rfl rfl, rfl, rfl, rfl⟩
theorem Encoding.bext (h : Hd) (d a lo wm1 : Nat) : Encoding.Statement (.bext h d a lo wm1) := ⟨Eq.trans (b := true) rfl rfl, rfl, rfl, rfl⟩
theorem Encoding.bins (h : Hd) (d a lo wm1 : Nat) : Encoding.Statement (.bins h d a lo wm1) := ⟨Eq.trans (b := true) rfl rfl, rfl, rfl, rfl⟩
theorem Encoding.setb (h : Hd) (d a p : Nat) : Encoding.Statement (.setb h d a p) := ⟨Eq.trans (b := true) rfl rfl, rfl, rfl, rfl⟩
theorem Encoding.clrb (h : Hd) (d a p : Nat) : Encoding.Statement (.clrb h d a p) := ⟨Eq.trans (b := true) rfl rfl, rfl, rfl, rfl⟩
theorem Encoding.cmpeq (h : Hd) (d p a b : Nat) : Encoding.Statement (.cmpeq h d p a b) := ⟨Eq.trans (b := true) rfl rfl, rfl, rfl, rfl⟩
theorem Encoding.cmpne (h : Hd) (d p a b : Nat) : Encoding.Statement (.cmpne h d p a b) := ⟨Eq.trans (b := true) rfl rfl, rfl, rfl, rfl⟩
theorem Encoding.cmplt (h : Hd) (d p a b : Nat) : Encoding.Statement (.cmplt h d p a b) := ⟨Eq.trans (b := true) rfl rfl, rfl, rfl, rfl⟩
theorem Encoding.cmpltu (h : Hd) (d p a b : Nat) : Encoding.Statement (.cmpltu h d p a b) := ⟨Eq.trans (b := true) rfl rfl, rfl, rfl, rfl⟩
theorem Encoding.cmple (h : Hd) (d p a b : Nat) : Encoding.Statement (.cmple h d p a b) := ⟨Eq.trans (b := true) rfl rfl, rfl, rfl, rfl⟩
theorem Encoding.cmpleu (h : Hd) (d p a b : Nat) : Encoding.Statement (.cmpleu h d p a b) := ⟨Eq.trans (b := true) rfl rfl, rfl, rfl, rfl⟩
theorem Encoding.sel (h : Hd) (d a b : Nat) : Encoding.Statement (.sel h d a b) := ⟨Eq.trans (b := true) rfl rfl, rfl, rfl, rfl⟩
theorem Encoding.lds (h : Hd) (d a imm : Nat) : Encoding.Statement (.lds h d a imm) := ⟨Eq.trans (b := true) rfl rfl, rfl, rfl, rfl⟩
theorem Encoding.sts (h : Hd) (d a imm : Nat) : Encoding.Statement (.sts h d a imm) := ⟨Eq.trans (b := true) rfl rfl, rfl, rfl, rfl⟩
theorem Encoding.br (h : Hd) (off : Nat) : Encoding.Statement (.br h off) := ⟨Eq.trans (b := true) rfl rfl, rfl, rfl, rfl⟩
theorem Encoding.call (h : Hd) (d off : Nat) : Encoding.Statement (.call h d off) := ⟨Eq.trans (b := true) rfl rfl, rfl, rfl, rfl⟩
theorem Encoding.jmp (h : Hd) (d a : Nat) : Encoding.Statement (.jmp h d a) := ⟨Eq.trans (b := true) rfl rfl, rfl, rfl, rfl⟩
theorem Encoding.ret (h : Hd) (a : Nat) : Encoding.Statement (.ret h a) := ⟨Eq.trans (b := true) rfl rfl, rfl, rfl, rfl⟩
theorem Encoding.loop (h : Hd) (l c off : Nat) : Encoding.Statement (.loop h l c off) := ⟨Eq.trans (b := true) rfl rfl, rfl, rfl, rfl⟩
theorem Encoding.loopi (h : Hd) (l n off : Nat) : Encoding.Statement (.loopi h l n off) := ⟨Eq.trans (b := true) rfl rfl, rfl, rfl, rfl⟩
theorem Encoding.mtl (h : Hd) (r : LoopReg) (l a : Nat) : Encoding.Statement (.mtl h r l a) := ⟨Eq.trans (b := true) rfl rfl, rfl, rfl, rfl⟩
theorem Encoding.mfl (h : Hd) (d : Nat) (r : LoopReg) (l : Nat) : Encoding.Statement (.mfl h d r l) := ⟨Eq.trans (b := true) rfl rfl, rfl, rfl, rfl⟩
theorem Encoding.trap (h : Hd) (imm : Nat) : Encoding.Statement (.trap h imm) := ⟨Eq.trans (b := true) rfl rfl, rfl, rfl, rfl⟩
theorem Encoding.bkpt (h : Hd) (imm : Nat) : Encoding.Statement (.bkpt h imm) := ⟨Eq.trans (b := true) rfl rfl, rfl, rfl, rfl⟩
theorem Encoding.rett (h : Hd) : Encoding.Statement (.rett h) := ⟨Eq.trans (b := true) rfl rfl, rfl, rfl, rfl⟩
theorem Encoding.exit (h : Hd) : Encoding.Statement (.exit h) := ⟨Eq.trans (b := true) rfl rfl, rfl, rfl, rfl⟩
theorem Encoding.mfsys (h : Hd) (d n : Nat) : Encoding.Statement (.mfsys h d n) := ⟨Eq.trans (b := true) rfl rfl, rfl, rfl, rfl⟩
theorem Encoding.mtsys (h : Hd) (a n : Nat) : Encoding.Statement (.mtsys h a n) := ⟨Eq.trans (b := true) rfl rfl, rfl, rfl, rfl⟩
theorem Encoding.phase (h : Hd) (l : Nat) : Encoding.Statement (.phase h l) := ⟨Eq.trans (b := true) rfl rfl, rfl, rfl, rfl⟩
theorem Encoding.fence (h : Hd) (ma mb : Nat) : Encoding.Statement (.fence h ma mb) := ⟨Eq.trans (b := true) rfl rfl, rfl, rfl, rfl⟩
theorem Encoding.pfence (h : Hd) (die : Bool) : Encoding.Statement (.pfence h die) := ⟨Eq.trans (b := true) rfl rfl, rfl, rfl, rfl⟩
theorem Encoding.time (h : Hd) (d : Nat) (fabric : Bool) : Encoding.Statement (.time h d fabric) := ⟨Eq.trans (b := true) rfl rfl, rfl, rfl, rfl⟩
theorem Encoding.id (h : Hd) (d key : Nat) : Encoding.Statement (.id h d key) := ⟨Eq.trans (b := true) rfl rfl, rfl, rfl, rfl⟩
theorem Encoding.launch (h : Hd) (a q : Nat) : Encoding.Statement (.launch h a q) := ⟨Eq.trans (b := true) rfl rfl, rfl, rfl, rfl⟩
theorem Encoding.mboxreg (h : Hd) (d a nm1 sm6 : Nat) (loc : Bool) : Encoding.Statement (.mboxreg h d a nm1 sm6 loc) := ⟨Eq.trans (b := true) rfl rfl, rfl, rfl, rfl⟩
theorem Encoding.mboxack (h : Hd) : Encoding.Statement (.mboxack h) := ⟨Eq.trans (b := true) rfl rfl, rfl, rfl, rfl⟩
theorem Encoding.tklend (h : Hd) (g n : Nat) (sp : Bool) : Encoding.Statement (.tklend h g n sp) := ⟨Eq.trans (b := true) rfl rfl, rfl, rfl, rfl⟩
theorem Encoding.tkret (h : Hd) (g : Nat) (sp : Bool) : Encoding.Statement (.tkret h g sp) := ⟨Eq.trans (b := true) rfl rfl, rfl, rfl, rfl⟩
theorem Encoding.tksplit (h : Hd) (g : Nat) (sp : Bool) : Encoding.Statement (.tksplit h g sp) := ⟨Eq.trans (b := true) rfl rfl, rfl, rfl, rfl⟩
theorem Encoding.tkjoin (h : Hd) (g : Nat) (sp : Bool) : Encoding.Statement (.tkjoin h g sp) := ⟨Eq.trans (b := true) rfl rfl, rfl, rfl, rfl⟩
theorem Encoding.tkshare (h : Hd) (g n : Nat) (lvl sp : Bool) : Encoding.Statement (.tkshare h g n lvl sp) := ⟨Eq.trans (b := true) rfl rfl, rfl, rfl, rfl⟩
theorem Encoding.tkunshare (h : Hd) (g : Nat) (sp : Bool) : Encoding.Statement (.tkunshare h g sp) := ⟨Eq.trans (b := true) rfl rfl, rfl, rfl, rfl⟩
theorem Encoding.tkatom (h : Hd) (g : Nat) (back sp : Bool) : Encoding.Statement (.tkatom h g back sp) := ⟨Eq.trans (b := true) rfl rfl, rfl, rfl, rfl⟩
theorem Encoding.tkquery (h : Hd) (g x : Nat) (sp : Bool) : Encoding.Statement (.tkquery h g x sp) := ⟨Eq.trans (b := true) rfl rfl, rfl, rfl, rfl⟩
theorem Encoding.tkclaim (h : Hd) (g : Nat) (sp : Bool) : Encoding.Statement (.tkclaim h g sp) := ⟨Eq.trans (b := true) rfl rfl, rfl, rfl, rfl⟩
theorem Encoding.vadd (h : Hd) (d a b : MName) (f16 : Bool) (rm : RM) (w : Width) (k : Nat) : Encoding.Statement (.vadd h d a b f16 rm w k) := ⟨Eq.trans (b := true) rfl rfl, rfl, rfl, rfl⟩
theorem Encoding.vsub (h : Hd) (d a b : MName) (f16 : Bool) (rm : RM) (w : Width) (k : Nat) : Encoding.Statement (.vsub h d a b f16 rm w k) := ⟨Eq.trans (b := true) rfl rfl, rfl, rfl, rfl⟩
theorem Encoding.vmul (h : Hd) (d a b : MName) (f16 : Bool) (rm : RM) (w : Width) (k : Nat) : Encoding.Statement (.vmul h d a b f16 rm w k) := ⟨Eq.trans (b := true) rfl rfl, rfl, rfl, rfl⟩
theorem Encoding.vfma (h : Hd) (d a b : MName) (f16 : Bool) (rm : RM) (w : Width) (k : Nat) : Encoding.Statement (.vfma h d a b f16 rm w k) := ⟨Eq.trans (b := true) rfl rfl, rfl, rfl, rfl⟩
theorem Encoding.vfms (h : Hd) (d a b : MName) (f16 : Bool) (rm : RM) (w : Width) (k : Nat) : Encoding.Statement (.vfms h d a b f16 rm w k) := ⟨Eq.trans (b := true) rfl rfl, rfl, rfl, rfl⟩
theorem Encoding.vmin (h : Hd) (d a b : MName) (f16 : Bool) (w : Width) (k : Nat) : Encoding.Statement (.vmin h d a b f16 w k) := ⟨Eq.trans (b := true) rfl rfl, rfl, rfl, rfl⟩
theorem Encoding.vmax (h : Hd) (d a b : MName) (f16 : Bool) (w : Width) (k : Nat) : Encoding.Statement (.vmax h d a b f16 w k) := ⟨Eq.trans (b := true) rfl rfl, rfl, rfl, rfl⟩
theorem Encoding.vabs (h : Hd) (d a : MName) (f16 : Bool) (w : Width) (k : Nat) : Encoding.Statement (.vabs h d a f16 w k) := ⟨Eq.trans (b := true) rfl rfl, rfl, rfl, rfl⟩
theorem Encoding.vneg (h : Hd) (d a : MName) (f16 : Bool) (w : Width) (k : Nat) : Encoding.Statement (.vneg h d a f16 w k) := ⟨Eq.trans (b := true) rfl rfl, rfl, rfl, rfl⟩
theorem Encoding.vexp2 (h : Hd) (d a : MName) (f16 : Bool) (w : Width) (k : Nat) : Encoding.Statement (.vexp2 h d a f16 w k) := ⟨Eq.trans (b := true) rfl rfl, rfl, rfl, rfl⟩
theorem Encoding.vlog2 (h : Hd) (d a : MName) (f16 : Bool) (w : Width) (k : Nat) : Encoding.Statement (.vlog2 h d a f16 w k) := ⟨Eq.trans (b := true) rfl rfl, rfl, rfl, rfl⟩
theorem Encoding.vrsq (h : Hd) (d a : MName) (f16 : Bool) (w : Width) (k : Nat) : Encoding.Statement (.vrsq h d a f16 w k) := ⟨Eq.trans (b := true) rfl rfl, rfl, rfl, rfl⟩
theorem Encoding.vrcp (h : Hd) (d a : MName) (f16 : Bool) (w : Width) (k : Nat) : Encoding.Statement (.vrcp h d a f16 w k) := ⟨Eq.trans (b := true) rfl rfl, rfl, rfl, rfl⟩
theorem Encoding.viadd (h : Hd) (d a b : MName) (u sat : Bool) (w : Width) (k : Nat) : Encoding.Statement (.viadd h d a b u sat w k) := ⟨Eq.trans (b := true) rfl rfl, rfl, rfl, rfl⟩
theorem Encoding.visub (h : Hd) (d a b : MName) (u sat : Bool) (w : Width) (k : Nat) : Encoding.Statement (.visub h d a b u sat w k) := ⟨Eq.trans (b := true) rfl rfl, rfl, rfl, rfl⟩
theorem Encoding.vimul (h : Hd) (d a b : MName) (hi u sat : Bool) (w : Width) (k : Nat) : Encoding.Statement (.vimul h d a b hi u sat w k) := ⟨Eq.trans (b := true) rfl rfl, rfl, rfl, rfl⟩
theorem Encoding.vand (h : Hd) (d a b : MName) (w : Width) (k : Nat) : Encoding.Statement (.vand h d a b w k) := ⟨Eq.trans (b := true) rfl rfl, rfl, rfl, rfl⟩
theorem Encoding.vor (h : Hd) (d a b : MName) (w : Width) (k : Nat) : Encoding.Statement (.vor h d a b w k) := ⟨Eq.trans (b := true) rfl rfl, rfl, rfl, rfl⟩
theorem Encoding.vxor (h : Hd) (d a b : MName) (w : Width) (k : Nat) : Encoding.Statement (.vxor h d a b w k) := ⟨Eq.trans (b := true) rfl rfl, rfl, rfl, rfl⟩
theorem Encoding.vshl (h : Hd) (d a b : MName) (w : Width) (k : Nat) : Encoding.Statement (.vshl h d a b w k) := ⟨Eq.trans (b := true) rfl rfl, rfl, rfl, rfl⟩
theorem Encoding.vshr (h : Hd) (d a b : MName) (w : Width) (k : Nat) : Encoding.Statement (.vshr h d a b w k) := ⟨Eq.trans (b := true) rfl rfl, rfl, rfl, rfl⟩
theorem Encoding.vsar (h : Hd) (d a b : MName) (w : Width) (k : Nat) : Encoding.Statement (.vsar h d a b w k) := ⟨Eq.trans (b := true) rfl rfl, rfl, rfl, rfl⟩
theorem Encoding.vcmp (h : Hd) (kd : Nat) (a b : MName) (t : CmpType) (c : VCond) (w : Width) (k : Nat) : Encoding.Statement (.vcmp h kd a b t c w k) := ⟨Eq.trans (b := true) rfl rfl, rfl, rfl, rfl⟩
theorem Encoding.vsel (h : Hd) (d a b : MName) (w : Width) (k : Nat) : Encoding.Statement (.vsel h d a b w k) := ⟨Eq.trans (b := true) rfl rfl, rfl, rfl, rfl⟩
theorem Encoding.vcvt (h : Hd) (d a : MName) (src dst : Fmt) (rm : RM) (sat : Bool) (nm1 p : Nat) (k : Nat) : Encoding.Statement (.vcvt h d a src dst rm sat nm1 p k) := ⟨Eq.trans (b := true) rfl rfl, rfl, rfl, rfl⟩
theorem Encoding.vkey (h : Hd) (d a : MName) (desc : Bool) (t : KeyType) (f16 : Bool) (w : Width) (k : Nat) : Encoding.Statement (.vkey h d a desc t f16 w k) := ⟨Eq.trans (b := true) rfl rfl, rfl, rfl, rfl⟩
theorem Encoding.vhist (h : Hd) (d a : MName) (lo dbm1 : Nat) (half acc : Bool) (w : Width) (k : Nat) : Encoding.Statement (.vhist h d a lo dbm1 half acc w k) := ⟨Eq.trans (b := true) rfl rfl, rfl, rfl, rfl⟩
theorem Encoding.vscan (h : Hd) (d a : MName) (rev int : Bool) (rm : RM) (w : Width) (k : Nat) : Encoding.Statement (.vscan h d a rev int rm w k) := ⟨Eq.trans (b := true) rfl rfl, rfl, rfl, rfl⟩
theorem Encoding.vred (h : Hd) (d a : MName) (kind : RedKind) (u f16 : Bool) (rm : RM) (w : Width) (k : Nat) : Encoding.Statement (.vred h d a kind u f16 rm w k) := ⟨Eq.trans (b := true) rfl rfl, rfl, rfl, rfl⟩
theorem Encoding.vcomp (h : Hd) (d a : MName) (w : Width) (k : Nat) : Encoding.Statement (.vcomp h d a w k) := ⟨Eq.trans (b := true) rfl rfl, rfl, rfl, rfl⟩
theorem Encoding.vexpd (h : Hd) (d a : MName) (w : Width) (k : Nat) : Encoding.Statement (.vexpd h d a w k) := ⟨Eq.trans (b := true) rfl rfl, rfl, rfl, rfl⟩
theorem Encoding.vperm (h : Hd) (d a b : MName) (z hi : Bool) (w : Width) (k : Nat) : Encoding.Statement (.vperm h d a b z hi w k) := ⟨Eq.trans (b := true) rfl rfl, rfl, rfl, rfl⟩
theorem Encoding.vbcast (h : Hd) (d : MName) (a : Nat) (w : Width) (imm : Nat) : Encoding.Statement (.vbcast h d a w imm) := ⟨Eq.trans (b := true) rfl rfl, rfl, rfl, rfl⟩
theorem Encoding.vmovs (h : Hd) (m : MName) (s : Nat) (sx toVec : Bool) (w : Width) (j : Nat) : Encoding.Statement (.vmovs h m s sx toVec w j) := ⟨Eq.trans (b := true) rfl rfl, rfl, rfl, rfl⟩
theorem Encoding.vrot (h : Hd) (a imm : Nat) : Encoding.Statement (.vrot h a imm) := ⟨Eq.trans (b := true) rfl rfl, rfl, rfl, rfl⟩
theorem Encoding.vmconf (h : Hd) (a imm : Nat) : Encoding.Statement (.vmconf h a imm) := ⟨Eq.trans (b := true) rfl rfl, rfl, rfl, rfl⟩
theorem Encoding.kand (h : Hd) (kd ka kb : Nat) : Encoding.Statement (.kand h kd ka kb) := ⟨Eq.trans (b := true) rfl rfl, rfl, rfl, rfl⟩
theorem Encoding.kor (h : Hd) (kd ka kb : Nat) : Encoding.Statement (.kor h kd ka kb) := ⟨Eq.trans (b := true) rfl rfl, rfl, rfl, rfl⟩
theorem Encoding.knot (h : Hd) (kd ka : Nat) : Encoding.Statement (.knot h kd ka) := ⟨Eq.trans (b := true) rfl rfl, rfl, rfl, rfl⟩
theorem Encoding.kpopc (h : Hd) (d ka : Nat) : Encoding.Statement (.kpopc h d ka) := ⟨Eq.trans (b := true) rfl rfl, rfl, rfl, rfl⟩
theorem Encoding.vld (h : Hd) (m : MName) (a k : Nat) (w : Width) (imm : Nat) : Encoding.Statement (.vld h m a k w imm) := ⟨Eq.trans (b := true) rfl rfl, rfl, rfl, rfl⟩
theorem Encoding.vst (h : Hd) (m : MName) (a k : Nat) (w : Width) (imm : Nat) : Encoding.Statement (.vst h m a k w imm) := ⟨Eq.trans (b := true) rfl rfl, rfl, rfl, rfl⟩
theorem Encoding.vldx (h : Hd) (d a : MName) (p : Nat) (w : Width) (k : Nat) : Encoding.Statement (.vldx h d a p w k) := ⟨Eq.trans (b := true) rfl rfl, rfl, rfl, rfl⟩
theorem Encoding.vstx (h : Hd) (a b : MName) (p : Nat) (w : Width) (k : Nat) : Encoding.Statement (.vstx h a b p w k) := ⟨Eq.trans (b := true) rfl rfl, rfl, rfl, rfl⟩
theorem Encoding.cp (h : Hd) (g l n x : Nat) (q : CopyQ) (out st : Bool) (tag : Nat) : Encoding.Statement (.cp h g l n x q out st tag) := ⟨Eq.trans (b := true) rfl rfl, rfl, rfl, rfl⟩
theorem Encoding.cpw (h : Hd) (g l n x : Nat) (q : CopyQ) (out st : Bool) (tag : Nat) : Encoding.Statement (.cpw h g l n x q out st tag) := ⟨Eq.trans (b := true) rfl rfl, rfl, rfl, rfl⟩
theorem Encoding.cpg (h : Hd) (g l n : Nat) (zero : Bool) (tag : Nat) : Encoding.Statement (.cpg h g l n zero tag) := ⟨Eq.trans (b := true) rfl rfl, rfl, rfl, rfl⟩
theorem Encoding.cps (h : Hd) (g l n x : Nat) (q : CopyQ) (out st : Bool) (tag : Nat) : Encoding.Statement (.cps h g l n x q out st tag) := ⟨Eq.trans (b := true) rfl rfl, rfl, rfl, rfl⟩
theorem Encoding.lwait (h : Hd) (c : Nat) : Encoding.Statement (.lwait h c) := ⟨Eq.trans (b := true) rfl rfl, rfl, rfl, rfl⟩
theorem Encoding.stbind (h : Hd) (x es : Nat) : Encoding.Statement (.stbind h x es) := ⟨Eq.trans (b := true) rfl rfl, rfl, rfl, rfl⟩
theorem Encoding.strel (h : Hd) (g l x : Nat) : Encoding.Statement (.strel h g l x) := ⟨Eq.trans (b := true) rfl rfl, rfl, rfl, rfl⟩
theorem Encoding.rconf (h : Hd) (q l n : Nat) : Encoding.Statement (.rconf h q l n) := ⟨Eq.trans (b := true) rfl rfl, rfl, rfl, rfl⟩
theorem Encoding.racq (h : Hd) (q l : Nat) : Encoding.Statement (.racq h q l) := ⟨Eq.trans (b := true) rfl rfl, rfl, rfl, rfl⟩
theorem Encoding.rpub (h : Hd) (q l : Nat) : Encoding.Statement (.rpub h q l) := ⟨Eq.trans (b := true) rfl rfl, rfl, rfl, rfl⟩
theorem Encoding.rtake (h : Hd) (q l : Nat) : Encoding.Statement (.rtake h q l) := ⟨Eq.trans (b := true) rfl rfl, rfl, rfl, rfl⟩
theorem Encoding.rrel (h : Hd) (q : Nat) : Encoding.Statement (.rrel h q) := ⟨Eq.trans (b := true) rfl rfl, rfl, rfl, rfl⟩
theorem Encoding.probe (h : Hd) (g l pt off : Nat) : Encoding.Statement (.probe h g l pt off) := ⟨Eq.trans (b := true) rfl rfl, rfl, rfl, rfl⟩
theorem Encoding.pwait (h : Hd) (l : Nat) : Encoding.Statement (.pwait h l) := ⟨Eq.trans (b := true) rfl rfl, rfl, rfl, rfl⟩
theorem Encoding.pinv (h : Hd) (g pt : Nat) (all : Bool) : Encoding.Statement (.pinv h g pt all) := ⟨Eq.trans (b := true) rfl rfl, rfl, rfl, rfl⟩
theorem Encoding.atom (h : Hd) (g l n x : Nat) (op : AtomOp) (ord : Nat) (w64 : Bool) (scope : Nat) : Encoding.Statement (.atom h g l n x op ord w64 scope) := ⟨Eq.trans (b := true) rfl rfl, rfl, rfl, rfl⟩
theorem Encoding.atomnr (h : Hd) (g l n : Nat) (op : AtomOp) (ord : Nat) (w64 : Bool) (scope : Nat) : Encoding.Statement (.atomnr h g l n op ord w64 scope) := ⟨Eq.trans (b := true) rfl rfl, rfl, rfl, rfl⟩
theorem Encoding.atomfence (h : Hd) (scope : Nat) : Encoding.Statement (.atomfence h scope) := ⟨Eq.trans (b := true) rfl rfl, rfl, rfl, rfl⟩
theorem Encoding.semwait (h : Hd) (g n : Nat) (cond : SCond) (sub : Bool) : Encoding.Statement (.semwait h g n cond sub) := ⟨Eq.trans (b := true) rfl rfl, rfl, rfl, rfl⟩
theorem Encoding.sempost (h : Hd) (g n : Nat) : Encoding.Statement (.sempost h g n) := ⟨Eq.trans (b := true) rfl rfl, rfl, rfl, rfl⟩
theorem Encoding.whpush (h : Hd) (g l n : Nat) : Encoding.Statement (.whpush h g l n) := ⟨Eq.trans (b := true) rfl rfl, rfl, rfl, rfl⟩
theorem Encoding.imload (h : Hd) (g l n tag : Nat) : Encoding.Statement (.imload h g l n tag) := ⟨Eq.trans (b := true) rfl rfl, rfl, rfl, rfl⟩
theorem Encoding.layset (h : Hd) (l n : Nat) : Encoding.Statement (.layset h l n) := ⟨Eq.trans (b := true) rfl rfl, rfl, rfl, rfl⟩
theorem Encoding.wconf (h : Hd) (w g l n : Nat) : Encoding.Statement (.wconf h w g l n) := ⟨Eq.trans (b := true) rfl rfl, rfl, rfl, rfl⟩
theorem Encoding.mmul (h : Hd) (c qa m : Nat) (gang : Gang) (z mask : Bool) : Encoding.Statement (.mmul h c qa m gang z mask) := ⟨Eq.trans (b := true) rfl rfl, rfl, rfl, rfl⟩
theorem Encoding.wload (h : Hd) (qb : Nat) (gang : Gang) (fmt : Fmt) : Encoding.Statement (.wload h qb gang fmt) := ⟨Eq.trans (b := true) rfl rfl, rfl, rfl, rfl⟩
theorem Encoding.wswap (h : Hd) (gang : Gang) : Encoding.Statement (.wswap h gang) := ⟨Eq.trans (b := true) rfl rfl, rfl, rfl, rfl⟩
theorem Encoding.fmtpush (h : Hd) (m : Nat) : Encoding.Statement (.fmtpush h m) := ⟨Eq.trans (b := true) rfl rfl, rfl, rfl, rfl⟩
theorem Encoding.fmtclr (h : Hd) : Encoding.Statement (.fmtclr h) := ⟨Eq.trans (b := true) rfl rfl, rfl, rfl, rfl⟩
theorem Encoding.sqbind (h : Hd) (qb : Nat) (none : Bool) : Encoding.Statement (.sqbind h qb none) := ⟨Eq.trans (b := true) rfl rfl, rfl, rfl, rfl⟩
theorem Encoding.mpbclr (h : Hd) : Encoding.Statement (.mpbclr h) := ⟨Eq.trans (b := true) rfl rfl, rfl, rfl, rfl⟩
theorem Encoding.acczero (h : Hd) (c : Nat) (gang : Gang) : Encoding.Statement (.acczero h c gang) := ⟨Eq.trans (b := true) rfl rfl, rfl, rfl, rfl⟩
theorem Encoding.accfree (h : Hd) (c : Nat) (gang : Gang) : Encoding.Statement (.accfree h c gang) := ⟨Eq.trans (b := true) rfl rfl, rfl, rfl, rfl⟩
theorem Encoding.accconf (h : Hd) (m : Nat) : Encoding.Statement (.accconf h m) := ⟨Eq.trans (b := true) rfl rfl, rfl, rfl, rfl⟩
theorem Encoding.accdrain (h : Hd) (c m : Nat) (gang : Gang) (fmt : Fmt) (rm : RM) (sat : Bool) (ra rb : Nat) : Encoding.Statement (.accdrain h c m gang fmt rm sat ra rb) := ⟨Eq.trans (b := true) rfl rfl, rfl, rfl, rfl⟩
theorem Encoding.accread (h : Hd) (x : MName) (c m : Nat) : Encoding.Statement (.accread h x c m) := ⟨Eq.trans (b := true) rfl rfl, rfl, rfl, rfl⟩
theorem Encoding.accwrite (h : Hd) (c m : Nat) (x : MName) : Encoding.Statement (.accwrite h c m x) := ⟨Eq.trans (b := true) rfl rfl, rfl, rfl, rfl⟩
theorem Encoding.mpbld (h : Hd) (m : Nat) : Encoding.Statement (.mpbld h m) := ⟨Eq.trans (b := true) rfl rfl, rfl, rfl, rfl⟩
theorem Encoding.streamElementArrive (b x : Nat) : Encoding.Statement (.streamElementArrive b x) := ⟨Eq.trans (b := false) rfl rfl, rfl, rfl, rfl⟩
theorem Encoding.lqtailDoorbell (q v : Nat) : Encoding.Statement (.lqtailDoorbell q v) := ⟨Eq.trans (b := false) rfl rfl, rfl, rfl, rfl⟩
theorem Encoding.lqctlWrite (q v : Nat) : Encoding.Statement (.lqctlWrite q v) := ⟨Eq.trans (b := false) rfl rfl, rfl, rfl, rfl⟩
theorem Encoding.barrierComplete (t l inst : Nat) : Encoding.Statement (.barrierComplete t l inst) := ⟨Eq.trans (b := false) rfl rfl, rfl, rfl, rfl⟩
theorem Encoding.mailboxHandlerEnter (mbox slot : Nat) : Encoding.Statement (.mailboxHandlerEnter mbox slot) := ⟨Eq.trans (b := false) rfl rfl, rfl, rfl, rfl⟩
theorem Encoding.fabctlWrite (v : Nat) : Encoding.Statement (.fabctlWrite v) := ⟨Eq.trans (b := false) rfl rfl, rfl, rfl, rfl⟩
theorem Encoding.portmapWrite (v : Nat) : Encoding.Statement (.portmapWrite v) := ⟨Eq.trans (b := false) rfl rfl, rfl, rfl, rfl⟩
theorem Encoding.frameReceive (port : Nat) (f : Frame) : Encoding.Statement (.frameReceive port f) := ⟨Eq.trans (b := false) rfl rfl, rfl, rfl, rfl⟩
theorem Encoding.retryRequest (port seq : Nat) : Encoding.Statement (.retryRequest port seq) := ⟨Eq.trans (b := false) rfl rfl, rfl, rfl, rfl⟩
theorem Encoding.laneFail (port lane : Nat) : Encoding.Statement (.laneFail port lane) := ⟨Eq.trans (b := false) rfl rfl, rfl, rfl, rfl⟩
theorem Encoding.timestampExchange (port stamp : Nat) : Encoding.Statement (.timestampExchange port stamp) := ⟨Eq.trans (b := false) rfl rfl, rfl, rfl, rfl⟩
theorem Encoding.pierjobWrite (j v : Nat) : Encoding.Statement (.pierjobWrite j v) := ⟨Eq.trans (b := false) rfl rfl, rfl, rfl, rfl⟩
theorem Encoding.pierPacketMatch (port slot : Nat) : Encoding.Statement (.pierPacketMatch port slot) := ⟨Eq.trans (b := false) rfl rfl, rfl, rfl, rfl⟩
theorem Encoding.addp (v bs ib : Bool) (d a b imm : Nat) : Encoding.Statement (.addp v bs ib d a b imm) := ⟨Eq.trans (b := false) rfl rfl, rfl, rfl, rfl⟩
theorem Encoding.subp (v bs ib : Bool) (d a b imm : Nat) : Encoding.Statement (.subp v bs ib d a b imm) := ⟨Eq.trans (b := false) rfl rfl, rfl, rfl, rfl⟩
theorem Encoding.mulp (v bs ib : Bool) (d a b imm : Nat) : Encoding.Statement (.mulp v bs ib d a b imm) := ⟨Eq.trans (b := false) rfl rfl, rfl, rfl, rfl⟩
theorem Encoding.faddp (v bs : Bool) (d a b : Nat) : Encoding.Statement (.faddp v bs d a b) := ⟨Eq.trans (b := false) rfl rfl, rfl, rfl, rfl⟩
theorem Encoding.fmaxp (v bs : Bool) (d a b : Nat) : Encoding.Statement (.fmaxp v bs d a b) := ⟨Eq.trans (b := false) rfl rfl, rfl, rfl, rfl⟩
theorem Encoding.minp (v bs ib u : Bool) (d a b imm : Nat) : Encoding.Statement (.minp v bs ib u d a b imm) := ⟨Eq.trans (b := false) rfl rfl, rfl, rfl, rfl⟩
theorem Encoding.maxp (v bs ib u : Bool) (d a b imm : Nat) : Encoding.Statement (.maxp v bs ib u d a b imm) := ⟨Eq.trans (b := false) rfl rfl, rfl, rfl, rfl⟩
theorem Encoding.andp (v bs ib : Bool) (d a b imm : Nat) : Encoding.Statement (.andp v bs ib d a b imm) := ⟨Eq.trans (b := false) rfl rfl, rfl, rfl, rfl⟩
theorem Encoding.orp (v bs ib : Bool) (d a b imm : Nat) : Encoding.Statement (.orp v bs ib d a b imm) := ⟨Eq.trans (b := false) rfl rfl, rfl, rfl, rfl⟩
theorem Encoding.xorp (v bs ib : Bool) (d a b imm : Nat) : Encoding.Statement (.xorp v bs ib d a b imm) := ⟨Eq.trans (b := false) rfl rfl, rfl, rfl, rfl⟩
theorem Encoding.shp (v bs : Bool) (k : ShKind) (d a b : Nat) : Encoding.Statement (.shp v bs k d a b) := ⟨Eq.trans (b := false) rfl rfl, rfl, rfl, rfl⟩
theorem Encoding.cmpp (v bs u : Bool) (c : PCond) (d a b : Nat) : Encoding.Statement (.cmpp v bs u c d a b) := ⟨Eq.trans (b := false) rfl rfl, rfl, rfl, rfl⟩
theorem Encoding.selp (v bs ib : Bool) (d c a b imm : Nat) : Encoding.Statement (.selp v bs ib d c a b imm) := ⟨Eq.trans (b := false) rfl rfl, rfl, rfl, rfl⟩
theorem Encoding.hld (x : Bool) (d a n : Nat) : Encoding.Statement (.hld x d a n) := ⟨Eq.trans (b := false) rfl rfl, rfl, rfl, rfl⟩
theorem Encoding.pld (d : Nat) : Encoding.Statement (.pld d) := ⟨Eq.trans (b := false) rfl rfl, rfl, rfl, rfl⟩
theorem Encoding.pst (a : Nat) : Encoding.Statement (.pst a) := ⟨Eq.trans (b := false) rfl rfl, rfl, rfl, rfl⟩
theorem Encoding.fld (alloc : Bool) (d a n : Nat) : Encoding.Statement (.fld alloc d a n) := ⟨Eq.trans (b := false) rfl rfl, rfl, rfl, rfl⟩
theorem Encoding.fst (a b n : Nat) : Encoding.Statement (.fst a b n) := ⟨Eq.trans (b := false) rfl rfl, rfl, rfl, rfl⟩
theorem Encoding.fcas (d a b n : Nat) : Encoding.Statement (.fcas d a b n) := ⟨Eq.trans (b := false) rfl rfl, rfl, rfl, rfl⟩
theorem Encoding.combine (mode : CombMode) (a b : Nat) : Encoding.Statement (.combine mode a b) := ⟨Eq.trans (b := false) rfl rfl, rfl, rfl, rfl⟩
theorem Encoding.emit (dst : Bool) (a b : Nat) : Encoding.Statement (.emit dst a b) := ⟨Eq.trans (b := false) rfl rfl, rfl, rfl, rfl⟩
theorem Encoding.redirect (tree : Bool) (a : Nat) : Encoding.Statement (.redirect tree a) := ⟨Eq.trans (b := false) rfl rfl, rfl, rfl, rfl⟩
theorem Encoding.brf (z : Bool) (a off : Nat) : Encoding.Statement (.brf z a off) := ⟨Eq.trans (b := false) rfl rfl, rfl, rfl, rfl⟩
theorem Encoding.trapp (imm : Nat) : Encoding.Statement (.trapp imm) := ⟨Eq.trans (b := false) rfl rfl, rfl, rfl, rfl⟩
theorem Encoding.wuctlWrite (u v : Nat) : Encoding.Statement (.wuctlWrite u v) := ⟨Eq.trans (b := false) rfl rfl, rfl, rfl, rfl⟩
theorem Encoding.wustatWrite (u v : Nat) : Encoding.Statement (.wustatWrite u v) := ⟨Eq.trans (b := false) rfl rfl, rfl, rfl, rfl⟩
theorem Encoding.nopw (x : WX) : Encoding.Statement (.nopw x) := ⟨Eq.trans (b := false) rfl rfl, rfl, rfl, rfl⟩
theorem Encoding.setd (x : WX) (d w v : Nat) : Encoding.Statement (.setd x d w v) := ⟨Eq.trans (b := false) rfl rfl, rfl, rfl, rfl⟩
theorem Encoding.wharfSemwait (x : WX) (da : Nat) (cond : SCond) (sub : Bool) : Encoding.Statement (.wharfSemwait x da cond sub) := ⟨Eq.trans (b := false) rfl rfl, rfl, rfl, rfl⟩
theorem Encoding.wharfSempost (x : WX) (da : Nat) (err : Bool) : Encoding.Statement (.wharfSempost x da err) := ⟨Eq.trans (b := false) rfl rfl, rfl, rfl, rfl⟩
theorem Encoding.barrier (x : WX) (da : Nat) : Encoding.Statement (.barrier x da) := ⟨Eq.trans (b := false) rfl rfl, rfl, rfl, rfl⟩
theorem Encoding.fill (x : WX) (da db : Nat) : Encoding.Statement (.fill x da db) := ⟨Eq.trans (b := false) rfl rfl, rfl, rfl, rfl⟩
theorem Encoding.copyc (x : WX) (da db : Nat) : Encoding.Statement (.copyc x da db) := ⟨Eq.trans (b := false) rfl rfl, rfl, rfl, rfl⟩
theorem Encoding.convert (x : WX) (da db : Nat) (rm : RM) (sat : Bool) : Encoding.Statement (.convert x da db rm sat) := ⟨Eq.trans (b := false) rfl rfl, rfl, rfl, rfl⟩
theorem Encoding.gather (x : WX) (da db dc : Nat) (pad : Bool) : Encoding.Statement (.gather x da db dc pad) := ⟨Eq.trans (b := false) rfl rfl, rfl, rfl, rfl⟩
theorem Encoding.pool (x : WX) (da db dc dd : Nat) (mode : PoolMode) (split pad : Bool) : Encoding.Statement (.pool x da db dc dd mode split pad) := ⟨Eq.trans (b := false) rfl rfl, rfl, rfl, rfl⟩
theorem Encoding.gemv (x : WX) (da db dc : Nat) (acc : Bool) : Encoding.Statement (.gemv x da db dc acc) := ⟨Eq.trans (b := false) rfl rfl, rfl, rfl, rfl⟩
theorem Encoding.axpy (x : WX) (da db dc : Nat) : Encoding.Statement (.axpy x da db dc) := ⟨Eq.trans (b := false) rfl rfl, rfl, rfl, rfl⟩
theorem Encoding.scale (x : WX) (da db : Nat) : Encoding.Statement (.scale x da db) := ⟨Eq.trans (b := false) rfl rfl, rfl, rfl, rfl⟩
theorem Encoding.reduce (x : WX) (da db : Nat) (kind : RedOp) (acc : Bool) : Encoding.Statement (.reduce x da db kind acc) := ⟨Eq.trans (b := false) rfl rfl, rfl, rfl, rfl⟩
theorem Encoding.dot (x : WX) (da db dc : Nat) : Encoding.Statement (.dot x da db dc) := ⟨Eq.trans (b := false) rfl rfl, rfl, rfl, rfl⟩
theorem Encoding.norm2 (x : WX) (da db : Nat) (sq : Bool) : Encoding.Statement (.norm2 x da db sq) := ⟨Eq.trans (b := false) rfl rfl, rfl, rfl, rfl⟩
theorem Encoding.clamp (x : WX) (da db dc : Nat) : Encoding.Statement (.clamp x da db dc) := ⟨Eq.trans (b := false) rfl rfl, rfl, rfl, rfl⟩
theorem Encoding.atomadd (x : WX) (da db dc : Nat) : Encoding.Statement (.atomadd x da db dc) := ⟨Eq.trans (b := false) rfl rfl, rfl, rfl, rfl⟩
theorem Encoding.atommax (x : WX) (da db dc : Nat) (min : Bool) : Encoding.Statement (.atommax x da db dc min) := ⟨Eq.trans (b := false) rfl rfl, rfl, rfl, rfl⟩
theorem Encoding.scatter (x : WX) (da db dc : Nat) : Encoding.Statement (.scatter x da db dc) := ⟨Eq.trans (b := false) rfl rfl, rfl, rfl, rfl⟩
theorem Encoding.crc (x : WX) (da db : Nat) : Encoding.Statement (.crc x da db) := ⟨Eq.trans (b := false) rfl rfl, rfl, rfl, rfl⟩
theorem Encoding.sortidx (x : WX) (da db : Nat) (perm : Bool) : Encoding.Statement (.sortidx x da db perm) := ⟨Eq.trans (b := false) rfl rfl, rfl, rfl, rfl⟩
theorem Encoding.mergedup (x : WX) (da db dc dd : Nat) : Encoding.Statement (.mergedup x da db dc dd) := ⟨Eq.trans (b := false) rfl rfl, rfl, rfl, rfl⟩
theorem Encoding.topkv (x : WX) (da db dc km1 : Nat) : Encoding.Statement (.topkv x da db dc km1) := ⟨Eq.trans (b := false) rfl rfl, rfl, rfl, rfl⟩
theorem Encoding.remapRewrite (c copy : Nat) : Encoding.Statement (.remapRewrite c copy) := ⟨Eq.trans (b := false) rfl rfl, rfl, rfl, rfl⟩
theorem Encoding.tempSample (c t : Nat) : Encoding.Statement (.tempSample c t) := ⟨Eq.trans (b := false) rfl rfl, rfl, rfl, rfl⟩
theorem Encoding.berthFailure (b code data : Nat) : Encoding.Statement (.berthFailure b code data) := ⟨Eq.trans (b := false) rfl rfl, rfl, rfl, rfl⟩
theorem Encoding.evbaseWrite (v : Nat) : Encoding.Statement (.evbaseWrite v) := ⟨Eq.trans (b := false) rfl rfl, rfl, rfl, rfl⟩
theorem Encoding.hostRead (port pa : Nat) : Encoding.Statement (.hostRead port pa) := ⟨Eq.trans (b := false) rfl rfl, rfl, rfl, rfl⟩
theorem Encoding.hostWrite (port pa : Nat) (bytes : List Byte) : Encoding.Statement (.hostWrite port pa bytes) := ⟨Eq.trans (b := false) rfl rfl, rfl, rfl, rfl⟩
theorem Encoding.hrqtailDoorbell (v : Nat) : Encoding.Statement (.hrqtailDoorbell v) := ⟨Eq.trans (b := false) rfl rfl, rfl, rfl, rfl⟩
theorem Encoding.carveWrite (v : Nat) : Encoding.Statement (.carveWrite v) := ⟨Eq.trans (b := false) rfl rfl, rfl, rfl, rfl⟩
theorem Encoding.poolwinWrite (n v : Nat) : Encoding.Statement (.poolwinWrite n v) := ⟨Eq.trans (b := false) rfl rfl, rfl, rfl, rfl⟩
theorem Encoding.uioCompletion (b id : Nat) (data : List Byte) (poison ok : Bool) : Encoding.Statement (.uioCompletion b id data poison ok) := ⟨Eq.trans (b := false) rfl rfl, rfl, rfl, rfl⟩
theorem Encoding.powerThrottleBegin (watts : Nat) : Encoding.Statement (.powerThrottleBegin watts) := ⟨Eq.trans (b := false) rfl rfl, rfl, rfl, rfl⟩
theorem Encoding.registerWrite (off v : Nat) : Encoding.Statement (.registerWrite off v) := ⟨Eq.trans (b := false) rfl rfl, rfl, rfl, rfl⟩
theorem Encoding.backInvalidateResponse (line : Nat) (dirty : List Byte) : Encoding.Statement (.backInvalidateResponse line dirty) := ⟨Eq.trans (b := false) rfl rfl, rfl, rfl, rfl⟩
theorem Encoding.groupIssue : Encoding.Statement (.groupIssue) := ⟨Eq.trans (b := false) rfl rfl, rfl, rfl, rfl⟩
theorem Encoding.resultLand : Encoding.Statement (.resultLand) := ⟨Eq.trans (b := false) rfl rfl, rfl, rfl, rfl⟩
theorem Encoding.heldOpRelease : Encoding.Statement (.heldOpRelease) := ⟨Eq.trans (b := false) rfl rfl, rfl, rfl, rfl⟩
theorem Encoding.handlerResume : Encoding.Statement (.handlerResume) := ⟨Eq.trans (b := false) rfl rfl, rfl, rfl, rfl⟩
theorem Encoding.remoteLoadReturn : Encoding.Statement (.remoteLoadReturn) := ⟨Eq.trans (b := false) rfl rfl, rfl, rfl, rfl⟩
theorem Encoding.vbusReplayDone : Encoding.Statement (.vbusReplayDone) := ⟨Eq.trans (b := false) rfl rfl, rfl, rfl, rfl⟩
theorem Encoding.mboxregAnswer : Encoding.Statement (.mboxregAnswer) := ⟨Eq.trans (b := false) rfl rfl, rfl, rfl, rfl⟩
theorem Encoding.mmulRetire : Encoding.Statement (.mmulRetire) := ⟨Eq.trans (b := false) rfl rfl, rfl, rfl, rfl⟩
theorem Encoding.wloadRetire : Encoding.Statement (.wloadRetire) := ⟨Eq.trans (b := false) rfl rfl, rfl, rfl, rfl⟩
theorem Encoding.copyHomeArrival : Encoding.Statement (.copyHomeArrival) := ⟨Eq.trans (b := false) rfl rfl, rfl, rfl, rfl⟩
theorem Encoding.copyComplete : Encoding.Statement (.copyComplete) := ⟨Eq.trans (b := false) rfl rfl, rfl, rfl, rfl⟩
theorem Encoding.probeFillComplete : Encoding.Statement (.probeFillComplete) := ⟨Eq.trans (b := false) rfl rfl, rfl, rfl, rfl⟩
theorem Encoding.atomicApply : Encoding.Statement (.atomicApply) := ⟨Eq.trans (b := false) rfl rfl, rfl, rfl, rfl⟩
theorem Encoding.semaphorePoll : Encoding.Statement (.semaphorePoll) := ⟨Eq.trans (b := false) rfl rfl, rfl, rfl, rfl⟩
theorem Encoding.tokenFormAtHome : Encoding.Statement (.tokenFormAtHome) := ⟨Eq.trans (b := false) rfl rfl, rfl, rfl, rfl⟩
theorem Encoding.tokenRefusalReturn : Encoding.Statement (.tokenRefusalReturn) := ⟨Eq.trans (b := false) rfl rfl, rfl, rfl, rfl⟩
theorem Encoding.windowStoreArrive : Encoding.Statement (.windowStoreArrive) := ⟨Eq.trans (b := false) rfl rfl, rfl, rfl, rfl⟩
theorem Encoding.windowReplyReturn : Encoding.Statement (.windowReplyReturn) := ⟨Eq.trans (b := false) rfl rfl, rfl, rfl, rfl⟩
theorem Encoding.remoteLoadArrive : Encoding.Statement (.remoteLoadArrive) := ⟨Eq.trans (b := false) rfl rfl, rfl, rfl, rfl⟩
theorem Encoding.persistComplete : Encoding.Statement (.persistComplete) := ⟨Eq.trans (b := false) rfl rfl, rfl, rfl, rfl⟩
theorem Encoding.journalForcedPersist : Encoding.Statement (.journalForcedPersist) := ⟨Eq.trans (b := false) rfl rfl, rfl, rfl, rfl⟩
theorem Encoding.manifestValidate : Encoding.Statement (.manifestValidate) := ⟨Eq.trans (b := false) rfl rfl, rfl, rfl, rfl⟩
theorem Encoding.manifestEligible : Encoding.Statement (.manifestEligible) := ⟨Eq.trans (b := false) rfl rfl, rfl, rfl, rfl⟩
theorem Encoding.manifestAge : Encoding.Statement (.manifestAge) := ⟨Eq.trans (b := false) rfl rfl, rfl, rfl, rfl⟩
theorem Encoding.manifestPlace : Encoding.Statement (.manifestPlace) := ⟨Eq.trans (b := false) rfl rfl, rfl, rfl, rfl⟩
theorem Encoding.preempt : Encoding.Statement (.preempt) := ⟨Eq.trans (b := false) rfl rfl, rfl, rfl, rfl⟩
theorem Encoding.graceExpiry : Encoding.Statement (.graceExpiry) := ⟨Eq.trans (b := false) rfl rfl, rfl, rfl, rfl⟩
theorem Encoding.preemptDrainDone : Encoding.Statement (.preemptDrainDone) := ⟨Eq.trans (b := false) rfl rfl, rfl, rfl, rfl⟩
theorem Encoding.spillDone : Encoding.Statement (.spillDone) := ⟨Eq.trans (b := false) rfl rfl, rfl, rfl, rfl⟩
theorem Encoding.fillDone : Encoding.Statement (.fillDone) := ⟨Eq.trans (b := false) rfl rfl, rfl, rfl, rfl⟩
theorem Encoding.imageEvict : Encoding.Statement (.imageEvict) := ⟨Eq.trans (b := false) rfl rfl, rfl, rfl, rfl⟩
theorem Encoding.teamStart : Encoding.Statement (.teamStart) := ⟨Eq.trans (b := false) rfl rfl, rfl, rfl, rfl⟩
theorem Encoding.berthThreadStart : Encoding.Statement (.berthThreadStart) := ⟨Eq.trans (b := false) rfl rfl, rfl, rfl, rfl⟩
theorem Encoding.budgetExpiry : Encoding.Statement (.budgetExpiry) := ⟨Eq.trans (b := false) rfl rfl, rfl, rfl, rfl⟩
theorem Encoding.teamRetire : Encoding.Statement (.teamRetire) := ⟨Eq.trans (b := false) rfl rfl, rfl, rfl, rfl⟩
theorem Encoding.wharfStreamDone : Encoding.Statement (.wharfStreamDone) := ⟨Eq.trans (b := false) rfl rfl, rfl, rfl, rfl⟩
theorem Encoding.portRetrainDone : Encoding.Statement (.portRetrainDone) := ⟨Eq.trans (b := false) rfl rfl, rfl, rfl, rfl⟩
theorem Encoding.requestTimeout : Encoding.Statement (.requestTimeout) := ⟨Eq.trans (b := false) rfl rfl, rfl, rfl, rfl⟩
theorem Encoding.postedWrite : Encoding.Statement (.postedWrite) := ⟨Eq.trans (b := false) rfl rfl, rfl, rfl, rfl⟩
theorem Encoding.readRequest : Encoding.Statement (.readRequest) := ⟨Eq.trans (b := false) rfl rfl, rfl, rfl, rfl⟩
theorem Encoding.readResponse : Encoding.Statement (.readResponse) := ⟨Eq.trans (b := false) rfl rfl, rfl, rfl, rfl⟩
theorem Encoding.atomicPacket : Encoding.Statement (.atomicPacket) := ⟨Eq.trans (b := false) rfl rfl, rfl, rfl, rfl⟩
theorem Encoding.atomicResponse : Encoding.Statement (.atomicResponse) := ⟨Eq.trans (b := false) rfl rfl, rfl, rfl, rfl⟩
theorem Encoding.multicastWrite : Encoding.Statement (.multicastWrite) := ⟨Eq.trans (b := false) rfl rfl, rfl, rfl, rfl⟩
theorem Encoding.barrierPacket : Encoding.Statement (.barrierPacket) := ⟨Eq.trans (b := false) rfl rfl, rfl, rfl, rfl⟩
theorem Encoding.flowWrite : Encoding.Statement (.flowWrite) := ⟨Eq.trans (b := false) rfl rfl, rfl, rfl, rfl⟩
theorem Encoding.launchPacket : Encoding.Statement (.launchPacket) := ⟨Eq.trans (b := false) rfl rfl, rfl, rfl, rfl⟩
theorem Encoding.launchResponse : Encoding.Statement (.launchResponse) := ⟨Eq.trans (b := false) rfl rfl, rfl, rfl, rfl⟩
theorem Encoding.launchStartTime : Encoding.Statement (.launchStartTime) := ⟨Eq.trans (b := false) rfl rfl, rfl, rfl, rfl⟩
theorem Encoding.eventPacket : Encoding.Statement (.eventPacket) := ⟨Eq.trans (b := false) rfl rfl, rfl, rfl, rfl⟩
theorem Encoding.pierKernelLoad : Encoding.Statement (.pierKernelLoad) := ⟨Eq.trans (b := false) rfl rfl, rfl, rfl, rfl⟩
theorem Encoding.pierKernelUnload : Encoding.Statement (.pierKernelUnload) := ⟨Eq.trans (b := false) rfl rfl, rfl, rfl, rfl⟩
theorem Encoding.hold : Encoding.Statement (.hold) := ⟨Eq.trans (b := false) rfl rfl, rfl, rfl, rfl⟩
theorem Encoding.fwd : Encoding.Statement (.fwd) := ⟨Eq.trans (b := false) rfl rfl, rfl, rfl, rfl⟩
theorem Encoding.drop : Encoding.Statement (.drop) := ⟨Eq.trans (b := false) rfl rfl, rfl, rfl, rfl⟩
theorem Encoding.endk : Encoding.Statement (.endk) := ⟨Eq.trans (b := false) rfl rfl, rfl, rfl, rfl⟩
theorem Encoding.illegalCommand : Encoding.Statement (.illegalCommand) := ⟨Eq.trans (b := false) rfl rfl, rfl, rfl, rfl⟩
theorem Encoding.wharfWaitTimeout : Encoding.Statement (.wharfWaitTimeout) := ⟨Eq.trans (b := false) rfl rfl, rfl, rfl, rfl⟩
theorem Encoding.channelFailure : Encoding.Statement (.channelFailure) := ⟨Eq.trans (b := false) rfl rfl, rfl, rfl, rfl⟩
theorem Encoding.refresh : Encoding.Statement (.refresh) := ⟨Eq.trans (b := false) rfl rfl, rfl, rfl, rfl⟩
theorem Encoding.patrolScrub : Encoding.Statement (.patrolScrub) := ⟨Eq.trans (b := false) rfl rfl, rfl, rfl, rfl⟩
theorem Encoding.tilePowerLoss : Encoding.Statement (.tilePowerLoss) := ⟨Eq.trans (b := false) rfl rfl, rfl, rfl, rfl⟩
theorem Encoding.tilePowerRestore : Encoding.Statement (.tilePowerRestore) := ⟨Eq.trans (b := false) rfl rfl, rfl, rfl, rfl⟩
theorem Encoding.powerGate : Encoding.Statement (.powerGate) := ⟨Eq.trans (b := false) rfl rfl, rfl, rfl, rfl⟩
theorem Encoding.powerUngate : Encoding.Statement (.powerUngate) := ⟨Eq.trans (b := false) rfl rfl, rfl, rfl, rfl⟩
theorem Encoding.modulePowerLoss : Encoding.Statement (.modulePowerLoss) := ⟨Eq.trans (b := false) rfl rfl, rfl, rfl, rfl⟩
theorem Encoding.moduleReset : Encoding.Statement (.moduleReset) := ⟨Eq.trans (b := false) rfl rfl, rfl, rfl, rfl⟩
theorem Encoding.fullService : Encoding.Statement (.fullService) := ⟨Eq.trans (b := false) rfl rfl, rfl, rfl, rfl⟩
theorem Encoding.debugHalt : Encoding.Statement (.debugHalt) := ⟨Eq.trans (b := false) rfl rfl, rfl, rfl, rfl⟩
theorem Encoding.debugResume : Encoding.Statement (.debugResume) := ⟨Eq.trans (b := false) rfl rfl, rfl, rfl, rfl⟩
theorem Encoding.step : Encoding.Statement (.step) := ⟨Eq.trans (b := false) rfl rfl, rfl, rfl, rfl⟩
theorem Encoding.imgout : Encoding.Statement (.imgout) := ⟨Eq.trans (b := false) rfl rfl, rfl, rfl, rfl⟩
theorem Encoding.imgin : Encoding.Statement (.imgin) := ⟨Eq.trans (b := false) rfl rfl, rfl, rfl, rfl⟩
theorem Encoding.imageTransferDone : Encoding.Statement (.imageTransferDone) := ⟨Eq.trans (b := false) rfl rfl, rfl, rfl, rfl⟩
theorem Encoding.map : Encoding.Statement (.map) := ⟨Eq.trans (b := false) rfl rfl, rfl, rfl, rfl⟩
theorem Encoding.mapx : Encoding.Statement (.mapx) := ⟨Eq.trans (b := false) rfl rfl, rfl, rfl, rfl⟩
theorem Encoding.unmap : Encoding.Statement (.unmap) := ⟨Eq.trans (b := false) rfl rfl, rfl, rfl, rfl⟩
theorem Encoding.hostTklend : Encoding.Statement (.hostTklend) := ⟨Eq.trans (b := false) rfl rfl, rfl, rfl, rfl⟩
theorem Encoding.hostTkret : Encoding.Statement (.hostTkret) := ⟨Eq.trans (b := false) rfl rfl, rfl, rfl, rfl⟩
theorem Encoding.hostTksplit : Encoding.Statement (.hostTksplit) := ⟨Eq.trans (b := false) rfl rfl, rfl, rfl, rfl⟩
theorem Encoding.hostTkjoin : Encoding.Statement (.hostTkjoin) := ⟨Eq.trans (b := false) rfl rfl, rfl, rfl, rfl⟩
theorem Encoding.hostTkshare : Encoding.Statement (.hostTkshare) := ⟨Eq.trans (b := false) rfl rfl, rfl, rfl, rfl⟩
theorem Encoding.hostTkunshare : Encoding.Statement (.hostTkunshare) := ⟨Eq.trans (b := false) rfl rfl, rfl, rfl, rfl⟩
theorem Encoding.hostTkatom : Encoding.Statement (.hostTkatom) := ⟨Eq.trans (b := false) rfl rfl, rfl, rfl, rfl⟩
theorem Encoding.hostTkquery : Encoding.Statement (.hostTkquery) := ⟨Eq.trans (b := false) rfl rfl, rfl, rfl, rfl⟩
theorem Encoding.hostTkclaim : Encoding.Statement (.hostTkclaim) := ⟨Eq.trans (b := false) rfl rfl, rfl, rfl, rfl⟩
theorem Encoding.migrate : Encoding.Statement (.migrate) := ⟨Eq.trans (b := false) rfl rfl, rfl, rfl, rfl⟩
theorem Encoding.jobinit : Encoding.Statement (.jobinit) := ⟨Eq.trans (b := false) rfl rfl, rfl, rfl, rfl⟩
theorem Encoding.jobrel : Encoding.Statement (.jobrel) := ⟨Eq.trans (b := false) rfl rfl, rfl, rfl, rfl⟩
theorem Encoding.attest : Encoding.Statement (.attest) := ⟨Eq.trans (b := false) rfl rfl, rfl, rfl, rfl⟩
theorem Encoding.fwstage : Encoding.Statement (.fwstage) := ⟨Eq.trans (b := false) rfl rfl, rfl, rfl, rfl⟩
theorem Encoding.fwcommit : Encoding.Statement (.fwcommit) := ⟨Eq.trans (b := false) rfl rfl, rfl, rfl, rfl⟩
theorem Encoding.pwrstatRead : Encoding.Statement (.pwrstatRead) := ⟨Eq.trans (b := false) rfl rfl, rfl, rfl, rfl⟩
theorem Encoding.wtempRead : Encoding.Statement (.wtempRead) := ⟨Eq.trans (b := false) rfl rfl, rfl, rfl, rfl⟩
theorem Encoding.powerThrottleEnd : Encoding.Statement (.powerThrottleEnd) := ⟨Eq.trans (b := false) rfl rfl, rfl, rfl, rfl⟩
theorem Encoding.thermalThrottleBegin : Encoding.Statement (.thermalThrottleBegin) := ⟨Eq.trans (b := false) rfl rfl, rfl, rfl, rfl⟩
theorem Encoding.thermalThrottleEnd : Encoding.Statement (.thermalThrottleEnd) := ⟨Eq.trans (b := false) rfl rfl, rfl, rfl, rfl⟩
theorem Encoding.thermalTrip : Encoding.Statement (.thermalTrip) := ⟨Eq.trans (b := false) rfl rfl, rfl, rfl, rfl⟩
theorem Encoding.uioCompletionTimeout : Encoding.Statement (.uioCompletionTimeout) := ⟨Eq.trans (b := false) rfl rfl, rfl, rfl, rfl⟩

end Sys2Proof.Laws
end

