-- ==== Sys2Proof/Tests/Slice0.lean ====
section
/-! SUPPORT. Tests: ill-formed terms that WellFormed refuses, words written out from the encoding tables, single steps with results
worked out by hand from the rules, and for each statement a state and operands that meet its hypotheses. -/

namespace Sys2Proof.Tests

-- One theorem after another, so that their evaluations do not stand in memory together.
set_option Elab.async false
open Sys2Proof Sys2Proof.Machine

/-- The guard that always executes, with the stop bit. -/
def H : Hd := ⟨true, false, 0, 0⟩
/-- A guard that wants s1<0> to be 1. -/
def G1 : Hd := ⟨true, true, 1, 0⟩
/-- Names of two rows. -/
def r0 : MName := ⟨0, .h, 0⟩
def r1 : MName := ⟨1, .v, 127⟩
/-- A command without wait or signal. -/
def W0 : WX := ⟨.none, 0, false, 0⟩

/-- A berth-thread of team 0 that runs on berth 0, its registers, and the first word of its code. -/
def st (f : Ctx → Ctx) (w : Nat := 0x8000000000000000) : State := ({ State.reset.placeBerth w with cur := 0, subj := ⟨0, 0, 0, 0⟩ }).modCtx f
/-- The same with scalar registers. -/
def sr (l : List (Nat × W64)) : State := st fun c => { c with sregs := l }
/-- Berth 0 as it executes an instruction. -/
def run (i : Instr) (s : State) : Option State :=
  match exec i s with
  | .next t => some t
  | _ => none
/-- The context of berth 0 after it. -/
def after (i : Instr) (s : State) : Ctx := ((run i s).map State.ctx).getD Ctx.start
/-- The last effect that an instruction puts in flight, and when it lands. -/
def flies (i : Instr) (s : State) : Option (Nat × Eff) := (after i s).flights.getLast?.map fun f => (f.rem, f.eff)

-- ill-formed terms --------------------------------------------------------------------------------------------------------

theorem test_wf_refuses_scalar : [Instr.nop ⟨true, true, 0, 0⟩, .nop ⟨true, false, 64, 0⟩, .nop ⟨true, false, 1, 64⟩, .nop ⟨true, true, 1, 0⟩,
    .rett ⟨true, false, 0, 1⟩, .add H 64 0 0, .add H 0 64 0, .add H 0 0 64, .clz H 64 0, .clz H 0 64, .addi H 64 0 0, .addi H 0 64 0,
    .addi H 0 0 (2 ^ 31), .movi H 64 0, .movi H 0 (2 ^ 31), .shli H 64 0 0, .shli H 0 64 0, .shli H 0 0 64, .bext H 64 0 0 0,
    .bext H 0 64 0 0, .bext H 0 0 64 0, .bext H 0 0 0 64, .cmpeq H 64 0 0 0, .cmpeq H 0 64 0 0, .cmpeq H 0 0 64 0,
    .cmpeq H 0 0 0 64, .lds H 0 0 (2 ^ 31)].all (fun i => !i.wf) = true := by decide

theorem test_wf_refuses_control : [Instr.br H (2 ^ 37), .call H 64 0, .call H 0 (2 ^ 37), .jmp H 64 0, .jmp H 0 64, .ret H 64, .loop H 4 0 0,
    .loop H 0 64 0, .loop H 0 0 (2 ^ 15), .loopi H 4 0 0, .loopi H 0 (2 ^ 20) 0, .loopi H 0 0 (2 ^ 15), .mtl H .lc 4 0, .mtl H .lc 0 64,
    .mfl H 64 .lc 0, .mfl H 0 .lc 4, .trap H (2 ^ 31), .mfsys H 64 0, .mfsys H 0 6, .mfsys H 0 0x74, .mtsys H 64 0, .mtsys H 0 0x41, .phase H 8,
    .fence H 128 0, .fence H 0 128, .pfence ⟨true, true, 0, 0⟩ false, .time H 64 false, .id H 64 0, .id H 0 22, .launch H 64 0,
    .launch H 0 16, .mboxreg H 64 0 0 0 false, .mboxreg H 0 64 0 0 false, .mboxreg H 0 0 1024 0 false, .mboxreg H 0 0 0 7 false,
    .tklend H 64 0 false, .tklend H 0 64 false, .tkret H 64 false, .tkquery H 64 0 false, .tkquery H 0 16 false].all (fun i => !i.wf) = true := by
  decide

theorem test_wf_refuses_vector : [Instr.vadd H ⟨4, .h, 0⟩ r0 r0 false .rne .w32 0, .vadd H ⟨0, .h, 128⟩ r0 r0 false .rne .w32 0,
    .vadd H r0 ⟨4, .h, 0⟩ r0 false .rne .w32 0, .vadd H r0 r0 ⟨4, .h, 0⟩ false .rne .w32 0, .vadd H r0 r0 r0 true .rne .w32 0,
    .vadd H r0 r0 r0 false .rne .w8 0, .vadd H r0 r0 r0 false .rne .w4 0, .vadd H r0 r0 r0 false .sr .w32 0, .vadd H r0 r0 r0 false .rne .w32 8,
    .vmin H r0 r0 r0 true .w32 0, .vabs H r0 r0 true .w32 0, .viadd H r0 r0 r0 false false .w4 0, .vimul H r0 r0 r0 true false true .w32 0,
    .vand H r0 r0 r0 .w32 8, .vshl H r0 r0 r0 .w4 0, .vcmp H 8 r0 r0 .sgn .eq .w32 0, .vcmp H 0 r0 r0 .flt .eq .w8 0,
    .vcmp H 0 r0 r0 .fp16 .eq .w32 0, .vcmp H 0 r0 r0 .sgn .uo .w32 0, .vcvt H r0 r0 .zb4 .fp32 .rne false 0 0 0,
    .vcvt H r0 r0 .fp32 .zb4 .rne false 0 0 0, .vcvt H r0 r0 .fp32 .bf16 .rne false 0 2 0, .vcvt H r0 r0 .fp32 .bf16 .rne false 1 0 0,
    .vcvt H r0 r0 .fp32 .bf16 .sr false 16 0 0, .vcvt H r0 r0 .fp32 .mxfp4 .rne true 0 0 0, .vkey H r0 r0 false .flt false .w8 0,
    .vkey H r0 r0 false .sgn true .w32 0, .vhist H r0 r0 32 0 false false .w32 0, .vhist H r0 r0 0 8 false false .w32 0,
    .vscan H r0 r0 false true .rtz .w32 0, .vscan H r0 r0 false false .rne .w16 0, .vred H r0 r0 .fsum true false .rne .w32 0,
    .vred H r0 r0 .fmax false false .rtz .w32 0, .vred H r0 r0 .isum false true .rne .w32 0, .vred H r0 r0 .smax true false .rne .w32 0,
    .vperm H r0 r0 r0 false true .w32 0, .vbcast H r0 0 .w32 (2 ^ 21), .vmovs H r0 0 true true .w32 0, .vmovs H r0 0 false true .w32 128,
    .vrot H 64 0, .vmconf H 0 (2 ^ 21), .kand H 8 0 0, .kand H 0 8 0, .kand H 0 0 8, .kpopc H 64 0, .kpopc H 0 8, .vld H r0 64 0 .w32 0,
    .vld H r0 0 8 .w32 0, .vld H r0 0 0 .w32 (2 ^ 21), .vldx H r0 r0 1 .w32 0, .vstx H r0 r0 4 .w8 0].all (fun i => !i.wf) = true := by decide

theorem test_wf_refuses_copy : [Instr.cp H 64 0 0 0 .none false false 0, .cp H 0 64 0 0 .none false false 0, .cp H 0 0 64 0 .none false false 0,
    .cp H 0 0 0 0 .none false false 256, .cp H 0 0 0 1 .none false false 0, .cp H 0 0 0 16 .none false true 0, .cp H 0 1 0 0 .none false true 0,
    .cp H 0 0 0 0 .none true true 0, .cp H 0 0 0 0 .publish false true 0, .cp H 0 0 0 15 .publish false false 0, .cp H 0 0 0 32 .publish false false 0,
    .cp H 0 0 0 16 .publish true false 0, .cp H 0 0 0 0 .t8 true false 0, .cpw H 0 0 0 0 .t8 false false 0, .cps H 0 0 0 0 .t16 false false 0,
    .cpg H 0 0 0 false 256, .lwait H 65, .stbind H 16 0, .stbind H 0 3, .strel H 0 0 16, .rconf H 16 0 0, .racq H 16 0, .rrel H 16,
    .probe H 0 0 4 0, .probe H 0 0 0 1024, .pwait H 64, .pinv H 1 0 true, .pinv H 0 4 false, .atom H 0 0 0 16 .add 0 true 0,
    .atom H 0 1 0 0 .add 0 true 0, .atom H 0 0 0 0 .fadd 0 true 0, .atom H 0 0 0 0 .add 4 true 0, .atom H 0 0 0 0 .add 0 true 10,
    .atomnr H 0 0 0 .read 0 true 0, .atomfence H 10, .semwait H 0 0 .eq true, .imload H 0 0 0 256, .layset H 64 0, .wconf H 16 0 0 0,
    .mmul H 4 0 0 .single false false, .mmul H 0 16 0 .single false false, .wload H 16 .single .bf16, .wload H 0 .single .fp32, .sqbind H 1 true,
    .acczero H 4 .single, .accdrain H 0 0 .single .mxfp4 .rne false 0 0, .accdrain H 0 0 .single .bf16 .sr false 0 0,
    .accread H ⟨4, .h, 0⟩ 0 0].all (fun i => !i.wf) = true := by decide

theorem test_wf_refuses_pier_and_wharf : [Instr.addp false false false 16 0 0 0, .addp false false false 0 16 0 0, .addp false false false 0 0 16 0,
    .addp false true false 0 0 0 0, .addp false false true 0 0 1 0, .addp true true true 0 0 0 0, .addp false false false 0 0 0 1,
    .addp false false true 0 0 0 1024, .cmpp false false true .flt 0 0 0, .selp false false true 0 0 0 0 64, .hld false 0 1 0, .hld true 0 0 64,
    .pld 16, .pst 16, .fld false 0 0 16, .fst 0 16 0, .fcas 16 0 0 0, .combine .iadd 16 0, .emit false 1 0, .redirect false 16, .brf false 0 128,
    .trapp (2 ^ 16), .nopw ⟨.none, 1, false, 0⟩, .nopw ⟨.eq, 64, false, 0⟩, .nopw ⟨.none, 0, false, 1⟩, .nopw ⟨.none, 0, true, 64⟩, .setd W0 64 0 0,
    .setd W0 0 8 0, .setd W0 0 0 (2 ^ 32), .wharfSemwait W0 0 .eq true, .fill W0 64 0, .convert W0 0 0 .sr false, .gather W0 0 0 64 false,
    .pool W0 0 0 0 1 .sum false false, .topkv W0 0 0 0 1024, .lqctlWrite 16 0, .barrierComplete 0 8 0, .retryRequest 11 0, .laneFail 0 18,
    .pierjobWrite 64 0, .pierPacketMatch 0 8, .wuctlWrite 256 0, .remapRewrite 0 2, .hostRead 4 0, .poolwinWrite 4 0, .streamElementArrive 128 0,
    .vbusCrcFailure 0 256 0, .berthFailure 0 256 0, .registerWrite (2 ^ 26) 0].all (fun i => !i.wf) = true := by decide

-- words written out from the encoding tables ------------------------------------------------------------------------------------

/-- Bits of a berth word: OP 62:56, then its operand fields, with the stop bit and the guard that always executes. -/
theorem test_words_scalar :
    -- R155 add s5, s6, s7 (F-SS, FN 0); R156 div (OP 0x02, FN 0x10); R157 addi s5, s6, −1 (F-SI); R159 bext (OP 0x09)
    decodeBerth (2 ^ 63 + 0x01 * 2 ^ 56 + 5 * 2 ^ 37 + 6 * 2 ^ 31 + 7 * 2 ^ 25) = .ok (.add H 5 6 7) ∧
    decodeBerth (2 ^ 63 + 0x02 * 2 ^ 56 + 5 * 2 ^ 37 + 6 * 2 ^ 31 + 7 * 2 ^ 25 + 0x10 * 2 ^ 17) = .ok (.div H 5 6 7) ∧
    decodeBerth (2 ^ 63 + 0x03 * 2 ^ 56 + 5 * 2 ^ 37 + 6 * 2 ^ 31 + 0x7FFFFFFF) = .ok (.addi H 5 6 0x7FFFFFFF) ∧
    decodeBerth 0x8000000000000000 = .ok (.nop H) ∧
    -- R160 cmplt s1.9, s2, s3 (OP 0x0F, FN<5:0> = 9), guarded by s1.0
    decodeBerth (2 ^ 63 + 0x0F * 2 ^ 56 + 2 ^ 55 + 1 * 2 ^ 49 + 1 * 2 ^ 37 + 2 * 2 ^ 31 + 3 * 2 ^ 25 + 9 * 2 ^ 17) = .ok (.cmplt G1 1 9 2 3) ∧
    -- R164 br −1; R166 loopi 2, 1000, 5; R168 mfsys s3, 0x40; R173 fence F, P
    decodeBerth (2 ^ 63 + 0x20 * 2 ^ 56 + (2 ^ 37 - 1)) = .ok (.br H (2 ^ 37 - 1)) ∧
    decodeBerth (2 ^ 63 + 0x25 * 2 ^ 56 + 2 * 2 ^ 41 + 1000 * 2 ^ 15 + 5) = .ok (.loopi H 2 1000 5) ∧
    decodeBerth (2 ^ 63 + 0x30 * 2 ^ 56 + 3 * 2 ^ 37 + 0x40 * 2 ^ 19) = .ok (.mfsys H 3 0x40) ∧
    decodeBerth (2 ^ 63 + 0x33 * 2 ^ 56 + 32 * 2 ^ 24 + 1 * 2 ^ 11) = .ok (.fence H 32 1) := by decide

theorem test_words_vector :
    -- R185 vadd.bf16.rtz m0.h0, m1.v127, m0.h0, k3 (OP 0x40, RM 001 at 7:5, width 01); R205 vst (OP 0x61); R206 vldx (OP 0x62)
    decodeBerth (2 ^ 63 + 0x40 * 2 ^ 56 + (1 * 2 ^ 9 + 1 * 2 ^ 7 + 127) * 2 ^ 21 + 1 * 2 ^ 5 + 1 * 2 ^ 3 + 3) =
      .ok (.vadd H r0 r1 r0 false .rtz .w16 3) ∧
    decodeBerth (2 ^ 63 + 0x61 * 2 ^ 56 + (1 * 2 ^ 9 + 1 * 2 ^ 7 + 127) * 2 ^ 32 + 9 * 2 ^ 26 + 2 * 2 ^ 23 + 1 * 2 ^ 21 + 64) =
      .ok (.vst H r1 9 2 .w16 64) ∧
    decodeBerth (2 ^ 63 + 0x62 * 2 ^ 56 + (1 * 2 ^ 9 + 1 * 2 ^ 7 + 127) * 2 ^ 21 + 1 * 2 ^ 5 + 2 * 2 ^ 3) = .ok (.vldx H r0 r1 1 .w8 0) ∧
    -- R192 vsel (OP 0x4F)
    decodeBerth (2 ^ 63 + 0x4F * 2 ^ 56 + (1 * 2 ^ 9 + 1 * 2 ^ 7 + 127) * 2 ^ 10 + 1) = .ok (.vsel H r0 r0 r1 .w32 1) := by decide

theorem test_words_lighter :
    -- R220 stbind st3 to 512-byte elements is left to the round trip; R223 racq q2 → s9 (OP 0x66, x = 2, l = 9); R225 rrel q2
    decodeBerth (2 ^ 63 + 0x66 * 2 ^ 56 + 9 * 2 ^ 31 + 18 * 2 ^ 20) = .ok (.racq H 2 9) ∧
    decodeBerth (2 ^ 63 + 0x66 * 2 ^ 56 + 18 * 2 ^ 20 + 3 * 2 ^ 10) = .ok (.rrel H 2) ∧
    -- a reserved Q, and a nonzero reserved bit of a NOP
    (∃ e, decodeBerth (2 ^ 63 + 0x68 * 2 ^ 56 + 5 * 2 ^ 17) = .error e) ∧ (∃ e, decodeBerth (2 ^ 63 + 1) = .error e) := by
  refine ⟨by decide, by decide, ?_, ?_⟩ <;> exact ⟨_, rfl⟩

theorem test_words_pier_and_wharf :
    -- spec/19 Example 19-1, spec/24 Example 24-1
    decodePier 0x54046080 = some (.fst 2 3 1) ∧ decodeWharf 0x0000241083000000 = some (.pool W0 1 2 3 0 .sum false false) ∧
    decodePier 0 = none := by decide

-- single steps --------------------------------------------------------------------------------------------------------------

/-- R155: the sum wraps. -/
theorem test_add_wraps : flies (.add H 3 1 2) (sr [(1, BitVec.allOnes 64), (2, 1)]) = some (1, .sreg 3 0) := by decide
/-- R155: a shift amount counts modulo 64, and SAR fills with the sign. -/
theorem test_sar_amount : flies (.sar H 3 1 2) (sr [(1, 0x8000000000000000), (2, 65)]) = some (1, .sreg 3 0xC000000000000000) := by decide
/-- R156: division by zero, the overflowing quotient, and the sign of a remainder. -/
theorem test_div_zero : flies (.div H 3 1 2) (sr [(1, 5)]) = some (20, .sreg 3 (BitVec.allOnes 64)) := by decide
theorem test_div_overflow : flies (.div H 3 1 2) (sr [(1, 0x8000000000000000), (2, BitVec.allOnes 64)]) =
    some (20, .sreg 3 0x8000000000000000) := by decide
theorem test_rem_sign : flies (.rem H 3 1 2) (sr [(1, BitVec.ofInt 64 (-7)), (2, 2)]) = some (20, .sreg 3 (BitVec.allOnes 64)) := by decide
/-- R156: the high half of a signed product. -/
theorem test_mulh_sign : flies (.mulh H 3 1 2) (sr [(1, BitVec.allOnes 64), (2, 1)]) = some (3, .sreg 3 (BitVec.allOnes 64)) := by decide
/-- R157: MOVH puts its immediate below the low 33 bits of a. -/
theorem test_movh : flies (.movh H 3 1 5) (sr [(1, 0x1FFFFFFFF)]) = some (1, .sreg 3 0xFFFFFFFF80000005) := by decide
/-- R160: an unsigned compare of −1. -/
theorem test_cmpltu : flies (.cmpltu H 3 9 1 2) (sr [(1, 1), (2, BitVec.allOnes 64)]) = some (1, .sbit 3 9 true) := by decide
/-- R161: SEL with a guard that is false takes b. -/
theorem test_sel_false : flies (.sel G1 3 1 2) (sr [(1, 4), (2, 6)]) = some (1, .sreg 3 6) := by decide
/-- R37: a guarded-off word puts nothing in flight. -/
theorem test_guarded_off : flies (.add G1 3 1 2) (sr [(1, 4)]) = none := by decide
/-- R163, R162: a store's bytes, and a misaligned load with a handler, which records the address. -/
theorem test_sts_bytes : flies (.sts H 1 2 0) (sr [(1, 0x0102), (2, 0xFFFF8)]) =
    some (2, .store 0 [(0xFFFF8, 2), (0xFFFF9, 1), (0xFFFFA, 0), (0xFFFFB, 0), (0xFFFFC, 0), (0xFFFFD, 0), (0xFFFFE, 0), (0xFFFFF, 0)]) := by
  decide
theorem test_lds_align : (after (.lds H 1 2 0) (st fun c => { c with sregs := [(2, 4)], tvec := 0x8000000000000010 })).taddr = 4 := by decide
/-- R164: the branch target counts from the branch word. -/
theorem test_br_back : (after (.br H (2 ^ 37 - 1)) { sr [] with woff := 7 }).branch = some ⟨6, 2⟩ := by decide
/-- R56: LOOP with a count in a register. -/
theorem test_loop : Tab.get Loop.zero (after (.loop H 3 1 4) (sr [(1, 9)])).loops 3 = ⟨9, 1, 5, 1, 5⟩ := by decide
/-- R335: a trap taken with a handler. -/
theorem test_trap_entry : let c := (after (.mtsys H 1 0) (st fun c => { c with pc := 5, tvec := 0x8000000000000010 }))
    (c.tcause, c.tpc, c.hs, c.pc) = (0x62 + 1, 5, true, 16) := by decide
/-- R335: without one the team ends with the fault's code. -/
theorem test_team_ends : ((run (.vmconf H 0 0) (sr [])).bind fun t => t.man 1).map (fun m => (m.ended, m.code)) = some (true, 2) := by decide
/-- R223, R225: RACQ moves a slot to filling and gives its address; RREL of a ring with no draining slot faults. -/
theorem test_racq : let c := st fun c => { c with rings := [(2, ⟨0x1000, 512, 2, 0, 0, []⟩)] }
    flies (.racq H 2 9) c = some (1, .sreg 9 0x1000) ∧ ((after (.racq H 2 9) c).ring 2).acq = 1 := by decide
/-- R246: FMTPUSH of a code above 8. -/
theorem test_fmtpush_bad : (after (.fmtpush H 1) (st fun c => { c with sregs := [(1, 9)], tvec := 0x8000000000000000 })).tcause = 2 := by decide
/-- R254, R255: ACCZERO flies for 4 ck. -/
theorem test_acczero : flies (.acczero H 2 .single) (sr []) = some (4, .accZero 2 [0]) := by decide
/-- R240: LAYSET reads 64 bytes; a length of 0 handles faults. -/
theorem test_layset_zero : (after (.layset H 0 0) (st fun c => { c with tvec := 0x8000000000000000 })).tcause = 2 := by decide

-- states and operands that meet the hypotheses of the statements ---------------------------------------------------------------

/-- A berth about to land one result. -/
def landing (e : Eff) (l : List Flight := []) : State :=
  { st fun c => { c with open_ := true, flights := ⟨1, e, false⟩ :: l } with agent := .land 0 }

theorem wit_GuardedOffWordDoesNothing : wordHead (.add G1 3 1 2) = some G1 ∧ (sr []).ctx.guard G1 = false ∧
    ∀ d a b, Instr.add G1 3 1 2 ≠ .sel G1 d a b := ⟨rfl, by decide, by intros; simp⟩
theorem wit_ScalarArithmeticForms : (sr []).ctx.guard H = true := by decide +kernel
theorem wit_ScalarFieldsCompareAndSelect : (sr []).ctx.guard H = true ∧ 2 ^ 31 - 1 < 2 ^ 31 ∧ 63 < 64 ∧ (sr []).ctx.guard G1 = false := by decide +kernel

theorem wit_ResultsLand_scalar : let s := landing (.sreg 63 7) [⟨2, .kmask 1 0, false⟩]
    s.subj.berth = 0 ∧ s.agent = .land 0 ∧ (s.ctxAt 0).open_ = true ∧ (s.ctxAt 0).landed = false ∧
    (s.ctxAt 0).flights = [] ++ ⟨1, .sreg 63 7, false⟩ :: [⟨2, .kmask 1 0, false⟩] ∧
    (landing (.sbit 0 63 true)).ctx.flights = [⟨1, .sbit 0 63 true, false⟩] ∧ (landing (.kmask 7 0)).ctx.flights = [⟨1, .kmask 7 0, false⟩] := by
  decide +kernel
theorem wit_ResultsLand_quiet : ∀ f ∈ ([] ++ [⟨2, .kmask 1 0, false⟩] : List Flight), 2 ≤ f.rem ∧ (∀ r, f.eff ≠ .mmul r) ∧ ∀ r, f.eff ≠ .wload r := by
  simp
theorem wit_ResultsLand_other : (landing (.store 1 [(0, 1)])).ctx.flights = [⟨1, .store 1 [(0, 1)], false⟩] ∧
    (landing (.sysreg 0x73 5)).ctx.flights = [⟨1, .sysreg 0x73 5, false⟩] ∧ (landing (.rot 127)).ctx.flights = [⟨1, .rot 127, false⟩] ∧
    (landing (.depth 1)).ctx.flights = [⟨1, .depth 1, false⟩] ∧ (landing (.mpb [])).ctx.flights = [⟨1, .mpb [], false⟩] := by decide +kernel
theorem wit_ResultsLand_vector : let es := List.replicate 128 (2 ^ 32 - 1)
    let c := (st fun c => c).ctx
    let s := landing (c.vecEff ⟨3, .h, 127⟩ .w32 (allMask .w32) es)
    (s.ctxAt 0).flights = [⟨1, (s.ctxAt 0).vecEff ⟨3, .h, 127⟩ .w32 (allMask .w32) es, false⟩] ∧ MName.wf ⟨3, .h, 127⟩ = true ∧ (s.ctxAt 0).ld = 128 ∧
    (allMask .w32).length = widthCount .w32 ∧ es.length = widthCount .w32 ∧ ∀ x ∈ es, x < 2 ^ Width.w32.bits :=
  ⟨rfl, rfl, rfl, by decide +kernel, by decide +kernel, by decide +kernel⟩
/-- R45, R38: it lands, and s0 discards a write. -/
theorem test_land : ((run .resultLand (landing (.sreg 63 7))).map fun t => (t.ctx.reg 63, t.ctx.flights, t.agent)) = some (7, [], .release 0) ∧
    ((run .resultLand (landing (.sreg 0 7))).map fun t => t.ctx.reg 0) = some 0 := by decide +kernel

theorem wit_LocalLoadsAndStores : let s := sr [(1, 0xFFFF8), (2, 0xFFE00)]
    let p := (s.ctx.reg 1 + sx31 0).toNat
    let q := (s.ctx.reg 2 + sx21 0).toNat
    p % 8 = 0 ∧ p + 8 ≤ 0x100000 ∧ s.ownFault p 8 .read = none ∧ s.ownFault p 8 .write = none ∧
    q % 64 = 0 ∧ q + 512 ≤ 0x100000 ∧ s.ownFault q 512 .read = none ∧ s.ownFault q 512 .write = none := by decide +kernel
theorem wit_LocalLoadsAndStores_indexed : let s := sr []
    ∀ e ∈ s.ctx.indexed r0 0 .w32 0, e.2.1 < 0x100000 ∧ e.2.1 % 4 = 0 ∧ s.ownFault e.2.1 4 .read = none ∧ s.ownFault e.2.1 4 .write = none := by
  decide +kernel
theorem wit_LocalAccessFaultsAndWindows : let s := sr [(1, 0xFFFF9), (2, 0x1100000), (3, 0xFFFF4), (4, 0xFFE01), (5, 0xFFDC1)]
    ((s.ctx.reg 1).toNat < 0x100000 ∧ 0x100000 < (s.ctx.reg 1).toNat + 8) ∧ 0x1100000 ≤ (s.ctx.reg 2).toNat ∧
    ((s.ctx.reg 3).toNat + 8 ≤ 0x100000 ∧ (s.ctx.reg 3).toNat % 8 ≠ 0) ∧
    ((s.ctx.reg 4).toNat < 0x100000 ∧ 0x100000 < (s.ctx.reg 4).toNat + 512) ∧
    ((s.ctx.reg 5).toNat + 512 ≤ 0x100000 ∧ (s.ctx.reg 5).toNat % 64 ≠ 0) := by decide +kernel
/-- Window 15 on a peer's last 512 bytes, with an allowance of 1. -/
def windowed (out : Nat) (l : List (Nat × Nat)) : State :=
  st fun c => { c with sregs := [(1, 0x10001F8), (2, 0x10FFFF8)], windows := [(15, ⟨true, 0, 0, 0xFFE00, out, 1, none⟩)], fences := l }
theorem wit_LocalAccessFaultsAndWindows_window :
    (∀ s ∈ [windowed 0 [], windowed 1 [], windowed 0 [(1, 32)]], let p := (s.ctx.reg 1 + sx31 0).toNat
      let w := Tab.get Window.none s.ctx.windows ((p - 0x100000) / 0x100000)
      0x100000 ≤ p ∧ p < 0x1100000 ∧ p % 8 = 0 ∧ w.valid = true ∧ w.lbase + p % 0x100000 + 8 ≤ 0x100000) ∧
    (windowed 0 []).ctx.holding = false ∧ (windowed 1 []).ctx.holding = false ∧
    (Tab.get Window.none (windowed 0 []).ctx.windows 15).out < 1 ∧ 1 ≤ (Tab.get Window.none (windowed 1 []).ctx.windows 15).out := by decide +kernel

/-- A manifest of two levels, the second of two berth-threads; its team runs. -/
def team2 : Man := { newMan 1 (((List.replicate 256 0).set 2 0x08).set 0x41 1) 0 0 0 .host with st := .running }
def st2 (f : Ctx → Ctx) : State := { st f with mans := [team2] }
/-- An operation that a FENCE holds. -/
def heldOp : Op := ⟨9, .sempost 0 0, .count, 0, .sent, 1, 0, false, Window.none, false, [], [], 0⟩
/-- The same, sent. -/
def sentOp : Op := { heldOp with held := 0 }

theorem wit_LocalAccessFaultsAndWindows_held : (st fun c => { c with ops := [heldOp] }).ctx.holding = true := by decide +kernel

theorem wit_BranchesAndHardwareLoops : let s := sr [(1, 32767), (2, 32768)]
    s.ctx.branch = none ∧ s.ctx.quiet = 0 ∧ (st fun c => { c with quiet := 2 }).ctx.quiet ≠ 0 ∧ s.ctx.hs = false ∧ s.ctx.nestBad 3 s.woff (s.groupEnd + 5) = false ∧ (s.ctx.reg 1).toNat ≤ 32767 ∧
    32767 < (s.ctx.reg 2).toNat ∧ (LoopReg.lb ≠ .lc) ∧ (st fun c => { c with branch := some ⟨0, 2⟩ }).ctx.branch ≠ none ∧
    (st fun c => { c with loops := [(3, ⟨1, 0, 0, 0, 0⟩)] }).ctx.nestBad 3 0 6 = true ∧ (st fun c => { c with hs := true }).ctx.hs = true := by
  decide +kernel
theorem wit_TrapEntryOrTeamEnd : let s := st fun c => { c with tvec := 0x8000000000000010, pc := 32767 }
    s.ctx.tvec.getLsbD 63 = true ∧ s.ctx.hs = false ∧ 0x64 < 256 ∧ s.ctx.pc < 32768 ∧
    ((sr []).ctx.pending = none ∧ (sr []).man (sr []).ctx.team = some (newMan 1 (List.replicate 24 0 ++ List.replicate 6 255) 0 0 0 .host |> fun m =>
      { m with st := .running }) ∧ (sr []).ctx.tvec.getLsbD 63 = false) ∧ (st fun c => { c with hs := true }).ctx.hs = true := by decide +kernel
/-- A record of the own export that was lost, met at address 8. -/
theorem wit_TrapEntryOrTeamEnd_lost : let s := sr []
    let g : Region := ⟨0, some s.ctx.self, 0, 9, .owned, s.ctx.self, [], 0, [], true⟩
    let l : State := { s with regions := [g] }
    (l.regions.filter fun y => y.lost && y.exporter == some l.ctx.self && decide ((8 : W64).toNat < y.base + 2 ^ y.log2)) = [g] ∧
    Memory.wf zeroByte l.hmem = true ∧ l.ctx.tvec.getLsbD 63 = false ∧ ((l.man l.ctx.team).map Man.ended) = some false := by decide +kernel
theorem wit_TrapFormsAndReturn : (sr []).ctx.branch = none ∧ (sr []).ctx.quiet = 0 ∧ (st fun c => { c with hs := true }).ctx.hs = true ∧ (sr []).ctx.hs = false ∧
    (let a : Snap := ⟨[⟨3, .sreg 1 5, false⟩], some ⟨7, 1⟩, [], [], [(2, 0, 5, false)], 1, (some (0, 1, 6, true), some 3), [4]⟩
     let s := st fun c => { c with pilot := .rett, hs := true, aside := some a }
     (s.ctxAt s.subj.berth).pilot = .rett ∧ (s.ctxAt s.subj.berth).flights = [] ∧ (s.ctxAt s.subj.berth).drop = false ∧
     (s.ctxAt s.subj.berth).aside = some a ∧
     (let d := s.modCtxAt 0 fun c => { c with drop := true }
      (d.ctxAt d.subj.berth).drop = true ∧ (d.ctxAt d.subj.berth).pilot = .rett)) := by decide +kernel
theorem wit_SystemRegistersAndIdentity : let h := st fun c => { c with hs := true }
    let s := sr [(1, 0x09000000), (2, 0x01000000), (3, 0x09200000)]
    let x : State := { s with regions := [⟨0, some (s.ctx.self), 0, 9, .atomic, s.ctx.self, [], 0, [], false⟩] }
    h.ctx.hs = true ∧ s.ctx.hs = false ∧ spexpBad (s.ctx.reg 1) = false ∧ spexpBad (s.ctx.reg 2) = true ∧ s.exportFree s.ctx.self = true ∧
    x.exportFree x.ctx.self = false ∧ s.ctx.ptBad 3 (s.ctx.reg 3) = false ∧ s.ctx.ptFilling 3 = false ∧
    (st2 fun c => c).man 1 = some team2 ∧ team2.nlev = 2 ∧ 1 < 8 ∧ team2.nlev ≤ 15 % 8 := by decide +kernel
theorem wit_FencesPhasesAndExit : let s := st2 fun c => c
    let o := st2 fun c => { c with ops := [sentOp], fences := [] }
    s.ctx.holding = false ∧ (s.berth s.cur).persistBusy = false ∧ s.man s.ctx.team = some team2 ∧ 1 ≤ team2.nlev ∧ team2.grace = none ∧
    s.fenceDone 127 = true ∧ o.fenceDone 127 = false ∧ o.ctx.holding = false ∧ s.ctx.persisted = false ∧ s.ctx.persisting = false ∧
    (st2 fun c => { c with persisted := true }).ctx.persisted = true ∧
    (∀ o ∈ (st2 fun c => { c with ops := [{ sentOp with kind := .mboxack }] }).ctx.ops, o.unruled = false) ∧ s.exitReady = true ∧ s.ctx.unraised = none ∧ o.exitReady = false := by
  decide +kernel
theorem wit_FencesPhasesAndExit_barrier : let s := st2 fun c => c
    let m := fun (d l : Bool) => { team2 with barriers := [⟨1, 0, 0, [], d, l, [], false⟩] }
    s.writesSettled = true ∧ s.ctx.storing = false ∧ (st2 fun c => { c with flights := [⟨2, .store 1 [(0, 1)], false⟩] }).ctx.storing = true ∧
    (st2 fun c => { c with flights := [⟨2, .store 1 [(0, 1)], false⟩] }).writesSettled = true ∧ 1 < team2.nlev ∧ (team2.barrier 1 (team2.inst 1 0) 0).done = false ∧ (team2.barrier 1 0 0).lost = false ∧
    ((m true false).barrier 1 0 0).done = true ∧ ((m false true).barrier 1 0 0).done = false ∧ ((m false true).barrier 1 0 0).lost = true := by
  decide +kernel
theorem wit_LaunchAndMailboxForms : let s : State := { sr [(1, 0xFFF00)] with lqs := [(15, ⟨0x8000000000000000, 0, 0, 0, [], []⟩)] }
    let p := (s.ctx.reg 1).toNat
    let e := st fun c => { c with spexp := 0x09000000, mboxReq := some (0, 0 + 1, 3 + 6, true), mboxAns := some 5 }
    p + 256 ≤ 0x100000 ∧ p % 256 = 0 ∧ (s.lq 15).ctl.getLsbD 63 = true ∧ (s.lq 0).ctl.getLsbD 63 = false ∧
    (s.man s.ctx.team).map Man.job = some (bf (s.lq 15).ctl 32 6) ∧ s.ownFault p 256 .read = none ∧
    e.ctx.export_.1 ≤ 0 ∧ 0 + 512 ≤ e.ctx.export_.1 + e.ctx.export_.2 ∧ e.ctx.mboxReq = some (0, 0 + 1, 3 + 6, true) ∧ e.ctx.mboxAns = some 5 ∧ e.ctx.holding = false ∧
    e.ctx.mboxReq ≠ some (0, 1 + 1, 3 + 6, true) ∧ (e.berth e.cur).persistBusy = false ∧ e.mboxOverlap 0 (some e.ctx.self) 0 1024 = false ∧ (sr []).mboxOverlap 0 (some e.ctx.self) 0 512 = false ∧
    ({ team2 with mbox := some (1, 2) } : Man).mbox.isSome = true ∧ team2.mbox = none := by decide +kernel

/-- A stream register bound to 8-byte elements. -/
def bound8 (l : List (List Byte)) : Tab Stream := [(15, { Stream.unbound with es := 8, arrived := l })]
theorem wit_TokenFormsIssue : let s := st fun c => { c with streams := bound8 [] }
    let w : State := { s with regions := [⟨0, none, 0, 30, .owned, .host, [], 0, [], false⟩] }
    let b := w.modCtx fun c => { c with ops := [sentOp] }
    s.ctx.guard H = true ∧ (s.ctx.stream 15).es = 8 ∧ (s.ctx.stream 0).es ≠ 8 ∧ s.ctx.holding = false ∧ s.flushWaits 0 false = false ∧
    b.flushWaits 0 false = true ∧ b.ctx.holding = false ∧ ((st2 fun c => { c with sregs := [(1, 1)] }).ctx.reg 1).toNat < (st2 fun c => c).nlev ∧
    (st fun c => { c with spexp := 0x09000000 }).ctx.spBad 0 = false := by decide +kernel
theorem wit_VectorReshapingForms : let s := sr [(1, 1), (2, 128), (3, 129)]
    let v := fun r => s.ctx.reg r + w64 0
    1 ≤ (v 1).toNat ∧ (v 2).toNat ≤ 128 ∧ 128 < (v 3).toNat ∧ (v 0).toNat < 1 ∧ s.ctx.m3Busy = false ∧
    (st fun c => { c with flights := [⟨2, .cells [], true⟩] }).ctx.m3Busy = true := by decide +kernel

theorem wit_VectorFloatForms : (sr []).ctx.guard H = true ∧ (sr [(1, 1)]).ctx.guard H = true := by decide +kernel
theorem wit_VectorIntegerForms : (sr []).ctx.guard H = true ∧ (sr [(1, 1)]).ctx.guard H = true := by decide +kernel
theorem wit_VectorMaskAndMoveForms : (sr []).ctx.guard H = true ∧ (sr [(1, 1)]).ctx.guard H = true := by decide +kernel

/-- One whole region that anyone may use. -/
def open_ (s : State) : State := { s with regions := [⟨0, none, 0, 62, .owned, .host, [], 0, [], false⟩] }
/-- A queue of copies that is full. -/
def fullQ : List Op := (List.range 64).map fun k => { sentOp with id := k, kind := .copy (copyReq .cp Ctx.start none 0 0 0 .none false) }

theorem wit_CopiesIssue : let s := sr [(1, 0x1000), (2, 0), (3, 64), (4, 0x6000100000)]
    let c := s.ctx
    c.holding = false ∧ c.queueFull = false ∧ (c.reg 3).toNat / 2 ^ 48 = 0 ∧
    checks (s.copyChecks (copyReq .cp c none 1 2 3 .none false) (c.reg 3) 0 false) = none ∧
    checks (s.copyChecks (copyReq .cps c none 1 2 4 .none false) (c.reg 4) 0 false) = none ∧
    checks (s.copyChecks (copyReq .cpg c none 1 2 3 .zero false) (c.reg 3) 0 false) = none ∧
    (st fun c => { c with ops := fullQ }).ctx.queueFull = true := by decide +kernel
theorem wit_CopiesIssue_window :
    (∀ k ∈ [false, true], let s := windowed 0 []
      let c := s.ctx
      let w := Tab.get Window.none c.windows (winOf (c.reg 1).toNat)
      checks (s.copyChecks (copyReq .cpw c none 1 3 3 .none k) (c.reg 3) 0 false) = none ∧ w.out < w.limit) := by decide +kernel
theorem wit_CopiesIssue_plain : let s := sr [(1, 0x100000), (2, 0x100001), (3, 1)]
    let c := s.ctx
    c.holding = false ∧ c.queueFull = false ∧ (c.reg 1).toNat < 2 ^ 32 ∧ 0x100000 < (c.reg 2).toNat ∧ (c.reg 2).toNat < 2 ^ 32 ∧
    (c.reg 1).toNat ≤ 0x100000 ∧ (c.reg 0).toNat + (c.reg 1).toNat ≤ 0x100000 ∧ 0x100000 < (c.reg 3).toNat + (c.reg 1).toNat ∧
    s.ownFault 0 0x100000 .read = none ∧ s.ownFault 0 0x100000 .write = none := by decide +kernel
/-- The scratchpad's first 4 KiB lent to another party. -/
theorem wit_CopiesIssue_lent : let s : State := { st fun c => { c with sregs := [(3, 64)], spexp := 0x0C000000 } with regions := [⟨0, some (sr []).ctx.self, 0, 12, .owned, .host, [], 0, [], false⟩] }
    s.ctx.queueFull = false ∧ (s.ctx.reg 3).toNat ≤ 0x100000 ∧ s.ownFault 0 64 .read ≠ none ∧ s.ownFault 0 64 .write ≠ none := by decide +kernel

/-- A failure of operation k. -/
def failed (k : Nat) : Fail := { op := k, code := 0x30, addr := 0, tag := 7 }
theorem wit_WaitsAndTheirFailures : let s := st2 fun c => { c with ops := [sentOp, { sentOp with kind := .copy (copyReq .cp Ctx.start none 0 0 0 .none false) }] }
    let f := st2 fun c => { c with cfails := [failed 3, failed 2], nfails := [failed 5, failed 4] }
    s.ctx.holding = false ∧ s.ctx.cfails = [] ∧ (s.ctx.ops.filter Op.counts).length = 1 ∧ 1 ≤ 1 ∧ 0 < 1 ∧
    s.scopeBad 0 = false ∧ s.scopeBad 7 = true ∧ s.atomfenceWaits 0 = true ∧ (st2 fun c => c).atomfenceWaits 0 = false ∧ s.ctx.nfails = [] ∧
    failed 2 ∈ f.ctx.cfails ∧ (∀ g ∈ f.ctx.cfails, g ≠ failed 2 → (failed 2).op < g.op) ∧
    failed 4 ∈ f.ctx.nfails ∧ (∀ g ∈ f.ctx.nfails, g ≠ failed 4 → (failed 4).op < g.op) ∧ f.atomfenceWaits 0 = false := by decide +kernel

/-- Probe table 3: four entries of 512 bytes at 0x80000. -/
def probing (f : Ctx → Ctx) : State := st fun c => f { c with ptconf := [(3, 0x09280000)], sregs := [(1, 0x12345678)] }
theorem wit_ProbeForms : let s := probing fun c => c
    let c := s.ctx
    let v : W64 := Tab.get 0 c.ptconf 3
    let p := (c.reg 1).toNat
    let b := p - p % 2 ^ (v.toNat / 2 ^ 24 % 16)
    let hit := probing fun c => { c with ways := [(wayKey 3 0, ⟨true, b, [9], none, 0⟩)] }
    c.branch = none ∧ c.quiet = 0 ∧ hit.ctx.branch = none ∧ hit.ctx.quiet = 0 ∧ v.toNat / 2 ^ 20 % 16 ≠ 0 ∧ c.ptHit 3 b = none ∧ c.holding = false ∧ c.queueFull = false ∧
    hit.ctx.ptHit 3 b = some 0 ∧ hit.ctx.slotAt 0x80010 = some (3, 0) ∧ (hit.ctx.way 3 0).fail = none ∧ (sr []).ctx.slotAt 0 = none ∧
    (probing fun c => { c with ops := fullQ }).ctx.queueFull = true ∧ (probing fun c => { c with ops := fullQ }).ctx.holding = false := by
  decide +kernel

/-- Ring 15: two slots of 512 bytes at 0xFFC00. -/
def ringed (f : Ring → Ring) (g : Ctx → Ctx := id) : State :=
  st fun c => g { c with rings := [(15, f ⟨0xFFC00, 512, 2, 0, 0, []⟩)], sregs := [(1, 0xFFC00), (2, 0x101), (3, 0xFFE00), (4, 0xFFC01)] }
theorem wit_StreamAndRingForms_ring : let s := ringed id
    let c := s.ctx
    let slot := fun (x : Slot) => (ringed fun r => { r with slots := [(0, x)] }).ctx.ring 15
    c.holding = false ∧ (c.reg 1).toNat % 512 = 0 ∧ (c.reg 2).toNat < 2 ^ 20 ∧ (c.reg 2).toNat / 2 ^ 8 ≤ 2048 ∧
    (c.reg 1).toNat + ((c.reg 2).toNat % 2 ^ 8 + 1) * ((c.reg 2).toNat / 2 ^ 8 * 512) ≤ 0x100000 ∧ (c.ring 15).busy = false ∧
    (c.ring 15).n ≠ 0 ∧ ((c.ring 15).slot 0).st = .empty ∧ (slot { Slot.empty with st := .filling }).n = 2 ∧
    ((slot { Slot.empty with st := .filling }).slot 0).st ≠ .empty ∧ ((slot { Slot.empty with st := .full }).slot 0).st = .full ∧
    ((slot { Slot.empty with st := .full }).slot 0).fail = none ∧ (c.ring 0).n = 0 ∧
    (slot { Slot.empty with st := .filling }).publishable 0xFFC00 = some 0 ∧ ((slot { Slot.empty with st := .filling }).slot 0).filling = none ∧
    c.storesDue 0xFFC00 512 = 0 ∧ (c.ring 15).publishable (c.reg 4).toNat = none ∧ (slot { Slot.empty with st := .draining }).oldest = some 0 := by
  decide +kernel
theorem wit_StreamAndRingForms_stream : let s := st fun c => { c with streams := bound8 [] , sregs := [(1, 0xFFE00)] }
    let f := (st fun c => { c with streams := bound8 [[1, 2, 3, 4, 5, 6, 7, 8]] }).ctx.stream 15
    let b := (st fun c => { c with streams := [(0, { Stream.unbound with es := 512, arrived := [List.replicate 512 1] })] }).ctx.stream 0
    (s.ctx.stream 15).arrived = [] ∧ (s.ctx.stream 15).items = [] ∧ f.arrived ≠ [] ∧ f.es = 8 ∧ f.arrived = [1, 2, 3, 4, 5, 6, 7, 8] :: [] ∧
    b.es = 512 ∧ b.arrived = List.replicate 512 1 :: [] ∧ (s.ctx.reg 1).toNat + 512 ≤ 0x100000 ∧ (s.ctx.reg 1).toNat % 512 = 0 ∧
    s.ownFault (s.ctx.reg 1).toNat 512 .write = none := by decide +kernel

theorem wit_AtomicsLayoutsAndWindows_atoms : let s := st2 fun c => { c with streams := bound8 [], sregs := [(1, 0x1008), (2, 1), (3, 0x7FFF)] }
    let c := s.ctx
    let p : SemReq := ⟨0x1008, 1, .eq, false⟩
    let q := (st fun c => { c with ops := [{ sentOp with kind := .semwait p, stage := .replied [5] }] }).ctx.poll p
    c.holding = false ∧ c.queueFull = false ∧ (c.reg 1).toNat % 8 = 0 ∧ s.scopeBad 9 = false ∧ (c.stream 15).es = 8 ∧ (c.reg 2).toNat < 2 ^ 63 ∧
    (c.reg 2).toNat ≠ 0 ∧ (c.reg 0).toNat = 0 ∧ (c.reg 0).toNat + (c.reg 2).toNat ≤ 32768 ∧ (c.reg 3).toNat + (c.reg 2).toNat ≤ 32768 ∧
    c.poll p = none ∧ q.isSome = true ∧ (q.map Op.stage) = some (.replied [5]) := by decide +kernel
/-- Wharf unit 255 with a ring of two places, one of them taken. -/
def ringUnit (n : Nat) : State := { sr [(1, 255), (2, 1), (3, 0xFFFF8)] with
  units := [(255, { WUnit.reset with en := true, wrlog2 := 1, ring := List.replicate n ⟨0, 0, .host, none, true, 0⟩ })] }
theorem wit_AtomicsLayoutsAndWindows_push : let s := ringUnit 1
    (s.ctx.reg 1).toNat ≤ 255 ∧ 1 ≤ (s.ctx.reg 2).toNat ∧ (s.ctx.reg 2).toNat ≤ 64 ∧ (s.ctx.reg 3).toNat + 8 * (s.ctx.reg 2).toNat ≤ 0x100000 ∧
    (s.ctx.reg 3).toNat % 8 = 0 ∧ s.unitOpen 255 = true ∧ (s.unit 255).stop = false ∧ (s.unit 255).ring.length + 1 ≤ 2 ^ (s.unit 255).wrlog2 ∧
    (ringUnit 2).unitOpen 255 = true ∧ 2 ^ ((ringUnit 2).unit 255).wrlog2 < ((ringUnit 2).unit 255).ring.length + 1 := by decide +kernel
theorem wit_AtomicsLayoutsAndWindows_records : let s := sr [(1, 0xFFFC0), (2, 0xFFFF), (3, 0x3FF007F), (4, 0xFFE00), (5, 255)]
    let c := s.ctx
    (c.reg 2).toNat ≤ 0xFFFF ∧ 1 ≤ (c.reg 2).toNat ∧ (c.reg 1).toNat % 64 = 0 ∧ (c.reg 1).toNat + 64 ≤ 0x100000 ∧
    layoutBad (Memory.read zeroByte c.spad (c.reg 1).toNat 64) = false ∧ (Tab.get Window.none c.windows 0).out = 0 ∧ (c.reg 3).toNat < 2 ^ 26 ∧
    (c.reg 3).toNat / 2 ^ 7 % 2 ^ 9 = 0 ∧ (c.reg 4).toNat < 0x100000 ∧ (c.reg 4).toNat % 512 = 0 ∧ (c.reg 5).toNat ≤ 255 ∧
    (Tab.get Window.none (windowed 1 []).ctx.windows 15).out ≠ 0 := by decide +kernel

/-- A leader of two, its follower, rings of one full 64 KiB slot (ring 15) and of one full 1 KiB slot (ring 14, the scale ring), one
format word (BF16) and weights in BF16. -/
def matrix (g : Ctx → Ctx) (x : Slot := { Slot.empty with st := .full }) : State :=
  let rs : Tab Ring := [(14, ⟨0, 1024, 1, 0, 0, [(0, x)]⟩), (15, ⟨0, 65536, 1, 0, 0, [(0, x)]⟩)]
  let r := [(1, 0x000001), (2, 2), (3, 255), (4, 256), (5, 0xFC000), (6, 2 ^ 24), (7, 0xFE000)]
  let s := st fun c => g { c with rings := rs, sq := some 14, fq := [0x000001], banks := [(0, { Bank.none with fmt := some .bf16 })], sregs := r }
  s.setBerth 1 { s.berth 0 with ctx := { s.ctx with mode := .pair } }
theorem wit_MatrixStateAndTransfers : let s := matrix id
    let c := s.ctx
    let e := matrix fun c => { c with fq := [] }
    checks (s.matrixChecks .single) = none ∧ checks (s.matrixChecks .pair) = none ∧ (c.reg 1).toNat < 2 ^ 24 ∧ (c.reg 1).toNat / 16 % 16 = 0 ∧
    afmtOf (c.reg 1) = some .bf16 ∧ s.lowWater = false ∧ c.fq.length < 16 ∧ 16 ≤ (matrix fun c => { c with fq := List.replicate 16 1 }).ctx.fq.length ∧
    c.sqBusy = false ∧ c.maskedFlight = false ∧ c.mpbFlight = false ∧ c.accBusy 3 = false ∧
    (matrix fun c => { c with flights := [⟨4, .accZero 3 [0], false⟩] }).ctx.accBusy 3 = true ∧ (c.reg 2).toNat ≤ 2 ∧
    ((e.ctx.reg 0).toNat ≤ 2 ∧ (e.ctx.reg 0).toNat = 0 ∧ e.leaderBusy e.cur = false ∧ e.ctx.aside = none ∧ e.ctx.fq = [] ∧ e.ctx.flights = []) := by
  decide +kernel
theorem wit_MatrixStateAndTransfers_follower : let s := matrix fun c => { c with fq := [], sregs := [(2, 2)] }
    let t : State := { s.setBerth 3 (s.berth 0) with cur := 3 }
    (t.ctx.reg 2).toNat = 2 ∧ t.cur % 2 ^ (t.ctx.reg 2).toNat ≠ 0 ∧ (∀ f ∈ t.ctx.flights, f.eff.isM = false) ∧ t.leaderBusy t.cur = false ∧
    t.ctx.aside = none ∧ t.ctx.fq = [] := by decide +kernel
theorem wit_MatrixStateAndTransfers_move : let s := matrix id
    let c := s.ctx
    let row := 128 * Gang.pair.size * (Fmt.bf16.bits / 8)
    (c.reg 3).toNat ≤ 255 ∧ 255 < (c.reg 4).toNat ∧ c.portHeld 2 = 0 ∧ c.portHeld 3 = 0 ∧ 1 ≤ (c.reg 2).toNat ∧ (c.reg 2).toNat ≤ 256 ∧
    (c.reg 0).toNat + (c.reg 2).toNat ≤ 256 ∧ (c.reg 5).toNat + (c.reg 2).toNat * row ≤ 0x100000 ∧ (c.reg 5).toNat % 64 = 0 ∧
    s.ownFault (c.reg 5).toNat ((c.reg 2).toNat * row) .write = none ∧ (c.reg 7).toNat % 512 = 0 ∧ (c.reg 7).toNat + 0x2000 ≤ 0x100000 ∧
    s.ownFault (c.reg 7).toNat 0x2000 .read = none := by decide +kernel
theorem read_empty (a n : Nat) : Memory.read zeroByte [] a n = List.replicate n 0#8 := by
  induction n generalizing a with
  | zero => rfl
  | succ n ih => simp [Memory.read, Memory.get, zeroByte, ih, List.replicate_succ]
theorem leValue_zeros (n : Nat) : leValue (List.replicate n 0#8) = 0 := by
  induction n with
  | zero => rfl
  | succ n ih => simp [List.replicate_succ, leValue, ih]
theorem mpbBad_zeros (n : Nat) : mpbBad (List.replicate n 0#8) = none := by
  simp only [mpbBad, List.drop_replicate, List.take_replicate, leValue_zeros]
  decide +kernel
theorem wit_MatrixStateAndTransfers_mask : mpbBad (Memory.read zeroByte (matrix id).ctx.spad 0xFE000 0x2000) = none := by
  rw [show (matrix id).ctx.spad = [] from rfl, read_empty, mpbBad_zeros]
theorem wit_MatrixOperationsIssue_load : ∀ f ∈ [Fmt.bf16, .mxfp4], let s := matrix id
    let c := s.ctx
    let l := c.slotsOf 15 (c.scaleRing f)
    c.holding = false ∧ checks (s.matrixChecks .single ++ [c.portChk 1] ++ c.ringChecks 15 (Gang.single.size * 256 * 16 * f.bits)
      (Gang.single.size * 1024) f ++ [chk (s.lowWater && !lowWaterFmt f) 0x02 (w64 f.code)]
      ++ s.slotChecks l [Gang.single.size * 256 * 16 * f.bits, Gang.single.size * 1024 * scaleBytes f]) = none ∧
    (∀ y ∈ l, ((c.ring y.1).slot y.2).st = .full ∧ ((c.ring y.1).slot y.2).fail = none) ∧
    ∃ y ∈ l, (((matrix id Slot.empty).ctx.ring y.1).slot y.2).st ≠ .full := by decide +kernel
theorem wit_MatrixOperationsIssue_multiply : let s := matrix id
    let c := s.ctx
    let l := c.slotsOf 15 (c.scaleRing .bf16)
    checks (s.matrixChecks .pair ++ s.mmulChecks 15 2 .pair true) = none ∧
    (∀ y ∈ l, ((c.ring y.1).slot y.2).st = .full ∧ ((c.ring y.1).slot y.2).fail = none) ∧
    checks ((matrix id Slot.empty).matrixChecks .pair ++ (matrix id Slot.empty).mmulChecks 15 2 .pair false) = none ∧
    ∃ y ∈ l, (((matrix id Slot.empty).ctx.ring y.1).slot y.2).st ≠ .full := by decide +kernel

/-- Records of a multiply over one row by two berths, and of a weight load. -/
def mrec : MRec := ⟨0, 3, 255, 0, false, none, false, .bf16, .bf16, 1, 15, 0, none, 0, [(0, 0, .bf16), (1, 0, .bf16)], []⟩
def wrec : WRec := ⟨0, 15, 0, some 14, 0, .mxfp4, [(0, 1)]⟩
theorem wit_MatrixResultsLand : let s := matrix fun c => { c with flights := [⟨0, .mmul mrec, false⟩], pilot := .run, open_ := true }
    (s.ctxAt s.subj.berth).flights = ⟨0, .mmul mrec, false⟩ :: [] ∧ (mrec.members.map Prod.fst).Nodup ∧ mrec.row0 + mrec.rows ≤ 256 ∧
    mrec.members[1]? = some (1, 0, .bf16) ∧ 1 ∈ s.followers s.subj.berth ∧ mrec.members[0]? = some (s.subj.berth, 0, .bf16) ∧
    (s.ctxAt s.subj.berth).flights ≠ [] ∧
    ((matrix fun c => { c with flights := [⟨0, .wload wrec, false⟩] }).ctxAt 0).flights = [⟨0, .wload wrec, false⟩] := by decide +kernel
theorem wit_MatrixResultsLand_transfers : ∀ e ∈ [Eff.accRow 7 255 (List.replicate 128 1), .accZero 7 [0], .accFree 7 [0]], let s := landing e
    s.subj.berth = 0 ∧ s.agent = .land 0 ∧ (s.ctxAt 0).open_ = true ∧ (s.ctxAt 0).landed = false ∧ (s.ctxAt 0).flights = [⟨1, e, false⟩] ∧
    255 < 256 ∧ (List.replicate 128 (1 : W32)).length = 128 := by decide +kernel

-- the wharf: job 0's root at 0x1000 maps address X to HBM address X, and 2^36 + X to place X of channel 0; unit 0 owns it all ------------------------------------------------

/-- A descriptor of rows of one element at an address: COUNT, type. -/
def dsc (a n ety : Nat) (k : Nat := 0) : Desc :=
  ⟨[(0, BitVec.ofNat 32 a), (1, BitVec.ofNat 32 (a / 2 ^ 32)), (2, BitVec.ofNat 32 n), (6, BitVec.ofNat 32 (ety * 256)), (7, BitVec.ofNat 32 k)], 0⟩
/-- Unit 0 with a command at the head of its ring, and its descriptors; the word at 0x2000 is 7, at 0x2004 0x3F800000. -/
def unit0 (ds : Tab Desc) (p : WPhase := .fresh) (r : RState := .owned) : State := { State.reset with
  roots := [0x1000], jobpt := [(0, w64 (2 ^ 63 + 0x1001))],
  hbm := [(0x1000, 0x3B), (0x1008, 1), (0x1009, 0x11), (0x1100, 0x7B), (0x2000, 7), (0x2006, 0x80), (0x2007, 0x3F)]
  regions := [⟨0, none, 0, 37, r, .unit 0, [], 0, [], false⟩], agent := .wharf 0, wcur := 0
  units := [(0, { WUnit.reset with en := true, ring := [⟨0, 0, .host, none, true, 0⟩], descs := ds, phase := p })] }
/-- Word at an address after a command. -/
def word (s : Option State) (a : Nat) : Option Nat := s.map fun t => leValue (Memory.read zeroByte t.hbm a 4)
/-- What the ring holds and the status after it. -/
def ended (s : Option State) : Option (Nat × W64 × Nat) := s.map fun t => ((t.unit 0).ring.length, (t.unit 0).stat, (t.unit 0).done)
/-- A part of a command: its value, and the state after it. -/
def got {α : Type} (r : WR α) : Option α := match r with | .ok _ v => some v | .err _ _ _ => none
/-- The state in which a wait has held. -/
def went (r : WWait) : Option State := match r with | .ok s => some s | _ => none
def next {α : Type} (r : WR α) : State := match r with | .ok s _ => s | .err s _ _ => s

theorem wit_WharfEndsAndControlForms : let s := unit0 [(0, ⟨[(0, 0x2000), (2, 7)], 0⟩), (5, ⟨[(0, 0x2004), (2, 1)], 0⟩)] .fresh .atomic
    let t := s.wharfStart ⟨0, 0, .host, none⟩ []
    (s.unit 0).ring = ⟨0, 0, .host, none, true, 0⟩ :: [] ∧ (s.unit 0).claims.getD [] = [] ∧ 0x43 < 256 ∧
    went (t.wordWait 0 0 W0) = some t ∧ ((t.unit 0).sem 0 0).isSome = true ∧ (t.unit 0).sem 63 1 = none ∧
    (went (t.wharfWait 0 0 0x2000 0x3F80000000000007 .eq false)).isSome = true ∧ (went (t.wharfWait 0 0 0x2000 8 .eq false)).isSome = false ∧
    (match (t.postHome [.unit 0] 0 0x2000 7 true).2 with | .ok old => some old | .error _ => none) = some (w64 0x3F80000000000007) ∧
    (t.unit 0).phase ≠ .added ∧ ((unit0 [] .added).unit 0).phase = .added ∧
    (let o := (unit0 [(6, ⟨[(0, 2 ^ 12), (1, 2 ^ 31)], 0⟩)]).unit 0
     o.sem 6 0 = none ∧ (o.desc 6).loc = true ∧ (o.desc 6).job = 0 ∧ (o.desc 6).bad = false) := by decide +kernel

/-- Unit 0 with descriptors of one row at 0x2000 (type y), 0x3000 (type z) and 0x4000 (u32), and one of channel 0. -/
def rows (y z : Nat) : State := unit0 [(1, dsc 0x2000 1 y), (2, dsc 0x3000 1 z 0x40000000), (3, dsc 0x4000 1 4), (4, dsc (2 ^ 36) 1 y), (6, dsc 0x5000 1 y)]
def cc : WC := ⟨0, 0, .host, none⟩

/-- Each row form's descriptors fit, its reads and writes are answered, and it completes with what R314, R315 and R318 give. -/
theorem wit_WharfRowForms : let s := rows 4 4
    let t := s.wharfStart cc [2]
    let a := t.wd cc 1
    let b := t.wd cc 2
    (s.unit 0).ring = ⟨0, 0, .host, none, true, 0⟩ :: [] ∧ went (t.wordWait 0 0 W0) = some t ∧ wchecks (t.descChecks cc [(a, false), (b, true)]) = none ∧
    a.len = b.len ∧ a.ety = b.ety ∧ a.count ≤ b.count ∧ a.count = 1 ∧ a.elems = b.elems ∧ b.list = true ∧
    got (t.wharfRead cc false (a.rowVa 0) a.rowBytes) = some [7, 0, 0, 0] ∧
    got ((next (t.wharfRead cc false (a.rowVa 0) a.rowBytes)).putAt cc b 0 0 [7, 0, 0, 0]) = some () ∧
    got ((next (t.wharfRead cc false (a.rowVa 0) a.rowBytes)).putRow cc b 0 0 [7, 0, 0, 0]) = some () ∧
    got (t.spanElems cc a (b.len + 1) 0 b.len) = some [7] ∧ got (t.wharfIdx cc (t.wd cc 3) 0) = some 0 ∧
    got (t.wharfRead cc true ((t.wd cc 4).rowVa 0) 4) = some [0, 0, 0, 0] ∧ got (t.rowElems cc false a 0) = some [7] := by decide +kernel
theorem wit_WharfRowForms_clamp : let t := rows 0 0
    let a := t.wd cc 1
    let b := t.wd cc 2
    wchecks (t.descChecks cc [(a, false), (b, false), (t.wd cc 6, false)]) = none ∧ clampBad a 0 0x40000000 = false ∧
    a.ety < 3 ∧ b.ety < 3 ∧ b.elems = a.len ∧ a.count ≤ b.elems ∧ got (t.oldRead cc b 0 0 4) = some [0, 0, 0, 0] := by decide +kernel
/-- A list whose one index is the padding index, another whose is 0, rows of one element, and weights. -/
def lists : State :=
  let s := unit0 [(1, dsc 0x2004 1 0), (2, dsc 0x3000 1 0), (3, dsc 0x4000 1 4), (4, dsc (2 ^ 36) 1 0), (7, dsc 0x6000 1 4)]
  { s with hbm := [(2, 0x80), (3, 0x3F)] ++ s.hbm ++ [(0x6000, 255), (0x6001, 255), (0x6002, 255), (0x6003, 255)] }
theorem wit_WharfRowForms_pad : let t := lists.wharfStart cc [2]
    wchecks (t.descChecks cc [(t.wd cc 1, false), (t.wd cc 7, false), (t.wd cc 2, true)]) = none ∧ (t.wd cc 7).list = true ∧
    (t.wd cc 2).len = (t.wd cc 1).len ∧ (t.wd cc 2).ety = (t.wd cc 1).ety ∧ (t.wd cc 7).count ≤ (t.wd cc 2).count ∧
    got (t.wharfIdx cc (t.wd cc 7) 0) = some 0xFFFFFFFF ∧ (t.wd cc 2).rowBytes = 4 ∧
    got ((next (t.wharfIdx cc (t.wd cc 7) 0)).putRow cc (t.wd cc 2) 0 0 [0, 0, 0, 0]) = some () ∧
    ended (run (.gather W0 1 7 2 true) lists) = some (0, 0, 1) ∧ ended (run (.scatter W0 2 3 1) lists) = some (0, 0, 1) := by decide +kernel
/-- R314, R315, R318: FILL, COPYC, GATHER with index 0, SCALE 1.0 by 2.0, GEMV of 1.0 and 1.0 at 0x2004. -/
theorem test_wharf_rows : (word (run (.fill W0 3 2) (rows 4 4)) 0x4000, ended (run (.fill W0 3 2) (rows 4 4))) = (some 0x40000000, some (0, 0, 1)) ∧
    word (run (.copyc W0 1 2) (rows 4 4)) 0x3000 = some 7 ∧ ended (run (.gather W0 4 3 6 false) (rows 4 4)) = some (0, 0, 1) ∧
    (let s := unit0 [(1, dsc 0x2004 1 0), (2, dsc 0x3000 1 0 0x40000000), (3, dsc 0x4000 1 0)]
     word (run (.scale W0 1 2) s) 0x2004 = some 0x40000000 ∧ word (run (.gemv W0 1 1 3 false) s) 0x4000 = some 0x3F800000 ∧
     word (run (.gemv W0 1 1 3 true) s) 0x4000 = some 0x3F800000 ∧
     word (run (.norm2 W0 1 3 true) s) 0x4000 = some 0x3F800000) := by decide +kernel

/-- The same for the forms that combine rows or elements: the last descriptors hold one row each. -/
theorem wit_WharfReducingForms : let t := (rows 4 4).wharfStart cc [2]
    let f := (unit0 [(1, dsc 0x2004 1 0), (2, dsc 0x3000 1 0), (3, dsc 0x4000 1 4)]).wharfStart cc [2, 3]
    let a := t.wd cc 1
    let b := t.wd cc 2
    let x := f.wd cc 1
    let y := f.wd cc 2
    wchecks (t.descChecks cc [(a, false), (b, true)]) = none ∧ b.count ≠ 0 ∧ a.count = 1 ∧ a.elems = 1 ∧
    got (t.rowElems cc false a 0) = some [7] ∧ got (t.putAt cc b 0 0 [7, 0, 0, 0]) = some () ∧
    wchecks (f.descChecks cc [(x, false), (y, true), (f.wd cc 3, true)]) = none ∧ x.ety = y.ety ∧ x.ety < 3 ∧ (f.wd cc 3).ety = 4 ∧
    got (f.allElems cc x 1) = some [0x3F800000] ∧ got (t.rowsBytes cc a 1 0) = some [7, 0, 0, 0] ∧
    got (t.wharfIdx cc (t.wd cc 3) 0) = some 0 ∧
    got (t.putElems cc b 2 0 [7]) = some () ∧ got (t.readRows cc b 1 0) = some [[0]] ∧ 0 < y.elems ∧ got (t.poolCount cc (t.wd cc 3) false) = some 1 ∧
    got (t.rowElems cc true (t.wd cc 4) 0) = some [0] ∧ (t.wd cc 3).list = true := by decide +kernel
theorem wit_WharfReducingForms_old : let t := lists.wharfStart cc [2]
    let a := t.wd cc 1
    let b := t.wd cc 2
    got (t.oldRead cc b 0 0 b.rowBytes) = some [0, 0, 0, 0] ∧ a.count = 1 ∧
    got ((next (t.oldRead cc b 0 0 b.rowBytes)).rowElems cc false a 0) = some [0x3F800000] ∧
    word (run (.reduce W0 1 2 .sum true) lists) 0x3000 = some 0x3F800000 := by decide +kernel
/-- POOL of one row in each mode, of a padded list, and SPLIT: a unit of a manifest that unit 1 leads hands its partial over. -/
theorem wit_WharfReducingForms_pool : let t := lists.wharfStart cc [2]
    let a := t.wd cc 4
    let b := t.wd cc 3
    let g := t.wd cc 1
    let one : List FV := [FF.fp32.decode 0x3F800000]
    let m : Man := { newMan 5 (((List.replicate 256 0).set 0 2).set 0xA0 3) 0 0 0 .host with st := .running, units := [0, 1] }
    wchecks (t.descChecks cc ([(a, false), (b, false), (t.wd cc 2, true)] ++ [(g, false)])) = none ∧ b.list = true ∧ (t.wd cc 2).len = a.len ∧
    (t.wd cc 2).count ≠ 0 ∧ g.ety = 0 ∧ b.count ≤ g.elems ∧
    got (t.poolRows cc a b g true false none b.count 0 (List.replicate a.len (.zero false))) = some one ∧
    got ((next (t.poolRows cc a b g true false none b.count 0 (List.replicate a.len (.zero false)))).poolCount cc b false) = some 1 ∧
    got (t.putAt cc (t.wd cc 2) 0 0 (poolRow (t.wd cc 2) false 1 one)) = some () ∧
    got (t.poolRows cc a (t.wd cc 7) g false true none 1 0 (List.replicate a.len (.zero false))) = some [.zero false] ∧
    got (t.poolCount cc (t.wd cc 7) true) = some 0 ∧ m.unitSet.headD 0 = 0 ∧
    ({ m with raw := ((List.replicate 256 0).set 0 2).set 0xA0 6 } : Man).unitSet.headD 0 ≠ 0 ∧ m.kind = 2 := by decide +kernel
/-- The row at 0x2000 in a region for atomics; the word at 0x5000 is 3. -/
def atomics : State := { rows 4 4 with hbm := (rows 4 4).hbm ++ [(0x5000, 3)]
                                       regions := [⟨0, none, 0x2000, 12, .atomic, .unit 0, [], 0, [], false⟩, ⟨0, none, 0x4000, 14, .owned, .unit 0, [], 0, [], false⟩] }
theorem wit_WharfReducingForms_atoms : let t := atomics.wharfStart cc []
    let a := t.wd cc 1
    wchecks (t.descChecks cc [(a, false), (t.wd cc 3, false), (t.wd cc 6, false)]) = none ∧ (t.wd cc 3).count ≤ (t.wd cc 6).count ∧
    got (t.wharfIdx cc (t.wd cc 3) 0) = some 0 ∧ got (t.rowElems cc false (t.wd cc 6) 0) = some [3] ∧
    got (t.atomRow cc .add false (a.rowVa 0) [3]) = some () := by decide +kernel
/-- R316, R319, R320: CRC of 07 00 00 00 is done; ATOMADD adds to row 0; TOPKV of one element gives it and index 0. -/
theorem test_wharf_reducing : ended (run (.crc W0 1 2) (rows 4 4)) = some (0, 0, 1) ∧ word (run (.atomadd W0 1 3 6) atomics) 0x2000 = some 10 ∧
    (let t := run (.topkv W0 1 2 3 0) (unit0 [(1, dsc 0x2004 1 0), (2, dsc 0x3000 1 0), (3, dsc 0x4000 1 4)])
     (word t 0x3000, word t 0x4000, ended t) = (some 0x3F800000, some 0, some (0, 0, 1))) ∧
    (∀ md ∈ [PoolMode.sum, .mean, .weighted], word (run (.pool W0 4 3 2 1 md false false) lists) 0x3000 = some 0x3F800000) ∧
    -- SPLIT has no meaning in a word that no manifest holds
    ((ended (run (.pool W0 4 3 2 1 .sum true false) lists)).map fun y => bf y.2.1 48 8) = some 0x42 := by decide +kernel

/-- A run at port 3, slot 1, of a kernel with two header words and two flit words, which have job 0's combine buffers 16 to 23 and flow
entries 0 to 15; a packet of one flit whose lane 16 is 5. -/
def pier (f : Run → Run) (g : Port → Port := id) : State :=
  let k : Kernel := { man := 0, job := 0, out := false, types := 1, body := 2, drop := false, abase := 0, alog2 := 12, code := [0, 0, 0, 0] }
  let p : Packet := ⟨((List.replicate 64 0).set 1 5).set 0 16, List.replicate 256 0⟩
  let r : Run := f ⟨k, p, p, 9, 1, 2, [(1, 3), (2, 0), (4, 0x80000003)], [], [], [], .fwd, [], []⟩
  { State.reset with agent := .pier 3 1, pcur := (3, 1), pierjob := [(0, w64 (16 * 2 ^ 56 + 8 * 2 ^ 47 + 4 * 2 ^ 30 + 2 ^ 29 + 1))]
                     ports := [(3, g { Port.reset with runs := [(1, some r)] })], fabctl := 0x80000000000A0005 }
def run0 : Run := ⟨⟨0, 0, false, 0, 0, false, 0, 0, []⟩, ⟨[], []⟩, ⟨[], []⟩, 0, 0, 0, [], [], [], [], .fwd, [], []⟩
theorem wit_PierRegisterForms : let s := pier id
    let r := ((s.run 3 1).getD run0)
    s.agent = .pier 3 1 ∧ s.pcur = (3, 1) ∧ (s.run 3 1).isSome = true ∧ 2 ^ 10 - 1 < 2 ^ 10 ∧
    r.off + 1 < (if r.run = 0 then r.kern.body else r.kern.code.length) ∧ r.run ≠ 0 ∧
    (let s := pier fun r => { r with run := 0, off := 0 }
     ((s.run 3 1).map fun r => (r.run, decide (r.off + 1 < r.kern.body))) = some (0, true)) := by decide +kernel
theorem wit_PierFlowAndActions : let s := pier id fun q => { q with flow := [(48, 0x80000003), (63, 7)], combs := [(23, ⟨[(0, [])], []⟩)] }
    let r := ((s.run 3 1).getD run0)
    let q := s.port 3
    let pj := s.pj r.kern.job
    let e := (pj.fbase + 3 % 2 ^ pj.flog2) * 16
    15 < 16 ∧ pj.fen = true ∧ Tab.get 0 q.flow e = (3 : W32) ||| 0x80000000 ∧ Tab.get 0 q.flow (e + 15) = 7 ∧ 7 < pj.ncb ∧ 0 < pj.ncb ∧
    Tab.get Comb.free q.combs (pj.cb + 0) = Comb.free ∧ (Tab.get Comb.free q.combs (pj.cb + 7)).flits ≠ [] ∧ r.disp ≠ .hold ∧ r.disp ≠ .drop ∧
    3 % 1024 < 2 ^ s.ndim ∧ 3 % 1024 ≠ s.label ∧ r.off + 1 < r.kern.code.length ∧
    (let t : State := { s with mctree := [(4095, w64 (2 ^ 63))] }
     (Tab.get (0 : W64) t.mctree 4095).getLsbD 63 = true ∧ (Tab.get (0 : W64) t.mctree 4095).toNat / 2 ^ 57 % 2 ^ 6 = r.kern.job) ∧
    r.kern.body < r.kern.code.length ∧ 0 < pkLen r.pkt ∧ pj.mbox = 0 ∧ r.kern.drop = false ∧ pkType r.orig ≠ 5 := by decide +kernel
theorem wit_PierFlowAndActions_self : let s := pier id
    (s.run 3 1).map (fun r => decide (pkDst r.orig = s.label)) = some true := by decide +kernel

-- the berth's own steps and operations at their homes ------------------------------------------------------------------------------

theorem wit_EndOfTheCkAndAnswers : let s := { st fun c => { c with open_ := true, went := true, ops := [heldOp], fences := [(1, 3)] } with agent := .release 0 }
    s.subj.berth = 0 ∧ s.agent = .release 0 ∧ (s.berth 0).shadow.want = false ∧ (s.ctxAt 0).open_ = true ∧ (s.berth 0).placed = true := by decide +kernel
/-- An answered load, a stream with an item, and a mailbox request. -/
def answering : State := st fun c => { c with
  ops := [{ sentOp with kind := .rload 3 8 8, stage := .replied [5] }], flights := [⟨0, .rload 9 (.sreg 7) none, false⟩], mboxReq := some (0, 512, 3, true),
  streams := [(7, { Stream.unbound with es := 8, items := [⟨9, [List.replicate 8 1], true, none⟩] }),
    (8, { Stream.unbound with es := 8, arrived := List.replicate 16 [] })] }
theorem wit_EndOfTheCkAndAnswers_answers : let s := { answering with subj := ⟨0, 9, 0, 0⟩ }
    let c := s.ctxAt 0
    ((c.op s.subj.op).map fun o => (o.kind, o.stage)) = some (.rload 3 8 8, .replied [5]) ∧ c.flights = [⟨0, .rload 9 (.sreg 7) none, false⟩] ∧
    ((c.stream 7).items.map fun i => (i.elems, i.fail)) = [([List.replicate 8 1], none)] ∧ (c.stream 7).arrived.length < 16 ∧
    (c.stream 8).arrived.length = 16 ∧ c.mboxReq = some (0, 512, 3, true) ∧ c.mboxAns = none ∧ (s.berth 0).persistBusy = false ∧
    s.mboxes = [] := by decide +kernel
theorem wit_VerticalBusAndPlannedGates : let s := st fun c => c
    let u := fun (f : Berth → Berth) => s.modBerth 0 f
    s.subj.berth = 0 ∧ (s.berth 0).retired = false ∧ (s.berth 0).spares = [] ∧ (s.berth 0).replay ≠ some 0 ∧
    ((u fun y => { y with replay := some 0 }).berth 0).replay = some 0 ∧
    (let t := (State.reset).modBerth 0 fun y => { y with spares := [(7, 3)] }
     (∃ w ∈ [3], (7, w) ∈ (t.berth 0).spares) ∧ (t.berth 0).st = .idle ∧ t.man (t.berth 0).ctx.team = none) ∧
    ((u fun y => { y with retired := true }).berth 0).retired = true ∧
    (let t := { st fun c => { c with frozenFor := 1024 } with pwrctl := w64 (2 ^ 63 + 2 ^ 32) }
     (t.berth 0).st = .run ∧ (t.ctxAt 0).pilot = .run ∧ bt t.pwrctl 63 = true ∧ Nat.max 1 (bf t.pwrctl 32 16) * 1024 ≤ (t.ctxAt 0).frozenFor) ∧
    (s.ctxAt 0).frozenFor < 1024 ∧ bt { s with pwrctl := 0 }.pwrctl 63 = false := by decide +kernel
theorem wit_VerticalBusAndPlannedGates_gate : let s := { (st fun c => c).modBerth 0 (fun y => { y with gate := true }) with agent := .issue 0 }
    let x := s.berth 0
    let g := { (st fun c => c).modBerth 0 (fun y => { y with st := .gated }) with agent := .issue 0 }
    s.agent = .issue 0 ∧ x.st = .run ∧ s.throttled = false ∧ x.ctx.pilot = .run ∧ x.ctx.pending = none ∧
    (s.teamOf x.ctx).map Man.ended = some false ∧ bt x.dbgctl 63 = false ∧ x.stepping = none ∧ x.bps = [] ∧ x.preempt = false ∧ x.gate = true ∧
    (g.berth 0).st = .gated ∧ (g.berth 0).persistBusy = false ∧ g.stillHeld 0 = false ∧
    ((g.modBerth 0 fun y => { y with shadow := { y.shadow with queue := [g.saved 0] } }).berth 0).persistBusy = true := by decide +kernel
/-- An EXIT that is held gates, NOP does not. -/
theorem wit_VerticalBusAndPlannedGates_form : (st fun c => c).gateForm 0 = false ∧
    (st (fun c => { c with ops := [sentOp] }) ((encodeBerth (.exit H)).getD 0)).gateForm 0 = true := by decide +kernel
theorem wit_PersistsComplete : let s := (st fun c => { c with ops := [sentOp] }).modBerth 0 fun y =>
      { y with shadow := { y.shadow with queue := [(st fun c => { c with ops := [sentOp] }).saved 0], entries := 1024 } }
    let h := (s.berth 0).shadow
    s.subj.berth = 0 ∧ (h.queue.map fun v => decide (h.dirty v ≤ (s.berth 0).freeBlocks)) = [true] ∧ 1024 ≤ h.entries ∧
    ((st fun c => c).berth 0).shadow.queue = [] ∧ ((st fun c => c).berth 0).persistBusy = false ∧ ((st fun c => c).berth 0).shadow.entries < 1024 := by
  decide +kernel

/-- Berth 0 of job 0 with one operation, 9, and the tables of `unit0`; the berth-thread owns everything. -/
def home (o : OpKind) (f : Op → Op := id) (g : Ctx → Ctx := id) : State :=
  let s := st fun c => g { c with ops := [f { sentOp with kind := o, tag := 7, logged := true }], spad := [(0xFFFF8, 5), (0xFFFFF, 0x80)] }
  let u := unit0 []
  { s with roots := u.roots, jobpt := u.jobpt, hbm := u.hbm, subj := ⟨0, 9, 0, 0⟩, units := [(255, { WUnit.reset with en := true, wrlog2 := 1 })]
           regions := [⟨0, none, 0, 37, .owned, s.ctx.self, [], 0, [], false⟩] }
/-- CP of 8 bytes between 0x2000 and 0xFFFF8. -/
def copy8 (out : Bool) (q : CopyQ := .none) : OpKind := .copy ⟨.cp, 0x2000, 0xFFFF8, 8, none, 0, 0, 0, q, out, none⟩
/-- The state's operation, and what the plan, the tokens and the memory answer for one range. -/
def the (s : State) : Op := ((s.ctxAt s.subj.berth).op 9).getD heldOp
def reach (s : State) (acc : Acc) (va n : Nat) : Bool × Option (Nat × Nat) × Option (List Byte) :=
  ((match s.plan 0 (some acc) (segPieces [(va, n)]) with | .ok l => l == [(va, n, .hbm va none)] | .error _ => false),
    (({ s with cur := 0 } : State).tokens ((s.ctxAt 0).copyParties 0 false) (s.chkRange 0 none acc va n)).2, s.hbmRead va n)
def seven : List Byte := [7, 0, 0, 0, 0, 0, 0x80, 0x3F]
/-- A mailbox of the job's global space. -/
theorem wit_LaunchAndMailboxForms_global : let s := home .mboxack
    s.mboxPages s.job 0x2000 64 = none ∧ 0x2000 % 2 ^ (0 + 6) = 0 ∧ s.ctx.holding = false ∧ s.ctx.mboxReq ≠ some (0x2000, 0 + 1, 0 + 6, false) ∧
    s.mboxOverlap s.job none 0x2000 64 = false ∧ (s.berth s.cur).persistBusy = false := by decide +kernel

theorem wit_ArrivalAtTheHome : ∀ k ∈ [copy8 false, copy8 true, .fill 3 0 0x2000 8 0xFFFF8, .imload 0x2000 0 1, .whpush 255 0xFFFF8 1, .launch 0 [], .mboxack],
    let s := home k
    let c := s.ctxAt s.subj.berth
    s.subj.op = (the s).id ∧ c.op (the s).id = some (the s) ∧ (the s).stage = .sent ∧ ({ s with cur := 0 } : State).ready (the s) = true := by decide +kernel
theorem wit_ArrivalAtTheHome_inbound : let s := home (copy8 false)
    let r : CopyReq := ⟨.cp, 0x2000, 0xFFFF8, 8, none, 0, 0, 0, .none, false, none⟩
    (the s).kind = .copy r ∧ r.form = .cp ∧ r.out = false ∧ r.q ≠ .zero ∧ 8 = r.bytes ∧ r.segments (s.ctxAt 0) = [(0x2000, 8)] ∧
    reach s .read 0x2000 8 = (true, none, some seven) ∧ reach { s with regions := [⟨0, none, 0, 37, .exec, .hm, [], 0, [], false⟩] } .instr 0x2000 8 = (true, none, some seven) ∧ reach s .write 0x2000 8 = (true, none, some seven) ∧
    (reach { s with regions := [⟨0, none, 0, 37, .owned, .host, [], 0, [], false⟩] } .read 0x2000 8).2.1 ≠ none ∧
    (reach { s with poison := [0x2000 / 64] } .read 0x2000 8).2.2 = none ∧ leValue (seven.drop (8 * 1 - 8)) < 2 ^ 63 := by decide +kernel
theorem wit_ArrivalAtTheHome_rest : let w := home (.whpush 255 0xFFFF8 1)
    (the (home (copy8 true))).globalWrites ((home (copy8 true)).ctxAt 0) = [(0x2000, 8)] ∧ (w.unit 255).room 1 = true ∧ (w.unit 255).room 3 = false ∧
    w.unitOpen 255 = true ∧ ({ w with units := [] } : State).unitOpen 255 = false ∧
    (let e := home (copy8 true)
     let s3 := e.modCtxAt 0 fun c => c.hasRead 9
     (match s3.plan (s3.jobAt 0) (some .write) (segPieces ((the e).globalWrites (s3.ctxAt 0))) with
      | .ok l => l == [(0x2000, 8, .hbm 0x2000 none)] | .error _ => false) = true ∧ e.ownChecks 0 (the e) = []) ∧
    (let s := home .mboxack
     let t : State := { s with mans := [{ team2 with mbox := some (1, 2) }] }
     t.man (s.ctxAt 0).team = some { team2 with mbox := some (1, 2) } ∧ (the t).kind = .mboxack) := by decide +kernel

theorem wit_CopiesAndFillsComplete : let f : Fail := ⟨0x33, 0x2000, 7, 9⟩
    ∀ k ∈ [(copy8 false, Stage.passed seven, Route.count), (copy8 false .zero, .passed seven, .count), (copy8 false .publish, .passed seven, .ring 15 1),
      (copy8 true, .replied [], .count), (copy8 false, .failed f, .count), (.imload 0x2000 0 1, .failed f, .count), (.imload 0x2000 0 1, .passed seven, .count),
      (.fill 3 0 0x2000 8 0xFFFF8, .passed seven, .count), (.fill 3 0 0x2000 8 0xFFFF8, .failed f, .count)],
    let s := home k.1 (fun o => { o with stage := k.2.1, route := k.2.2 }) fun c => { c with ways := [(wayKey 3 0, ⟨true, 0x2000, [4, 9], none, 0⟩)] }
    s.subj.op = (the s).id ∧ (s.ctxAt s.subj.berth).op (the s).id = some (the s) ∧ (the s).kind = k.1 ∧ (the s).stage = k.2.1 ∧ (the s).route = k.2.2 ∧
    ((s.ctxAt 0).way 3 0).valid = true ∧ (the s).id ∈ ((s.ctxAt 0).way 3 0).fills ∧ seven.length = 8 * 1 := by decide +kernel

/-- The last byte of an outbound copy's source is read ahead, and of an inbound copy's data and a fill's landed ahead (R140): what the
berth-thread stores there afterwards is not sent, and is not overwritten. -/
def early (k : OpKind) (g : Stage) : State := { home k fun o => { o with stage := g } with subj := ⟨0, 9, 0, 8⟩ }
theorem wit_ArrivalAtTheHome_early : let s := early (copy8 true) .sent
    let r : CopyReq := ⟨.cp, 0x2000, 0xFFFF8, 8, none, 0, 0, 0, .none, true, none⟩
    s.subj.item = 7 + 1 ∧ (the s).kind = .copy r ∧ 7 < r.bytes ∧ (the s).hasMoved 7 = false ∧ ({ s with cur := 0 } : State).ready (the s) = true ∧
    (home (copy8 true)).subj.item = 0 := by decide +kernel
theorem wit_CopiesAndFillsComplete_early : ∀ k ∈ [copy8 false, .fill 3 0 0x2000 8 0xFFFF8],
    let s := early k (.passed seven)
    s.subj.item = 7 + 1 ∧ (s.ctxAt 0).op 9 = some (the s) ∧ (the s).stage = .passed seven ∧ (the s).route = .count ∧ seven[7]? = some 0x3F ∧
    (the s).hasMoved 7 = false := by decide +kernel
def storeLast (s : State) : State := { s.modCtxAt 0 (fun c => c.spadWrite 0xFFFFF [0xEE]) with subj := ⟨0, 9, 0, 0⟩ }
theorem test_copy_source_byte_read_ahead : ((run .copyHomeArrival (early (copy8 true) .sent)).bind fun s =>
    run .copyHomeArrival (storeLast s)).map (fun t => t.hbmRaw 0x2000 8) = some [5, 0, 0, 0, 0, 0, 0, 0x80] := by decide +kernel
theorem test_copy_byte_landed_ahead : ((run .copyComplete (early (copy8 false) (.passed seven))).bind fun s =>
    run .copyComplete (storeLast s)).map (fun t => (t.ctxAt 0).spadRead 0xFFFF8 8) = some [7, 0, 0, 0, 0, 0, 0x80, 0xEE] := by
  decide +kernel

/-- The same operation through a window on rank 1 of the team, which is on berth 1. -/
def remote (k : OpKind) (f : Op → Op := id) : State :=
  let s := home k fun o => f { o with win := ⟨true, 0, 1, 0xE00, 1, 1, none⟩ }
  let s : State := { s with mans := [team2], regions := s.regions ++ [⟨0, some (.bt 1 1), 0xE00, 9, .owned, .bt 1 0, [], 0, [], false⟩] }
  s.setBerth 1 { s.berth 0 with ctx := { Ctx.start with team := 1, rank := 1, spexp := 0x09000E00 } }
theorem wit_WindowAndPoolTraffic : let f : Fail := ⟨0x20, 0, 7, 9⟩
    ∀ k ∈ [(OpKind.rload 0 0x1000F8 8, Stage.sent), (.wstore 0 0x1000FF [(0x1000FF, 5)], .sent), (.wstore 0 0x1000FF [], .replied []), (.wstore 0 0x1000FF [], .failed f)],
    let s := remote k.1 fun o => { o with stage := k.2 }
    let σ := { s with cur := 0 }
    let β := σ.bindWindow 0 (the s).winIndex (the s).win
    s.subj.op = (the s).id ∧ (s.ctxAt s.subj.berth).op (the s).id = some (the s) ∧ σ.ready (the s) = true ∧ (the s).win.label = s.label ∧
    s.peer (s.jobAt 0) (the s).win = .at_ 1 (.bt 1 1) ∧
    (∀ a ∈ [Acc.read, .write], (β.tokens [(β.ctxAt 0).self] (β.peerChecks 1 a ((the s).win.at_ 0x1000F8) 8)).2 = none) ∧
    (β.tokens [(β.ctxAt 0).self] (β.peerChecks 1 .write ((the s).win.at_ 0x1001F9) 8)).2 ≠ none := by decide +kernel
/-- A peer that is away, one that is refused, and one of another device, there or not yet. -/
theorem wit_WindowAndPoolTraffic_elsewhere : ∀ k ∈ [OpKind.rload 0 0x1000F8 8, .wstore 0 0x1000FF [(0x1000FF, 5)], .wstore 0 0x1000FF []],
    let s := remote k
    let gone : State := { s with berths := s.berths.filter fun e => e.1 != 1 }
    let far := fun p : Option Party => remote k fun o => { o with win := { o.win with label := 1, bound := p } }
    let w := fun s : State => (the s).win
    ({ gone with cur := 0 } : State).ready (the gone) = true ∧ gone.peer 0 { w gone with bound := some (.bt 1 1) } = .wait ∧
    gone.peer 0 (w gone) = .refused 0x20 ∧
    (∀ p ∈ [none, some (.remote 65537), some (.remote (2 ^ 26)), some .nobody], (w (far p)).label ≠ (far p).label ∧
      ({ far p with cur := 0 } : State).ready (the (far p)) = true) ∧
    s.farPeer 0 { w s with bound := some (.remote 65537) } = .at_ 1 (.remote 65537) ∧
    s.farPeer 0 { w s with bound := some (.remote (2 ^ 26)) } = .wait ∧ s.farPeer 0 { w s with bound := some .nobody } = .refused 0x20 := by decide +kernel
/-- Window 1 of the pool: 2^30 bytes at tier-10 address 0, mapped at 2^36; the copy of `copy8` reads there. -/
def pooled : State :=
  let s := home (.copy ⟨.cp, 2 ^ 36 + 0x2000, 0xFFFF8, 8, none, 0, 0, 0, .none, false, none⟩) fun o => { o with stage := .remote [(keyUio, 0, 8)] [] }
  { s with hbm := [(0x1008, 0xBB)], poolwin := [(1, w64 (2 ^ 63 + 36 * 2 ^ 48))], cxlcfg := 0xFF }
theorem wit_WindowAndPoolTraffic_pool : let s := pooled
    (s.ctxAt 0).op (the s).id = some (the s) ∧ (the s).source (s.ctxAt 0) = some ([(2 ^ 36 + 0x2000, 8)], .read) ∧
    (the s).stage = .remote [(keyUio, 0, 8)] [] ∧ isUio keyUio = true ∧ isAsk keyUio = false ∧ isWrite keyUio = false ∧ seven.length = 8 ∧
    (the s).errs = [] ∧ s.subj = ⟨0, (the s).id, 0, 0⟩ ∧
    (match s.translate (s.jobAt 0) (2 ^ 36 + 0x2000) none with | .ok l => some l | .error _ => none) = some (.pool 0x2000) := by decide +kernel
/-- The same, to the pool: the bytes sent are kept with the request. -/
theorem wit_WindowAndPoolTraffic_pool_write : let d : List Host.Cell := cellsFrom 0 seven
    let s := { home (.copy ⟨.cp, 2 ^ 36 + 0x2000, 0xFFFF8, 8, none, 0, 0, 0, .none, true, none⟩)
        (fun o => { o with stage := .remote [(keyUio + keyWrite, 0, 8)] d }) with
      hbm := [(0x1008, 0xBB)], poolwin := [(1, w64 (2 ^ 63 + 36 * 2 ^ 48))], cxlcfg := 0xFF }
    (s.ctxAt 0).op (the s).id = some (the s) ∧ (the s).globalWrites (s.ctxAt 0) = [(2 ^ 36 + 0x2000, 8)] ∧ (the s).errs = [] ∧
    (the s).stage = .remote [(keyUio + keyWrite, 0, 8)] d ∧ isUio (keyUio + keyWrite) = true ∧ isAsk (keyUio + keyWrite) = false ∧
    isWrite (keyUio + keyWrite) = true ∧
    Memory.read zeroByte d 0 8 = seven ∧
    (match s.translate (s.jobAt 0) (2 ^ 36 + 0x2000) none with | .ok l => some l | .error _ => none) = some (.pool 0x2000) := by decide +kernel

/-- Operations on the words at 0x2000, in a region for atomics of berth 0's. -/
def atom9 (o : OpKind) (f : Op → Op := id) : State :=
  { home o f with regions := [⟨0, none, 0, 37, .atomic, (home o f).ctx.self, [], 0, [], false⟩] }
def placed (s : State) (va n : Nat) (r : Bool) : Option (Nat × W64) :=
  match (({ s with cur := 0 } : State).atomPlace ((s.ctxAt 0).copyParties 0) 0 va n r).2 with | .ok x => some x | .error _ => none
theorem wit_AtomicsPollsAndTokens : let r : AtomReq := ⟨0x2004, .add, false, 1, 0, 0, 8⟩
    ∀ k ∈ [(OpKind.atom r, Route.stream 3), (.atomnr r, .count), (.sempost 0x2000 1, .count), (.semwait ⟨0x2000, 0x3F80000000000007, .eq, false⟩, .count)],
    let s := atom9 k.1 fun o => { o with route := k.2 }
    s.subj.op = (the s).id ∧ (s.ctxAt s.subj.berth).op (the s).id = some (the s) ∧ (the s).stage = .sent ∧ ({ s with cur := 0 } : State).ready (the s) = true ∧
    s.homeOf (s.jobAt 0) 0x2000 = s.label ∧ (the s).route = k.2 ∧ placed s 0x2004 4 false = some (0x2004, 0x3F800000) ∧
    placed s 0x2000 8 false = some (0x2000, 0x3F80000000000007) ∧ placed { s with regions := [] } 0x2004 4 false = none ∧
    bt (0x3F80000000000007 : W64) 63 = false ∧ bt (0xBF80000000000007 : W64) 63 = true ∧ semHolds .eq 0x3F80000000000007 0x3F80000000000007 = true ∧
    semHolds .eq 0x3F80000000000007 8 = false ∧ r.op ≠ .read := by decide +kernel
/-- A token form whose region stands here, and how its home answers. -/
theorem wit_AtomicsPollsAndTokens_token : ∀ k ∈ [(TokForm.ret, false), (.split, true)],
    let s := home (.token ⟨k.1, w64 (2 ^ 36), false, []⟩)
    let t := ({ s with cur := 0 } : State).tokenHome s.ctx.self (s.jobAt 0) none (2 ^ 36) k.1 []
    s.subj.op = (the s).id ∧ (the s).stage = .sent ∧ ({ s with cur := 0 } : State).ready (the s) = true ∧ (the s).route = .count ∧
    (match s.translate (s.jobAt 0) (2 ^ 36) none with | .ok l => some l | .error _ => none) = some (.hbm 0 (some 0)) ∧
    (match t.2 with | .ok _ => true | .error _ => false) = k.2 ∧
    ({ s with cur := 0 } : State).ready (the (home (.token ⟨.share, w64 (2 ^ 36), false, []⟩))) = true := by decide +kernel

-- the harbourmaster -----------------------------------------------------------------------------------------------------------------

/-- A TEAM manifest of one berth-thread: its code is one word at 0x8000, its budget 1. -/
def team1 : List Byte := [0x11, 0, 4, 0, 0, 0, 0, 0, 0, 0x80, 0, 0, 0, 0, 0, 0, 1, 0, 0, 0, 0, 0, 0, 0, 1] ++ List.replicate 231 0
/-- Full service; queue 15 (16 slots at 0x10000) holds that manifest when TAIL says so. -/
def queued (tail : Nat) (f : State → State := id) : State :=
  let u := unit0 []
  f { u with hbm := u.hbm ++ [(0x8007, 0x80), (0x10000, 0x11), (0x10002, 4), (0x10009, 0x80), (0x10010, 1), (0x10018, 1)]
             lqs := [(15, ⟨w64 (2 ^ 63 + 4 * 2 ^ 16), w64 0x10000, tail, 0, [], []⟩)], subj := ⟨0, 0, 0, 15⟩, codeMaps := [⟨0, 0x8000, 8, 0, 0⟩]
             svc := w64 (2 * 2 ^ 0 + 128 * 2 ^ 32)
             regions := [⟨0, none, 0x8000, 12, .exec, .hm, [], 0, [], false⟩], carve := w64 (2 ^ 63 + 4) }
theorem wit_LaunchQueuesAndManifests_queue : let s := queued 1
    let x := s.lq 15
    bt x.ctl 63 = true ∧ bt (s.lq 0).ctl 63 = false ∧ (16 % 2 ^ 32 + 2 ^ 32 - x.head) % 2 ^ 32 ≤ x.slots ∧
    x.slots < (17 % 2 ^ 32 + 2 ^ 32 - x.head) % 2 ^ 32 ∧ bt (w64 (2 ^ 63 + 16 * 2 ^ 16)) 63 = true ∧ bf (w64 (2 ^ 63 + 16 * 2 ^ 16)) 16 5 = 16 ∧
    bf (w64 (2 ^ 63 + 3 * 2 ^ 16)) 16 5 < 4 ∧ 16 < bf (w64 (2 ^ 63 + 17 * 2 ^ 16)) 16 5 := by decide +kernel
/-- It is read, asks no other device, and passes; without a mapping of its code it does not. -/
theorem wit_LaunchQueuesAndManifests_enter : let s := queued 1
    let x := s.lq 15
    let m : Man := { newMan s.nextId team1 15 x.job (x.slotVa x.head) (Tab.get .host x.by_ x.head) with accepted := s.time, seen := x.seen }
    let taken := (s.modLq 15 fun x => { x with head := (x.head + 1) % 2 ^ 32, by_ := Tab.erase x.by_ x.head, seen := [] }).healTables m
    bt x.ctl 63 = true ∧ x.used ≠ 0 ∧ (match s.hmRead x.job (x.slotVa x.head) 256 with | .ok raw => raw | .error _ => []) = team1 ∧
    s.statusHeld m = none ∧ s.farNames m = [] ∧ x.seen = [] ∧ taken.rejectCode m = 0 ∧ m.kind = 1 ∧ m.mailbox = 0 ∧
    ({ taken with codeMaps := [] } : State).rejectCode m = 5 ∧ ((queued 0).lq 15).used = 0 ∧
    (match (queued 1 fun s => { s with poison := [0x10000 / 64] }).hmRead x.job (x.slotVa x.head) 256 with | .ok _ => false | .error _ => true) = true := by
  decide +kernel
/-- Tables whose page at 2^36 + 2^29 is homed on device 1. -/
def away (s : State) : State := { s with hbm := Memory.write zeroByte s.hbm 0x1108 [0xFB, 0, 0, 0, 0, 0, 0x40] }
/-- That manifest with a wait on a word of that page; and with MAILBOX 1. -/
def team1far : List Byte := ((team1.set 4 1).set 0x53 0x20).set 0x54 0x10
/-- A manifest that waits on an address of another device: its home is asked; it has not answered; it has. -/
theorem wit_LaunchQueuesAndManifests_far : let put := fun (s : State) (a : Nat) (l : List Byte) => ({ s with hbm := Memory.write zeroByte s.hbm a l } : State)
    let s := away (queued 1 fun s => put (put s 0x10004 [1]) 0x10053 [0x20, 0x10])
    let x := s.lq 15
    let m : Man := { newMan s.nextId team1far 15 x.job (x.slotVa x.head) .host with accepted := s.time, seen := x.seen }
    let seen := fun c : Option Nat => ({ s with lqs := [(15, { x with seen := [⟨2 ^ 36 + 2 ^ 29, c, 0, 0⟩] })] } : State).lq 15
    (match s.hmRead x.job (x.slotVa x.head) 256 with | .ok raw => raw | .error _ => []) = team1far ∧ s.farNames m = [2 ^ 36 + 2 ^ 29] ∧
    (∀ y ∈ x.seen, y.addr ≠ 2 ^ 36 + 2 ^ 29) ∧ (∀ a ∈ s.farNames m, ∃ y ∈ (seen none).seen, y.addr = a) ∧
    (∃ y ∈ (seen none).seen, y.code = none) ∧ (∀ y ∈ (seen (some 0)).seen, y.code.isSome = true) ∧ bt x.ctl 63 = true ∧ x.used ≠ 0 := by decide +kernel
/-- The manifest in a given state, placed on berth 3. -/
def entered (st : ManSt) (f : Man → Man := id) (g : State → State := id) : State :=
  g { queued 0 with mans := [f { newMan 9 team1 15 0 0x10000 .host with st := st, base := 3 }], nextId := 10, subj := ⟨3, 0, 0, 9⟩ }
theorem wit_LaunchQueuesAndManifests_choice : let s := away (entered .waiting)
    let m := { newMan 9 team1 15 0 0x10000 .host with st := .waiting, base := 3 }
    let w := { m with raw := team1far }
    s.man 9 = some m ∧ m.st = .waiting ∧ m.nwait = 0 ∧ w.nwait = 1 ∧ w.waits = [(2 ^ 36 + 2 ^ 29, 0)] ∧ s.homeOf w.job (2 ^ 36 + 2 ^ 29) ≠ s.label ∧
    0 ∉ w.waitsOk ∧ 0 ∈ ({ w with waitsOk := [0] } : Man).waitsOk ∧
    ({ entered .eligible with time := 3200000 }).man 9 = some { m with st := .eligible } ∧
    ({ m with st := .eligible } : Man).eligTime 3200000 / 3200000 = 1 ∧ m.eligTime 0 / 3200000 = 0 := by decide +kernel
/-- The template of mailbox 1. -/
theorem wit_LaunchQueuesAndManifests_template : let m : Man := newMan 0 (team1.set 0x38 1) 15 0 0x10000 .host
    m.kind = 1 ∧ m.mailbox ≠ 0 := by decide +kernel
theorem wit_TeamsPlacedAndStarted : let s := entered .eligible
    let m := { newMan 9 team1 15 0 0x10000 .host with st := .eligible, base := 3 }
    s.level = 2 ∧ s.raising = false ∧ s.mans = [m] ∧ m.kind = 1 ∧ m.origin = none ∧ m.top ≤ 7 ∧ s.baseFor m = some 0 ∧
    ({ s with carve := 0 } : State).baseFor m = none := by decide +kernel
/-- The team as it starts: placed on berth 3, then with its code there. -/
def starting (st : ManSt) : State := entered st id fun s => s.setBerth 3 { Berth.idle with st := .starting, ctx := { Ctx.start with team := 9, rank := 0 } }
theorem wit_TeamsPlacedAndStarted_start : let s := starting .placed
    let t := starting .starting
    let m := { newMan 9 team1 15 0 0x10000 .host with st := .placed, base := 3 }
    s.man s.subj.item = some m ∧ m.kind = 1 ∧ m.top = 0 ∧ m.id = s.subj.item ∧ (s.berth m.base).st = .starting ∧ m.awaits = [] ∧ m.nstage = 0 ∧ m.ntoken = 0 ∧
    m.begun = false ∧ m.owed = false ∧
    m.refusal = none ∧ s.statusHeld m = none ∧ (match ((s.healStart m).status m 2 0).codeWords m with | .ok ws => ws | .error _ => []) = [stopNop] ∧
    (t.man 9).map Man.st = some .starting ∧ m.start = none ∧ m.mbox = none ∧ t.ctxAt 3 = { Ctx.start with team := m.id, rank := m.rank0 } ∧
    (let u := entered .placed (fun m => { m with begun := true, refusal := some 0x20 }) fun s => s.setBerth 3 { Berth.idle with st := .starting }
     ((u.man 9).map fun m => decide (m.begun = true ∧ m.refusal = some 0x20 ∧ m.awaits = [] ∧ m.ntoken = 0 ∧ u.statusHeld m = none)) = some true) := by
  decide +kernel
theorem wit_TeamsEnd : let s := entered .running fun m => { m with used := 1, exited := [0] }
    let m := (s.man s.subj.item).getD team2
    m.st = .running ∧ m.ended = false ∧ s.budgetOf m ≤ m.used ∧ m.kind = 1 ∧ m.top ≤ 7 ∧ m.origin = none ∧ m.mbox = none ∧ m.allExited = true ∧
    s.statusHeld m = none ∧ (((entered .running).man 9).map fun m => (decide (m.used < s.budgetOf m), m.allExited)) = some (true, false) ∧
    s.goneOpen m = false ∧ m.closing = false ∧ s.others = [] ∧
    (let c := { m with closing := true, st := .retiring }
     let o : State := { s with reqs := [⟨5, .hm m.id, none, goneOff, 0⟩] }
     c.closing = true ∧ c.st = .retiring ∧ c.awaits = [] ∧ o.goneOpen m = true ∧ ({ c with awaits := [1] } : Man).awaits ≠ []) ∧
    ((entered .running fun m => { m with raw := 0x12 :: team1.tail, units := [255] }).man 9).map (fun m => (m.kind, m.units)) = some (2, [255]) ∧
    ((entered .running fun m => { m with raw := 0x12 :: team1.tail }).man 9).map (fun m => (m.kind, m.st, m.units, m.wcode)) = some (2, .running, [], []) := by
  decide +kernel
/-- A team that has ended on device 0 of two; a berth of it with a region lent to it by the host, and one it made and lent on. -/
theorem wit_TeamsEnd_regions : let s := entered .running (fun m => { m with exited := [0] }) fun s =>
      { s.setBerth 3 { Berth.idle with st := .run, ctx := { Ctx.start with team := 9, pilot := .retired } } with
        regions := [⟨0, none, 2 ^ 36, 12, .owned, .bt 9 0, [.host], 0, [], false⟩, ⟨0, none, 2 ^ 37, 12, .owned, .unit 0, [.bt 9 0, .host, .bt 9 0], 0, [], false⟩] }
    let m := (s.man 9).getD team2
    let f : State := { s with fabctl := w64 (2 ^ 63 + 2 ^ 16), portmap := w64 0xFFFFFFFFF3 }
    let mine := ofTeam m.id
    3 ∈ m.held ∧ (s.ctxAt 3).team = m.id ∧ (s.berth 3).placed = true ∧ (s.berth 3).retired = false ∧ (∀ i ∈ (s.berth 3).pool, i.ctx.team ≠ m.id) ∧
    m.allExited = true ∧ s.others = [] ∧ f.others = [1] ∧ (f.route 1).isSome = true ∧ f.ndim ≤ 10 ∧ f.goneOpen m = false ∧ f.statusHeld m = none ∧
    mine (.bt 9 0) = true ∧ mine .host = false ∧ mine (.unit 0) = false := by decide +kernel
/-- A handler template: its mailbox has it still, a copy of it runs, or neither. -/
theorem wit_TeamsEnd_template : let s := entered .template
    let m := (s.man 9).getD team2
    m.kind = 1 ∧ m.st = .template ∧ s.mboxes = [] ∧ (∀ c ∈ s.mans, c.tmpl = some m.id → c.st = .retired) ∧ s.statusHeld m = none ∧
    (∃ b ∈ [(⟨1, 0, 0, 512, 3, none, [], some 9⟩ : Mailbox)], b.template = some m.id) ∧
    (∃ c ∈ ({ s with mans := s.mans ++ [{ team2 with tmpl := some 9 }] } : State).mans, c.tmpl = some m.id ∧ c.st ≠ .retired) := by decide +kernel

-- pre-emption, the dry dock, barriers, mailboxes -----------------------------------------------------------------------------------------

/-- Berth 3 runs that team, in a given state of its berth, with images in its pool. -/
def docked (st : BerthSt) (l : List Image := []) (f : State → State := id) : State :=
  entered .running id fun s => f (s.setBerth 3 { Berth.idle with st := st, pool := l, ctx := { Ctx.start with team := 9 } })
def image (k : Nat) : Image := ⟨{ Ctx.start with team := 9 }, 4, none, 3, k, false⟩
theorem wit_PreemptionAndBarriers : let s := docked .run [] fun s =>
      { s with mans := s.mans ++ [{ newMan 10 team1 15 0 0x10100 .host with st := .eligible, eprio := 1 }], reserve := [(10, 3)] }
    let m := (s.man 9).getD team2
    let p := (s.man 10).getD team2
    let g : State := { s with jobsched := [(0, w64 (2 ^ 40))] }
    s.subj.berth = 3 ∧ s.reserve = [(p.id, 3)] ∧ p ∈ s.mans ∧ (s.mans.map Man.id).Nodup ∧ m.kind = 1 ∧ m.st = .running ∧
    (m.aged s.time).eprio < (p.aged s.time).eprio ∧ (∃ k ∈ m.held, k ∈ p.berths 3) ∧
    ({ s with mans := s.mans.map fun y : Man => y.aged s.time } : State).spillRoom (m.aged s.time) = true ∧
    bf (Tab.get 0 s.jobsched m.job) 40 24 = 0 ∧ bf (Tab.get 0 g.jobsched m.job) 40 24 ≠ 0 ∧ (docked .run).reserve = [] ∧
    (docked .run).spillRoom m = true ∧ (let t : State := { docked .run [image 0, image 1, image 2] with carve := 0 }
     t.spillRoom m = false) ∧
    (let g := entered .running fun m => { m with grace := some 1023 }
     let h := { g with jobsched := [(0, w64 (2 ^ 40))] }
     (g.man g.subj.item).map Man.grace = some (some 1023) ∧ bf (Tab.get 0 g.jobsched 0) 40 24 * 1024 ≤ 1023 ∧
     1023 < bf (Tab.get 0 h.jobsched 0) 40 24 * 1024) := by decide +kernel
theorem wit_PreemptionAndBarriers_spill : let s := docked .spilling
    (docked .draining).drainDone 3 = true ∧ ((docked .draining [] fun s => s.modBerth 3 fun x =>
      { x with ctx := { x.ctx with ops := [sentOp] } }).drainDone 3 = false) ∧
    (s.berth 3).st = .spilling ∧ (s.berth 3).pool.length < 3 ∧ (s.berth 3).ctx.blocks ≤ (s.berth 3).freeBlocks ∧
    (∀ y ∈ s.berths, y.1 ≠ 3 → y.2.st = .run → (s.followers y.1).contains 3 = false) ∧ (s.man (s.ctxAt 3).team).isSome = true ∧
    3 ≤ ((docked .spilling [image 0, image 1, image 2]).berth 3).pool.length ∧
    (docked .run [image 0]).carveUsed + 2 ^ 21 ≤ (docked .run [image 0]).carveBytes ∧
    (let t : State := { docked .run [image 0] with carve := 0 }
     t.carveBytes < t.carveUsed + 2 ^ 21) ∧ ((docked .spilling [image 0, image 1, image 2]).berth 3).needsRoom = true ∧
    ((docked .run [image 0]).berth 3).needsRoom = false := by decide +kernel
theorem wit_PreemptionAndBarriers_fill : let s := entered .placed id fun s =>
      { s.setBerth 3 { Berth.idle with st := .filling } with dock := [image 0], codeStore := [(9, 0, [(0, stopNop)], 1)] }
    let m := (s.man 9).getD team2
    s.mans = [m] ∧ m.st = .placed ∧ m.kind = 1 ∧ m.top = 0 ∧ m.failed = [] ∧ m.owed = false ∧ m.base = 3 ∧ (s.berth 3).st = .filling ∧ s.findImage m.id m.rank0 = some (image 0) ∧
    (∀ e ∈ s.berths, ∀ k ∈ e.2.pool, k.order ≠ (image 0).order) ∧ s.dock = [image 0] ∧
    (s.codeStore.find? fun e => e.1 == m.id && e.2.1 == m.rank0) = some (m.id, m.rank0, [(0, stopNop)], 1) := by decide +kernel
theorem wit_PreemptionAndBarriers_mail : let s := { entered .template with mboxes := [⟨1, 0, 0, 512, 3, none, [2], some 9⟩] }
    let m := (s.man 9).getD team2
    (s.man 9).isSome = true ∧ m.wide 0 = false ∧ s.man 8 = none ∧ ((s.mboxes.find? fun y => y.id == 1).map fun x => (x.template, x.pend)) = some (some 9, [2]) ∧
    (∀ k ∈ s.mans, k.mbox = some (1, 2) → k.origin = none → k.st = .retired) ∧ s.ckStart = true ∧
    ({ s with agent := .land 0 } : State).ckStart = false ∧
    (∃ k ∈ ({ s with mans := s.mans ++ [{ team2 with mbox := some (1, 2) }] } : State).mans, k.mbox = some (1, 2) ∧ k.origin = none ∧ k.st ≠ .retired) := by decide +kernel

-- the fabric --------------------------------------------------------------------------------------------------------------------------

/-- Device 0 of two, whose dimension 0 is port 3, with the tables of `unit0` and a region for atomics or not. -/
def fabric (f : Port → Port := id) (g : State → State := id) (r : RState := .owned) : State :=
  g { unit0 [] .fresh r with
      fabctl := w64 (2 ^ 63 + 2 ^ 16), portmap := w64 0xFFFFFFFFF3, svc := w64 2, ports := [(3, f Port.reset)], subj := ⟨0, 0, 3, 0⟩
      regions := [⟨0, none, 0, 37, r, .remote 65541, [], 0, [], false⟩, ⟨0, some (.bt 0 0), 0xE00, 9, .owned, .remote 65541, [], 0, [], false⟩]
      berths := [(7, { Berth.idle with st := .run, ctx := { Ctx.start with team := 0, spexp := 0x09000E00 } })], mans := [team2] }
theorem wit_FabricRegistersAndLinks : let s := fabric
    let n : State := { s with fabctl := 0 }
    bt s.fabctl 63 = true ∧ bt (w64 (2 ^ 63)) 63 = true ∧ bt (w64 5) 63 = false ∧ (∀ e ∈ s.ports, e.2.outq = []) ∧ bt n.fabctl 63 = false ∧
    (∀ q ∈ mapPorts 0xFFFFFFFFF3, q ≤ 10 ∨ q = 15) ∧ distinct (mapPorts 0xFFFFFFFFF3) = true ∧ (∃ q ∈ mapPorts 0xFFFFFFFFFE, 10 < q ∧ q < 15) ∧
    distinct (mapPorts 0xFFFFFFFF33) = false ∧ 17 < 18 ∧ 17 ∉ (s.port 3).bad ∧ (s.port 3).down = false ∧ (s.port 3).bad.length < 9 ∧
    17 ∈ ((fabric fun x => { x with bad := [17] }).port 3).bad ∧ s.subj.port = 3 ∧ s.portUp 3 = true ∧ (s.port 3).retrain = false ∧ (s.port 3).rx = [] ∧
    (s.port 3).rxSeq = 0 ∧ s.portUp 10 = true ∧ n.portUp 3 = false ∧ (fabric id fun s => { s with fabctl := w64 (2 ^ 63 + 2 ^ 16 + 1) }).label ≠ 0 ∧
    (crc32c [] ≠ 1) := by decide +kernel
/-- A port whose lane 17, a check lane, has failed: its symbol is an erasure, so that any frame's columns are decoded. -/
def lame (x : Port) : Port := { x with bad := [17] }
theorem lame_gap : ((fabric lame).port 3).gap = some 17 := by decide +kernel
theorem lame_flit (x : List Byte) (hx : x.length = 256) : let p := (fabric lame).port 3
    flitOf p.dataLanes ((p.frameOf 0 x).cols.map fun c => (rsDecode p.gap c).1) = (x, crc32c x) := by
  intro p
  have hp : p.gap = some 17 := lame_gap
  have hd : p.dataLanes = 16 := by decide +kernel
  have hc : p.columns = 13 := by decide +kernel
  simp only [Port.frameOf, hp, hd, hc, List.map_map]
  refine flitOf_columns x (crc32c x) 16 13 _ hx rfl fun c h => ?_
  show List.take 16 (((rsEncode c).set 17 0).set 17 _) = c
  rw [List.take_set_of_le (by decide), List.take_set_of_le (by decide)]
  simp [rsEncode, ← h]
/-- Frames whose columns decode and whose CRC is right: a header of one flit, one of a reserved type, one of a packet of two flits. -/
theorem wit_FabricRegistersAndLinks_frame : ∀ k ∈ [((3 : Byte), 0, false), (15, 0, true), (16, 1, true)],
    let s := fabric lame
    let x := s.port 3
    let f := x.frameOf 0 (k.1 :: List.replicate 255 0)
    let got := flitOf x.dataLanes (f.cols.map fun c => (rsDecode x.gap c).1)
    (s.portUp 3 = true ∧ x.retrain = false ∧ f.seq = x.rxSeq ∧ x.rx = []) ∧ f.cols.length = x.columns ∧
    (∀ c ∈ f.cols, (rsDecode x.gap c).2 = none) ∧ crc32c got.1 = got.2 ∧
    pkLen ⟨bytesW32 got.1, []⟩ = k.2.1 ∧ pkBad ⟨bytesW32 got.1, []⟩ = k.2.2 := by
  have key : ∀ k ∈ [((3 : Byte), 0, false), (15, 0, true), (16, 1, true)], pkLen ⟨bytesW32 (k.1 :: List.replicate 255 0), []⟩ = k.2.1 ∧
      pkBad ⟨bytesW32 (k.1 :: List.replicate 255 0), []⟩ = k.2.2 := by decide +kernel
  intro k hk s x f got
  have hg : got = (k.1 :: List.replicate 255 0, crc32c (k.1 :: List.replicate 255 0)) := lame_flit _ (by rw [List.length_cons, List.length_replicate])
  have hc : ∀ l : List Byte, (x.frameOf 0 l).cols.length = x.columns := by
    intro l
    have : ∀ (a n : Nat) (l : List Nat), (chunks a n l).length = n := by
      intro a n; induction n with
      | zero => intro; rfl
      | succ n ih => intro l; simp [chunks, ih]
    simp [Port.frameOf, this]
  refine ⟨⟨by decide +kernel, by decide +kernel, rfl, by decide +kernel⟩, hc _, fun c _ => ?_, by rw [hg], ?_⟩
  · rw [show x.gap = some 17 from lame_gap]; rfl
  · rw [hg]; exact key k hk
/-- Sixteen flits at most; a frame of zeros has a wrong CRC, and one of no column is none. -/
theorem wit_FabricRegistersAndLinks_bad : let x := (fabric lame).port 3
    (⟨0, []⟩ : Frame).cols.length ≠ x.columns ∧ (∀ c ∈ (⟨0, []⟩ : Frame).cols, (rsDecode x.gap c).2 = none) ∧
    pkLen ⟨bytesW32 (0 :: 1 :: List.replicate 254 0), []⟩ = 16 := by decide +kernel
theorem wit_FabricRegistersAndLinks_late : let s := fabric (fun x => { x with replay := [(8, [])], fails := (8, 7) }) fun s =>
      { s with reqs := [⟨5, .op 0 9, some 0, 0, 8⟩], time := 2 ^ 20, subj := ⟨0, 0, 3, 5⟩ }
    let r := (s.reqs.find? fun r => r.tag == s.subj.item && r.since.any fun t => decide (t + 2 ^ 20 ≤ s.time))
    s.portUp 3 = true ∧ (∃ r ∈ (s.port 3).replay, r.1 = 8) ∧ (s.port 3).fails = (8, 7) ∧ 7 < 8 ∧ r = some ⟨5, .op 0 9, some 0, 0, 8⟩ ∧
    ((fabric fun x => { x with replay := [(8, [])], fails := (8, 8) }).port 3).fails = (8, 8) ∧ (s.port 3).outq = [] ∧
    (∀ r ∈ s.reqs, ∀ t, r.since = some t → 2 ^ 20 - 1 < t + 2 ^ 20) := by
  refine ⟨by decide +kernel, by decide +kernel, by decide +kernel, by decide, by decide +kernel, by decide +kernel, by decide +kernel, ?_⟩
  intro r hr t ht
  have : r = ⟨5, .op 0 9, some 0, 0, 8⟩ := List.mem_singleton.1 hr
  subst this; cases ht; decide
/-- A link that has just been trained, on the device of label 0 and on that of label 1, whose neighbour reaches label 0. -/
theorem wit_FabricRegistersAndLinks_stamps : let s := fabric
    let u := fabric id fun s => { s with fabctl := w64 (2 ^ 63 + 2 ^ 16 + 1) }
    let t := fun (s : State) (v : Nat) => s.modPort 3 fun y => { y with stamp := some s.time, heard := some (v % 1024) }
    s.portUp 3 = true ∧ (s.port 3).retrain = false ∧ s.stampDue 3 = true ∧ (t s 1).master = s.label ∧ u.portUp 3 = true ∧ u.stampDue 3 = true ∧
    (t u 4096).master ≠ u.label ∧ 4096 % 1024 = (t u 4096).master ∧ (t u 4096).ports.map Prod.fst = [3] ∧ (t s 1).stampDue 3 = false := by
  decide +kernel

/-- A packet for this device at port 3, from berth 5 of device 1. -/
def from1 (t : Nat) (va : Nat := 0x2000) (f : PkHdr → PkHdr := id) (data : List Byte := []) (r : RState := .owned) : State × Packet :=
  let p := mkPacket (f { type := t, dst := 0, src := 1, job := 0, party := 65541, addr := va, bytes := data.length }) data
  (fabric (fun x => { x with inq := [p] }) id r, p)
def there (x : State × Packet) (t : Nat) : Bool :=
  decide (((x.1.heads 3).find? fun k => pkType k == t) = some x.2 ∧ pkDst x.2 = x.1.label ∧ x.1.subj.port = 3)
def answers (x : State × Packet) (acc : Acc) (n : Nat) : Bool × Option (Nat × Nat) :=
  let r := x.1.dropHead 3 x.2
  ((match r.plan 0 (some acc) (pieces 0x2000 n) with | .ok l => l == [(0x2000, n, .hbm 0x2000 none)] | .error _ => false),
    ((r.walkHeal 0 [(0x2000, n, .hbm 0x2000 none)]).tokens (r.packetParties x.2) (r.chkRange 0 none acc 0x2000 n)).2)
theorem wit_RequestsAreServed : let w := from1 0 0x2000 id [1, 2, 3, 4]
    let d := from1 1 0x2000 fun h => { h with bytes := 8 }
    there w 0 = true ∧ pkPath w.2 ≠ 1 ∧ pkSrc w.2 ≠ w.1.label ∧ w.1.route (pkSrc w.2) = some 3 ∧ answers w .write 4 = (true, none) ∧ pkData w.2 = [1, 2, 3, 4] ∧
    (answers ({ w.1 with regions := [] }, w.2) .write 4).2 ≠ none ∧ there d 1 = true ∧ pkBytes d.2 = 8 ∧ answers d .read 8 = (true, none) ∧
    ((d.1.dropHead 3 d.2).planHeal 0 [(0x2000, 8, .hbm 0x2000 none)]).hbmRead 0x2000 8 = some [7, 0, 0, 0, 0, 0, 0x80, 0x3F] := by decide +kernel
theorem wit_RequestsAreServed_window : let w := from1 0 (7 * 2 ^ 20 + 0xE10) (fun h => { h with path := 1 }) [9]
    there w 0 = true ∧ pkPath w.2 = 1 ∧ ((w.1.dropHead 3 w.2).peerWrite w.2).isSome = true ∧ there (from1 7 0x2000 id [1]) 7 = true := by decide +kernel
theorem wit_RequestsAreServed_through : let x := from1 0 0x2000 (fun h => { h with dst := 1 }) []
    ((x.1.heads 3).find? fun k => pkType k == 0) = some x.2 ∧ pkDst x.2 ≠ x.1.label ∧ x.1.subj.port < 11 ∧ x.1.route (pkDst x.2) = some 3 ∧
    ({ x.1 with portmap := w64 0xFFFFFFFFFF } : State).route (pkDst x.2) = none := by decide +kernel
theorem wit_RequestsAreServed_atomics : ∀ k ∈ [3 * 2 ^ 8, 2 ^ 8, 2 * 2 ^ 8, 1 + 1 * 2 ^ 3, 2 ^ 13 + 8 * 2 ^ 14, 2 ^ 13 + 3 * 2 ^ 14],
    let x := from1 3 0x2000 (fun h => { h with info := k, opA := 1 }) [] .atomic
    there x 3 = true ∧ pkVa x.2 % 8 = 0 ∧ pkInfo x.2 = k := by decide +kernel
theorem wit_RequestsAreServed_tokens : (AtomOp.ofCode? 1).isSome = true ∧
    (let x := from1 3 0x2000 (fun h => { h with info := 2 ^ 13 + 7 * 2 ^ 14 }) []
     ((x.1.dropHead 3 x.2).packetToken x.2).map (fun y => match y.2 with | .ok _ => true | .error _ => false) = some true) ∧
    (let x := from1 3 0x2000 (fun h => { h with info := 2 ^ 13 + 1 * 2 ^ 14 }) []
     ((x.1.dropHead 3 x.2).packetToken x.2).map (fun y => match y.2 with | .ok _ => true | .error _ => false) = some false) := by decide +kernel
theorem wit_RequestsAreServed_answers : ∀ t ∈ [2, 4], let x := from1 t 0 (fun h => { h with tag := 5, status := 0x30 }) []
    let s : State := { x.1 with reqs := [⟨5, .op 0 9, some 0, 0, 8⟩] }
    there (s, x.2) t = true ∧ (s.dropHead 3 x.2).emission (pkDst x.2) (pkTag x.2) = none ∧ (s.dropHead 3 x.2).mcastReq (pkSrc x.2) (pkParty x.2) (pkTag x.2) = none ∧
    (s.dropHead 3 x.2).reqOf (pkTag x.2) = some ⟨5, .op 0 9, some 0, 0, 8⟩ ∧ pkStatus x.2 ≠ 0 ∧ fabric.heads 3 = [] := by decide +kernel

/-- A read that only asks; a token form of the host that waits for its lines. -/
theorem wit_RequestsAreServed_asks : let x := from1 1 0x2000 (fun h => { h with opA := 1 }) []
    there x 1 = true ∧ pkPath x.2 ≠ 1 ∧ pkOpA x.2 = 1 ∧ (x.1.heads 3).findSome? x.1.packetFlush = none ∧
    (x.1.dropHead 3 x.2).reqs.find? (Req.passes (pkParty x.2) (pkTag x.2)) = none := by decide +kernel

/-- A multicast that goes on in dimension 0, and packets between the harbourmasters of a team of two devices. -/
theorem wit_TreesAndTeams : let x := from1 5 0x2000 (fun h => { h with tree := 4095 }) [1]
    let s : State := { x.1 with mctree := [(4095, w64 (2 ^ 63 + 2 ^ 47))] }
    let e := Tab.get (0 : W64) s.mctree (pkTree x.2)
    there x 5 = true ∧ bt (Tab.get (0 : W64) x.1.mctree (pkTree x.2)) 63 = false ∧ there (s, x.2) 5 = true ∧ bt e 63 = true ∧ bf e 57 6 = pkJob x.2 ∧
    bt e 46 = false ∧ (∀ k < 10, (bt e (47 + k) = true ↔ k = 0)) ∧ s.portUp (s.dimPort 0) = true ∧ (∀ k ∈ s.mcasts, k.id ≠ s.nextId) := by decide +kernel
/-- An entry that names dimensions 0 and 1, of which 1 is not there, and berth 7 of this device; the party may write, or not. -/
theorem wit_TreesAndTeams_local : ∀ k ∈ [(Party.bt 0 0, none), (.host, some 0x20)],
    let x := from1 5 0x2000 (fun h => { h with tree := 4095 }) [1]
    let s : State := { x.1 with mctree := [(4095, w64 (2 ^ 63 + 2 ^ 47 + 2 ^ 48 + 2 ^ 46 + 7))], regions := [⟨0, none, 0, 37, .owned, k.1, [], 0, [], false⟩] }
    let e := Tab.get (0 : W64) s.mctree (pkTree x.2)
    let r := s.dropHead 3 x.2
    bt e 63 = true ∧ bf e 57 6 = pkJob x.2 ∧ bt e 46 = true ∧ bf e 0 16 = 7 ∧ ((List.range 10).filter fun d => bt e (47 + d)) = [0, 1] ∧
    (decide (0 < s.ndim) && s.portUp (s.dimPort 0)) = true ∧ decide (1 < s.ndim) = false ∧
    (match r.plan 0 (some .write) (pieces 0x2000 1) with | .ok l => l == [(0x2000, 1, .hbm 0x2000 none)] | .error _ => false) = true ∧
    ((r.walkHeal 0 [(0x2000, 1, .hbm 0x2000 none)]).tokens [r.party (s.label * 65536 + 7)] (r.chkRange 0 none .write 0x2000 1)).2.map Prod.fst = k.2 := by
  decide +kernel
def wide : Man := { newMan 9 (((List.replicate 256 0).set 2 4).set 0x40 9) 0 0 0 .host with st := .running, origin := some 1, slotVa := 7 }
theorem wit_TreesAndTeams_teams : (∀ k ∈ [0, 1, 2, 3, 4, 5],
    let x := from1 6 0 (fun h => { h with opA := 2 ^ 32 + 7, opB := 5 + 1 * 2 ^ 48 + k * 2 ^ 56 }) []
    let s : State := { x.1 with mans := [wide] }
    there (s, x.2) 6 = true ∧ (s.dropHead 3 x.2).manByKey (pkOpA x.2) = some wide ∧ (x.1.dropHead 3 x.2).manByKey (pkOpA x.2) = none ∧
    fld (pkOpB x.2) 0 48 = 5 ∧ fld (pkOpB x.2) 48 3 = 1 ∧ (BarMsg.ofCode (fld (pkOpB x.2) 56 3)).code = k ∧ pkBad x.2 = false) ∧
    (∀ k ∈ [0, 2 ^ 32 - 1], let x := from1 8 0 (fun h => { h with opA := 2 ^ 32 + 7, opB := k }) []
     let s : State := { x.1 with mans := [wide] }
     there (s, x.2) 8 = true ∧ (s.dropHead 3 x.2).manByKey (pkOpA x.2) = some wide ∧ pkOpB x.2 = k ∧ pkLen x.2 = 0) ∧
    (let x := from1 8 0 (fun h => { h with opA := 2 ^ 32 + 8 }) wide.raw
     there x 8 = true ∧ pkLen x.2 ≠ 0 ∧ (∀ k ∈ x.1.mans, x.1.manKey k ≠ 2 ^ 32 + 8)) := by decide +kernel
theorem wit_TreesAndTeams_records : (∀ k ∈ [(1, 0x60), (noticePreempt, 0), (noticeEnd, 0)],
    let x := from1 9 0 id ((EvRec.mk 0x1000 k.1 0 k.2 (some 0) (w64 (2 ^ 32 + 7 + 0x60 * 2 ^ 48))).bytes)
    let s : State := { x.1 with mans := [wide] }
    let rec_ := fun i => leValue ((x.2.pay.drop (8 * i)).take 8)
    there (s, x.2) 9 = true ∧ (fld (rec_ 2) 0 8 ≠ 0 ↔ k.2 = 0x60) ∧ rec_ 0 / 2 ^ 32 = k.1 ∧ rec_ 3 / 2 ^ 48 = 0x60 ∧
    (s.dropHead 3 x.2).manByKey (rec_ 3 % 2 ^ 48) = some wide ∧ wide.st = .running) := by decide +kernel

-- pier kernels, units, channels, power, failures ----------------------------------------------------------------------------------------

/-- A PIER manifest of job 0: ports 3 and 10, slot 7, in a kernel image of one word (ENDK) at 0x8000; OP 1 loads, 2 unloads. -/
def pierMan (op : Nat) : Man :=
  { newMan 9 ([0x13, 0, 0, 0, 0, 0, 0, 0, 0, 0x80, 0, 0, 0, 0, 0, 0, 1] ++ List.replicate 143 0 ++ [8, 4, BitVec.ofNat 8 op, 7] ++ List.replicate 92 0) 0 0 0x10000 .host with
    st := .placed }
def kern : Kernel := ⟨9, 0, false, 1, 1, false, 0, 12, [0x88000000]⟩
def pierState (op : Nat) (slots : Tab (Option Kernel)) (runs : Tab (Option Run)) (f : State → State := id) : State :=
  f { unit0 [] with hbm := (unit0 []).hbm ++ [(0x8001, 1), (0x8002, 1), (0x8010, 12)] ++ [(0x8023, 0x88)], mans := [pierMan op], subj := ⟨0, 0, 0, 9⟩
                    ports := [(3, { Port.reset with slots := slots, runs := runs, inq := [mkPacket { type := 0, dst := 0, src := 1, job := 0, party := 0 } []] })]
                    pierjob := [(0, 1)] }
theorem wit_PierKernelsAndWharfRegisters : let s := pierState 1 [] []
    let x := PJ.of (w64 (16 * 2 ^ 56 + 240 * 2 ^ 47 + 13 * 2 ^ 30 + 2 ^ 29 + 1))
    let big := PJ.of (w64 (17 * 2 ^ 56 + 240 * 2 ^ 47 + 14 * 2 ^ 30 + 2 ^ 34))
    let k := kern
    x.mbox = 0 ∧ x.fbase % 2 ^ x.flog2 = 0 ∧ x.flog2 ≤ 13 ∧ x.cb + x.ncb ≤ 256 ∧ s.kernelOf 0 = false ∧
    (∀ e ∈ s.pierjob, e.1 ≠ 0 → (PJ.of e.2).en = true → x.overlaps (PJ.of e.2) = false) ∧
    (big.fbase % 2 ^ big.flog2 ≠ 0 ∧ 13 < big.flog2 ∧ 256 < big.cb + big.ncb) ∧ (pierState 1 [(7, some k)] []).kernelOf 0 = true ∧
    (let o : State := { s with pierjob := [(1, w64 (16 * 2 ^ 56 + 240 * 2 ^ 47 + 13 * 2 ^ 30 + 2 ^ 29 + 1))] }
     ∃ e ∈ o.pierjob, e.1 ≠ 0 ∧ (PJ.of e.2).en = true ∧ x.overlaps (PJ.of e.2) = true) ∧ (PJ.of (w64 (2 ^ 13))).mbox ≠ 0 ∧ s.mboxes = [] ∧
    s.man s.subj.item = some (pierMan 1) ∧ (pierMan 1).kind = 3 ∧ (pierMan 1).st = .placed ∧ s.statusHeld (pierMan 1) = none ∧ (pierMan 1).pierOp = 1 ∧
    (let m : Mailbox := ⟨3, 0, 0, 16, 8, none, [], none⟩
     (∃ y ∈ [m], y.id = 3 ∧ y.job = 0 ∧ 5 + 11 ≤ y.n)) ∧ s.kernelFor (pierMan 1) = some k ∧ (pierState 1 [] [] fun s => { s with pierjob := [] }).kernelFor (pierMan 1) = none ∧ (pierMan 1).portSet = [3, 10] := by
  decide +kernel
theorem wit_PierKernelsAndWharfRegisters_unload : let s := pierState 2 [(7, some kern)] []
    let r := pierState 2 [(7, some kern)] [(7, some run0)]
    let p := mkPacket { type := 0, dst := 0, src := 1, job := 0, party := 0 } []
    let t := (pierMan 2).portSet.foldl (fun s q => s.modPort q fun z => { z with slots := Tab.set none z.slots 7 none }) s
    (pierMan 2).pierOp = 2 ∧ (∀ q ∈ (pierMan 2).portSet, s.run q 7 = none ∧ Tab.get [] (s.port q).bufs 7 = []) ∧
    (pierMan 2).kslot = 7 ∧ t.statusHeld (pierMan 2) = none ∧ (∃ q ∈ (pierMan 2).portSet, r.run q 7 ≠ none ∨ Tab.get [] (r.port q).bufs 7 ≠ []) ∧
    Tab.get none (s.port 3).slots 7 = some kern ∧ s.run 3 7 = none ∧ r.run 3 7 ≠ none ∧ kern.out = false ∧ Tab.get [] (s.port 3).bufs 7 = [] ∧
    s.matching 3 7 kern = some (false, p) ∧ r.matching 3 7 kern = some (false, p) ∧ 0 < kern.body ∧
    Tab.get none (s.port 3).slots 6 = none ∧ (s.modPort 3 fun x => { x with inq := [] }).matching 3 7 kern = none ∧
    -- a kernel of DIR 1 takes a packet that originates here
    (let k : Kernel := { kern with out := true }
     let o := pierState 2 [(7, some k)] [] fun s => s.modPort 3 fun x => { x with outq := [(true, p)], inq := [] }
     o.matching 3 7 k = some (true, p) ∧ o.run 3 7 = none) := by decide +kernel
theorem wit_PierKernelsAndWharfRegisters_units : let s : State := { unit0 [] with subj := ⟨0, 0, 0, 0⟩, time := 1024 }
    let t := s.modUnit 0 fun x => { x with since := some 0 }
    (s.unit 0).en = true ∧ (s.unit 1).en = false ∧ s.unitServed 255 = true ∧
    ({ s with svc := svcLow } : State).unitServed 32 = false ∧ ({ s with svc := svcLow } : State).unitServed 31 = true ∧ bt (w64 (2 ^ 63)) 63 = true ∧ bt (w64 5) 63 = false ∧ (s.unit 0).ring = ⟨0, 0, .host, none, true, 0⟩ :: [] ∧
    decodeWharf (w64 (2 ^ 64 - 1)).toNat = none ∧ (t.unit 0).since = some 0 ∧ 0 + Nat.max 1 (bf { t with wtimeout := 0 }.wtimeout 0 32) * 1024 ≤ t.time ∧
    t.time < 0 + Nat.max 1 (bf { t with wtimeout := 2 }.wtimeout 0 32) * 1024 ∧ (s.unit 0).since = none := by decide +kernel
theorem wit_ChannelsAndPower_more : let s : State := { unit0 [] with subj := ⟨0, 0, 0, 256⟩, pwrstat := w64 (2 ^ 16), scrubbed := [0, 1] }
    s.subj.item % 256 = 0 ∧ (s.unit 0).ring ≠ [] ∧ s.scrubNext ≤ 2 ∧ 2 ∉ s.scrubbed ∧ (∀ k, s.scrubNext ≤ k → k < 2 → k ∈ s.scrubbed) ∧
    2 + 1 < hbmGranules ∧ hbmGranules - 1 + 1 = hbmGranules ∧ bt s.pwrstat 16 = true ∧
    bt (Tab.get (0 : W64) ({ s with wtemp := [(7, w64 (2 ^ 16 + 95))] } : State).wtemp 7) 16 = true := by
  refine ⟨by decide +kernel, by decide +kernel, by decide +kernel, by decide +kernel, ?_, by decide +kernel, by decide +kernel, by decide +kernel,
    by decide +kernel⟩
  intro k _ h
  have : k = 0 ∨ k = 1 := by omega
  rcases this with rfl | rfl <;> decide
theorem wit_ChannelsAndPower : let s : State := { State.reset with subj := ⟨0, 0, 0, 255⟩, pwrstat := w64 (2 ^ 16), svc := svcLow }
    s.subj.item = 255 ∧ 255 < 256 ∧ (s.unit 255).ring = [] ∧ (Tab.get (false, false) s.remap 255).2 = false ∧
    (Tab.get (false, false) ({ s with remap := [(255, (true, true))] } : State).remap 255).1 = true ∧ s.scrubNext ∉ s.scrubbed ∧
    s.scrubNext + 1 < hbmGranules ∧ s.chanUp (chanOf (64 * s.scrubNext)) = true ∧ bt s.pwrstat 16 = true ∧ bt State.reset.pwrstat 16 = false ∧
    65535 < 65536 := by decide +kernel
/-- A running berth-thread of a team of two, and the same with its tile's power off after an entry at this boundary. -/
def off2 (st : BerthSt) : State :=
  let s := st2 fun c => { c with sregs := [(1, 5)] }
  let t := s.modBerth 0 fun x => { x with st := st, shadow := { x.shadow with last := some (s.saved 0), copyA := some ⟨s.saved 0, 0, true⟩, words := [(0, 0), (0, 0), (0, 0)] } }
  { t with codeStore := [(1, 0, [(0, stopNop)], 1)] }
theorem wit_FailureResumeAndReset : let s := off2 .run
    (s.berth 0).retired = false ∧ (s.berth 0).st = .run ∧ (s.ctxAt 0).pilot = .run ∧ s.leaderOf 0 = none ∧ s.man (s.ctxAt 0).team = some team2 ∧ team2.st = .running ∧
    (s.berth 0).shadow.queue = [] ∧ (s.berth 0).shadow.last = some (s.saved 0) ∧ (State.reset.berth 0).st = .idle ∧ (s.berth 0).st ≠ .off ∧
    ((s.modBerth 0 fun x => { x with retired := true }).berth 0).retired = true := by decide +kernel
theorem wit_FailureResumeAndReset_restore : let o := off2 .off
    let x := o.berth 0
    let v := (st2 fun c => { c with sregs := [(1, 5)] }).saved 0
    x.st = .off ∧ x.wasHalted = false ∧ o.leaderOf 0 = none ∧ o.followers 0 = [] ∧ x.shadow.flagged = 0 ∧ x.shadow.last = some v ∧
    x.shadow.pick = some (0, ⟨v, 0, true⟩) ∧ v.gang = [] ∧ v.ctx.ops = [] ∧ v.ctx.team = x.ctx.team ∧ v.ctx.rank = x.ctx.rank ∧
    (o.codeStore.find? fun y => y.1 == x.ctx.team && y.2.1 == x.ctx.rank) = some (1, 0, [(0, stopNop)], 1) := by decide +kernel
theorem wit_FailureResumeAndReset_boot : let s : State := { State.reset with slotA := some ⟨1, 0, [], true⟩, slotB := some ⟨2, 0, [], true⟩ }
    let none_ : State := { State.reset with slotA := none, slotB := some ⟨2, 0, [], false⟩ }
    s.level = 0 ∧ s.bootSlot = some false ∧ none_.bootSlot = none ∧ none_.level = 0 ∧ ({ s with svc := svcLow } : State).level = 1 ∧ s.mans = [] ∧
    ({ s with svc := w64 2 } : State).level ≠ 1 ∧ ({ s with svc := w64 2 } : State).level ≠ 0 := by decide +kernel

-- the host --------------------------------------------------------------------------------------------------------------------------------

/-- A host with the request ring at 0x1000 of its memory, and one request there; the tables of `unit0`, whose regions the host owns. -/
def asks (ctl : Nat) (ops : List Nat) (f : State → State := id) : State :=
  f { unit0 [] with hrqbase := w64 (2 ^ 63 + 0x1004), hrqtail := 1, svc := w64 0x8002, carve := w64 (2 ^ 63 + 4)
                    hmem := Memory.write zeroByte [] 0x1000 ((ctl :: ops).flatMap (leBytes 8)), regions := [], berths := [] }
def req (s : State) : HReq := (s.headReq).getD ⟨0, 0, []⟩
def fits (s : State) (n : Nat) : Bool :=
  decide (s.headReq = some (req s) ∧ s.level = 2 ∧ s.raising = false ∧ (req s).ctl / 2 ^ 24 = 0 ∧ (req s).ctl.testBit 15 = false ∧ (req s).op = n)
/-- Tables for a 64 KiB page at 2^36 + 2^29, at 0x3000 and 0x3800. -/
def tabled (s : State) : State := { s with hbm := Memory.write zeroByte (Memory.write zeroByte s.hbm 0x1108 [1, 0x30]) 0x3000 [1, 0x38] }
/-- MAP of that page, to HBM address 0x10000; and MAPX of the same. -/
def mapReq (f : State → State := id) : State := asks (1 + 64 * 2 ^ 16) [2 ^ 36 + 2 ^ 29, 1, 0x10018] fun s => f (tabled s)
def mapxReq (f : State → State := id) : State := asks (2 + 64 * 2 ^ 16) [2 ^ 36 + 2 ^ 29, 1, 0x10001, 1] fun s => f (tabled s)
def mapxLeaf : Nat := 0x10001 / 64 * 64 + 32 + 8 + 0x10001 % 8
/-- MAPX of a page that holds a pier kernel of one word, ENDK or another, or none. -/
def mapxPier (bs : List Byte) : State :=
  asks (2 + 64 * 2 ^ 16) [2 ^ 36 + 2 ^ 29, 1, 0x10001, 2] fun s => let s := tabled s
    { s with hbm := Memory.write zeroByte s.hbm 0x10000 bs }
def pierImage : List Byte := [0, 1, 1, 0] ++ List.replicate 12 0 ++ [12] ++ List.replicate 18 0 ++ [0x88]
theorem wit_MappingAndTokenRequests_map : let r := req mapReq
    let full : State := { asks (1 + 64 * 2 ^ 16) [2 ^ 36 + 2 ^ 29, 1, 0x10018] with carveNext := 2 ^ 30 }
    fits mapReq 1 = true ∧ (r.a 2).toNat = 0x10018 ∧ mapReq.mapCode r (!r.zeroFrom 3 || (0x10018 : Nat).testBit 5) 0x10018 = none ∧
    (mapReq.mapAll r 0x10018 .owned).isSome = true ∧ full.mapCode r (!r.zeroFrom 3 || (0x10018 : Nat).testBit 5) 0x10018 = none ∧
    (full.mapAll r 0x10018 .owned).isNone = true ∧ ({ mapReq with carve := 0 } : State).mapCode r false 0x10018 = some 2 := by decide +kernel
theorem wit_MappingAndTokenRequests_mapx : let r := req (mapxReq)
    let t := (mapxReq.mapAll r mapxLeaf .exec).getD mapxReq
    fits mapxReq 2 = true ∧ (r.a 3).toNat < 2 ∧ r.zeroFrom 4 = true ∧ fld mapxLeaf 6 2 < 2 ∧ mapxReq.mapCode r false mapxLeaf = none ∧
    (mapxReq.mapAll r mapxLeaf .exec).isSome = true ∧ t.filter = [] ∧ t.binv = [] := by decide +kernel
theorem wit_MappingAndTokenRequests_lines (t : State) (h1 : t.filter = []) (h2 : t.binv = []) : ∀ hit, t.backInvLines hit = none := by
  intro hit; simp [State.backInvLines, h1, h2]
/-- The scan of that page passes; one of zeros fails it at its first word. -/
theorem wit_MappingAndTokenRequests_scan : ∀ k ∈ [(pierImage, true), ([], false)],
    let s := mapxPier k.1
    let r := req s
    let t := (s.scanMapping r mapxLeaf 2 1).1
    fits s 2 = true ∧ (r.a 3).toNat % 256 = 2 ∧ (r.a 3).toNat / 256 + 1 = 1 ∧ (s.mapAll r mapxLeaf .exec).isSome = true ∧
    ((s.scanMapping r mapxLeaf 2 1).2 = none ↔ k.2 = true) ∧ (k.2 = true → (t.mapAll r mapxLeaf .exec).isSome = true) := by decide +kernel
/-- UNMAP of the page at 2^36; a region there, or none. -/
theorem wit_MappingAndTokenRequests_unmap : let s := asks (3 + 2 * 2 ^ 16) [2 ^ 36, 1]
    let r := req s
    let o : State := { s with regions := [⟨0, none, 2 ^ 36, 12, .owned, .unit 0, [], 0, [], false⟩] }
    fits s 3 = true ∧ r.count = 1 ∧ r.zeroFrom 2 = true ∧ r.sub < 4 ∧ s.rangeBad r.job (r.a 0) r.lg 1 = false ∧ s.noJob r.job = false ∧
    (match s.walk r.job (2 ^ 36) with | .ok e => some e | .error _ => none) = some (0x7B, r.lg, 0x1100) ∧
    (∀ x ∈ s.regions, x.touches r.job (2 ^ 36) r.bytes = false) ∧
    (∃ x ∈ o.regions, x.touches r.job (2 ^ 36) r.bytes = true ∧ x.st ≠ .exec ∧ x.owner ≠ .host) ∧
    (let h : Region := ⟨0, none, 2 ^ 36, 12, .owned, .host, [], 0, [], false⟩
     h.touches r.job (2 ^ 36) r.bytes = true ∧ 2 ^ 36 ≤ h.base ∧ h.base + 2 ^ h.log2 ≤ 2 ^ 36 + r.bytes ∧ h.stack = [] ∧ h.shares = []) ∧
    ({ s with svc := svcLow } : State).level = 1 ∧ ({ s with svc := svcLow } : State).raising = false := by decide +kernel
theorem wit_MappingAndTokenRequests_jobs : let s := asks (6 + 1 * 2 ^ 8) []
    let r := req s
    let j := asks 7 [] fun s => { s with units := [] }
    fits s 6 = true ∧ r.zeroFrom 0 = true ∧ r.sub < 32 ∧ bt s.carve 63 = true ∧ bt (Tab.get 0 s.jobpt r.job) 63 = false ∧
    (s.alloc (8 * 2 ^ 0) (Nat.max 4096 (8 * 2 ^ 0))).isSome = true ∧ (({ s with carveNext := 2 ^ 30 } : State).alloc 8 4096).isNone = true ∧
    fits j 7 = true ∧ (req j).zeroFrom 0 = true ∧ (req j).sub = 0 ∧ j.noJob (req j).job = false ∧ j.lqs = [] ∧ j.mans = [] ∧ j.ports = [] := by decide +kernel
theorem wit_MappingAndTokenRequests_migrate : let s := asks 5 [2 ^ 36, 2 ^ 29 + 0x38] fun s => { s with regions := [⟨0, none, 2 ^ 36, 29, .owned, .tug, [], 0, [], false⟩] }
    let r := req s
    let new := 2 ^ 29 + 0x3B
    let u := asks 5 [2 ^ 36 + 2 ^ 29]
    fits s 5 = true ∧ r.zeroFrom 2 = true ∧ r.sub = 0 ∧ s.noJob r.job = false ∧ (r.a 1).toNat / 4 * 4 + 3 = new ∧ s.leafBad new 29 = false ∧ fld new 6 2 ≠ 3 ∧
    (match s.walk r.job (2 ^ 36) with | .ok e => some e | .error _ => none) = some (0x7B, 29, 0x1100) ∧ (2 ^ 36) % 2 ^ 29 = 0 ∧
    fld new 3 3 = fld 0x7B 3 3 ∧ (s.regions.filter fun y => y.touches r.job (2 ^ 36) (2 ^ 29)) = s.regions ∧ s.regions ≠ [] ∧ fits u 5 = true ∧
    (∀ x ∈ s.regions, x.owner = .tug) ∧
    (let h : State := { s with regions := [⟨0, none, 2 ^ 36, 29, .owned, .hm, [], 0, [], false⟩] }
     (∀ x ∈ h.regions, x.owner = .hm ∧ x.st = .owned ∧ x.shares = [] ∧ x.stack.length < 4) ∧ (h.healWalk r.job (2 ^ 36)).filter = [] ∧ (h.healWalk r.job (2 ^ 36)).binv = [] ∧ h.mapLevel new = false ∧ s.moving ≠ some (r.job, 2 ^ 36) ∧
      ({ s with moving := some (r.job, 2 ^ 36) } : State).moving = some (r.job, 2 ^ 36) ∧
      (match (h.healWalk r.job (2 ^ 36)).walk r.job (2 ^ 36) with | .ok e => some e | .error _ => none) = some (0x7B, 29, 0x1100)) ∧
    (({ s with regions := [] } : State).regions.filter fun y => y.touches r.job (2 ^ 36) (2 ^ 29)) = [] ∧
    (match u.walk 0 (2 ^ 36 + 2 ^ 29) with | .ok _ => none | .error e => some e) = some 0 := by decide +kernel

/-- A region of the host's, for its token forms; n is the selector. -/
def tokReq (n p : Nat) (o : Party := .host) (st : RState := .owned) (l : List Party := []) : State :=
  asks (4 + n * 2 ^ 16) [2 ^ 36, p] fun s => { s with regions := [⟨0, none, 2 ^ 36, 13, st, o, l, 0, [], false⟩] }
def tokAns (s : State) (f : TokForm) (ps : List Party := []) : Option (List W64) × Option Nat :=
  match (s.tokenHome .host 0 none (2 ^ 36) f ps).2 with | .ok l => (some l, none) | .error e => (none, some e)
theorem wit_HostTokenRequests : (∀ k ∈ [(0, 256), (1, 0), (2, 0), (3, 0), (4, 256), (5, 0), (6, 0), (6, 2 ^ 32), (7, 0), (8, 0)],
    let s := tokReq k.1 k.2
    fits s 4 = true ∧ (req s).zeroFrom 2 = true ∧ s.noJob (req s).job = false ∧ ((req s).a 0).toNat = 2 ^ 36 ∧ ((req s).a 1).toNat = k.2 ∧ (req s).sub = k.1 ∧
    (match s.translate 0 (2 ^ 36) none with | .ok l => some l | .error _ => none) = some (.hbm 0 (some 0)) ∧
    (s.region 0 none (2 ^ 36)).map Region.owner = some .host ∧ (s.backInvVa 0 (2 ^ 36) (2 ^ 13)).isNone = true) := by decide +kernel
theorem wit_HostTokenRequests_answers : tokAns (tokReq 0 256) .lend [(tokReq 0 256).party 256] = (some [], none) ∧ (tokAns (tokReq 1 0) .ret).2 ≠ none ∧
    tokAns (tokReq 1 0 .host .owned [.unit 0]) .ret = (some [], none) ∧ tokAns (tokReq 2 0) .split = (some [], none) ∧
    tokAns (tokReq 4 256) .share [(tokReq 4 256).party 256] = (some [], none) ∧ (tokAns (tokReq 5 0 .host .shared) .unshare).2 ≠ none ∧
    (tokAns (tokReq 6 0 .host .atomic) (.atom false)).2 ≠ none ∧ tokAns (tokReq 6 0) (.atom false) = (some [], none) ∧
    tokAns (tokReq 6 (2 ^ 32) .host .atomic) (.atom true) = (some [], none) ∧
    ((tokAns (tokReq 7 0) .query).1.map List.length) = some 2 ∧ (tokAns (tokReq 0 5 (.unit 0)) .lend [.nobody]).2 ≠ none ∧
    (tokAns (tokReq 3 0) .join).2 ≠ none ∧ (tokAns (tokReq 8 0) .claim).2 ≠ none := by decide +kernel

/-- A line of the region that the host holds; a region of the harbourmaster, lent by the host or not (R385). -/
theorem wit_HostTokenRequests_waits : let s := tokReq 0 256
    let h := s.healWalk 0 (2 ^ 36)
    let f : State := { h with filter := [(0, 0)], revmap := [(0, .job 0 (2 ^ 36))] }
    h.hostFlush 0 (2 ^ 36) .lend = none ∧ (f.hostFlush 0 (2 ^ 36) .lend).isSome = true ∧
    (∀ l ∈ [[Party.host], []], let t := tokReq 1 0 .hm .owned l
      (t.healWalk 0 (2 ^ 36)).hostFlush 0 (2 ^ 36) .ret = none ∧
      ((t.healWalk 0 (2 ^ 36)).region 0 none (2 ^ 36)).map (fun x => (x.lost, x.owner, decide (x.stack.head? = some .host ∧ x.shares = []))) =
        some (false, .hm, decide (l = [.host]))) ∧
    (match (tokReq 1 0 .hm .owned [.host]).tokenForm .hm 0 none (2 ^ 36) .ret [] with | .ok _ => true | .error _ => false) = true := by decide +kernel

theorem wit_HostAccessesAndRegisters : let s := asks 0 [] fun s => { s with cxlcfg := 1, svc := w64 0x1000102, binv := [(0, 0x80)] }
    let acc := fun (x : HostAcc) => match x with | .done _ => true | .refused _ => false
    s.hostPort 0 = true ∧ acc (s.hostDecide 0 0x2000 0x2000 64 .read) = true ∧ acc (s.hostDecide 0 0x2000 0x2000 4 .write) = true ∧
    acc (s.hostDecide 0 (hbmBytes - 64) (hbmBytes - 64) 64 .read) = false ∧ acc (s.hostDecide 0 (hbmBytes - 64) (hbmBytes - 64) 4 .write) = false ∧
    (s.binv.find? fun f => f.2 == 0x80) = some (0, 0x80) ∧ (s.binv.find? fun f => f.2 == 0x81) = none ∧
    (s.heal 0x2000 64).hbmRead 0x2000 64 ≠ none ∧ ([1, 2, 3, 4] : List Byte).take (64 - 0x2000 % 64) ≠ [] ∧
    acc (({ s with binv := s.binv.erase (0, 0x80) } : State).hostDecide 0 0x2000 0x2000 64 .write) = true ∧
    acc (({ s with revmap := [(2, .tug)] } : State).hostDecide 0 0x2000 0x2000 64 .write) = false ∧ (List.replicate 64 (1 : Byte)).length = 64 := by decide +kernel
theorem wit_HostAccessesAndRegisters_registers : let s := { State.reset with cxlcfg := 2, hrqbase := w64 (2 ^ 63 + 0x1004), carve := w64 (2 ^ 63 + 4), evbase := w64 (2 ^ 63) }
    let z := State.reset
    bt s.evbase 63 = true ∧ bt z.evbase 63 = false ∧ z.evHeld = [] ∧ bt s.carve 63 = true ∧ bt z.carve 63 = false ∧ bt (w64 5) 63 = false ∧
    bt (w64 (2 ^ 63)) 63 = true ∧ s.role 0 = 2 ∧ s.role 3 ≠ 2 ∧ (∀ k < 4, k ≠ 0 → bt (Tab.get 0 s.poolwin k) 63 = false) ∧
    (16 % 2 ^ 32 + 2 ^ 32 - s.hrqhead) % 2 ^ 32 ≤ 2 ^ bf s.hrqbase 0 5 ∧ 2 ^ bf s.hrqbase 0 5 < (17 % 2 ^ 32 + 2 ^ 32 - s.hrqhead) % 2 ^ 32 ∧
    4 % 8 ≠ 0 ∧ 15 < 16 ∧ 255 < 256 := by decide +kernel

/-- Berth 3 halted. -/
def halted (x : Option (Nat × Bool)) : State := docked .halted [] fun s => s.modBerth 3 fun y => { y with imgbusy := x }
theorem wit_DebuggingABerth : let s := halted none
    s.subj.berth = 3 ∧ (s.berth 3).st = .halted ∧ bt (s.berth 3).dbgctl 62 = false ∧ (s.berth 3).imgbusy = none ∧ ((docked .run).berth 3).st ≠ .halted ∧
    (∀ k ∈ [true, false], ((halted (some (0x100000, k))).berth 3).imgbusy = some (0x100000, k) ∧ ((halted (some (0x100000, k))).berth 3).st = .halted) := by
  decide +kernel

/-- Where GROUP_ISSUE halts: HALT, a step that is over, a breakpoint in the group at the PC, BKPT under BKEN. -/
theorem wit_DebuggingABerth_halts : let s := { (st fun c => c).modBerth 0 (fun y => { y with dbgctl := w64 (2 ^ 63 + 2 ^ 59), bps := [(3, w64 (2 ^ 63))] }) with agent := .issue 0 }
    let x := s.berth 0
    let u := fun n => s.modBerth 0 fun y => { y with stepping := some n }
    let k := s.modCtxAt 0 fun c => { c with pending := some ⟨0x61, 0, 0, 0⟩ }
    let bp := s.modBerth 0 fun y => { y with dbgctl := 0 }
    s.agent = .issue 0 ∧ x.st = .run ∧ s.throttled = false ∧ x.ctx.pilot = .run ∧ x.ctx.pending = none ∧ (s.teamOf x.ctx).map Man.ended = some false ∧
    bt x.dbgctl 63 = true ∧ x.stepping = none ∧ ((u 1).berth 0).stepping = some 1 ∧ ((u 2).berth 0).stepping = some 2 ∧ x.ctx.branch = none ∧
    (k.ctxAt 0).pending = some ⟨0x61, 0, 0, 0⟩ ∧ bt x.dbgctl 59 = true ∧ bt (bp.berth 0).dbgctl 63 = false ∧ (bp.berth 0).bpSkip = false ∧
    (∃ e ∈ (bp.berth 0).bps, bt e.2 63 = true ∧ 0 ≤ bf e.2 0 15 ∧ bf e.2 0 15 < (bp.berth 0).groupEnd groupFuel 0) := by decide +kernel

/-- FIPS 180-4's digest of the empty message. -/
theorem test_sha384_empty : leValue ((sha384 []).reverse) =
    0x38b060a751ac96384cd9327eb1b1e36a21fdb71114be07434c0cc7bf63f6e1da274edebfe76f65fbd51ad2f14898b95b := by decide +kernel
/-- A firmware image without a body, at 0x2000 of the host's memory. -/
def firmware (svn : Byte) : List Byte := [0x57, 0x46, 0x39, 0x5A, 1, 0, 0, 0, svn, 0, 0, 0, 0, 0, 0, 0] ++
  (leBytes 48 0x38b060a751ac96384cd9327eb1b1e36a21fdb71114be07434c0cc7bf63f6e1da274edebfe76f65fbd51ad2f14898b95b).reverse ++ List.replicate 192 0
def stages (n : Nat) (svc : Nat := 2) : State := asks 9 [0x2000, n] fun s => { s with svc := w64 svc, hmem := Memory.write zeroByte s.hmem 0x2000 (firmware 1) }
theorem wit_FirmwareRequests : let s := stages 0x100
    let r := req s
    let img := Memory.read zeroByte s.hmem (r.a 0).toNat 0x100
    let num := fun o n => leValue ((img.drop o).take n)
    fits s 9 = true ∧ r.sub = 0 ∧ r.zeroFrom 2 = true ∧ (r.a 1).toNat = 0x100 ∧ num 0 4 = 0x5A394657 ∧ num 4 4 = 1 ∧ num 0x0C 4 % 4096 = 0 ∧
    0x100 = 0x100 + num 0x0C 4 ∧ num 8 4 = 1 ∧ sha384 (img.drop 0x100) = (img.drop 0x10).take 48 ∧ fits (stages 0xFF) 9 = true ∧
    ((req (stages 0xFF)).a 1).toNat < 0x100 := by decide +kernel
theorem wit_FirmwareRequests_rest : let a := asks 8 [0x2000, 0x3000] fun s => { s with booted := some true, slotA := some ⟨3, 0, [], true⟩ }
    let c := asks 10 [] fun s => { s with booted := some true, slotA := some ⟨3, 0, [], true⟩ }
    fits a 8 = true ∧ (req a).sub = 0 ∧ (req a).zeroFrom 2 = true ∧ a.bootedFw = some ⟨3, 0, [], true⟩ ∧ (req a).addr + 0x40 ≤ 0x3000 ∧
    fits c 10 = true ∧ (req c).sub = 0 ∧ (req c).zeroFrom 0 = true ∧ c.bootedFw = some ⟨3, 0, [], true⟩ ∧
    (let r := asks 10 [] fun s => { s with svc := w64 3 }
     r.level = 3 ∧ (req r).op = 10 ∧ r.headReq = some (req r)) := by decide +kernel

-- the whole machine ---------------------------------------------------------------------------------------------------------------------------

theorem wit_StepRunsTheDecodedInstruction : let s := pier id
    let t := unit0 []
    (State.reset.withFetchWord 64 0x8000000000000000).agent = .issue 0 ∧ (State.reset.withFetchWord 64 0x8000000000000000).agenda = [] ∧
    s.agenda = [] ∧ s.agent = .pier 3 1 ∧ (s.pierFetch 3 1).map (fun w => w.toNat) = some 0 ∧
    (pier fun r => { r with kern := { r.kern with code := List.replicate 4 0x88000000 } }).pierFetch 3 1 = some 0x88000000 ∧
    decodePier (0x88000000 : W32).toNat = some .endk ∧ t.agent = .wharf 0 ∧ (t.unit 0).ring = ⟨0, 0, .host, none, true, 0⟩ :: [] ∧
    decodeWharf (0 : W64).toNat = some (.nopw W0) ∧ (landing (.depth 1)).agent = .land 0 ∧ isStep .refresh = true := by decide +kernel
/-- From reset, step runs the word that withFetchWord places: a NOP, a wharf NOPW, a pier ENDK. -/
theorem test_step_next : (∀ k ∈ [(64, 0x8000000000000000), (64, 0), (32, 0x88000000)], (match step (State.reset.withFetchWord k.1 k.2) with
    | .next _ => true | _ => false) = true) ∧
    (match step (State.reset.withFetchWord 64 (2 ^ 63 + 0x03 * 2 ^ 56 + 5 * 2 ^ 37 + 7)) with
    | .next t => some (t.ctx.flights, t.ctx.pc) | _ => none) = some ([⟨1, .sreg 5 7, false⟩], 1) := by decide +kernel
/-- The rows of spec/06 Example 6-3 that one group shows: SCAN.ZERO twice, SCAN.RESERVED, SCAN.WAW at the second word, SCAN.SLOT at the
third S word, and a mapping that ends inside a group. -/
theorem test_scan : scanCode [0x8100002106000001] = some (0, 2) ∧ scanCode [0x8180002106000000] = some (0, 2) ∧
    scanCode [0x9600000000000000] = some (0, 1) ∧ scanCode [stopNop, 0x0100000000000000 + w64 (1 * 2 ^ 37), w64 (2 ^ 63 + 0x01 * 2 ^ 56 + 1 * 2 ^ 37)] = some (2, 5) ∧
    scanCode [w64 (0x01 * 2 ^ 56 + 1 * 2 ^ 37), w64 (0x01 * 2 ^ 56 + 2 * 2 ^ 37), w64 (2 ^ 63 + 0x01 * 2 ^ 56 + 3 * 2 ^ 37)] = some (2, 3) ∧
    scanCode [stopNop, 0] = some (1, 3) ∧ scanCode [stopNop] = none := by decide +kernel
theorem wit_GroupsIssue : let s := (st (fun c => c) 0x8000000000000000)
    let x := s.berth 0
    let c := x.ctx
    s.agent = .issue 0 ∧ x.st = .run ∧ s.throttled = false ∧ c.pilot = .run ∧ c.pending = none ∧ (s.teamOf c).map Man.ended = some false ∧
    bt x.dbgctl 63 = false ∧ x.stepping = none ∧ x.bps = [] ∧ x.preempt = false ∧ x.gate = false ∧ x.replay = none ∧ c.refusals = [] ∧
    x.shadow.entries < 1024 ∧ (∀ f ∈ c.flights, f.rem ≠ 0) ∧ c.pc < x.codelen ∧ c.pc ≤ 32767 := by decide +kernel
theorem wit_GroupsIssue_word : let s := (st (fun c => c) 0x8000000000000000)
    let x := s.berth 0
    x.ctx.loading x.ctx.pc = false ∧ x.word x.ctx.pc = w64 0x8000000000000000 ∧ bt (x.word x.ctx.pc) 63 = true ∧
    decodeBerth (w64 0x8000000000000000).toNat = .ok (.nop H) ∧ (match decodeBerth (w64 0x8000000000000001).toNat with | .error _ => true | .ok _ => false) = true ∧
    (match fetchGroup x groupFuel x.ctx.pc with | .ok l => l.length | .error _ => 0) = 1 ∧
    (match fetchGroup { x with codelen := 0 } groupFuel 0 with | .error o => some o | .ok _ => none) = some 0 ∧
    (run (.nop H) s).map State.iss = some .issued ∧ (run (.lwait H 0) (st fun c => { c with ops := [{ sentOp with kind := copy8 false }] })).map State.iss = some .frozen := by
  decide +kernel
/-- What a group of one word comes to: no stop and no fault, a fault, a wait. -/
def tried (i : Instr) (g : Ctx → Ctx := id) : Option (Bool × Bool × Bool × Bool) :=
  let w := (encodeBerth i).getD 0
  let s := st g w
  let S := { s with cur := 0, subj := ⟨0, 0, 0, 0⟩ }
  match fetchGroup (s.berth 0) groupFuel 0 with
  | .error _ => none
  | .ok raw => match decodeGroup raw with
    | .error _ => none
    | .ok ws => match tryWords S ws with
      | .all l => some ((groupFault l).isSome, l.any (·.2.iss == .waiting), l.all (·.2.iss == .issued), (issueWords S ws).isSome)
      | _ => none
theorem wit_GroupsIssue_words : tried (.nop H) = some (false, false, true, true) ∧
    ((tried (.lds H 1 0 4) fun c => { c with tvec := 0x8000000000000000 }).map Prod.fst) = some true ∧
    ((tried (.sts H 1 2 0) fun c => { c with ops := [heldOp], sregs := [(2, 0x100000)], windows := [(0, ⟨true, 0, 0, 0, 0, 1, none⟩)] }).map
      fun x => (x.1, x.2.1)) = some (false, true) := by decide +kernel
theorem wit_BerthEncoding : wordHead (.vld H r1 63 7 .w8 (2 ^ 21 - 1)) = some H ∧ (Instr.vld H r1 63 7 .w8 (2 ^ 21 - 1)).wf = true ∧
    wordHead (.add G1 63 63 63) = some G1 ∧ (Instr.add G1 63 63 63).wf = true := by decide
theorem wit_PierAndWharfEncoding : (Instr.fst 15 15 15).wf = true ∧ pierHead (.fst 15 15 15) = true ∧ wharfHead (.fst 15 15 15) = none ∧
    (Instr.topkv ⟨.sub, 63, true, 63⟩ 63 63 63 1023).wf = true ∧
    wharfHead (.topkv ⟨.sub, 63, true, 63⟩ 63 63 63 1023) = some ⟨.sub, 63, true, 63⟩ ∧ pierHead (.topkv ⟨.sub, 63, true, 63⟩ 63 63 63 1023) = false := by decide
theorem wit_MemoryStaysCanonical : State.reset.memOk = true ∧ (State.reset.withFetchWord 64 0x8000000000000000).memOk = true ∧
    (match step (State.reset.withFetchWord 64 0x8000000000000000) with | .next _ => true | _ => false) = true := by decide +kernel
theorem wit_BerthWordFrame : wordHead (.layset H 1 2) = some H ∧ (run (.layset H 1 2) (sr [(1, 0xFFFC0), (2, 0xFFFF)])).isSome = true ∧
    wordHead (.wswap H .single) = some H ∧ (run (.wswap H .single) (sr [])).isSome = true ∧ Memory.wf zeroByte (sr []).hmem = true := by decide +kernel
/-- An access of the own export that meets a lost record, and a fault without a handler, which ends the team. -/
theorem wit_BerthWordFrame_ends : let s := st fun c => { c with spexp := 0x09000000, sregs := [(1, 8)] }
    let l : State := { s with regions := [⟨0, some s.ctx.self, 0, 9, .owned, s.ctx.self, [], 0, [], true⟩] }
    (run (.lds H 2 1 0) l).map (fun t => (t.iss, t.regions.map Region.st)) = some (.trapped none, [.quarantined]) ∧ l.ctx.tvec.getLsbD 63 = false ∧
    wordHead (.lds H 2 1 0) = some H := by decide +kernel

end Sys2Proof.Tests
end

section
/-! SUPPORT. The event log, and a trap at a boundary: entry of the handler, or the end of the team (spec/23 R335, R336, R351, R354). -/

namespace Sys2Proof.Machine
open Sys2Proof

-- the log ---------------------------------------------------------------------------------------------------------------

theorem EvRec.bytes_length (r : EvRec) : r.bytes.length = 32 := by simp [EvRec.bytes, leBytes_length]

/-- One byte read outside of what a write covers. -/
theorem Memory.read_one_write_outside (u : Nat → Byte) (m : Memory) (a b : Nat) (bs : List Byte) (h : b < a ∨ a + bs.length ≤ b) :
    Memory.read u (Memory.write u m a bs) b 1 = Memory.read u m b 1 := by
  simp [Memory.read, Memory.get_write_outside u bs m a b h]

/-- An event is logged as its record says. -/
theorem logged_event (s : State) (src code : Nat) (job : Option Nat) (d : W64) :
    s.logged (s.event src code job d) ⟨src, (Tab.get 0 s.evSeq src + 1) % 2 ^ 32, s.time, code, job, d⟩ := by
  by_cases hen : s.evbase.getLsbD 63 = true
  · by_cases hroom : (s.evtail + 1 + 2 ^ 32 - s.evhead) % 2 ^ 32 ≤ 2 ^ bf s.evbase 0 5
    · have hr := Memory.read_write zeroByte (EvRec.bytes ⟨src, (Tab.get 0 s.evSeq src + 1) % 2 ^ 32, s.time, code, job, d⟩)
        s.hmem s.evSlot
      rw [EvRec.bytes_length] at hr
      simp only [State.event, bt, hen, if_true, State.evPut, Nat.not_lt.2 hroom, if_false]
      refine ⟨fun _ _ => ⟨hr, rfl, fun a ha => ?_, rfl, rfl⟩, fun h => absurd ⟨hen, hroom⟩ h⟩
      exact Memory.read_one_write_outside _ _ _ _ _ (by rw [EvRec.bytes_length]; exact ha)
    · simp only [State.event, bt, hen, if_true, State.evPut, Nat.not_le.1 hroom]
      exact ⟨fun _ h => absurd h hroom, fun _ => by simp [hen]⟩
  · have hb : bt s.evbase 63 = false := by rw [bt]; exact Bool.eq_false_iff.2 hen
    refine ⟨fun h => absurd h hen, fun _ => ?_⟩
    simp only [State.event, hb, Bool.false_eq_true, if_false]
    by_cases hheld : s.evOnce = false ∧ s.evHeld.length < 256
    · have hn : (!s.evOnce && decide (s.evHeld.length < 256)) = true := by simp [hheld]
      rw [if_pos hn, if_pos ⟨hb, hheld⟩, if_pos ⟨hb, hheld⟩]
      exact ⟨rfl, rfl, rfl, rfl, rfl⟩
    · have hn : ¬ (!s.evOnce && decide (s.evHeld.length < 256)) = true := by simpa using hheld
      rw [if_neg hn, if_neg fun h => hheld h.2, if_neg fun h => hheld h.2]
      exact ⟨rfl, rfl, rfl, rfl, rfl⟩

/-- What is logged changes host memory in the record's slot alone. -/
theorem evOrKeep_of_logged {s t : State} {r : EvRec} (h : s.logged t r) : s.evOrKeep t := by
  obtain ⟨hput, hkeep⟩ := h
  refine ⟨fun a ha => ?_, fun hn => ?_⟩
  · by_cases hc : s.evbase.getLsbD 63 = true ∧ (s.evtail + 1 + 2 ^ 32 - s.evhead) % 2 ^ 32 ≤ 2 ^ bf s.evbase 0 5
    · obtain ⟨-, -, hout, -⟩ := hput hc.1 hc.2
      exact hout a ha
    · rw [(hkeep hc).1]
  · obtain ⟨hm, ht, hi, -⟩ := hkeep hn
    exact ⟨hm, ht, hi⟩

theorem evOrKeep_refl (s : State) : s.evOrKeep s := ⟨fun _ _ => rfl, fun _ => ⟨rfl, rfl, rfl⟩⟩

/-- t has what the log reads and writes as s has it. -/
def State.sameLog (s t : State) : Prop :=
  t.evbase = s.evbase ∧ t.evtail = s.evtail ∧ t.evhead = s.evhead ∧ t.evOnce = s.evOnce ∧ t.evHeld = s.evHeld ∧ t.lost = s.lost ∧
  t.hmem = s.hmem ∧ t.msi = s.msi

theorem sameLog_refl (s : State) : s.sameLog s := ⟨rfl, rfl, rfl, rfl, rfl, rfl, rfl, rfl⟩
theorem sameLog_iss (s : State) (i : Iss) : s.sameLog { s with iss := i } := ⟨rfl, rfl, rfl, rfl, rfl, rfl, rfl, rfl⟩
theorem sameLog_regions (s : State) (l : List Region) : s.sameLog { s with regions := l } := ⟨rfl, rfl, rfl, rfl, rfl, rfl, rfl, rfl⟩
theorem sameLog_modBerth (s : State) (b : Nat) (f : Berth → Berth) : s.sameLog (s.modBerth b f) :=
  ⟨rfl, rfl, rfl, rfl, rfl, rfl, rfl, rfl⟩

/-- What two states that agree on the log have is passed on to a third. -/
theorem sameLog_trans {s t u : State} (h : s.sameLog t) (k : t.sameLog u) : s.sameLog u := by
  obtain ⟨h1, h2, h3, h4, h5, h6, h7, h8⟩ := h
  obtain ⟨k1, k2, k3, k4, k5, k6, k7, k8⟩ := k
  exact ⟨k1.trans h1, k2.trans h2, k3.trans h3, k4.trans h4, k5.trans h5, k6.trans h6, k7.trans h7, k8.trans h8⟩

theorem sameLog_symm {s t : State} (h : s.sameLog t) : t.sameLog s := by
  obtain ⟨h1, h2, h3, h4, h5, h6, h7, h8⟩ := h
  exact ⟨h1.symm, h2.symm, h3.symm, h4.symm, h5.symm, h6.symm, h7.symm, h8.symm⟩

/-- Whether a record has been logged depends on the log alone. -/
theorem logged_of_sameLog {s s' t t' : State} {r : EvRec} (h : s.logged t r) (hs : s.sameLog s') (ht : t.sameLog t') :
    s'.logged t' r := by
  obtain ⟨h1, h2, h3, h4, h5, h6, h7, h8⟩ := hs
  obtain ⟨-, k2, -, -, k5, k6, k7, k8⟩ := ht
  simp only [State.logged, State.evSlot, h1, h2, h3, h4, h5, h6, h7, h8, k2, k5, k6, k7, k8]
  exact h

@[simp] theorem berth_event (s : State) (src code : Nat) (job : Option Nat) (d : W64) (b : Nat) :
    (s.event src code job d).berth b = s.berth b := by simp [State.berth]
@[simp] theorem man_event (s : State) (src code : Nat) (job : Option Nat) (d : W64) (i : Nat) :
    (s.event src code job d).man i = s.man i := by simp [State.man]

-- manifests -------------------------------------------------------------------------------------------------------------

/-- A manifest read after an update of one that keeps its number. -/
theorem man_modMan (s : State) (i j : Nat) (f : Man → Man) (hf : ∀ m, (f m).id = m.id) :
    (s.modMan i f).man j = (s.man j).map fun m => if m.id = i then f m else m := by
  have hid : ∀ m : Man, (if m.id = i then f m else m).id = m.id := fun m => by split <;> simp [hf]
  simp only [State.man, State.modMan, List.find?_map, Function.comp_def, hid]

theorem man_id {s : State} {i : Nat} {m : Man} (h : s.man i = some m) : m.id = i := by
  simpa using List.find?_some h

/-- The manifest that is updated. -/
theorem man_modMan_same {s : State} {i : Nat} {m : Man} (f : Man → Man) (hf : ∀ m, (f m).id = m.id) (h : s.man i = some m) :
    (s.modMan i f).man i = some (f m) := by simp [man_modMan s i i f hf, h, man_id h]

/-- Every other manifest. -/
theorem man_modMan_ne (s : State) {i j : Nat} (f : Man → Man) (hf : ∀ m, (f m).id = m.id) (h : j ≠ i) :
    (s.modMan i f).man j = s.man j := by
  rw [man_modMan s i j f hf]
  cases hm : s.man j with
  | none => rfl
  | some m => simp [man_id hm, h]

-- traps -----------------------------------------------------------------------------------------------------------------

/-- A read of a table whose entries have all been changed by a function that keeps what unlisted keys hold. -/
theorem Tab.get_map {α β : Type} (z : α) (w : β) (t : Tab α) (f : α → β) (h : f z = w) (i : Nat) :
    Tab.get w (t.map fun e => (e.1, f e.2)) i = f (Tab.get z t i) := by
  induction t with
  | nil => simp [Tab.get, h]
  | cons p t ih => simp only [List.map_cons, Tab.get]; split <;> simp_all

/-- No slot of a ring goes on filling once its publications are held. -/
theorem holdPubs_slot_filling (r : Ring) (i : Nat) : ((holdPubs r).slot i).filling = none := by
  simp only [Ring.slot, holdPubs]
  rw [Tab.get_map Slot.empty Slot.empty r.slots (fun x => { x with filling := none }) rfl]

/-- The handler's rings have no publication that counts (spec/23 R335). -/
theorem ring_enterTrap_filling (c : Ctx) (t : TrapInfo) (q i : Nat) : (((c.enterTrap t).ring q).slot i).filling = none := by
  have h : (c.enterTrap t).ring q = holdPubs (c.ring q) := Tab.get_map Ring.none Ring.none c.rings holdPubs rfl q
  rw [h, holdPubs_slot_filling]

@[simp] theorem berths_loseOwn (s : State) (t : TrapInfo) : (s.loseOwn t).berths = s.berths := by rw [loseOwn_frame]
@[simp] theorem cur_loseOwn (s : State) (t : TrapInfo) : (s.loseOwn t).cur = s.cur := by rw [loseOwn_frame]
@[simp] theorem mans_loseOwn (s : State) (t : TrapInfo) : (s.loseOwn t).mans = s.mans := by rw [loseOwn_frame]
@[simp] theorem time_loseOwn (s : State) (t : TrapInfo) : (s.loseOwn t).time = s.time := by rw [loseOwn_frame]
@[simp] theorem berth_loseOwn (s : State) (t : TrapInfo) (b : Nat) : (s.loseOwn t).berth b = s.berth b := by simp [State.berth]
@[simp] theorem ctx_loseOwn (s : State) (t : TrapInfo) : (s.loseOwn t).ctx = s.ctx := by simp [State.ctx, State.ctxAt]
@[simp] theorem man_loseOwn (s : State) (t : TrapInfo) (i : Nat) : (s.loseOwn t).man i = s.man i := by simp [State.man]
@[simp] theorem ctx_iss (s : State) (i : Iss) : ({ s with iss := i } : State).ctx = s.ctx := rfl
@[simp] theorem berth_iss (s : State) (i : Iss) (b : Nat) : ({ s with iss := i } : State).berth b = s.berth b := rfl

/-- A lost record that a fault meets: its region alone is QUARANTINED, and that is logged (spec/23 R351). -/
theorem loseOwn_lost {s : State} {t : TrapInfo} {g : Region} (hc : t.code = 0x24)
    (hg : (s.regions.filter fun r => r.lost && r.exporter == some s.ctx.self && decide (t.addr.toNat < r.base + 2 ^ r.log2)) = [g]) :
    s.loseOwn t = ({ s with regions := s.regions.map fun x => if x = g then { x with lost := false, st := .quarantined } else x }).event
      srcHm 0x75 (some g.job) (w64 g.base) := by
  rw [State.loseOwn, if_neg (by simp [hc, fcTokenLost]), hg]; rfl

/-- That it is QUARANTINED is logged. -/
theorem logged_loseOwn {s : State} {t : TrapInfo} {g : Region} (hc : t.code = 0x24)
    (hg : (s.regions.filter fun r => r.lost && r.exporter == some s.ctx.self && decide (t.addr.toNat < r.base + 2 ^ r.log2)) = [g]) :
    s.logged (s.loseOwn t) ⟨srcHm, (Tab.get 0 s.evSeq srcHm + 1) % 2 ^ 32, s.time, 0x75, some g.job, w64 g.base⟩ := by
  rw [loseOwn_lost hc hg]
  generalize s.regions.map _ = l
  exact logged_of_sameLog (logged_event { s with regions := l } _ _ _ _) (sameLog_symm (sameLog_regions s l)) (sameLog_refl _)

/-- A lost record changes host memory in its own event's slot alone. -/
theorem evOrKeep_loseOwn (s : State) (t : TrapInfo) : s.evOrKeep (s.loseOwn t) := by
  simp only [State.loseOwn]
  split
  · exact evOrKeep_refl s
  · split
    · exact evOrKeep_refl s
    · exact evOrKeep_of_logged (logged_of_sameLog (logged_event _ _ _ _ _) (sameLog_symm (sameLog_regions s _)) (sameLog_refl _))

/-- Trap entry as a word's fault brings it about: the running context alone changes (spec/23 R335). -/
theorem trapped_handled {s : State} (code : Nat) (addr : W64) (hen : s.ctx.tvec.getLsbD 63 = true) (hs : s.ctx.hs = false) :
    s.trapped code addr = { (s.loseOwn ⟨code, addr, 0, 0⟩).modBerth s.cur fun x =>
      { x with bpSkip := false, ctx := x.ctx.enterTrap ⟨code, addr, 0, 0⟩ } with iss := .trapped none } := by
  rw [State.trapped, takeTrap_handled (by simpa [bt] using hen) (by simpa using hs), cur_loseOwn]

theorem berth_trapped_handled {s : State} (code : Nat) (addr : W64) (hen : s.ctx.tvec.getLsbD 63 = true) (hs : s.ctx.hs = false)
    (b : Nat) : (s.trapped code addr).berth b =
      if b = s.cur then { s.berth s.cur with bpSkip := false, ctx := s.ctx.enterTrap ⟨code, addr, 0, 0⟩ } else s.berth b := by
  rw [trapped_handled code addr hen hs, berth_iss, berth_modBerth]
  simp [State.ctx, State.ctxAt]

theorem ctx_trapped_handled {s : State} (code : Nat) (addr : W64) (hen : s.ctx.tvec.getLsbD 63 = true) (hs : s.ctx.hs = false) :
    (s.trapped code addr).ctx = s.ctx.enterTrap ⟨code, addr, 0, 0⟩ := by
  have hcur : (s.trapped code addr).cur = s.cur := by rw [trapped_handled code addr hen hs]; simp
  rw [State.ctx, State.ctxAt, hcur, berth_trapped_handled code addr hen hs]
  simp

/-- A word's fault leaves the device alone, but for what a lost record brings about (spec/23 R335, R336, R351). -/
theorem trapped_keepsDevice (s : State) (code : Nat) (addr : W64) : (s.loseOwn ⟨code, addr, 0, 0⟩).keepsDevice (s.trapped code addr) := by
  have h := takeTrap_keepsDevice (s.loseOwn ⟨code, addr, 0, 0⟩) ⟨code, addr, 0, 0⟩
  rw [State.trapped]
  generalize State.takeTrap _ _ = t at h ⊢
  rw [State.keepsDevice] at h ⊢
  rw [h]

-- the end of a team -------------------------------------------------------------------------------------------------------

theorem Berth.ctx_endNow (x : Berth) : x.endNow.ctx = x.ctx := by unfold Berth.endNow; split <;> rfl

/-- The manifest of a team that ends takes the code; the first code stays. -/
theorem man_endTeam (s : State) (t code j : Nat) : (s.endTeam t code).man j =
    (s.man j).map fun m => if m.id = t then (if m.ended then m else { m with ended := true, code := code }) else m :=
  man_modMan s t j _ fun m => by split <;> rfl

/-- The berth-threads of a team that ends go on to their end, and no other berth changes. -/
theorem berth_endTeam (s : State) (t code b : Nat) : (s.endTeam t code).berth b =
    if (s.berth b).placed ∧ (s.berth b).ctx.team = t then (s.berth b).endNow else s.berth b := by
  have h := Tab.get_map Berth.idle Berth.idle s.berths (fun x => if x.placed && x.ctx.team == t then x.endNow else x) rfl b
  exact h.trans (if_congr (by simp [State.berth]) rfl rfl)

/-- The state in which a fault without a handler ends the team, before its event is logged (spec/23 R336). -/
def State.teamEnding (s : State) (code : Nat) : State :=
  (s.modCtx fun c => { c with pending := none }).endTeam s.ctx.team (if s.ctx.hs then 0x64 else code)

theorem takeTrap_unhandled {s : State} (t : TrapInfo) (h : s.ctx.tvec.getLsbD 63 = false ∨ s.ctx.hs = true) :
    s.takeTrap t = (s.teamEnding t.code).event (srcBerth s.cur) (if s.ctx.hs then 0x64 else t.code) (some s.job)
      (w64 (t.code % 256 + s.ctx.pc % 32768 * 256 + t.addr.toNat % 2 ^ 32 * 2 ^ 32)) := by
  have hn : (bt s.ctx.tvec 63 && !s.ctx.hs) = false := by rcases h with h | h <;> simp only [bt, h, Bool.false_and, Bool.not_true, Bool.and_false]
  rw [State.takeTrap]
  simp only [hn, Bool.false_eq_true, if_false]
  rfl

/-- No team ends but the running one. -/
theorem man_teamEnding (s : State) (code j : Nat) : (s.teamEnding code).man j = (s.man j).map fun m =>
    if m.id = s.ctx.team then (if m.ended then m else { m with ended := true, code := if s.ctx.hs then 0x64 else code }) else m :=
  man_endTeam _ _ _ _

/-- The berths of a team that a fault ends, where no TRAP or BKPT is pending. -/
theorem berth_teamEnding {s : State} (code : Nat) (hp : s.ctx.pending = none) (b : Nat) : (s.teamEnding code).berth b =
    if (s.berth b).placed ∧ (s.berth b).ctx.team = s.ctx.team then (s.berth b).endNow else s.berth b := by
  have hsame : (s.modCtx fun c => { c with pending := none }).berth b = s.berth b := by
    have hx : { (s.berth s.cur).ctx with pending := none } = (s.berth s.cur).ctx := by rw [← hp]; rfl
    by_cases hb : b = s.cur <;> simp [State.modCtx, State.modCtxAt, hb, hx]
  rw [State.teamEnding, berth_endTeam, hsame]

theorem sameLog_endTeam (s : State) (t code : Nat) : s.sameLog (s.endTeam t code) := ⟨rfl, rfl, rfl, rfl, rfl, rfl, rfl, rfl⟩

theorem sameLog_teamEnding (s : State) (code : Nat) : s.sameLog (s.teamEnding code) :=
  sameLog_trans (sameLog_modBerth _ _ _) (sameLog_endTeam _ _ _)

/-- A fault without a handler as a word brings it about (spec/23 R336). -/
theorem trapped_unhandled {s : State} {code : Nat} (addr : W64) {m : Man} (h : s.ctx.tvec.getLsbD 63 = false ∨ s.ctx.hs = true)
    (hcode : code < 256) (hpc : s.ctx.pc < 32768) (hm : s.man s.ctx.team = some m) :
    s.trapped code addr = { ((s.loseOwn ⟨code, addr, 0, 0⟩).teamEnding code).event (srcBerth s.cur)
      (if s.ctx.hs then 0x64 else code) (some m.job) (w64 (code + s.ctx.pc * 2 ^ 8 + addr.toNat % 2 ^ 32 * 2 ^ 32))
      with iss := .trapped none } := by
  have hjob : (s.loseOwn ⟨code, addr, 0, 0⟩).job = m.job := by
    simp [State.job, State.jobAt, State.ctxAt, show s.man (s.berth s.cur).ctx.team = some m from hm]
  rw [State.trapped, takeTrap_unhandled _ (by simpa using h), hjob]
  simp [Nat.mod_eq_of_lt hcode, Nat.mod_eq_of_lt hpc]

/-- Such a fault is logged, after a lost record's event. -/
theorem logged_trapped_unhandled {s : State} {code : Nat} (addr : W64) {m : Man}
    (h : s.ctx.tvec.getLsbD 63 = false ∨ s.ctx.hs = true) (hcode : code < 256) (hpc : s.ctx.pc < 32768)
    (hm : s.man s.ctx.team = some m) : let u := s.loseOwn ⟨code, addr, 0, 0⟩
    u.logged (s.trapped code addr) ⟨srcBerth s.cur, (Tab.get 0 u.evSeq (srcBerth s.cur) + 1) % 2 ^ 32, s.time,
      if s.ctx.hs then 0x64 else code, some m.job, w64 (code + s.ctx.pc * 2 ^ 8 + addr.toNat % 2 ^ 32 * 2 ^ 32)⟩ := by
  rw [trapped_unhandled addr h hcode hpc hm, ← time_loseOwn s ⟨code, addr, 0, 0⟩]
  generalize s.loseOwn _ = u
  exact logged_of_sameLog (logged_event (u.teamEnding code) _ _ _ _) (sameLog_symm (sameLog_teamEnding u code)) (sameLog_iss _ _)

/-- What entry of the handler makes of the running context, and of the device (spec/23 R335). -/
theorem regions_trapped_handled {s : State} (code : Nat) (addr : W64) (hen : s.ctx.tvec.getLsbD 63 = true) (hs : s.ctx.hs = false) :
    (s.trapped code addr).regions = (s.loseOwn ⟨code, addr, 0, 0⟩).regions := by rw [trapped_handled code addr hen hs]; rfl

theorem sameLog_trapped_handled {s : State} (code : Nat) (addr : W64) (hen : s.ctx.tvec.getLsbD 63 = true) (hs : s.ctx.hs = false) :
    (s.loseOwn ⟨code, addr, 0, 0⟩).sameLog (s.trapped code addr) := by
  rw [trapped_handled code addr hen hs]
  exact sameLog_trans (sameLog_modBerth _ _ _) (sameLog_iss _ _)

/-- Settles O8: entry of the handler changes the running context alone, and a fault without a handler ends its team and logs an event;
a lost record of the own export is quarantined before either. -/
theorem trapEntryOrTeamEnd : Obligations.TrapEntryOrTeamEnd := by
  refine ⟨fun s code addr hen hs hcode hpc => ?_, fun s code addr m hcode hpc hpend hm hended hno _ => ?_⟩
  · have hb := berth_trapped_handled code addr hen hs
    simp only [ctx_trapped_handled code addr hen hs]
    refine ⟨?tcause, ?tpc, rfl, rfl, rfl, ?pc, rfl, rfl, rfl, rfl, ring_enterTrap_filling s.ctx _, ?own, rfl,
      fun b hb' => by rw [hb, if_neg hb'], ?device, fun h => loseOwn_of_ne h, fun g hc hg _ => ⟨?region, ?logged⟩⟩
    case tcause => simp [Ctx.enterTrap, Nat.mod_eq_of_lt hcode]
    case tpc => simp [Ctx.enterTrap, Ctx.atBoundary, Ctx.abandonLoads, Nat.mod_eq_of_lt hpc]
    case pc => simp [Ctx.enterTrap, Ctx.atBoundary, Ctx.abandonLoads, bf, fld]
    case own => rw [hb, if_pos rfl]
    case device =>
      rw [trapped_handled code addr hen hs]
      rfl
    case region => rw [regions_trapped_handled code addr hen hs, loseOwn_lost hc hg, regions_event]
    case logged => exact logged_of_sameLog (logged_loseOwn hc hg) (sameLog_refl s) (sameLog_trapped_handled code addr hen hs)
  · have ht := trapped_unhandled addr hno hcode hpc hm
    have hman : ∀ j, (s.trapped code addr).man j = (s.man j).map fun m => if m.id = s.ctx.team then
        (if m.ended then m else { m with ended := true, code := if s.ctx.hs then 0x64 else code }) else m := fun j => by
      rw [ht]; exact (man_event ..).trans (by rw [man_teamEnding]; simp)
    have hber : ∀ b, (s.trapped code addr).berth b =
        if (s.berth b).placed ∧ (s.berth b).ctx.team = s.ctx.team then (s.berth b).endNow else s.berth b := fun b => by
      rw [ht, berth_iss, berth_event, berth_teamEnding code (by simpa using hpend)]; simp
    refine ⟨?own, fun j hj => ?other, hber, fun b => ?ctx, logged_trapped_unhandled addr hno hcode hpc hm,
      trapped_keepsDevice s code addr, fun h => loseOwn_of_ne h, evOrKeep_loseOwn s _⟩
    case own => rw [hman, hm]; simp [man_id hm, hended]
    case other =>
      rw [hman]
      cases hk : s.man j with
      | none => rfl
      | some k => simp [man_id hk, hj]
    case ctx =>
      rw [State.ctxAt, hber]
      split
      · exact Berth.ctx_endNow _
      · rfl

end Sys2Proof.Machine
end

section
/-! SUPPORT. What reset leaves, and a berth-thread at its start. -/

namespace Sys2Proof.Machine
open Sys2Proof

@[simp] theorem berth_reset (b : Nat) : State.reset.berth b = Berth.idle := rfl
@[simp] theorem lq_reset (q : Nat) : State.reset.lq q = LQ.reset := rfl
@[simp] theorem unit_reset (u : Nat) : State.reset.unit u = WUnit.reset := rfl

/-- The lane masks at the start: k0 is all ones, the others are clear (spec/03 R38). -/
theorem kmask_start (k : Nat) : Ctx.start.kmask k = if k = 0 then BitVec.allOnes 512 else 0 := rfl

/-- Settles O56: no table lists a key at reset, so each register reads as its value at reset. -/
theorem resetState : Obligations.ResetState := by
  refine ⟨rfl, rfl, fun b => rfl, fun n => ⟨rfl, rfl, rfl, rfl, rfl, rfl, rfl, rfl⟩, fun u => ?units, fun b => ?berths,
    rfl, rfl, rfl, rfl, rfl, rfl, rfl, rfl, rfl, rfl, rfl, rfl, rfl, ?start⟩
  case units => rw [unit_reset]; exact ⟨rfl, rfl, rfl, rfl, rfl⟩
  case berths => rw [berth_reset]; exact ⟨rfl, rfl, rfl⟩
  case start =>
    refine ⟨fun l => rfl, fun k hk => ?_, rfl, rfl, rfl, rfl, rfl, rfl, rfl, rfl, rfl, fun k r n => rfl, rfl, fun a => rfl, rfl, rfl,
      rfl, rfl, rfl, rfl, rfl, rfl, rfl, rfl, fun n => rfl⟩
    rw [kmask_start, if_neg hk]

end Sys2Proof.Machine
end

section
/-! SUPPORT. PHASE, FENCE, PFENCE and EXIT at issue (spec/11 R172-R174, R180). -/

namespace Sys2Proof.Machine
open Sys2Proof

theorem exec_phase (h : Hd) (l : Nat) (s : State) : exec (.phase h l) s = execPhase h l s := rfl
theorem exec_fence (h : Hd) (ma mb : Nat) (s : State) : exec (.fence h ma mb) s = execFence h ma mb s := rfl
theorem exec_pfence (h : Hd) (die : Bool) (s : State) : exec (.pfence h die) s = execPfence h die s := rfl
theorem exec_exit (h : Hd) (s : State) : exec (.exit h) s = execExit h s := rfl

/-- A fault at issue, as its word ends. -/
theorem issue_flt {h : Hd} {v : State → Verdict} {eff : State → State} {s : State} {code : Nat} {addr : W64}
    (hg : s.ctx.guard h = true) (hv : v s = flt code addr) : issue h v eff s = .next (s.trapped code addr) := issue_trap hg hv

@[simp] theorem ctx_modCtx (s : State) (f : Ctx → Ctx) : (s.modCtx f).ctx = f s.ctx := by
  simp [State.ctx, State.ctxAt, State.modCtx, State.modCtxAt]

theorem nlev_eq {s : State} {m : Man} (hm : s.man s.ctx.team = some m) : s.nlev = m.nlev := by
  simp [State.nlev, State.teamOf, hm]

/-- PHASE of a level that the team has passes its check of the level. -/
theorem phase_level_ok {s : State} {m : Man} {l : Nat} {k : Verdict} (hm : s.man s.ctx.team = some m) (hl : l < m.nlev) :
    Verdict.of [chk (decide (s.nlev ≤ l)) fcBound (w64 l)] k = k := by
  refine verdict_of_none ?_
  rw [nlev_eq hm, decide_eq_false (Nat.not_le.2 hl)]
  rfl

/-- A word that changes its own context and wants a persist of the boundary after its group. -/
theorem issuedAs_wantPersist (s : State) (f : Ctx → Ctx) :
    s.issuedAs { (s.modCtx f).wantPersist with iss := .issued } (f s.ctx) 0 true := by
  have hframe : ∀ u : State, (∃ l, u = { s with berths := l }) →
      ({ u with iss := .issued } : State) = { s with berths := u.berths, iss := .issued, nextId := s.nextId + 0 } := by
    rintro u ⟨l, rfl⟩
    rfl
  refine ⟨hframe _ ⟨_, rfl⟩, fun b hb => ?_, ?_⟩
  · rw [berth_iss, State.wantPersist, cur_modCtx, berth_modBerth, if_neg hb, State.modCtx, State.modCtxAt, berth_modBerth, if_neg hb]
  · rw [berth_iss, State.wantPersist, cur_modCtx, berth_modBerth, if_pos rfl, State.modCtx, State.modCtxAt, berth_modBerth, if_pos rfl,
      Bool.or_true]
    rfl

/-- The context after a PHASE that completes (R172, spec/09 R134). -/
def Ctx.phased (l : Nat) (c : Ctx) : Ctx :=
  { c with phases := c.phases + 1, epochs := if l = 0 then c.epochs else Tab.upd 0 c.epochs l (· + 1) }

/-- A PHASE that completes outside the window of GRACE. -/
theorem phaseDone_eq {s : State} {m : Man} (l : Nat) (hm : s.man s.ctx.team = some m) (hg : m.grace = none) :
    s.phaseDone l = (s.modCtx (Ctx.phased l)).wantPersist := by
  have hteam : (s.modCtx (Ctx.phased l)).wantPersist.ctx.team = s.ctx.team := by
    simp [State.wantPersist, State.modCtx, State.modCtxAt, State.ctx, State.ctxAt, Ctx.phased]
  have hgrace : ((s.modCtx (Ctx.phased l)).wantPersist.teamOf (s.modCtx (Ctx.phased l)).wantPersist.ctx).bind Man.grace = none := by
    rw [State.teamOf, hteam, show (s.modCtx (Ctx.phased l)).wantPersist.man s.ctx.team = some m from hm]
    exact hg
  exact if_neg fun h => Bool.false_ne_true (by rwa [← Option.isSome_none (α := Nat), ← hgrace])

/-- Where every write has settled, no token form's outcome is open. -/
theorem unruled_of_writesSettled {s : State} (h : s.writesSettled = true) : s.ctx.ops.any Op.unruled = false := by
  rw [List.any_eq_false]
  intro o ho hu
  have hs := List.all_eq_true.1 h o ho
  unfold Op.unruled at hu
  split at hu
  · rename_i r hk
    simp only [Op.settled, Op.writes, hk, hu] at hs
    exact absurd hs (by decide)
  · exact absurd hu (by decide)

/-- The verdict of PHASE above level 0 once every write of the berth-thread has settled and no store is in flight (R172). -/
theorem phaseVerdict_barrier {s : State} {m : Man} {l : Nat} (hl : 0 < l) (hp : (s.berth s.cur).persistBusy = false)
    (hm : s.man s.ctx.team = some m) (hw : s.writesSettled = true) (hs : s.ctx.storing = false) :
    let e := Tab.get 0 s.ctx.epochs l
    let x := m.barrier l (m.inst l s.ctx.rank) e
    s.phaseVerdict l = if x.done then .go else if x.lost then flt 0x25 0
      else .freeze (s.modMan s.ctx.team fun m => m.arrive l s.ctx.rank e) := by
  simp only [State.phaseVerdict, hp, unruled_of_writesSettled hw, hs, hw, Nat.ne_of_gt hl, State.teamOf, hm]
  rfl

/-- FENCE with a mask that is 0 (R173). -/
theorem exec_fence_nothing {h : Hd} {ma mb : Nat} {s : State} (hg : s.ctx.guard h = true) (h0 : ma = 0 ∨ mb = 0) :
    exec (.fence h ma mb) s = .next (s.withCtx s.ctx) := by
  rw [exec_fence, execFence, issue_go hg (if_pos h0), modCtx_issued, if_pos (or_assoc.1 (.inl h0))]

/-- FENCE once the accesses outside the berth that it names are performed (R144, R173). -/
theorem exec_fence_done {h : Hd} {ma mb : Nat} {s : State} (hg : s.ctx.guard h = true) (hh : s.ctx.holding = false)
    (hf : s.fenceDone ma = true) (ha : ma ≠ 0) (hb : mb ≠ 0) : exec (.fence h ma mb) s = .next (s.withCtx
      (if s.ctx.drainTime ma = 0 then s.ctx else { s.ctx with fences := s.ctx.fences ++ [(s.ctx.drainTime ma, mb)] })) := by
  rw [exec_fence, execFence, issue_go hg (by simp [ha, hb, freezeIf, hh, hf]), modCtx_issued]
  simp only [ha, hb, false_or]

theorem exec_fence_waits {h : Hd} {ma mb : Nat} {s : State} (hg : s.ctx.guard h = true) (hh : s.ctx.holding = false)
    (hf : s.fenceDone ma = false) (ha : ma ≠ 0) (hb : mb ≠ 0) : exec (.fence h ma mb) s = .next s.frozen := by
  rw [exec_fence, execFence, issue_freeze hg (u := s) (by simp [ha, hb, freezeIf, hh, hf]), State.frozen]

/-- PFENCE once its persist is complete (R174). -/
theorem exec_pfence_done {h : Hd} {die : Bool} {s : State} (hg : s.ctx.guard h = true) (hh : s.ctx.holding = false)
    (hd : s.ctx.persisted = true) :
    exec (.pfence h die) s = .next (s.withCtx { s.ctx with persisting := false, persisted := false }) := by
  rw [exec_pfence, execPfence, issue_go hg (by simp [hh, hd]), modCtx_issued]

/-- PFENCE first begins its persist (R174). -/
theorem exec_pfence_begins {h : Hd} {die : Bool} {s : State} (hg : s.ctx.guard h = true) (hh : s.ctx.holding = false)
    (hp : (s.berth s.cur).persistBusy = false) (hd : s.ctx.persisted = false) (hs : s.ctx.persisting = false) :
    exec (.pfence h die) s =
      .next { (s.beginPersist s.cur).modCtx fun c => { c with persisting := true } with iss := .frozen } := by
  rw [exec_pfence, execPfence, issue_freeze hg (by simp only [hh, hp, hd, hs]; rfl)]

/-- EXIT once nothing of its berth-thread is outstanding and no failure is left to raise (R180). -/
theorem exec_exit_ready {h : Hd} {s : State} (hg : s.ctx.guard h = true) (hh : s.ctx.holding = false) (hr : s.exitReady = true)
    (hf : s.ctx.unraised = none) : exec (.exit h) s = .next (s.withCtx { s.ctx with pilot := .exit }) := by
  rw [exec_exit, execExit, issue_go hg (by simp [hh, hr, hf]), modCtx_issued]

theorem exec_exit_waits {h : Hd} {s : State} (hg : s.ctx.guard h = true) (hh : s.ctx.holding = false) (hr : s.exitReady = false) :
    exec (.exit h) s = .next s.frozen := by
  rw [exec_exit, execExit, issue_freeze hg (u := s) (by simp [hh, hr]), State.frozen]

/-- PHASE of a level that the team has not (R172). -/
theorem exec_phase_bound {h : Hd} {l : Nat} {s : State} {m : Man} (hg : s.ctx.guard h = true) (hm : s.man s.ctx.team = some m)
    (hl : m.nlev ≤ l) : exec (.phase h l) s = .next (s.trapped 0x02 (w64 l)) := by
  rw [exec_phase, execPhase]
  refine issue_flt hg (verdict_of_some ?_)
  rw [nlev_eq hm, decide_eq_true hl]
  rfl

/-- PHASE of a level that the team has, where no operation is held: its verdict decides. -/
theorem exec_phase_level {h : Hd} {l : Nat} {s : State} {m : Man} (hh : s.ctx.holding = false) (hm : s.man s.ctx.team = some m)
    (hl : l < m.nlev) : exec (.phase h l) s = issue h (fun _ => s.phaseVerdict l) (fun s => s.phaseDone l) s := by
  have hv : Verdict.of [chk (decide (s.nlev ≤ l)) fcBound (w64 l)]
      (if (l ≠ 0 ∨ s.ctx.ops.any Op.unruled) ∧ s.ctx.holding then .wait else s.phaseVerdict l) = s.phaseVerdict l := by
    rw [phase_level_ok hm hl, hh, if_neg (by simp)]
  rw [exec_phase, execPhase, issue, issue, hv]

/-- Settles O11: each word's checks decide between issue, freeze, wait and trap. -/
theorem fencesPhasesAndExit : Obligations.FencesPhasesAndExit := by
  refine ⟨fun s h ma mb die m hg hh hp hm hn hgr => ?_, fun s h l m hg hh hl hp hm hln hgr hw => ?_⟩
  · refine ⟨fun hu => ?phase0, exec_phase_bound hg hm, exec_fence_nothing hg, exec_fence_done hg hh, exec_fence_waits hg hh,
      exec_pfence_done hg hh, fun hd hs => ⟨_, exec_pfence_begins hg hh hp hd hs, rfl, ?persisting, ?queue⟩,
      exec_exit_ready hg hh, exec_exit_waits hg hh⟩
    case phase0 =>
      have hgo : s.phaseVerdict 0 = .go := by simpa [State.phaseVerdict, hp] using hu
      refine ⟨_, (exec_phase_level hh hm hn).trans (issue_go hg hgo), ?_⟩
      rw [phaseDone_eq 0 hm hgr]
      exact issuedAs_wantPersist s (Ctx.phased 0)
    case persisting => rw [ctx_iss, ctx_modCtx]
    case queue =>
      rw [berth_iss, State.modCtx, State.modCtxAt]
      simp [State.beginPersist]
  · rw [exec_phase_level hh hm hln]
    have hu := unruled_of_writesSettled hw
    refine ⟨fun hs => issue_wait hg ?_, fun hs => ?_⟩
    · simp [State.phaseVerdict, hp, hu, hs, Nat.ne_of_gt hl]
    · have hv := phaseVerdict_barrier hl hp hm hw hs
      refine ⟨fun hd hx => issue_freeze hg ?_, fun hd hx => issue_flt hg ?_, fun hd => ⟨_, issue_go hg ?_, ?_⟩⟩
      · rw [hv, hd, hx]; rfl
      · rw [hv, hd, hx]; rfl
      · rw [hv, hd]; rfl
      · have hi := issuedAs_wantPersist s (Ctx.phased l)
        rw [Ctx.phased, if_neg (Nat.ne_of_gt hl)] at hi
        rw [phaseDone_eq l hm hgr]
        exact hi

end Sys2Proof.Machine
end

section
/-! SUPPORT. Host accesses to memory, the registers of BAR0 and their fields (spec/25 R364-R367, R369, R374, R382). -/

namespace Sys2Proof.Machine
open Sys2Proof

-- fields of words -------------------------------------------------------------------------------------------------------

theorem bt_eq (w : W64) (i : Nat) : bt w i = decide (w.toNat / 2 ^ i % 2 = 1) := by
  rw [bt, BitVec.getLsbD, Nat.testBit_eq_decide_div_mod_eq]

theorem bf_eq (w : W64) (lo n : Nat) : bf w lo n = w.toNat / 2 ^ lo % 2 ^ n := rfl

theorem bf_lt (w : W64) (lo n : Nat) : bf w lo n < 2 ^ n := Nat.mod_lt _ (Nat.two_pow_pos n)

theorem toNat_w64 (n : Nat) : (w64 n).toNat = n % 2 ^ 64 := BitVec.toNat_ofNat n 64

theorem bit_le_one (b : Bool) : bit b ≤ 1 := by cases b <;> decide

theorem bit_eq_one {b : Bool} : bit b = 1 ↔ b = true := by cases b <;> decide

/-- The top bit of a word that is put together from it and from what lies below. -/
theorem bt_63_w64 (b : Bool) {r : Nat} (hr : r < 2 ^ 63) : bt (w64 (bit b * 2 ^ 63 + r)) 63 = b := by
  have := bit_le_one b
  rw [bt_eq, toNat_w64, Bool.eq_iff_iff, decide_eq_true_iff, ← bit_eq_one]
  omega

/-- The registers of a ring's base: the enable bit, the page of the ring and the log of its size keep their places. -/
theorem ringBase_fields (ok : Bool) (w : W64) : let u := w64 (bit ok * 2 ^ 63 + bf w 12 45 * 4096 + bf w 0 5)
    bt u 63 = ok ∧ bf u 12 45 = bf w 12 45 ∧ bf u 0 5 = bf w 0 5 := by
  have h1 := bf_lt w 12 45
  have h2 := bf_lt w 0 5
  have hb := bit_le_one ok
  rw [add_assoc]
  refine ⟨bt_63_w64 ok (by omega), ?_⟩
  rw [bf_eq (w64 _) 12, bf_eq (w64 _) 0, toNat_w64]
  omega

/-- Such a register's enable bit, where the write's size is checked. -/
theorem enabled_iff (w : W64) (lo hi n : Nat) :
    (bt w 63 && decide (lo ≤ bf w 0 n ∧ bf w 0 n ≤ hi)) = true ↔ bt w 63 = true ∧ lo ≤ bf w 0 n ∧ bf w 0 n ≤ hi := by simp

/-- CARVE as written. -/
theorem carve_fields (ok : Bool) (w : W64) : let u := w64 (bit ok * 2 ^ 63 + bf w 0 12)
    bt u 63 = ok ∧ bf u 0 12 = bf w 0 12 := by
  have h1 := bf_lt w 0 12
  have hb := bit_le_one ok
  refine ⟨bt_63_w64 ok (by omega), ?_⟩
  rw [bf_eq (w64 _) 0, toNat_w64]
  omega

/-- POOLWIN as written. -/
theorem poolwin_fields (ok : Bool) (w : W64) : let u := w64 (bit ok * 2 ^ 63 + bf w 48 8 * 2 ^ 48 + bf w 30 18 * 2 ^ 30)
    bt u 63 = ok ∧ bf u 48 8 = bf w 48 8 ∧ bf u 30 18 = bf w 30 18 := by
  have h1 := bf_lt w 48 8
  have h2 := bf_lt w 30 18
  have hb := bit_le_one ok
  rw [add_assoc]
  refine ⟨bt_63_w64 ok (by omega), ?_⟩
  rw [bf_eq (w64 _) 48, bf_eq (w64 _) 30, toNat_w64]
  omega

/-- PWRCTL as written. -/
theorem pwrctl_fields (ok : Bool) (w : W64) : let u := w64 (bit ok * 2 ^ 63 + bf w 32 16 * 2 ^ 32 + bf w 0 12)
    bt u 63 = ok ∧ bf u 32 16 = bf w 32 16 ∧ bf u 0 12 = bf w 0 12 := by
  have h1 := bf_lt w 32 16
  have h2 := bf_lt w 0 12
  have hb := bit_le_one ok
  rw [add_assoc]
  refine ⟨bt_63_w64 ok (by omega), ?_⟩
  rw [bf_eq (w64 _) 32, bf_eq (w64 _) 0, toNat_w64]
  omega

/-- A bit set above a field leaves the field. -/
theorem bput_16_one (w : W64) : bf (bput w 16 1 1) 0 16 = bf w 0 16 ∧ bt (bput w 16 1 1) 16 = true := by
  have := w.isLt
  rw [bt_eq]
  simp only [bput, bf_eq, fld, BitVec.toNat_ofNat, decide_eq_true_eq]
  omega

-- host accesses to memory -------------------------------------------------------------------------------------------------

@[simp] theorem filter_event (s : State) (src code : Nat) (job : Option Nat) (d : W64) : (s.event src code job d).filter = s.filter := by
  rw [event_frame]

/-- What healing a granule leaves alone. -/
theorem healOne_keeps (s : State) (g : Nat) : (s.healOne g).hbm = s.hbm ∧ (s.healOne g).filter = s.filter := by
  rw [State.healOne]
  split
  · exact ⟨hbm_event .., filter_event ..⟩
  · exact ⟨rfl, rfl⟩

@[simp] theorem hbm_heal (s : State) (a n : Nat) : (s.heal a n).hbm = s.hbm := by
  refine foldl_keeps State.hbm _ (fun s g => ?_) _ _
  refine Eq.trans ?_ (healOne_keeps s g).1
  dsimp only
  split <;> rfl

@[simp] theorem filter_heal (s : State) (a n : Nat) : (s.heal a n).filter = s.filter := by
  refine foldl_keeps State.filter _ (fun s g => ?_) _ _
  refine Eq.trans ?_ (healOne_keeps s g).2
  dsimp only
  split <;> rfl

@[simp] theorem losses_arrive (s : State) (j : Nat) (e : Option Party) (a n : Nat) : (s.arrive j e a n).losses = s.losses := by
  simp only [State.arrive]
  refine foldl_keeps State.losses _ (fun s m => ?_) _ _
  split
  · exact foldl_keeps State.losses _ (fun s i => by simp) _ _
  · rfl

/-- What a host write stores: the bytes, and nothing beside them; what it brings to mailboxes is no part of HBM. -/
theorem hostStore_hbm (s : State) (pa : Nat) (bs : List Byte) :
    (s.hostStore pa bs).hbm = Memory.write s.hbmByte s.hbm pa bs ∧ (s.hostStore pa bs).hbmByte = s.hbmByte := by
  have h : (s.hostStore pa bs).hbm = (s.hbmWrite pa bs).hbm ∧ (s.hostStore pa bs).losses = (s.hbmWrite pa bs).losses := by
    rw [State.hostStore]
    split
    · exact ⟨hbm_arrive .., losses_arrive ..⟩
    · exact ⟨rfl, rfl⟩
  refine ⟨h.1, ?_⟩
  rw [State.hbmByte, h.2]
  rfl

theorem hbmRaw_hostStore (s : State) (pa : Nat) (bs : List Byte) : (s.hostStore pa bs).hbmRaw pa bs.length = bs := by
  rw [State.hbmRaw, (hostStore_hbm s pa bs).1, (hostStore_hbm s pa bs).2, Memory.read_write]

theorem get_hostStore_outside (s : State) (pa : Nat) (bs : List Byte) (a : Nat) (h : a < pa ∨ pa + bs.length ≤ a) :
    Memory.get (s.hostStore pa bs).hbmByte (s.hostStore pa bs).hbm a = Memory.get s.hbmByte s.hbm a := by
  rw [(hostStore_hbm s pa bs).1, (hostStore_hbm s pa bs).2, Memory.get_write_outside _ _ _ _ _ h]

/-- A read that is allowed and not poisoned returns the line (R366, R367). -/
theorem exec_hostRead_done {s s2 : State} {port pa : Nat} {d : List Byte} (hp : s.hostPort port = true)
    (hd : s.hostDecide port pa (64 * (pa / 64)) 64 .read = .done s2)
    (hr : (s2.heal (64 * (pa / 64)) 64).hbmRead (64 * (pa / 64)) 64 = some d) : ∃ t, exec (.hostRead port pa) s = .next t ∧
      t.reply = some (d, false) ∧ t.hbm = s2.hbm ∧ (t.filter = s2.filter ∨ t.filter = s2.filter ++ [(port, pa / 64)]) := by
  have he : exec (.hostRead port pa) s = execHostRead port pa s := rfl
  rw [he, execHostRead]
  simp only [hp, hd, hr, Bool.not_true, Bool.false_eq_true, if_false]
  refine ⟨_, rfl, rfl, hbm_heal .., ?_⟩
  split
  · exact .inr (congrArg (· ++ _) (filter_heal ..))
  · exact .inl (filter_heal ..)

theorem exec_hostRead_refused {s s2 : State} {port pa : Nat} (hp : s.hostPort port = true)
    (hd : s.hostDecide port pa (64 * (pa / 64)) 64 .read = .refused s2) :
    exec (.hostRead port pa) s = .next { s2 with reply := some (List.replicate 64 0, true) } := by
  have he : exec (.hostRead port pa) s = execHostRead port pa s := rfl
  rw [he, execHostRead]
  simp only [hp, hd, Bool.not_true, Bool.false_eq_true, if_false]

/-- A write of bytes of one line: its decision says all (R366). -/
theorem exec_hostWrite_eq {s : State} {port pa : Nat} {bytes : List Byte} (hp : s.hostPort port = true)
    (hb : bytes.take (64 - pa % 64) ≠ []) : exec (.hostWrite port pa bytes) s =
      match s.hostDecide port pa pa (bytes.take (64 - pa % 64)).length .write with
      | .refused s => .next s
      | .done s => .next (s.hostStore pa (bytes.take (64 - pa % 64))) := by
  have he : exec (.hostWrite port pa bytes) s = execHostWrite port pa bytes s := rfl
  rw [he, execHostWrite]
  simp only [hp, Bool.not_true, List.isEmpty_iff, hb, Bool.false_eq_true, or_self, if_false] <;> rfl

theorem exec_hostWrite_done {s s2 : State} {port pa : Nat} {bytes : List Byte} (hp : s.hostPort port = true)
    (hb : bytes.take (64 - pa % 64) ≠ []) (hd : s.hostDecide port pa pa (bytes.take (64 - pa % 64)).length .write = .done s2) :
    exec (.hostWrite port pa bytes) s = .next (s2.hostStore pa (bytes.take (64 - pa % 64))) := by
  rw [exec_hostWrite_eq hp hb, hd]

theorem exec_hostWrite_refused {s s2 : State} {port pa : Nat} {bytes : List Byte} (hp : s.hostPort port = true)
    (hb : bytes.take (64 - pa % 64) ≠ []) (hd : s.hostDecide port pa pa (bytes.take (64 - pa % 64)).length .write = .refused s2) :
    exec (.hostWrite port pa bytes) s = .next s2 := by
  rw [exec_hostWrite_eq hp hb, hd]

/-- A back-invalidation's answer that brings dirty data (R367). -/
theorem exec_backInvalidateResponse_dirty {s : State} {line : Nat} {bytes : List Byte} {f : Nat × Nat}
    (hf : (s.binv.find? fun f => f.2 == line) = some f) (hb : bytes ≠ []) : exec (.backInvalidateResponse line bytes) s =
      match ({ s with binv := s.binv.erase f }).hostDecide f.1 (64 * line) (64 * line) 64 .write with
      | .refused s => .next s
      | .done s => .next (s.hostStore (64 * line) (bytes.take 64)) := by
  have he : exec (.backInvalidateResponse line bytes) s = execBackInvalidateResponse line bytes s := rfl
  rw [he, execBackInvalidateResponse]
  simp only [hf, List.isEmpty_iff, hb, if_false] <;> rfl

theorem exec_backInvalidateResponse_clean {s : State} {line : Nat} {f : Nat × Nat}
    (hf : (s.binv.find? fun f => f.2 == line) = some f) :
    exec (.backInvalidateResponse line []) s = .next { s with binv := s.binv.erase f } := by
  have he : exec (.backInvalidateResponse line []) s = execBackInvalidateResponse line [] s := rfl
  rw [he, execBackInvalidateResponse]
  simp only [hf, List.isEmpty_nil, if_true]

theorem exec_backInvalidateResponse_unasked {s : State} {line : Nat} {bytes : List Byte}
    (hf : (s.binv.find? fun f => f.2 == line) = none) : exec (.backInvalidateResponse line bytes) s = .next s := by
  have he : exec (.backInvalidateResponse line bytes) s = execBackInvalidateResponse line bytes s := rfl
  rw [he, execBackInvalidateResponse]
  simp only [hf]

-- registers with rows of their own ------------------------------------------------------------------------------------------

/-- EVBASE that is enabled: a write says whether it stays so (R354). -/
theorem exec_evbaseWrite_enabled {s : State} {v : Nat} (h : bt s.evbase 63 = true) :
    exec (.evbaseWrite v) s = .next { s with evbase := bput s.evbase 63 1 (if bt (w64 v) 63 then 1 else 0) } := if_pos h

theorem exec_evbaseWrite_disabled {s : State} {v : Nat} (h : bt s.evbase 63 = false) (hh : s.evHeld = []) :
    ∃ b, exec (.evbaseWrite v) s = .next { s with
      evOnce := b
      evbase := w64 (bit (bt (w64 v) 63 && decide (6 ≤ bf (w64 v) 0 5 ∧ bf (w64 v) 0 5 ≤ 20)) * 2 ^ 63 + bf (w64 v) 12 45 * 4096 +
        bf (w64 v) 0 5) } := by
  have he : exec (.evbaseWrite v) s = execEvbaseWrite v s := rfl
  rw [he, execEvbaseWrite]
  simp only [h, Bool.false_eq_true, if_false]
  split
  · exact ⟨true, by rw [hh]; rfl⟩
  · exact ⟨s.evOnce, rfl⟩

theorem exec_carveWrite_enabled {s : State} {v : Nat} (h : bt s.carve 63 = true) : exec (.carveWrite v) s = .next s := if_pos h

theorem exec_carveWrite_disabled {s : State} {v : Nat} (h : bt s.carve 63 = false) : exec (.carveWrite v) s = .next { s with
    carve := w64 (bit (bt (w64 v) 63 && decide (4 ≤ bf (w64 v) 0 12 ∧ bf (w64 v) 0 12 ≤ 2688)) * 2 ^ 63 + bf (w64 v) 0 12) } :=
  if_neg (by rw [h]; decide)

/-- POOLWIN: a write that is not ignored (R374). -/
theorem exec_poolwinWrite_taken {s : State} {n v : Nat} (h : bt (w64 v) 63 = false ∨
    s.role n = 2 ∧ ∀ k, k < 4 → k ≠ n → bt (Tab.get 0 s.poolwin k) 63 = false) : exec (.poolwinWrite n v) s = .next { s with
      poolwin := Tab.set 0 s.poolwin n
        (w64 (bit (bt (w64 v) 63) * 2 ^ 63 + bf (w64 v) 48 8 * 2 ^ 48 + bf (w64 v) 30 18 * 2 ^ 30)) } := by
  have he : exec (.poolwinWrite n v) s = execPoolwinWrite n v s := rfl
  rw [he, execPoolwinWrite]
  split
  · rename_i hc
    simp only [Bool.and_eq_true, Bool.or_eq_true, List.any_eq_true, bne_iff_ne] at hc
    obtain ⟨hen, hhit⟩ := hc
    rcases h with h | ⟨hr, hk⟩
    · exact absurd hen (by simp [h])
    · rcases hhit with ⟨i, hi, ⟨hin, hb⟩, -⟩ | hrole
      · exact absurd hb (by rw [hk i (by simp at hi; omega) hin]; exact Bool.false_ne_true)
      · exact absurd hr hrole
  · rfl

@[simp] theorem poolwin_configEvent (s : State) : s.configEvent.poolwin = s.poolwin := by
  rw [State.configEvent, State.portEvent, event_frame]

end Sys2Proof.Machine
end

section
/-! SUPPORT. BAR0: which register a write of an offset is, and what a read of one returns (spec/25 R364); the host's statement. -/

namespace Sys2Proof.Machine
open Sys2Proof

theorem bit_mul (b : Bool) (n : Nat) : bit b * n = if b then n else 0 := by cases b <;> simp [bit]

theorem exec_registerWrite (off v : Nat) (s : State) : exec (.registerWrite off v) s = execRegisterWrite off v s := rfl

/-- An offset past the last page. -/
theorem registerWrite_beyond {off : Nat} (v : Nat) (s : State) (h : 0x40000 ≤ off) : exec (.registerWrite off v) s = .next s := by
  rw [exec_registerWrite, execRegisterWrite]
  simp only [decide_eq_true_eq]
  by_cases h8 : off % 8 ≠ 0
  · rw [if_pos h8]
  · repeat rw [if_neg (by omega)]

/-- The launch queues. -/
theorem registerWrite_lq {n o : Nat} (v : Nat) (s : State) (hn : n < 16) (ho : o < 32) (h8 : o % 8 = 0) :
    exec (.registerWrite (0x1000 + 32 * n + o) v) s =
      if o = 0 then exec (.lqctlWrite n v) s
      else if o = 8 then .next (if bt (s.lq n).ctl 63 then s else s.modLq n fun x => { x with base := w64 (bf (w64 v) 0 57) })
      else if o = 16 then exec (.lqtailDoorbell n v) s
      else .next s := by
  rw [exec_registerWrite, execRegisterWrite]
  simp only [decide_eq_true_eq]
  rw [if_neg (by omega), if_neg (by omega), if_pos (by omega), show (0x1000 + 32 * n + o - 0x1000) / 32 = n by omega,
    show (0x1000 + 32 * n + o - 0x1000) % 32 = o by omega]
  rfl

theorem registerWrite_lqs {n : Nat} (v : Nat) (s : State) (hn : n < 16) :
    exec (.registerWrite (0x1000 + 32 * n) v) s = exec (.lqctlWrite n v) s ∧
    exec (.registerWrite (0x1010 + 32 * n) v) s = exec (.lqtailDoorbell n v) s ∧
    (bt (s.lq n).ctl 63 = true → exec (.registerWrite (0x1008 + 32 * n) v) s = .next s) ∧
    (bt (s.lq n).ctl 63 = false → exec (.registerWrite (0x1008 + 32 * n) v) s =
      .next { s with lqs := Tab.set LQ.reset s.lqs n { s.lq n with base := w64 (bf (w64 v) 0 57) } }) := by
  have hlq := fun o (ho : o < 32) (h8 : o % 8 = 0) => registerWrite_lq v s hn ho h8
  rw [show 0x1010 + 32 * n = 0x1000 + 32 * n + 16 by omega, show 0x1008 + 32 * n = 0x1000 + 32 * n + 8 by omega,
    hlq 16 (by decide) (by decide), hlq 8 (by decide) (by decide)]
  refine ⟨?_, ?_, fun h => ?_, fun h => ?_⟩
  · exact (hlq 0 (by decide) (by decide)).trans (if_pos rfl)
  · rw [if_neg (by decide), if_neg (by decide), if_pos rfl]
  · rw [if_neg (by decide), if_pos rfl, if_pos h]
  · rw [if_neg (by decide), if_pos rfl, if_neg (by rw [h]; exact Bool.false_ne_true)]
    rfl

/-- The debug registers. -/
theorem registerWrite_dbg {n o : Nat} (v : Nat) (s : State) (hn : n < 128) (ho : o < 64) (h8 : o % 8 = 0) :
    exec (.registerWrite (0x30000 + 64 * n + o) v) s = .next (s.dbgWrite n o (w64 v)) := by
  rw [exec_registerWrite, execRegisterWrite]
  simp only [decide_eq_true_eq]
  repeat rw [if_neg (by omega)]
  rw [if_pos (by omega), show (0x30000 + 64 * n + o - 0x30000) / 64 = n by omega,
    show (0x30000 + 64 * n + o - 0x30000) % 64 = o by omega]

theorem registerWrite_haltstat {n : Nat} (v : Nat) (s : State) (hn : n < 128) :
    exec (.registerWrite (0x30008 + 64 * n) v) s = .next s := by
  rw [show 0x30008 + 64 * n = 0x30000 + 64 * n + 8 by omega, registerWrite_dbg v s hn (by decide) (by decide)]
  rfl

theorem registerWrite_dbgimg {n : Nat} (v : Nat) (s : State) (hn : n < 128) : exec (.registerWrite (0x30030 + 64 * n) v) s =
    .next (s.modBerth n fun x => { x with dbgimg := w64 (bf (w64 v) 12 45 * 4096) }) := by
  rw [show 0x30030 + 64 * n = 0x30000 + 64 * n + 0x30 by omega, registerWrite_dbg v s hn (by decide) (by decide)]
  rfl

theorem registerWrite_bps {n i : Nat} (v : Nat) (s : State) (hn : n < 128) (hi : i < 4) :
    exec (.registerWrite (0x30010 + 64 * n + 8 * i) v) s = .next (s.modBerth n fun x =>
      { x with bps := Tab.set 0 x.bps i (w64 ((if bt (w64 v) 63 then 2 ^ 63 else 0) + bf (w64 v) 0 15)) }) := by
  rw [show 0x30010 + 64 * n + 8 * i = 0x30000 + 64 * n + (0x10 + 8 * i) by omega, registerWrite_dbg v s hn (by omega) (by omega),
    State.dbgWrite, if_neg (by omega), if_pos (by omega), show (0x10 + 8 * i - 0x10) / 8 = i by omega, bit_mul]

/-- The pool windows and their targets. -/
theorem registerWrite_poolwin {n : Nat} (v : Nat) (s : State) (hn : n < 4) :
    exec (.registerWrite (0x80 + 16 * n) v) s = exec (.poolwinWrite n v) s ∧
    exec (.registerWrite (0x88 + 16 * n) v) s =
      .next { s with pooltgt := Tab.set 0 s.pooltgt n (w64 (bf (w64 v) 30 34 * 2 ^ 30)) } := by
  constructor <;> rw [exec_registerWrite, execRegisterWrite, if_neg (by omega), if_pos (by omega), State.moduleReg] <;>
    repeat rw [if_neg (by omega)]
  · rw [if_pos (by omega), if_pos (by omega), show (0x80 + 16 * n - 0x80) / 16 = n by omega]
    rfl
  · rw [if_pos (by omega), if_neg (by omega), show (0x88 + 16 * n - 0x80) / 16 = n by omega]

/-- The registers of the jobs. -/
theorem registerWrite_job {n : Nat} (v : Nat) (s : State) (hn : n < 64) :
    exec (.registerWrite (0x2000 + 8 * n) v) s = .next { s with jobsched := Tab.set 0 s.jobsched n (w64 v) } ∧
    exec (.registerWrite (0x2200 + 8 * n) v) s = .next { s with
      jobpt := Tab.set 0 s.jobpt n (w64 ((if bt (w64 v) 63 then 2 ^ 63 else 0) + bf (w64 v) 12 42 * 4096 + bf (w64 v) 0 5)) } ∧
    exec (.registerWrite (0x2400 + 8 * n) v) s = exec (.pierjobWrite n v) s := by
  refine ⟨?_, ?_, ?_⟩ <;> rw [exec_registerWrite, execRegisterWrite] <;> simp only [decide_eq_true_eq] <;>
    repeat rw [if_neg (by omega)]
  · rw [if_pos (by omega), show (0x2000 + 8 * n - 0x2000) / 8 = n by omega]
  · rw [if_pos (by omega), show (0x2200 + 8 * n - 0x2200) / 8 = n by omega, bit_mul]
  · rw [if_pos (by omega), show (0x2400 + 8 * n - 0x2400) / 8 = n by omega]
    rfl

/-- The registers of the wharf units. -/
theorem registerWrite_unit {n : Nat} (v : Nat) (s : State) (hn : n < 256) :
    exec (.registerWrite (0x10000 + 8 * n) v) s = exec (.wuctlWrite n v) s ∧
    exec (.registerWrite (0x10800 + 8 * n) v) s = exec (.wustatWrite n v) s ∧
    exec (.registerWrite (0x11000 + 8 * n) v) s = .next { s with wshare := Tab.set 8 s.wshare n (w64 (bf (w64 v) 0 5)) } ∧
    exec (.registerWrite (0x11800 + 8 * n) v) s = .next s := by
  refine ⟨?_, ?_, ?_, ?_⟩ <;> rw [exec_registerWrite, execRegisterWrite] <;> simp only [decide_eq_true_eq] <;>
    repeat rw [if_neg (by omega)]
  · rw [if_pos (by omega), show (0x10000 + 8 * n - 0x10000) / 8 = n by omega]
    rfl
  · rw [if_pos (by omega), show (0x10800 + 8 * n - 0x10800) / 8 = n by omega]
    rfl
  · rw [if_pos (by omega), show (0x11000 + 8 * n - 0x11000) / 8 = n by omega]

/-- The checkpoint regions and the multicast trees. -/
theorem registerWrite_ckset {n : Nat} (v : Nat) (s : State) (hn : n < 16) : exec (.registerWrite (0x12000 + 8 * n) v) s = .next { s with
    ckset := Tab.set 0 s.ckset n (w64 (bf (w64 v) 57 7 * 2 ^ 57 + bf (w64 v) 12 45 * 4096 + bf (w64 v) 0 6)) } := by
  rw [exec_registerWrite, execRegisterWrite]
  simp only [decide_eq_true_eq]
  repeat rw [if_neg (by omega)]
  rw [if_pos (by omega), show (0x12000 + 8 * n - 0x12000) / 8 = n by omega]

theorem registerWrite_mctree {n : Nat} (v : Nat) (s : State) (hn : n < 4096) : exec (.registerWrite (0x20000 + 8 * n) v) s = .next { s with
    mctree := Tab.set 0 s.mctree n (w64 (bf (w64 v) 46 18 * 2 ^ 46 + bf (w64 v) 0 16)) } := by
  rw [exec_registerWrite, execRegisterWrite]
  simp only [decide_eq_true_eq]
  repeat rw [if_neg (by omega)]
  rw [if_pos (by omega), show (0x20000 + 8 * n - 0x20000) / 8 = n by omega]

/-- PWRCTL: the new limit may begin throttling at once (R382). -/
theorem powerCheck_fields (s : State) : let u := s.powerCheck
    u.pwrctl = s.pwrctl ∧ u.berths = s.berths ∧ bf u.pwrstat 0 16 = bf s.pwrstat 0 16 ∧
    bt u.pwrstat 16 = (bt s.pwrstat 16 || decide (s.limit < bf s.pwrstat 0 16)) := by
  dsimp only
  rw [State.powerCheck]
  split
  · rename_i h
    obtain ⟨hl, ht⟩ := h
    have he : ∀ u : State, u.throttleEvent.pwrctl = u.pwrctl ∧ u.throttleEvent.berths = u.berths ∧ u.throttleEvent.pwrstat = u.pwrstat :=
      fun u => by
        rw [State.throttleEvent, State.eventOpen, event_frame]
        exact ⟨rfl, rfl, rfl⟩
    obtain ⟨h1, h2, h3⟩ := he { s with pwrstat := bput s.pwrstat 16 1 1 }
    refine ⟨h1, h2, ?_, ?_⟩
    · rw [h3, (bput_16_one _).1]
    · rw [h3, (bput_16_one _).2, decide_eq_true hl, Bool.or_true]
  · rename_i h
    refine ⟨rfl, rfl, rfl, ?_⟩
    by_cases hl : s.limit < bf s.pwrstat 0 16
    · have : bt s.pwrstat 16 = true := by simpa [hl] using h
      simp [this]
    · simp [hl]

/-- The first page. -/
theorem registerWrite_first {off : Nat} (v : Nat) (s : State) (h8 : off % 8 = 0) (h : off < 0xC0) :
    exec (.registerWrite off v) s = State.moduleReg off v s := by
  rw [exec_registerWrite, execRegisterWrite, if_neg (by omega), if_pos h]

/-- The registers of the first page that have rows of their own. -/
theorem registerWrite_rows (v : Nat) (s : State) : let wr := fun o : Nat => exec (.registerWrite o v) s
    wr 0x10 = exec (.carveWrite v) s ∧ wr 0x18 = exec (.fabctlWrite v) s ∧ wr 0x20 = exec (.portmapWrite v) s ∧
    wr 0x40 = exec (.evbaseWrite v) s ∧ wr 0x60 = exec (.hrqtailDoorbell v) s := by
  refine ⟨?_, ?_, ?_, ?_, ?_⟩ <;>
    refine (registerWrite_first v s (by decide) (by decide)).trans ?_ <;> simp only [State.moduleReg, reduceCtorEq, Nat.reduceEqDiff, if_true, if_false] <;> rfl

/-- The registers of the first page that hold what is written, and those that are only read. -/
theorem registerWrite_plain (v : Nat) (s : State) : let wr := fun o : Nat => exec (.registerWrite o v) s
    wr 0x28 = .next { s with wtimeout := w64 (bf (w64 v) 0 32) } ∧ wr 0x50 = .next { s with evhead := v % 2 ^ 32 } ∧
    wr 0x30 = .next ({ s with
      pwrctl := w64 (bit (bt (w64 v) 63) * 2 ^ 63 + bf (w64 v) 32 16 * 2 ^ 32 + bf (w64 v) 0 12) }).powerCheck ∧
    wr 0x58 = .next (s.hrqbaseWrite (w64 v)) ∧ ∀ o ∈ [0x0, 0x8, 0x38, 0x48, 0x68, 0x70, 0x78], wr o = .next s := by
  refine ⟨?_, ?_, ?_, ?_, fun o ho => ?_⟩
  case refine_5 =>
    have h : o % 8 = 0 ∧ o < 0x80 ∧ o ∉ [0x10, 0x18, 0x20, 0x28, 0x30, 0x40, 0x50, 0x58, 0x60] := by
      revert o
      decide
    obtain ⟨h8, hlt, hne⟩ := h
    simp only [List.mem_cons, List.not_mem_nil, or_false, not_or] at hne
    refine (registerWrite_first v s h8 (by omega)).trans ?_
    rw [State.moduleReg]
    repeat rw [if_neg (by omega)]
  all_goals
    refine (registerWrite_first v s (by decide) (by decide)).trans ?_
    simp only [State.moduleReg, Nat.reduceEqDiff, if_true, if_false]

/-- The doorbell of the request ring (R369). -/
theorem exec_hrqtailDoorbell_fits {s : State} {v : Nat} (h : (v % 2 ^ 32 + 2 ^ 32 - s.hrqhead) % 2 ^ 32 ≤ 2 ^ bf s.hrqbase 0 5) :
    exec (.hrqtailDoorbell v) s = .next { s with hrqtail := v % 2 ^ 32 } := by
  have he : exec (.hrqtailDoorbell v) s = execHrqtailDoorbell v s := rfl
  rw [he, execHrqtailDoorbell, if_neg (Nat.not_lt.2 h)]

theorem exec_hrqtailDoorbell_past {s : State} {v : Nat} (h : 2 ^ bf s.hrqbase 0 5 < (v % 2 ^ 32 + 2 ^ 32 - s.hrqhead) % 2 ^ 32) :
    ∃ u, exec (.hrqtailDoorbell v) s = .next u ∧ u.hrqtail = s.hrqtail := by
  have he : exec (.hrqtailDoorbell v) s = execHrqtailDoorbell v s := rfl
  rw [he, execHrqtailDoorbell, if_pos h]
  exact ⟨_, rfl, by rw [event_frame]⟩

/-- A write of POOLWIN on a port that is no pool port (R374). -/
theorem exec_poolwinWrite_noPool {s : State} {n v : Nat} (h : bt (w64 v) 63 = true) (hr : s.role n ≠ 2) :
    exec (.poolwinWrite n v) s = .next s.configEvent := by
  have he : exec (.poolwinWrite n v) s = execPoolwinWrite n v s := rfl
  have hn : (s.role n != 2) = true := bne_iff_ne.2 hr
  rw [he, execPoolwinWrite]
  simp only [h, hn, Bool.or_true, Bool.and_self, if_true]

/-- HRQBASE (R369). -/
theorem hrqbaseWrite_disabled {s : State} (w : W64) (h : bt s.hrqbase 63 = false) : let u := s.hrqbaseWrite w
    u = { s with hrqbase := u.hrqbase } ∧ bf u.hrqbase 12 45 = bf w 12 45 ∧ bf u.hrqbase 0 5 = bf w 0 5 ∧
    (bt u.hrqbase 63 = true ↔ bt w 63 = true ∧ 4 ≤ bf w 0 5 ∧ bf w 0 5 ≤ 12) := by
  obtain ⟨h1, h2, h3⟩ := ringBase_fields (bt w 63 && decide (4 ≤ bf w 0 5 ∧ bf w 0 5 ≤ 12)) w
  have hw : s.hrqbaseWrite w = { s with
      hrqbase := w64 (bit (bt w 63 && decide (4 ≤ bf w 0 5 ∧ bf w 0 5 ≤ 12)) * 2 ^ 63 + bf w 12 45 * 4096 + bf w 0 5) } := by
    rw [State.hrqbaseWrite, h, if_neg Bool.false_ne_true]
  rw [hw]
  exact ⟨rfl, h2, h3, by rw [h1]; exact enabled_iff w 4 12 5⟩

theorem hrqbaseWrite_enabled {s : State} (w : W64) (h : bt s.hrqbase 63 = true) :
    s.hrqbaseWrite w = { s with hrqbase := bput s.hrqbase 63 1 (if bt w 63 then 1 else 0) } := if_pos h

/-- Reads of the first registers. -/
theorem barRead_first (s : State) : let rd := fun o : Nat => s.barRead o 8
    rd 0x10 = s.carve ∧ rd 0x18 = s.fabctl ∧ rd 0x20 = s.portmap ∧ rd 0x28 = s.wtimeout ∧ rd 0x30 = s.pwrctl ∧ rd 0x38 = s.pwrstat ∧
    rd 0x40 = s.evbase ∧ rd 0x48 = w64 s.evtail ∧ rd 0x50 = w64 s.evhead ∧ rd 0x58 = s.hrqbase ∧ rd 0x60 = w64 s.hrqtail ∧
    rd 0x68 = w64 s.hrqhead := ⟨rfl, rfl, rfl, rfl, rfl, rfl, rfl, rfl, rfl, rfl, rfl, rfl⟩

/-- A read of a unit's status. -/
theorem barRead_wustat {n : Nat} (s : State) (hn : n < 256) : s.barRead (0x10800 + 8 * n) 8 = (s.unit n).stat := by
  rw [State.barRead]
  simp only [decide_eq_true_eq]
  repeat rw [if_neg (by omega)]
  rw [if_pos (by omega), show (0x10800 + 8 * n - 0x10800) / 8 = n by omega]

/-- A read of another form, or at an offset that is not listed. -/
theorem barRead_zero {off n : Nat} (s : State) (h : n ≠ 8 ∨ off % 8 ≠ 0 ∨ off = 0x70 ∨ off = 0x78 ∨ 0x40000 ≤ off) : s.barRead off n = 0 := by
  rw [State.barRead]
  simp only [decide_eq_true_eq]
  by_cases h8 : n ≠ 8 ∨ off % 8 ≠ 0
  · rw [if_pos h8]
  · repeat rw [if_neg (by omega)]

/-- Settles O48: a host access follows its decision, and a write of BAR0 is the write of the register at its offset. -/
theorem hostAccessesAndRegisters : Obligations.HostAccessesAndRegisters := by
  refine ⟨fun s port pa bytes hp => ?memory, fun s v n off => ?registers⟩
  case memory =>
    refine ⟨fun s2 d hd hr => exec_hostRead_done hp hd hr, fun s2 hd => exec_hostRead_refused hp hd,
      fun s2 hb hd => ⟨_, exec_hostWrite_done hp hb hd, hbmRaw_hostStore .., fun a => get_hostStore_outside _ _ _ a⟩,
      fun s2 hb hd => exec_hostWrite_refused hp hb hd, exec_backInvalidateResponse_unasked,
      fun f hf => exec_backInvalidateResponse_clean hf, fun f s2 hf hl hd => ?_, fun f s2 hf hb hd => ?_⟩
    · have hb : bytes ≠ [] := fun h => by simp [h] at hl
      refine ⟨_, (exec_backInvalidateResponse_dirty hf hb).trans (by rw [hd]), ?_⟩
      rw [List.take_of_length_le (by omega), ← hl]
      exact hbmRaw_hostStore ..
    · rw [exec_backInvalidateResponse_dirty hf hb, hd]
  case registers =>
    obtain ⟨r10, r18, r20, r40, r60⟩ := registerWrite_rows v s
    obtain ⟨r28, r50, r30, r58, rro⟩ := registerWrite_plain v s
    obtain ⟨rd10, rd18, rd20, rd28, rd30, rd38, rd40, rd48, rd50, rd58, rd60, rd68⟩ := barRead_first s
    refine ⟨exec_evbaseWrite_enabled, fun h hh => ?evbase, exec_carveWrite_enabled, fun h => ?carve, fun h => ?pooloff,
      fun h hr => ⟨_, exec_poolwinWrite_noPool h hr, poolwin_configEvent s⟩, fun h hr hk => ?poolon, exec_hrqtailDoorbell_fits,
      exec_hrqtailDoorbell_past, fun h => if_pos h, r10, r18, r20, r40, r60, r28, r50, ⟨_, r30, ?pwrctl⟩,
      fun h => ⟨_, r58, hrqbaseWrite_disabled (w64 v) h⟩, fun h => r58.trans (congrArg _ (hrqbaseWrite_enabled (w64 v) h)),
      fun hn => registerWrite_poolwin v s hn, fun hn => registerWrite_lqs v s hn, fun hn => registerWrite_job v s hn, fun hn => registerWrite_unit v s hn,
      fun hn => registerWrite_ckset v s hn, fun hn => registerWrite_mctree v s hn, fun hn => ?dbg, rro,
      registerWrite_beyond v s, rd10, rd18, rd20, rd28, rd30, rd38, rd40, rd48, rd50, rd58, rd60, rd68, barRead_wustat s,
      barRead_zero s (by simp), barRead_zero s (by simp), fun h => barRead_zero s (by simp [h]), fun h => barRead_zero s ?form⟩
    case evbase =>
      obtain ⟨b, hb⟩ := exec_evbaseWrite_disabled (v := v) h hh
      obtain ⟨h1, h2, h3⟩ := ringBase_fields (bt (w64 v) 63 && decide (6 ≤ bf (w64 v) 0 5 ∧ bf (w64 v) 0 5 ≤ 20)) (w64 v)
      exact ⟨_, hb, by rw [h1]; exact enabled_iff _ 6 20 5, h2, h3, rfl, rfl⟩
    case carve =>
      obtain ⟨h1, h2⟩ := carve_fields (bt (w64 v) 63 && decide (4 ≤ bf (w64 v) 0 12 ∧ bf (w64 v) 0 12 ≤ 2688)) (w64 v)
      exact ⟨_, exec_carveWrite_disabled h, rfl, h2, by rw [h1]; exact enabled_iff _ 4 2688 12⟩
    case pooloff =>
      refine ⟨_, exec_poolwinWrite_taken (.inl h), ?_, fun k hk => ?_⟩
      · rw [Tab.get_set, if_pos rfl, (poolwin_fields _ _).1, h]
      · rw [Tab.get_set, if_neg hk]
    case poolon =>
      refine ⟨_, exec_poolwinWrite_taken (.inr ⟨hr, hk⟩), ?_⟩
      rw [Tab.get_set, if_pos rfl]
      obtain ⟨h1, h2, h3⟩ := poolwin_fields (bt (w64 v) 63) (w64 v)
      exact ⟨h1.trans h, h2, h3⟩
    case pwrctl =>
      obtain ⟨h1, h2, h3, h4⟩ := powerCheck_fields { s with
        pwrctl := w64 (bit (bt (w64 v) 63) * 2 ^ 63 + bf (w64 v) 32 16 * 2 ^ 32 + bf (w64 v) 0 12) }
      obtain ⟨k1, k2, k3⟩ := pwrctl_fields (bt (w64 v) 63) (w64 v)
      simp only [State.limit, h1]
      exact ⟨k1, k2, k3, h3, h4, h2⟩
    case dbg => exact ⟨registerWrite_haltstat v s hn, registerWrite_dbgimg v s hn, fun i hi => registerWrite_bps v s hn hi⟩
    case form => omega

end Sys2Proof.Machine
end

section
/-! SUPPORT. What the services that the harbourmaster uses leave alone: events, healing, STATUS and POST, requests and packets. -/

namespace Sys2Proof.Machine
open Sys2Proof

/-- The fields that none of these services writes. -/
def State.roster (s : State) :=
  ((s.berths, s.mans, s.codeStore, s.dock, s.nextId, s.lqs), (s.agent, s.subj, s.cur, s.reserve, s.label, s.jobsched, s.ndim, s.time))

theorem roster_fields {s t : State} (h : t.roster = s.roster) : t.berths = s.berths ∧ t.mans = s.mans ∧ t.codeStore = s.codeStore ∧
    t.dock = s.dock ∧ t.nextId = s.nextId ∧ t.agent = s.agent ∧ t.reserve = s.reserve := by
  simp only [State.roster, Prod.mk.injEq] at h
  obtain ⟨⟨h1, h2, h3, h4, h5, -⟩, h6, -, -, h7, -⟩ := h
  exact ⟨h1, h2, h3, h4, h5, h6, h7⟩

@[simp] theorem roster_event (s : State) (src code : Nat) (job : Option Nat) (d : W64) : (s.event src code job d).roster = s.roster := by
  rw [event_frame]
  rfl

@[simp] theorem roster_tokens (s : State) (ps : List Party) (l : List TokChk) : (s.tokens ps l).1.roster = s.roster := by
  rw [tokens_frame]
  rfl

@[simp] theorem roster_healOne (s : State) (g : Nat) : (s.healOne g).roster = s.roster := by
  unfold State.healOne
  split
  · exact roster_event _ _ _ _ _
  · rfl

@[simp] theorem roster_heal (s : State) (a n : Nat) : (s.heal a n).roster = s.roster := by
  refine foldl_keeps State.roster _ (fun s g => ?_) _ _
  dsimp only
  split
  · exact roster_healOne s g
  · exact roster_healOne s g

@[simp] theorem roster_healWalk (s : State) (job va : Nat) : (s.healWalk job va).roster = s.roster := by
  unfold State.healWalk
  dsimp only
  split
  · exact foldl_keeps State.roster _ (fun s a => roster_heal s a 8) _ _
  · rfl

@[simp] theorem roster_locHeal (s : State) (l : Loc) (n : Nat) : (s.locHeal l n).roster = s.roster := by
  cases l with
  | hbm pa w => exact roster_heal s pa n
  | pool pa => rfl
  | peer l => rfl

@[simp] theorem roster_planHeal (s : State) (job : Nat) (ps : List (Nat × Nat × Loc)) : (s.planHeal job ps).roster = s.roster :=
  foldl_keeps State.roster _ (fun s p => by simp) _ _

@[simp] theorem roster_hmHeal (s : State) (job va n : Nat) : (s.hmHeal job va n).roster = s.roster := by
  unfold State.hmHeal
  split
  · rfl
  · exact roster_planHeal s job _

@[simp] theorem roster_walkHeal (s : State) (job : Nat) (ps : List (Nat × Nat × Loc)) : (s.walkHeal job ps).roster = s.roster := by
  refine foldl_keeps State.roster _ (fun s p => ?_) _ _
  exact roster_healWalk s job p.1

@[simp] theorem roster_locWrite (s : State) (l : Loc) (bs : List Byte) : (s.locWrite l bs).roster = s.roster := by cases l <;> rfl

@[simp] theorem roster_planWrite (s : State) (ps : List (Nat × Nat × Loc)) (bs : List Byte) : (s.planWrite ps bs).roster = s.roster := by
  induction ps generalizing s bs with
  | nil => rfl
  | cons p ps ih => exact (ih _ _).trans (roster_locWrite s p.2.2 _)

@[simp] theorem roster_arriveSlot (s : State) (i k : Nat) : (s.arriveSlot i k).roster = s.roster := by
  unfold State.arriveSlot
  split
  · rfl
  · split
    · exact roster_event s _ _ _ _
    · rfl

@[simp] theorem roster_arrive (s : State) (j : Nat) (e : Option Party) (a n : Nat) : (s.arrive j e a n).roster = s.roster := by
  refine foldl_keeps State.roster _ (fun s m => ?_) _ _
  split
  · exact foldl_keeps State.roster _ (fun s i => roster_arriveSlot s m.id i) _ _
  · rfl

theorem roster_hmWrite {s t : State} {job va : Nat} {bs : List Byte} (h : s.hmWrite job va bs = .ok t) : t.roster = s.roster := by
  unfold State.hmWrite at h
  split at h
  · cases h
  · split at h
    · cases h
    · split at h
      · cases h
      · split at h
        · cases h
        · cases h
          simp

@[simp] theorem roster_status (s : State) (m : Man) (st code : Nat) : (s.status m st code).roster = s.roster := by
  unfold State.status
  split
  · rfl
  · split
    next h => exact roster_hmWrite h
    next => exact roster_event s _ _ _ _

theorem roster_queuePacket {s t : State} {p : Packet} {fresh : Bool} (h : s.queuePacket p fresh = some t) : t.roster = s.roster := by
  unfold State.queuePacket at h
  split at h
  · cases h; rfl
  · obtain ⟨q, -, rfl⟩ := Option.map_eq_some_iff.1 h
    rfl

theorem roster_request {s t : State} {who : Waiter} {off len n : Nat} {h : PkHdr} {data : List Byte}
    (hr : s.request who off len h data = some (n, t)) : t.roster = s.roster := by
  unfold State.request at hr
  obtain ⟨u, hu, he⟩ := Option.map_eq_some_iff.1 hr
  cases he
  exact roster_queuePacket (t := u) hu

@[simp] theorem roster_atomPlace (s : State) (ps : List Party) (job va n : Nat) (rd : Bool) : (s.atomPlace ps job va n rd).1.roster = s.roster := by
  unfold State.atomPlace
  split
  · rfl
  · rfl
  · rfl
  · have h := roster_tokens s ps (s.chkRange job none (if rd then .atomRead else .atomWrite) va n)
    split
    next heq => rw [heq] at h; exact h
    next heq =>
      rw [heq] at h
      dsimp only
      split
      · simpa using h
      · simpa using h

@[simp] theorem roster_postHome (s : State) (ps : List Party) (job va inc : Nat) (err : Bool) :
    (s.postHome ps job va inc err).1.roster = s.roster := by
  have h := roster_atomPlace s ps job va 8 false
  unfold State.postHome
  split
  next heq => rw [heq] at h; exact h
  next heq =>
    rw [heq] at h
    exact (roster_arrive _ _ _ _ _).trans h

@[simp] theorem roster_post (s : State) (m : Man) : (s.post m).roster = s.roster := by
  unfold State.post
  dsimp only
  split
  · rfl
  · split
    · split
      next heq => exact roster_request heq
      next => rfl
    · exact roster_postHome s _ _ _ _ _

@[simp] theorem roster_healTables (s : State) (m : Man) : (s.healTables m).roster = s.roster := by
  unfold State.healTables
  dsimp only
  split
  · simp
  · split <;> split <;> simp

@[simp] theorem roster_healStart (s : State) (m : Man) : (s.healStart m).roster = s.roster := by simp [State.healStart]

end Sys2Proof.Machine
end

section
/-! PROOF. Launch queues and manifests (spec/01 R8-R10, R14, R15, R17). -/

namespace Sys2Proof.Machine
open Sys2Proof

-- the registers of a launch queue (R14, R15) -----------------------------------------------------------------------------

theorem lq_modLq (s : State) (q k : Nat) (f : LQ → LQ) : (s.modLq q f).lq k = if k = q then f (s.lq q) else s.lq k :=
  Tab.get_upd _ _ _ _ _

theorem roster_queueEvent (s : State) (q v : Nat) : (s.queueEvent q v).roster = s.roster := roster_event s _ _ _ _

theorem lq_congr {s t : State} (h : t.roster = s.roster) (k : Nat) : t.lq k = s.lq k :=
  congrArg (fun l => Tab.get LQ.reset l k) (Prod.mk.inj (Prod.mk.inj (Prod.mk.inj (Prod.mk.inj (Prod.mk.inj (Prod.mk.inj h).1).2).2).2).2).2

/-- EN of a control register that is cleared. -/
theorem bt_bput_63 (w : W64) : bt (bput w 63 1 0) 63 = false := by
  rw [bt_eq, bput, toNat_w64, fld]
  have := w.isLt
  exact decide_eq_false (by omega)

/-- The fields of a control register as LQCTL_WRITE leaves it; `hi` is EN (R14). -/
theorem lqctl_fields {hi : Nat} (w : W64) (h : hi = 0 ∨ hi = 2 ^ 63) : let u := w64 (hi + (bf w 32 6 * 2 ^ 32 + bf w 16 5 * 2 ^ 16))
    bt u 63 = decide (hi = 2 ^ 63) ∧ bf u 16 5 = bf w 16 5 ∧ bf u 32 6 = bf w 32 6 := by
  intro u
  have h1 := bf_lt w 32 6
  have h2 := bf_lt w 16 5
  refine ⟨?_, ?_, ?_⟩
  · rw [bt_eq, toNat_w64, decide_eq_decide]; omega
  · rw [bf_eq u, toNat_w64]; omega
  · rw [bf_eq u, toNat_w64]; omega

theorem exec_lqtailDoorbell (q v : Nat) (s : State) : exec (.lqtailDoorbell q v) s = execLqtailDoorbell q v s := rfl
theorem exec_lqctlWrite (q v : Nat) (s : State) : exec (.lqctlWrite q v) s = execLqctlWrite q v s := rfl

/-- What a queue with a new control word holds once its EN is cleared (R14, log entry 53). -/
def LQ.emptied (c : W64) (x : LQ) : LQ := { x with ctl := c, head := x.tail, by_ := [], seen := [] }

theorem LQ.emptied_fields (c : W64) (x : LQ) :
    (x.emptied c).ctl = c ∧ (x.emptied c).head = x.tail ∧ (x.emptied c).tail = x.tail ∧ (x.emptied c).base = x.base := ⟨rfl, rfl, rfl, rfl⟩

/-- Clearing EN of a queue (R14, log entry 53). -/
theorem exec_lqctlWrite_disable {s : State} {q v : Nat} (hen : bt (s.lq q).ctl 63 = true) (hw : bt (w64 v) 63 = false) :
    ∃ u : State, u.roster = s.roster ∧ exec (.lqctlWrite q v) s = .next (u.modLq q fun x => x.emptied (bput x.ctl 63 1 0)) := by
  rw [exec_lqctlWrite, execLqctlWrite]
  rw [if_pos hen, if_neg (by rw [hw]; exact Bool.false_ne_true)]
  refine ⟨_, ?_, rfl⟩
  split
  · rfl
  · exact roster_queueEvent s q _

/-- Setting EN of a queue that is disabled (R14). -/
theorem exec_lqctlWrite_enable {s : State} {q v : Nat} (hen : bt (s.lq q).ctl 63 = false) (hw : bt (w64 v) 63 = true)
    (hlo : 4 ≤ bf (w64 v) 16 5) (hhi : bf (w64 v) 16 5 ≤ 16) : exec (.lqctlWrite q v) s = .next (s.modLq q fun x =>
      { x with ctl := w64 (2 ^ 63 + (bf (w64 v) 32 6 * 2 ^ 32 + bf (w64 v) 16 5 * 2 ^ 16)), head := 0, tail := 0, by_ := [], seen := [] }) := by
  rw [exec_lqctlWrite, execLqctlWrite]
  simp only [hen, hw, hlo, hhi, and_self, if_true, Bool.false_eq_true, if_false]

/-- A size out of range leaves the queue disabled (R14). -/
theorem exec_lqctlWrite_refused {s : State} {q v : Nat} (hen : bt (s.lq q).ctl 63 = false)
    (hsize : bf (w64 v) 16 5 < 4 ∨ 16 < bf (w64 v) 16 5) : exec (.lqctlWrite q v) s = .next (s.modLq q fun x =>
      { x with ctl := w64 (bf (w64 v) 32 6 * 2 ^ 32 + bf (w64 v) 16 5 * 2 ^ 16) }) := by
  rw [exec_lqctlWrite, execLqctlWrite]
  have hno : ¬(bt (w64 v) 63 = true ∧ 4 ≤ bf (w64 v) 16 5 ∧ bf (w64 v) 16 5 ≤ 16) := by omega
  simp only [hen, if_neg hno, Bool.false_eq_true, if_false]

-- validation (R10, R15) ---------------------------------------------------------------------------------------------------

theorem exec_manifestValidate (s : State) : exec .manifestValidate s = execManifestValidate s := rfl

theorem any_unasked {l : List Nat} {seen : List HomeAns} :
    (l.any (fun a => !seen.any fun y => y.addr == a) = true) ↔ ¬∀ a ∈ l, ∃ y ∈ seen, y.addr = a := by
  simp

theorem any_unanswered {seen : List HomeAns} : (seen.any (fun y => y.code.isNone) = true) ↔ ¬∀ y ∈ seen, y.code.isSome = true := by
  simp [Option.isSome_iff_ne_none]

/-- The manifest at the head of the queue whose turn it is, read as `raw`. -/
def State.headMan (s : State) (raw : List Byte) : Man :=
  let q := s.subj.item
  let x := s.lq q
  { newMan s.nextId raw q x.job (x.slotVa x.head) (Tab.get .host x.by_ x.head) with accepted := s.time, seen := x.seen }

/-- The device once that manifest is taken from its queue. -/
def State.headTaken (s : State) : State :=
  s.modLq s.subj.item fun x => { x with head := (x.head + 1) % 2 ^ 32, by_ := Tab.erase x.by_ x.head, seen := [] }

/-- R10, R15: STATUS and the event of a manifest that is rejected. -/
def State.rejectMan (s : State) (m : Man) (code : Nat) : State :=
  (s.status m 4 code).event srcHm evReject (some m.job) (w64 (m.slotVa % 2 ^ 57 + code * 2 ^ 57))

/-- R15, R17: a manifest that is accepted takes its number, its place and STATE 1. -/
def State.acceptMan (s : State) (m : Man) : State := ({ s with nextId := s.nextId + 1, mans := enlist m s.mans }).status m 1 0

/-- R28: a handler template becomes that of its mailbox. -/
def State.setTemplate (s : State) (m : Man) : State :=
  { s with mboxes := s.mboxes.map fun b : Mailbox => if b.id = m.mailbox ∧ b.job = m.job then { b with template := some m.id } else b }

def Man.isTemplate (m : Man) : Bool := m.kind == 1 && m.mailbox != 0

theorem Man.isTemplate_iff (m : Man) : m.isTemplate = true ↔ m.kind = 1 ∧ m.mailbox ≠ 0 := by simp [Man.isTemplate]

section
variable {s : State} {raw : List Byte}

/-- A manifest that names homes not yet asked. -/
theorem exec_manifestValidate_ask (hen : bt (s.lq s.subj.item).ctl 63 = true) (hu : (s.lq s.subj.item).used ≠ 0)
    (hr : s.hmRead (s.lq s.subj.item).job ((s.lq s.subj.item).slotVa (s.lq s.subj.item).head) 256 = .ok raw)
    (ha : ¬∀ a ∈ s.farNames (s.headMan raw), ∃ y ∈ (s.lq s.subj.item).seen, y.addr = a) :
    exec .manifestValidate s = .next (s.askHomes s.subj.item (s.headMan raw) (s.farNames (s.headMan raw))) := by
  rw [exec_manifestValidate, execManifestValidate]
  simp only [hen, hu, hr, Bool.not_true, Bool.false_eq_true, or_self, if_false]
  exact if_pos (any_unasked.2 ha)

/-- Homes that have been asked and have not all answered. -/
theorem exec_manifestValidate_wait (hen : bt (s.lq s.subj.item).ctl 63 = true) (hu : (s.lq s.subj.item).used ≠ 0)
    (hr : s.hmRead (s.lq s.subj.item).job ((s.lq s.subj.item).slotVa (s.lq s.subj.item).head) 256 = .ok raw)
    (ha : ∀ a ∈ s.farNames (s.headMan raw), ∃ y ∈ (s.lq s.subj.item).seen, y.addr = a)
    (hy : ¬∀ y ∈ (s.lq s.subj.item).seen, y.code.isSome = true) : exec .manifestValidate s = .next s := by
  rw [exec_manifestValidate, execManifestValidate]
  simp only [hen, hu, hr, Bool.not_true, Bool.false_eq_true, or_self, if_false]
  exact (if_neg (fun h => any_unasked.1 h ha)).trans (if_pos (any_unanswered.2 hy))

section
variable (hen : bt (s.lq s.subj.item).ctl 63 = true) (hu : (s.lq s.subj.item).used ≠ 0)
    (hr : s.hmRead (s.lq s.subj.item).job ((s.lq s.subj.item).slotVa (s.lq s.subj.item).head) 256 = .ok raw)
    (ha : ∀ a ∈ s.farNames (s.headMan raw), ∃ y ∈ (s.lq s.subj.item).seen, y.addr = a)
    (hy : ∀ y ∈ (s.lq s.subj.item).seen, y.code.isSome = true) (hh : s.statusHeld (s.headMan raw) = none)
include hen hu hr ha hy hh

/-- Outcome of the judgement (R10, R15): rejected, accepted, or the template of its mailbox. -/
theorem exec_manifestValidate_judged : exec .manifestValidate s = .next (
    let m := s.headMan raw
    let taken := s.headTaken.healTables m
    if taken.rejectCode m ≠ 0 then (taken.rejectMan m (taken.rejectCode m)).post m
    else if m.isTemplate then (taken.acceptMan { m with eprio := m.prio, st := .template }).setTemplate m
    else taken.acceptMan { m with eprio := m.prio }) := by
  have hfar : ¬_ := fun h => any_unasked.1 h ha
  have hans : ¬_ := fun h => any_unanswered.1 h hy
  have hst : (s.headMan raw).st = .waiting := rfl
  rw [exec_manifestValidate]
  unfold execManifestValidate
  extract_lets q x va by_ r src m far popped taken code told tmpl k listed mark m' taken'
  have hraw : r = .ok raw := hr
  have hm : m = m' := by
    simp only [m, src, hraw]
    rfl
  have htaken : taken = taken' := by
    simp only [taken, hraw]
    rw [hm]
    rfl
  have hf : far = s.farNames m' := by simp only [far, hraw, hm]
  have hcode : code = taken'.rejectCode m' := by simp only [code, hraw, htaken, hm]
  rw [if_neg (by simp [x, q, hen, hu]), hf, if_neg hfar, if_neg hans, hm]
  simp only [show s.statusHeld m' = none from hh, hraw, hcode]
  by_cases hc : taken'.rejectCode m' = 0
  · rw [if_neg (not_not.2 hc), if_neg (not_not.2 hc)]
    cases ht : m'.isTemplate with
    | false =>
      have htmpl : tmpl = false := by rw [← ht]; simp only [tmpl, hm]; rfl
      rw [if_neg (by rw [htmpl]; exact Bool.false_ne_true), if_neg Bool.false_ne_true]
      have hk : k = { m' with eprio := m'.prio } := by
        simp only [k, htmpl, hm, Bool.false_eq_true, if_false]
        rw [← hst]
      simp only [listed, hk, htaken]
      rfl
    | true =>
      have htmpl : tmpl = true := by rw [← ht]; simp only [tmpl, hm]; rfl
      have hk : k = { m' with eprio := m'.prio, st := .template } := by simp only [k, htmpl, hm, if_true]
      rw [if_pos htmpl, if_pos rfl]
      simp only [listed, mark, hk, htaken]
      rfl
  · rw [if_pos hc, if_pos hc]
    simp only [told, htaken, hm, hcode]
    rfl

end
end


/-- A slot that cannot be read (R10 code 0x0C). -/
theorem exec_manifestValidate_unreadable {s : State} {e : Nat} (hen : bt (s.lq s.subj.item).ctl 63 = true)
    (hu : (s.lq s.subj.item).used ≠ 0)
    (hr : s.hmRead (s.lq s.subj.item).job ((s.lq s.subj.item).slotVa (s.lq s.subj.item).head) 256 = .error e)
    (hy : ∀ y ∈ (s.lq s.subj.item).seen, y.code.isSome = true) (hh : s.statusHeld (s.headMan []) = none) :
    exec .manifestValidate s = .next (s.headTaken.rejectMan (s.headMan []) 12) := by
  have hans : ¬_ := fun h => any_unanswered.1 h hy
  rw [exec_manifestValidate]
  unfold execManifestValidate
  extract_lets q x va by_ r src m far popped taken code told tmpl k listed mark
  have hraw : r = .error e := hr
  have hm : m = s.headMan [] := by
    simp only [m, src, hraw]
    rfl
  have hf : far = [] := by simp only [far, hraw]
  have hcode : code = 12 := by simp only [code, hraw]
  have htaken : taken = s.headTaken := by
    simp only [taken, hraw]
    rfl
  rw [if_neg (by simp [x, q, hen, hu]), hf, if_neg (by simp), if_neg hans, hm]
  simp only [hh, hraw, hcode]
  rw [if_pos (by decide)]
  simp only [told, htaken, hm, hcode]
  rfl

/-- A queue with no slot between HEAD and TAIL. -/
theorem exec_manifestValidate_empty {s : State} (hu : (s.lq s.subj.item).used = 0) : exec .manifestValidate s = .next s := by
  rw [exec_manifestValidate]
  unfold execManifestValidate
  exact if_pos (.inr hu)

-- eligibility and ageing (R8, R17) --------------------------------------------------------------------------------------------

theorem withMan_of_man {s : State} {m : Man} (f : Man → State → State) (h : s.man s.subj.item = some m) : withMan s f = .next (f m s) := by
  simp only [withMan, h]

/-- A test of every numbered element of a list. -/
theorem all_numbered {α : Type} (l : List α) (p : Nat × α → Bool) (n : Nat) :
    ((List.range n).zip l).all p = true ↔ ∀ i w, i < n → l[i]? = some w → p (i, w) = true := by
  rw [List.all_eq_true]
  constructor
  · intro h i w hi hw
    refine h (i, w) (List.mem_iff_getElem?.2 ⟨i, ?_⟩)
    rw [List.getElem?_zip_eq_some]
    exact ⟨by rw [List.getElem?_range hi], hw⟩
  · rintro h ⟨i, w⟩ hx
    obtain ⟨j, hj⟩ := List.mem_iff_getElem?.1 hx
    obtain ⟨h1, h2⟩ := List.getElem?_zip_eq_some.1 hj
    obtain ⟨hlt, hval⟩ := List.getElem?_eq_some_iff.1 h1
    rw [List.getElem_range] at hval
    subst hval
    rw [List.length_range] at hlt
    exact h _ w hlt h2

/-- What R8 asks of every wait of a manifest. -/
def State.waitsHold (s : State) (k : Man) : Prop :=
  ∀ i w, i < k.nwait → k.waits[i]? = some w → if s.homeOf k.job w.1 = s.label then s.waitHolds k w = true else i ∈ k.waitsOk

theorem exec_manifestEligible {s : State} {k : Man} (hk : s.man s.subj.item = some k) (hst : k.st = .waiting) :
    (s.waitsHold k → exec .manifestEligible s = .next (s.modMan k.id fun y => { y with st := .eligible, since := s.time })) ∧
    (¬s.waitsHold k → exec .manifestEligible s = .next (s.pollWaits k)) := by
  have he : exec .manifestEligible s = execManifestEligible s := rfl
  have hall : ((List.range k.nwait).zip k.waits).all (fun (i, w) =>
      if s.homeOf k.job w.1 = s.label then s.waitHolds k w else k.waitsOk.contains i) = true ↔ s.waitsHold k := by
    rw [all_numbered]
    refine forall_congr' fun i => forall_congr' fun w => forall_congr' fun _ => forall_congr' fun _ => ?_
    dsimp only
    split <;> simp
  rw [he, execManifestEligible, withMan_of_man _ hk]
  rw [if_neg (not_not.2 hst)]
  constructor
  · intro h
    exact congrArg _ (if_pos (hall.2 h))
  · intro h
    exact congrArg _ (if_neg fun hc => h (hall.1 hc))

theorem exec_manifestAge {s : State} {k : Man} (hk : s.man s.subj.item = some k) :
    exec .manifestAge s = .next (s.modMan k.id fun y => y.aged s.time) := by
  have he : exec .manifestAge s = execManifestAge s := rfl
  rw [he, execManifestAge, withMan_of_man _ hk]

theorem exec_lqtailDoorbell_disabled {s : State} {q : Nat} (v : Nat) (h : ¬bt (s.lq q).ctl 63 = true) :
    exec (.lqtailDoorbell q v) s = .next s := by
  rw [exec_lqtailDoorbell, execLqtailDoorbell]
  simp only [h, Bool.not_false, if_true]

theorem exec_lqtailDoorbell_fits {s : State} {q v : Nat} (hen : bt (s.lq q).ctl 63 = true)
    (hfit : (v % 2 ^ 32 + 2 ^ 32 - (s.lq q).head) % 2 ^ 32 ≤ (s.lq q).slots) :
    exec (.lqtailDoorbell q v) s = .next (s.modLq q fun x => { x with tail := v % 2 ^ 32 }) := by
  rw [exec_lqtailDoorbell, execLqtailDoorbell]
  simp only [hen, Nat.not_lt.2 hfit, Bool.not_true, Bool.false_eq_true, if_false]

theorem exec_lqtailDoorbell_past {s : State} {q v : Nat} (hen : bt (s.lq q).ctl 63 = true)
    (hpast : (s.lq q).slots < (v % 2 ^ 32 + 2 ^ 32 - (s.lq q).head) % 2 ^ 32) : exec (.lqtailDoorbell q v) s = .next (s.queueEvent q v) := by
  rw [exec_lqtailDoorbell, execLqtailDoorbell]
  simp only [hen, hpast, Bool.not_true, Bool.false_eq_true, if_false, if_true]

/-- Settles O38: each clause is the case of its instruction that it names. -/
theorem launchQueuesAndManifests : Obligations.LaunchQueuesAndManifests := by
  refine ⟨fun s q v => ⟨fun hen => ?_, fun hen hfit => ?_, fun hen hpast => ?_, fun hen hw => ?_, fun hen hw => ?_,
    fun hen hw hlo hhi => ?_, fun hen hsize => ?_⟩, fun s raw => ⟨fun hen hu => ⟨fun hr => ⟨fun ha => ?_, fun ha hy => ?_, fun ha hy hh => ?_⟩,
    fun e hr hy hh => ?_⟩, fun hu => ?_, fun k hk hst => ?_, fun k hk => ?_⟩⟩
  case refine_1 => exact exec_lqtailDoorbell_disabled v hen
  case refine_2 => exact exec_lqtailDoorbell_fits hen hfit
  case refine_3 => exact exec_lqtailDoorbell_past hen hpast
  case refine_4 =>
    rw [exec_lqctlWrite, execLqctlWrite]
    exact (if_pos hen).trans (if_pos hw)
  case refine_5 =>
    obtain ⟨u, hu, he⟩ := exec_lqctlWrite_disable hen hw
    have hq : (u.modLq q fun x => x.emptied (bput x.ctl 63 1 0)).lq q = (s.lq q).emptied (bput (s.lq q).ctl 63 1 0) := by
      rw [lq_modLq, if_pos rfl, lq_congr hu]
    obtain ⟨h1, h2, h3, h4⟩ := LQ.emptied_fields (bput (s.lq q).ctl 63 1 0) (s.lq q)
    refine ⟨_, he, ?_⟩
    rw [hq, h1, h2, h3, h4]
    refine ⟨bt_bput_63 _, rfl, rfl, rfl, fun k hk => ?_, ?_⟩
    · rw [lq_modLq, if_neg hk, lq_congr hu]
    · rw [mans_modLq, (roster_fields hu).2.1]
  case refine_6 =>
    obtain ⟨h1, h2, h3⟩ := lqctl_fields (w64 v) (.inr rfl)
    refine ⟨_, exec_lqctlWrite_enable (Bool.eq_false_iff.2 hen) hw hlo hhi, ?_⟩
    simp only [lq_modLq, if_true, LQ.slots, LQ.job]
    exact ⟨h1, by rw [h2], h3, trivial, trivial, trivial, fun k hk => if_neg hk⟩
  case refine_7 =>
    obtain ⟨h1, -, -⟩ := lqctl_fields (w64 v) (.inl rfl)
    rw [Nat.zero_add] at h1
    refine ⟨_, exec_lqctlWrite_refused (Bool.eq_false_iff.2 hen) hsize, ?_⟩
    simp only [lq_modLq, if_true]
    exact ⟨h1, trivial⟩
  case refine_8 => exact exec_manifestValidate_ask hen hu hr ha
  case refine_9 => exact exec_manifestValidate_wait hen hu hr ha hy
  case refine_10 =>
    have he := exec_manifestValidate_judged hen hu hr ha hy hh
    have hid : (s.headTaken.healTables (s.headMan raw)).nextId = s.nextId :=
      (roster_fields (roster_healTables s.headTaken (s.headMan raw))).2.2.2.2.1
    refine ⟨fun hc => ?_, fun hc ht => ?_, fun hc ht => ?_⟩
    · exact he.trans (congrArg _ (if_pos hc))
    · refine he.trans (congrArg _ ((if_neg (not_not.2 hc)).trans ((if_neg fun h => ht ((Man.isTemplate_iff _).1 h)).trans ?_)))
      rw [State.acceptMan, hid]
      rfl
    · refine he.trans (congrArg _ ((if_neg (not_not.2 hc)).trans ((if_pos ((Man.isTemplate_iff _).2 ht)).trans ?_)))
      rw [State.acceptMan, hid]
      rfl
  case refine_11 => exact exec_manifestValidate_unreadable hen hu hr hy hh
  case refine_12 => exact exec_manifestValidate_empty hu
  case refine_13 => exact exec_manifestEligible hk hst
  case refine_14 => exact exec_manifestAge hk

end Sys2Proof.Machine
end

section
/-! SUPPORT. What the messages of the harbourmaster change: the ports that carry them, and the requests that wait for answers. -/

namespace Sys2Proof.Machine
open Sys2Proof

/-- A packet changes the port that carries it alone. -/
theorem queuePacket_frame {s t : State} {p : Packet} {fresh : Bool} (h : s.queuePacket p fresh = some t) :
    t = { s with ports := t.ports } := by
  unfold State.queuePacket at h
  split at h
  · cases h; rfl
  · obtain ⟨q, -, rfl⟩ := Option.map_eq_some_iff.1 h
    rfl

theorem hmSend_frame (s : State) (h : PkHdr) (data : List Byte) :
    (s.hmSend h data).getD s = { s with ports := ((s.hmSend h data).getD s).ports } := by
  cases hs : s.hmSend h data with
  | none => rfl
  | some t => exact queuePacket_frame (t := t) hs

/-- A fold of steps that change the ports alone does no more. -/
theorem foldl_ports {α : Type} (f : State → α → State) (h : ∀ s a, f s a = { s with ports := (f s a).ports }) (l : List α) (s : State) :
    l.foldl f s = { s with ports := (l.foldl f s).ports } := by
  refine foldl_inv (fun t => t = { s with ports := t.ports }) f (fun t a ht => ?_) l s rfl
  rw [h t a]
  generalize (f t a).ports = q
  rw [ht]

theorem notify_frame (s : State) (m : Man) (kind code : Nat) (l : List Nat) :
    s.notify m kind code l = { s with ports := (s.notify m kind code l).ports } :=
  foldl_ports _ (fun s _ => hmSend_frame s _ _) _ _

theorem spread_frame (s : State) (m : Man) (kind code src : Nat) :
    s.spread m kind code src = { s with ports := (s.spread m kind code src).ports } := by
  unfold State.spread
  split
  · rfl
  · exact notify_frame s m kind code _

theorem tellHomes_frame (s : State) (m : Man) (kind b n phases : Nat) :
    s.tellHomes m kind b n phases = { s with ports := (s.tellHomes m kind b n phases).ports } :=
  foldl_ports _ (fun s _ => hmSend_frame s _ _) _ _

/-- A request changes its port, and is listed under a tag of its own. -/
theorem request_frame {s t : State} {who : Waiter} {off len n : Nat} {h : PkHdr} {data : List Byte}
    (hr : s.request who off len h data = some (n, t)) : t = { s with ports := t.ports, reqs := t.reqs, nextTag := t.nextTag } := by
  unfold State.request at hr
  obtain ⟨u, hu, he⟩ := Option.map_eq_some_iff.1 hr
  cases he
  rw [queuePacket_frame (t := u) hu]

/-- A request that finds no way is none; another adds its entry to the list. -/
theorem request_cases (s : State) (who : Waiter) (off len : Nat) (h : PkHdr) (data : List Byte) :
    (s.queuePacket (mkPacket { h with tag := s.newTag, src := s.label } data) true = none ∧ s.request who off len h data = none) ∨
    ∃ t since, s.queuePacket (mkPacket { h with tag := s.newTag, src := s.label } data) true = some t ∧
      s.request who off len h data =
        some (s.newTag, { t with nextTag := (s.newTag + 1) % 65536, reqs := t.reqs ++ [⟨s.newTag, who, since, off, len⟩] }) := by
  unfold State.request
  dsimp only
  cases hq : s.queuePacket (mkPacket { h with tag := s.newTag, src := s.label } data) true with
  | none => exact .inl ⟨rfl, rfl⟩
  | some t => exact .inr ⟨t, _, rfl, rfl⟩

/-- One device is told that berth-threads are gone. -/
def State.tellOne (m : Man) (b n undo : Nat) (s : State) (l : Nat) : State :=
  ((s.request (.hm m.id) goneOff 0 (s.hmHdr 9 l m.job 0 0 0 false) (homeRec m noticeGone b n undo).bytes).map Prod.snd).getD s

theorem tellGone_eq (s : State) (m : Man) (b n undo : Nat) : s.tellGone m b n undo = s.others.foldl (State.tellOne m b n undo) s := by
  have hf : ∀ (s : State) (l : Nat), (match s.request (.hm m.id) goneOff 0 (s.hmHdr 9 l m.job 0 0 0 false)
      (homeRec m noticeGone b n undo).bytes with | some (_, s) => s | none => s) = State.tellOne m b n undo s l := by
    intro s l
    unfold State.tellOne
    cases s.request (.hm m.id) goneOff 0 (s.hmHdr 9 l m.job 0 0 0 false) (homeRec m noticeGone b n undo).bytes <;> rfl
  exact congrArg (fun f => s.others.foldl f s) (funext fun s => funext fun l => hf s l)

/-- Fields that telling the other devices changes: the ports, and the list of requests. -/
def State.wired (s t : State) : Prop := t = { s with ports := t.ports, reqs := t.reqs, nextTag := t.nextTag }

theorem wired_tellOne (m : Man) (b n undo : Nat) (s : State) (l : Nat) : s.wired (s.tellOne m b n undo l) := by
  unfold State.tellOne
  cases hr : s.request (.hm m.id) goneOff 0 (s.hmHdr 9 l m.job 0 0 0 false) (homeRec m noticeGone b n undo).bytes with
  | none => rfl
  | some x => exact request_frame (n := x.1) (t := x.2) hr

theorem wired_trans {s t u : State} (h : s.wired t) (k : t.wired u) : s.wired u := by
  unfold State.wired at *
  rw [k]
  generalize u.ports = p, u.reqs = r, u.nextTag = n
  rw [h]

theorem wired_tellGone (s : State) (m : Man) (b n undo : Nat) : s.wired (s.tellGone m b n undo) := by
  rw [tellGone_eq]
  exact foldl_inv s.wired _ (fun t l ht => wired_trans ht (wired_tellOne m b n undo t l)) _ s rfl

/-- A packet leaves every port as far down as it was, so every route stands. -/
theorem route_queuePacket {s t : State} {p : Packet} {fresh : Bool} (h : s.queuePacket p fresh = some t) (l : Nat) : t.route l = s.route l := by
  have hdown : ∀ k, (t.port k).down = (s.port k).down := by
    intro k
    unfold State.queuePacket at h
    split at h
    · cases h
      simp only [State.port, State.modPort, Tab.get_upd]
      split
      next hk => rw [hk]
      next => rfl
    · obtain ⟨q, -, rfl⟩ := Option.map_eq_some_iff.1 h
      simp only [State.port, State.modPort, Tab.get_upd]
      split
      next hk => rw [hk]
      next => rfl
  have hf := queuePacket_frame h
  have hup : ∀ k, t.portUp k = s.portUp k := by
    intro k
    rw [State.portUp, State.portUp, hdown k, hf]
    rfl
  have hdim : ∀ d, t.dimPort d = s.dimPort d := by intro d; rw [hf]; rfl
  have hlabel : t.label = s.label := by rw [hf]; rfl
  have hndim : t.ndim = s.ndim := by rw [hf]; rfl
  simp only [State.route, hdim, hup, hlabel, hndim]

theorem route_tellOne (m : Man) (b n undo : Nat) (s : State) (l k : Nat) : (s.tellOne m b n undo l).route k = s.route k := by
  unfold State.tellOne
  obtain ⟨-, hr⟩ | ⟨t, since, hq, hr⟩ := request_cases s (.hm m.id) goneOff 0 (s.hmHdr 9 l m.job 0 0 0 false) (homeRec m noticeGone b n undo).bytes
  · rw [hr]; rfl
  · rw [hr]; exact route_queuePacket hq k

/-- A packet's header names the device it goes to. -/
theorem pkDst_mkPacket (h : PkHdr) (data : List Byte) (hd : h.dst < 1024) : pkDst (mkPacket h data) = h.dst := by
  have hw : pkW (mkPacket h data) 1 = (h.dst + h.src * 65536 + h.job * 2 ^ 26) % 2 ^ 32 := by
    simp only [pkW, mkPacket, List.cons_append, List.getD_cons_succ, List.getD_cons_zero, BitVec.toNat_ofNat]
  rw [pkDst, hw, fld]
  omega

theorem goneOpen_tellOne_mono (m : Man) (b n undo : Nat) (s : State) (l : Nat) (h : s.goneOpen m = true) :
    (s.tellOne m b n undo l).goneOpen m = true := by
  unfold State.tellOne
  obtain ⟨-, hr⟩ | ⟨t, since, hq, hr⟩ := request_cases s (.hm m.id) goneOff 0 (s.hmHdr 9 l m.job 0 0 0 false) (homeRec m noticeGone b n undo).bytes
  · rw [hr]; exact h
  · have hreqs : t.reqs = s.reqs := by rw [queuePacket_frame hq]
    rw [hr]
    simp only [Option.map_some, Option.getD_some, State.goneOpen, hreqs, List.any_append, Bool.or_eq_true]
    exact Or.inl h

/-- A device that can be reached is asked. -/
theorem goneOpen_tellOne (m : Man) (b n undo : Nat) (s : State) (l : Nat) (hl : l < 1024) (hr : (s.route l).isSome = true) :
    (s.tellOne m b n undo l).goneOpen m = true := by
  obtain ⟨p, hp⟩ := Option.isSome_iff_exists.1 hr
  unfold State.tellOne
  obtain ⟨hq, -⟩ | ⟨t, since, hq, hr⟩ := request_cases s (.hm m.id) goneOff 0 (s.hmHdr 9 l m.job 0 0 0 false) (homeRec m noticeGone b n undo).bytes
  · unfold State.queuePacket at hq
    rw [pkDst_mkPacket _ _ hl] at hq
    split at hq
    · cases hq
    · have hno := Option.map_eq_none_iff.1 hq
      exact absurd (hp.symm.trans hno) (by simp)
  · rw [hr]
    simp [State.goneOpen]

/-- One device that can be reached is enough for an answer to be awaited. -/
theorem goneOpen_tellGone {s : State} (m : Man) (b n undo : Nat) (hn : s.ndim ≤ 10) (h : ∃ l ∈ s.others, (s.route l).isSome = true) :
    (s.tellGone m b n undo).goneOpen m = true := by
  obtain ⟨l, hl, hr⟩ := h
  have hlt : l < 1024 := by
    have h1 := List.mem_range.1 (List.mem_filter.1 hl).1
    have h2 : 2 ^ s.ndim ≤ 2 ^ 10 := Nat.pow_le_pow_right (by decide) hn
    omega
  rw [tellGone_eq]
  obtain ⟨l1, l2, hsplit⟩ := List.append_of_mem hl
  rw [hsplit, List.foldl_append, List.foldl_cons]
  refine foldl_inv (fun t => t.goneOpen m = true) _ (fun t k ht => goneOpen_tellOne_mono m b n undo t k ht) _ _ ?_
  refine goneOpen_tellOne m b n undo _ l hlt ?_
  have hroute := foldl_keeps (fun t : State => t.route l) (State.tellOne m b n undo) (fun t k => route_tellOne m b n undo t k l) l1 s
  exact (congrArg Option.isSome hroute).trans hr

end Sys2Proof.Machine
end

section
/-! SUPPORT. What a team leaves on a device once it is cleared away (spec/01 R30, spec/09 R137). -/

namespace Sys2Proof.Machine
open Sys2Proof

/-- A key reads as `x`, and is not listed where that is what an unlisted key reads as. -/
def Tab.cell {α : Type} (z : α) (t : Tab α) (i : Nat) (x : α) : Prop := Tab.get z t i = x ∧ (x = z → ∀ e ∈ t, e.1 ≠ i)

theorem Tab.not_mem_erase {α : Type} (t : Tab α) (i : Nat) : ∀ e ∈ Tab.erase t i, e.1 ≠ i := by
  induction t with
  | nil => simp [Tab.erase]
  | cons e t ih =>
    intro x hx
    rw [Tab.erase] at hx
    split at hx
    next => exact ih x hx
    next hne =>
      rcases List.mem_cons.1 hx with rfl | hx
      · exact fun h => hne h.symm
      · exact ih x hx

theorem Tab.cell_set_same {α : Type} [DecidableEq α] (z : α) (t : Tab α) (i : Nat) (x : α) : Tab.cell z (Tab.set z t i x) i x := by
  refine ⟨by rw [Tab.get_set, if_pos rfl], fun h => ?_⟩
  rw [Tab.set, if_pos h]
  exact Tab.not_mem_erase t i

theorem Tab.cell_set_ne {α : Type} [DecidableEq α] {z : α} {t : Tab α} {i k : Nat} {x : α} (y : α) (hk : k ≠ i) (h : Tab.cell z t i x) :
    Tab.cell z (Tab.set z t k y) i x := by
  refine ⟨by rw [Tab.get_set, if_neg hk.symm, h.1], fun hx => ?_⟩
  have hall : t.all (fun e => decide (e.1 ≠ i)) = true := List.all_eq_true.2 fun e he => decide_eq_true (h.2 hx e he)
  have hset : (Tab.set z t k y).all (fun e => decide (e.1 ≠ i)) = true := by
    rw [Tab.set]
    split
    · exact Tab.all_erase _ t k hall
    · exact Tab.all_insert _ t k y (decide_eq_true hk) hall
  exact fun e he => of_decide_eq_true (List.all_eq_true.1 hset e he)

/-- A sweep of a table: each entry changed, and those that read as unlisted dropped. -/
def Tab.sweep {α : Type} [DecidableEq α] (z : α) (f : α → α) (t : Tab α) : Tab α := (t.map fun e => (e.1, f e.2)).filter fun e => e.2 != z

theorem Tab.get_absent {α : Type} (z : α) (t : Tab α) (i : Nat) (h : ∀ e ∈ t, e.1 ≠ i) : Tab.get z t i = z := by
  induction t with
  | nil => rfl
  | cons e t ih =>
    rw [Tab.get, if_neg fun hi => h e List.mem_cons_self hi.symm]
    exact ih fun x hx => h x (List.mem_cons_of_mem _ hx)

theorem Tab.get_sweep {α : Type} [DecidableEq α] {z : α} {f : α → α} {t : Tab α} {i : Nat} {x : α} (h : Tab.cell z t i x) (hf : f x = x) :
    Tab.get z (Tab.sweep z f t) i = x := by
  obtain ⟨hget, habs⟩ := h
  by_cases hx : x = z
  · rw [Tab.get_absent _ _ _ fun e he => ?_, hx]
    obtain ⟨y, hy, rfl⟩ := List.mem_map.1 (List.mem_filter.1 he).1
    exact habs hx y hy
  · induction t with
    | nil => exact absurd hget.symm hx
    | cons e t ih =>
      rw [Tab.get] at hget
      have hcons : Tab.sweep z f (e :: t) = if f e.2 != z then (e.1, f e.2) :: Tab.sweep z f t else Tab.sweep z f t := by
        simp only [Tab.sweep, List.map_cons, List.filter_cons]
      by_cases hi : i = e.1
      · rw [if_pos hi] at hget
        rw [hcons, hget, hf, if_pos (by simpa using hx), Tab.get, if_pos hi]
      · rw [if_neg hi] at hget
        have ht := ih hget (fun h => absurd h hx)
        rw [hcons]
        split
        · rw [Tab.get, if_neg hi, ht]
        · exact ht

-- berths freed (R30) ------------------------------------------------------------------------------------------------------

/-- Whether a team's berth-thread still has a berth. -/
def Berth.ofMan (m : Man) (x : Berth) : Prop := x.ctx.team = m.id ∧ x.placed = true ∧ ¬x.retired = true

/-- One berth of a team that is cleared away. -/
def State.freeOne (m : Man) (s : State) (b : Nat) : State :=
  if (s.ctxAt b).team = m.id ∧ (s.berth b).placed ∧ !(s.berth b).retired then s.modBerth b Berth.free else s

theorem freeOne_of (m : Man) (s : State) (b : Nat) (h : (s.berth b).ofMan m) : s.freeOne m b = s.modBerth b Berth.free := by
  obtain ⟨h1, h2, h3⟩ := h
  exact if_pos ⟨h1, h2, by rw [Bool.eq_false_iff.2 h3]; rfl⟩

theorem freeOne_not (m : Man) (s : State) (b : Nat) (h : ¬(s.berth b).ofMan m) : s.freeOne m b = s := by
  refine if_neg fun hc => h ?_
  obtain ⟨h1, h2, h3⟩ := hc
  exact ⟨h1, h2, by simpa using h3⟩

theorem Berth.free_not_ofMan (m : Man) (x : Berth) : ¬x.free.ofMan m := fun h => Bool.false_ne_true h.2.1

/-- A berth that is free stays so. -/
theorem cell_freeOne {m : Man} {s : State} {b : Nat} {x : Berth} (k : Nat) (h : Tab.cell Berth.idle s.berths b x.free) :
    Tab.cell Berth.idle (s.freeOne m k).berths b x.free := by
  by_cases hk : (s.berth k).ofMan m
  · have hne : k ≠ b := by
      rintro rfl
      exact Berth.free_not_ofMan m x (by rwa [← show s.berth k = x.free from h.1])
    rw [freeOne_of m s k hk]
    exact Tab.cell_set_ne _ hne h
  · rw [freeOne_not m s k hk]
    exact h

theorem cell_freed {m : Man} {b : Nat} {x : Berth} (l : List Nat) (s : State) (hb : b ∈ l) (hx : s.berth b = x) (hm : x.ofMan m) :
    Tab.cell Berth.idle (l.foldl (State.freeOne m) s).berths b x.free := by
  induction l generalizing s with
  | nil => cases hb
  | cons k l ih =>
    rw [List.foldl_cons]
    by_cases hk : k = b
    · refine foldl_inv (fun t : State => Tab.cell Berth.idle t.berths b x.free) _ (fun t j ht => cell_freeOne j ht) l _ ?_
      rw [hk, freeOne_of m s b (by rw [hx]; exact hm), ← hx]
      exact Tab.cell_set_same _ _ _ _
    · refine ih _ ((List.mem_cons.1 hb).resolve_left fun h => hk h.symm) ?_
      rw [State.freeOne]
      split
      · rw [berth_modBerth, if_neg fun h => hk h.symm, hx]
      · exact hx

/-- Images that are not of a team. -/
def Berth.without (m : Man) (x : Berth) : Berth := { x with pool := x.pool.filter fun i : Image => i.ctx.team != m.id }

theorem Berth.without_free {m : Man} {x : Berth} (h : ∀ i ∈ x.pool, i.ctx.team ≠ m.id) : x.free.without m = x.free := by
  have hp : x.free.pool = x.pool := rfl
  unfold Berth.without
  rw [hp, List.filter_eq_self.2 fun i hi => by simpa using h i hi]
  rfl

theorem clearTeam_eq (s : State) (m : Man) : s.clearTeam m = { m.held.foldl (State.freeOne m) s with
    codeStore := (m.held.foldl (State.freeOne m) s).codeStore.filter fun e => e.1 != m.id
    dock := (m.held.foldl (State.freeOne m) s).dock.filter fun i : Image => i.ctx.team != m.id
    berths := Tab.sweep Berth.idle (Berth.without m) (m.held.foldl (State.freeOne m) s).berths } := rfl

theorem berth_clearTeam {s : State} {m : Man} {b : Nat} (hb : b ∈ m.held) (hm : (s.berth b).ofMan m)
    (hp : ∀ i ∈ (s.berth b).pool, i.ctx.team ≠ m.id) : (s.clearTeam m).berth b = (s.berth b).free :=
  Tab.get_sweep (cell_freed m.held s hb rfl hm) (Berth.without_free hp)

/-- Clearing a team away changes berths, the code store and the dock store. -/
theorem clearTeam_frame (s : State) (m : Man) : s.clearTeam m =
    { s with berths := (s.clearTeam m).berths, codeStore := (s.clearTeam m).codeStore, dock := (s.clearTeam m).dock } := by
  have hf : ∃ l, m.held.foldl (State.freeOne m) s = { s with berths := l } := by
    refine foldl_inv (fun t : State => ∃ l, t = { s with berths := l }) _ ?_ _ s ⟨_, rfl⟩
    rintro t k ⟨l, rfl⟩
    unfold State.freeOne
    split
    · exact ⟨_, rfl⟩
    · exact ⟨_, rfl⟩
  obtain ⟨l, hl⟩ := hf
  rw [clearTeam_eq, hl]

-- regions returned (spec/09 R137) -------------------------------------------------------------------------------------------

/-- A region once a team's parties have no part in it. -/
def State.regionBack (s : State) (t : Party → Bool) (r : Region) : Region :=
  let r := dropShares t r
  if r.st ≠ .quarantined ∧ (t r.owner || r.stack.any t) then
    match lowestOrigin t r.stack with
    | some (p, below) => s.giveTo p below r
    | none => r
  else r

theorem dropShares_fields (t : Party → Bool) (r : Region) : let d := dropShares t r
    d.job = r.job ∧ d.exporter = r.exporter ∧ d.base = r.base ∧ d.log2 = r.log2 ∧ d.owner = r.owner ∧ d.stack = r.stack ∧
      d.shares = r.shares.filter (fun x => !t x.1) := by
  intro d
  simp only [d, dropShares]
  split
  · exact ⟨rfl, rfl, rfl, rfl, rfl, rfl, rfl⟩
  next h =>
    refine ⟨rfl, rfl, rfl, rfl, rfl, rfl, (List.filter_eq_self.2 fun x hx => ?_).symm⟩
    rw [Bool.not_eq_true']
    exact Bool.eq_false_iff.2 fun hc => h (List.any_eq_true.2 ⟨x, hx, hc⟩)

theorem dropShares_quarantined (t : Party → Bool) (r : Region) (h : r.st ≠ .quarantined) : (dropShares t r).st ≠ .quarantined := by
  simp only [dropShares]
  split
  · dsimp only
    split
    · decide
    · exact h
  · exact h

theorem lowestOrigin_none {t : Party → Bool} {l : List Party} (h : ∀ q ∈ l, t q = true) : lowestOrigin t l = none := by
  induction l with
  | nil => rfl
  | cons p l ih =>
    rw [lowestOrigin, ih fun q hq => h q (List.mem_cons_of_mem _ hq)]
    simp [h p List.mem_cons_self]

theorem lowestOrigin_append {t : Party → Bool} (above : List Party) {p : Party} {below : List Party} (hp : t p = false)
    (hb : ∀ q ∈ below, t q = true) : lowestOrigin t (above ++ p :: below) = some (p, below) := by
  induction above with
  | nil =>
    rw [List.nil_append, lowestOrigin, lowestOrigin_none hb]
    simp [hp]
  | cons a above ih => rw [List.cons_append, lowestOrigin, ih]

/-- What R137 leaves of every region, and what of its owner, its stack and its shares it changes. -/
theorem regionBack_spec (s : State) (t : Party → Bool) (r : Region) : let d := s.regionBack t r
    d.job = r.job ∧ d.exporter = r.exporter ∧ d.base = r.base ∧ d.log2 = r.log2 ∧ d.shares = r.shares.filter (fun x => !t x.1) ∧
    (∀ above p below, r.st ≠ .quarantined → (t r.owner = true ∨ ∃ q ∈ r.stack, t q = true) → r.stack = above ++ p :: below →
      t p = false → (∀ q ∈ below, t q = true) → d.owner = p ∧ d.stack = below) ∧
    (t r.owner = false → (∀ q ∈ r.stack, t q = false) → d.owner = r.owner ∧ d.stack = r.stack) := by
  intro d
  obtain ⟨h1, h2, h3, h4, h5, h6, h7⟩ := dropShares_fields t r
  have hkeep : d.job = r.job ∧ d.exporter = r.exporter ∧ d.base = r.base ∧ d.log2 = r.log2 ∧ d.shares = r.shares.filter (fun x => !t x.1) := by
    simp only [d, State.regionBack]
    split
    · split
      · exact ⟨h1, h2, h3, h4, h7⟩
      · exact ⟨h1, h2, h3, h4, h7⟩
    · exact ⟨h1, h2, h3, h4, h7⟩
  obtain ⟨k1, k2, k3, k4, k5⟩ := hkeep
  refine ⟨k1, k2, k3, k4, k5, fun above p below hq hpart hst hp hb => ?_, fun ho hst => ?_⟩
  · have hpart' : (t r.owner || r.stack.any t) = true := by
      rw [Bool.or_eq_true, List.any_eq_true]
      exact hpart
    simp only [d, State.regionBack]
    rw [if_pos ⟨dropShares_quarantined t r hq, by rw [h5, h6]; exact hpart'⟩, h6, hst, lowestOrigin_append above hp hb]
    exact ⟨rfl, rfl⟩
  · have hpart' : (t r.owner || r.stack.any t) = false := by
      rw [ho, Bool.false_or, List.any_eq_false]
      exact fun q hq => by rw [hst q hq]; exact Bool.false_ne_true
    simp only [d, State.regionBack]
    rw [if_neg fun h => Bool.false_ne_true (by rw [← hpart', ← h.2, h5, h6])]
    exact ⟨h5, h6⟩

end Sys2Proof.Machine
end

section
/-! PROOF. The end of a team (spec/01 R29-R31, spec/09 R137, spec/21 R301). -/

namespace Sys2Proof.Machine
open Sys2Proof

theorem exec_teamRetire (s : State) : exec .teamRetire s = execTeamRetire s := rfl
theorem exec_budgetExpiry (s : State) : exec .budgetExpiry s = execBudgetExpiry s := rfl
theorem exec_wharfStreamDone (s : State) : exec .wharfStreamDone s = execWharfStreamDone s := rfl

/-- A manifest whose retirement has begun (R30). -/
def Man.closed (m : Man) : Man := { m with st := .retiring, closing := true, awaits := [] }

/-- STATUS and POST of a team, and its end (R30). -/
def State.retired (s : State) (m : Man) : State :=
  ((s.status m (if m.code = 0 then 3 else 5) m.code).post m).modMan m.id fun y => { y with st := .retired }

theorem status_closed (s : State) (m : Man) (st code : Nat) : s.status m.closed st code = s.status m st code := by
  have hwrites : m.closed.writes = m.writes := rfl
  have hjob : m.closed.job = m.job := rfl
  have hva : m.closed.slotVa = m.slotVa := rfl
  unfold State.status Man.statusVa
  rw [hwrites, hjob, hva]
theorem post_closed (s : State) (m : Man) : s.post m.closed = s.post m := by
  have hnum : m.closed.num = m.num := rfl
  have hposts : m.closed.posts = m.posts := rfl
  have hseen : m.closed.seen = m.seen := rfl
  have hjob : m.closed.job = m.job := rfl
  have hid : m.closed.id = m.id := rfl
  unfold State.post
  rw [hnum, hposts, hseen, hjob, hid]
theorem retired_closed (s : State) (m : Man) : s.retired m.closed = s.retired m := by
  have hcode : m.closed.code = m.code := rfl
  have hid : m.closed.id = m.id := rfl
  rw [State.retired, State.retired, hcode, hid, status_closed, post_closed]

theorem retireEnd_eq {s : State} {m : Man} (hm : m.mbox = none) (ho : m.origin = none) : s.retireEnd m = (s.clearTeam m).retired m := by
  have hdrop : (s.clearTeam m).dropPending m = s.clearTeam m := by rw [State.dropPending, hm]
  have hstatus : (if m.writes then (s.clearTeam m).status m (if m.code = 0 then 3 else 5) m.code
      else if m.mbox.isSome ∧ m.origin.isNone ∧ m.code ≠ 0 then (s.clearTeam m).event srcHm m.code (some m.job) m.endData
      else s.clearTeam m) = (s.clearTeam m).status m (if m.code = 0 then 3 else 5) m.code := by
    cases hw : m.writes with
    | true => rfl
    | false =>
      rw [if_neg Bool.false_ne_true, if_neg (by rw [hm]; simp), State.status, hw]
      rfl
  unfold State.retireEnd
  dsimp only
  rw [hdrop, hstatus, ho]
  rfl

theorem man_retired {s : State} {m k : Man} (h : s.man m.id = some k) : ((s.retired m).man m.id).map Man.st = some .retired := by
  have hmans : ((s.status m (if m.code = 0 then 3 else 5) m.code).post m).man m.id = s.man m.id := by
    have hr : ((s.status m (if m.code = 0 then 3 else 5) m.code).post m).roster = s.roster := by rw [roster_post, roster_status]
    rw [State.man, (roster_fields hr).2.1]
    rfl
  rw [State.retired, man_modMan_same (m := k) (fun y => { y with st := .retired }) (fun _ => rfl) (hmans.trans h)]
  rfl

/-- R30: a team's berths are free, and nothing of it is left in the stores of code and of images. -/
def State.freed (s t : State) (m : Man) : Prop :=
  (∀ b ∈ m.held, (s.ctxAt b).team = m.id → (s.berth b).placed = true → (s.berth b).retired = false →
    (∀ i ∈ (s.berth b).pool, i.ctx.team ≠ m.id) → (t.berth b).st = .idle ∧ (t.berth b).im = [] ∧ (t.berth b).ctx = Ctx.start) ∧
  (∀ e ∈ t.codeStore, e.1 ≠ m.id) ∧ (∀ i ∈ t.dock, i.ctx.team ≠ m.id)

theorem freed_clearTeam {s u : State} (m : Man) (h : u.berths = s.berths) : s.freed (u.clearTeam m) m := by
  refine ⟨fun b hb ht hp hr hpool => ?_, fun e he => ?_, fun i hi => ?_⟩
  · have hub : u.berth b = s.berth b := by rw [State.berth, h]; rfl
    have hof : (u.berth b).ofMan m := by
      rw [hub]
      exact ⟨ht, hp, by rw [hr]; exact Bool.false_ne_true⟩
    rw [berth_clearTeam hb hof (by rw [hub]; exact hpool)]
    exact ⟨rfl, rfl, rfl⟩
  · rw [clearTeam_eq] at he
    simpa using (List.mem_filter.1 he).2
  · rw [clearTeam_eq] at hi
    simpa using (List.mem_filter.1 hi).2

theorem freed_congr {s t u : State} {m : Man} (h : s.freed t m) (hb : u.berths = t.berths) (hc : u.codeStore = t.codeStore)
    (hd : u.dock = t.dock) : s.freed u m := by
  unfold State.freed State.berth at *
  rw [hb, hc, hd]
  exact h

theorem freed_of_closed {s t : State} {m : Man} (h : s.freed t m.closed) : s.freed t m := by
  have hheld : m.closed.held = m.held := rfl
  have hid : m.closed.id = m.id := rfl
  unfold State.freed at *
  rw [hheld, hid] at h
  exact h

theorem freed_retired {s t : State} {m : Man} (h : s.freed t m) : s.freed (t.retired m) m := by
  have hr : ((t.status m (if m.code = 0 then 3 else 5) m.code).post m).roster = t.roster := by rw [roster_post, roster_status]
  obtain ⟨hb, -, hc, hd, -⟩ := roster_fields hr
  exact freed_congr h hb hc hd

/-- R137: what a team's retirement makes of the regions. -/
def State.returned (s t : State) (m : Man) : Prop := ∃ f : Region → Region, t.regions = s.regions.map f ∧ ∀ r ∈ s.regions,
  (f r).job = r.job ∧ (f r).exporter = r.exporter ∧ (f r).base = r.base ∧ (f r).log2 = r.log2 ∧
  (f r).shares = r.shares.filter (fun x => !ofTeam m.id x.1) ∧
  (∀ above p below, r.st ≠ .quarantined → (ofTeam m.id r.owner = true ∨ ∃ q ∈ r.stack, ofTeam m.id q = true) → r.stack = above ++ p :: below →
    ofTeam m.id p = false → (∀ q ∈ below, ofTeam m.id q = true) → (f r).owner = p ∧ (f r).stack = below) ∧
  (ofTeam m.id r.owner = false → (∀ q ∈ r.stack, ofTeam m.id q = false) → (f r).owner = r.owner ∧ (f r).stack = r.stack)

theorem returned_of_regions {s t : State} {m : Man} (h : t.regions = (s.returnRegions (ofTeam m.id)).regions) : s.returned t m :=
  ⟨_, h, fun r _ => regionBack_spec s (ofTeam m.id) r⟩

theorem clearTokens_wired (s : State) (m : Man) : (s.returnRegions (ofTeam m.id)).wired (s.clearTokens m) := wired_tellGone _ m m.base m.aligned 0

theorem clearTokens_alone {s : State} (m : Man) (h : s.others = []) : s.clearTokens m = s.returnRegions (ofTeam m.id) := by
  rw [State.clearTokens, tellGone_eq, show (s.returnRegions (ofTeam m.id)).others = [] from h]
  rfl

theorem retireBegin_eq (s : State) {m : Man} (code : Nat) (h : m.top ≤ 7) :
    s.retireBegin m code = (s.clearTokens m).modMan m.id Man.closed := by
  have hk : s.teamKids m = [] := if_neg (by omega)
  unfold State.retireBegin
  rw [hk]
  rfl

section
variable {s : State} {m : Man} (hm : s.man s.subj.item = some m) (hkind : m.kind = 1) (htop : m.top ≤ 7) (horigin : m.origin = none)
    (hheld : s.statusHeld m = none) (hexit : m.allExited = true) (hrun : m.st = .running ∨ m.st = .preempting) (hopen : m.closing = false)
include hm hkind htop horigin hheld hexit hrun hopen

/-- The first step of a retirement, on a team of one device (R30). -/
theorem exec_teamRetire_begin : exec .teamRetire s = .next (
    let u := (s.clearTokens m).modMan m.id Man.closed
    if u.goneOpen m = true then u else u.retireDone m.closed) := by
  have hkids : s.teamKids m = [] := if_neg (by omega)
  have hst : m.st ≠ .template := by rcases hrun with h | h <;> rw [h] <;> decide
  have hover : m.over [] = true := by
    rw [Man.over, hexit]
    rcases hrun with h | h <;> rw [h] <;> rfl
  have hman : ((s.clearTokens m).modMan m.id Man.closed).man m.id = some m.closed := by
    refine man_modMan_same Man.closed (fun _ => rfl) ?_
    have hw : (s.clearTokens m).mans = s.mans := by rw [clearTokens_wired s m]; rfl
    rw [State.man, hw, man_id hm]
    exact hm
  rw [exec_teamRetire, execTeamRetire, withMan_of_man _ hm]
  rw [hkids]
  simp only [hkind, hst, hopen, hover, hheld, horigin, retireBegin_eq s m.code htop, hman, ne_eq, not_true_eq_false, Bool.not_true,
    Bool.false_eq_true, if_false, Option.getD_none]
  have hawaits : m.closed.awaits = [] := rfl
  have hgo : ((s.clearTokens m).modMan m.id Man.closed).goneOpen m.closed = ((s.clearTokens m).modMan m.id Man.closed).goneOpen m := rfl
  rw [hawaits, hgo]
  cases ((s.clearTokens m).modMan m.id Man.closed).goneOpen m with
  | true => rw [if_pos rfl, if_neg (by simp)]
  | false => rw [if_neg Bool.false_ne_true, if_pos ⟨rfl, rfl⟩]

/-- A team of the only device of its cube is gone in one step (R30, R137). -/
theorem exec_teamRetire_alone (hbox : m.mbox = none) (hgone : s.goneOpen m = false) (halone : s.others = []) :
    ∃ σ, exec .teamRetire s = .next (σ.retired m) ∧ σ.man m.id = some m.closed ∧ s.returned σ m ∧ s.freed σ m ∧ σ.hbm = s.hbm := by
  have hmid : s.man m.id = some m := by rw [man_id hm]; exact hm
  refine ⟨((s.clearTokens m).modMan m.id Man.closed).clearTeam m.closed, ?_, ?_, ?_, ?_, ?_⟩
  · have hopen' : ((s.clearTokens m).modMan m.id Man.closed).goneOpen m = false := by
      rw [clearTokens_alone m halone]
      exact hgone
    rw [exec_teamRetire_begin hm hkind htop horigin hheld hexit hrun hopen]
    dsimp only
    rw [hopen', if_neg Bool.false_ne_true, State.retireDone, show m.closed.origin = none from horigin]
    exact congrArg _ ((retireEnd_eq (m := m.closed) hbox horigin).trans (retired_closed _ m))
  · rw [clearTeam_frame, clearTokens_alone m halone]
    exact man_modMan_same Man.closed (fun _ => rfl) hmid
  · refine returned_of_regions ?_
    rw [clearTeam_frame, clearTokens_alone m halone]
    rfl
  · refine freed_of_closed (freed_clearTeam m.closed ?_)
    rw [clearTokens_alone m halone]
    rfl
  · rw [clearTeam_frame, clearTokens_alone m halone]
    rfl

/-- One of a cube of several devices waits until the others have returned its tokens (R30, log entry 23). -/
theorem exec_teamRetire_told (hdim : s.ndim ≤ 10) (hroute : ∃ l ∈ s.others, (s.route l).isSome = true) :
    ∃ t, exec .teamRetire s = .next t ∧ s.returned t m ∧ t.man m.id = some m.closed ∧ t.goneOpen m = true ∧ t.hbm = s.hbm ∧ t.berths = s.berths := by
  have hmid : s.man m.id = some m := by rw [man_id hm]; exact hm
  have hgone : (s.clearTokens m).goneOpen m = true := goneOpen_tellGone m m.base m.aligned 0 hdim hroute
  have hw := clearTokens_wired s m
  refine ⟨(s.clearTokens m).modMan m.id Man.closed, ?_, returned_of_regions ?_, man_modMan_same Man.closed (fun _ => rfl) ?_, hgone, ?_, ?_⟩
  · rw [exec_teamRetire_begin hm hkind htop horigin hheld hexit hrun hopen]
    exact congrArg _ (if_pos hgone)
  · rw [regions_modMan, hw]
  · rw [State.man, hw]
    exact hmid
  · rw [hbm_modMan, hw]
    rfl
  · rw [berths_modMan, hw]
    rfl

end

/-- The end of a retirement whose other devices have answered (R30). -/
theorem exec_teamRetire_close {s : State} {m : Man} (hm : s.man s.subj.item = some m) (hkind : m.kind = 1) (horigin : m.origin = none)
    (hbox : m.mbox = none) (hheld : s.statusHeld m = none) (hgone : s.goneOpen m = false) (hclosing : m.closing = true) (hst : m.st = .retiring)
    (hawaits : m.awaits = []) : exec .teamRetire s = .next ((s.clearTeam m).retired m) := by
  rw [exec_teamRetire, execTeamRetire, withMan_of_man _ hm]
  simp only [hkind, hst, hclosing, hawaits, hgone, hheld, State.retireDone, horigin, ne_eq, not_true_eq_false, Bool.false_eq_true, or_self,
    if_false, if_true, Option.getD_none, retireEnd_eq hbox horigin, reduceCtorEq]

/-- Settles O40: each clause is the case of its instruction that it names. -/
theorem teamsEnd : Obligations.TeamsEnd := by
  intro s m hm
  have hmid : s.man m.id = some m := by rw [man_id hm]; exact hm
  refine ⟨fun hrun hend hused => ?_, fun hused => ?_, fun hkind htop horigin hbox hheld hgone =>
    ⟨fun hopen hrun hexit => ⟨fun halone => ?_, fun hdim hroute => ?_⟩, fun hclosing hst hawaits => ?_⟩, fun hkind hst hclosing hwait => ?_,
    fun hkind hst hopen hexit => ?_, fun hkind hst hmore => ?_, fun hkind hst hbox hcopies hheld => ?_,
    fun hkind hst hunits hcode hheld => ?_, fun hkind hunits => ?_⟩
  case refine_1 =>
    have hst : (!(m.st == .running || m.st == .preempting)) = false := by rcases hrun with h | h <;> rw [h] <;> rfl
    rw [exec_budgetExpiry, execBudgetExpiry, withMan_of_man _ hm]
    simp only [hst, hend, Nat.not_lt.2 hused, Bool.false_eq_true, or_self, if_false]
    cases hbox : m.mbox with
    | none =>
      rw [if_pos rfl, Option.isSome_none, if_neg Bool.false_ne_true, Man.endData, hbox]
      rfl
    | some x =>
      rw [Option.isSome_some, if_pos rfl, if_neg (Option.some_ne_none x)]
      rfl
  case refine_2 =>
    rw [exec_budgetExpiry, execBudgetExpiry, withMan_of_man _ hm]
    exact congrArg _ (if_pos (.inr (.inr hused)))
  case refine_3 => 
    obtain ⟨σ, he, hman, hret, hfree, hbm⟩ := exec_teamRetire_alone hm hkind htop horigin hheld hexit hrun hopen hbox hgone halone
    exact ⟨σ, _, he, ⟨rfl, man_retired hman⟩, hret, hfree, freed_retired hfree, hbm⟩
  case refine_4 =>
    obtain ⟨t, he, hret, hman, hopen', hbm, hb⟩ := exec_teamRetire_told hm hkind htop horigin hheld hexit hrun hopen hdim hroute
    exact ⟨t, he, hret, by rw [hman]; rfl, by rw [hman]; rfl, hopen', hbm, hb⟩
  case refine_5 =>
    have hfree : s.freed (s.clearTeam m) m := freed_clearTeam m rfl
    refine ⟨s.clearTeam m, _, exec_teamRetire_close hm hkind horigin hbox hheld hgone hclosing hst hawaits, ⟨rfl, man_retired (k := m) ?_⟩, hfree,
      freed_retired hfree, ?_, ?_⟩
    · rw [clearTeam_frame]; exact hmid
    · rw [clearTeam_frame]
    · rw [clearTeam_frame]
  case refine_6 =>
    rw [exec_teamRetire, execTeamRetire, withMan_of_man _ hm]
    simp only [hkind, hst, hclosing, ne_eq, not_true_eq_false, if_false, if_true]
    exact congrArg _ (if_pos (.inr hwait))
  case refine_7 =>
    rw [exec_teamRetire, execTeamRetire, withMan_of_man _ hm]
    simp only [hkind, hst, hopen, Man.over, hexit, ne_eq, not_true_eq_false, Bool.and_false, Bool.false_and, Bool.not_false, Bool.false_eq_true,
      if_false, if_true]
  case refine_8 =>
    have hover : s.templateOver m = false := by
      rw [State.templateOver, State.copiesOf]
      rcases hmore with ⟨b, hb, ht⟩ | ⟨c, hc, ht, hlive⟩
      · rw [List.any_eq_true.2 ⟨b, hb, by rw [ht]; exact beq_self_eq_true _⟩]
        simp
      · rw [List.any_eq_true.2 ⟨c, hc, by rw [ht]; simpa using hlive⟩]
        simp
    rw [exec_teamRetire, execTeamRetire, withMan_of_man _ hm]
    simp only [hkind, hst, hover, ne_eq, not_true_eq_false, Bool.not_false, if_false, if_true]
  case refine_9 =>
    have hover : s.templateOver m = true := by
      simp only [State.templateOver, State.copiesOf, hst, Bool.and_eq_true, beq_self_eq_true, Bool.not_eq_true', List.any_eq_false]
      exact ⟨⟨trivial, fun b hb => by simpa using hbox b hb⟩, fun c hc => by simpa using hcopies c hc⟩
    rw [exec_teamRetire, execTeamRetire, withMan_of_man _ hm]
    simp only [hkind, hst, hover, hheld, ne_eq, not_true_eq_false, Bool.not_true, Bool.false_eq_true, if_false, if_true, Option.getD_none]
  case refine_10 =>
    rw [exec_wharfStreamDone, execWharfStreamDone, withMan_of_man _ hm]
    simp only [hkind, hst, hunits, hcode, hheld, ne_eq, not_true_eq_false, or_self, if_false, if_true]
  case refine_11 =>
    rw [exec_wharfStreamDone, execWharfStreamDone, withMan_of_man _ hm]
    exact congrArg _ (if_pos (.inr (.inr hunits)))

end Sys2Proof.Machine
end

section
/-! PROOF. Placing a team (spec/01 R17-R19). -/

namespace Sys2Proof.Machine
open Sys2Proof

-- a manifest's fields are those of its bytes ---------------------------------------------------------------------------------

theorem num_of_raw {a m : Man} (h : a.raw = m.raw) : a.num = m.num := by
  funext off n
  rw [Man.num, Man.num, h]

theorem top_of_raw {a m : Man} (h : a.raw = m.raw) : a.top = m.top := by
  unfold Man.top Man.domain Man.nlev Man.ctl
  rw [num_of_raw h]

theorem aligned_of_raw {a m : Man} (h : a.raw = m.raw) : a.aligned = m.aligned := by
  rw [Man.aligned, Man.aligned, top_of_raw h]

theorem berths_of_raw {a m : Man} (h : a.raw = m.raw) : a.berths = m.berths := by
  funext b
  rw [Man.berths, Man.berths, aligned_of_raw h]

theorem bases_of_raw {a m : Man} (h : a.raw = m.raw) : a.bases = m.bases := by
  unfold Man.bases Man.fixed Man.fixBase
  rw [num_of_raw h, aligned_of_raw h]

theorem kind_of_raw {a m : Man} (h : a.raw = m.raw) : a.kind = m.kind := by
  unfold Man.kind Man.ctl
  rw [num_of_raw h]

/-- Ageing changes a manifest's effective priority, and what of its time is counted. -/
theorem aged_fields (m : Man) (now : Nat) : let a := m.aged now
    a.raw = m.raw ∧ a.id = m.id ∧ a.st = m.st ∧ a.origin = m.origin ∧ a.awaits = m.awaits ∧ a.base = m.base := ⟨rfl, rfl, rfl, rfl, rfl, rfl⟩

-- the only manifest in choice ---------------------------------------------------------------------------------------------------

theorem man_alone {s : State} {m : Man} (h : s.mans = [m]) (i : Nat) : s.man i = if m.id = i then some m else none := by
  rw [State.man, h, List.find?_singleton]
  simp

/-- No berth is reserved for another manifest where there is no other. -/
theorem reservedFor_alone {s : State} {m : Man} (h : s.mans = [m]) (b : Nat) : s.reservedFor m.id b = false := by
  rw [State.reservedFor, List.any_eq_false]
  intro x _ hx
  rw [Bool.and_eq_true, State.covers, man_alone h] at hx
  obtain ⟨hne, hc⟩ := hx
  rw [if_neg fun he => by simp [he] at hne] at hc
  exact Bool.false_ne_true hc

/-- Whether an instance is in service and free. -/
def State.instanceFree (s : State) (m : Man) (base : Nat) : Bool :=
  (m.berths base).all fun b => s.inService b && (s.berth b).st == .idle && !(s.berth b).retired

/-- Whether the code copies of a fresh team have room (spec/23 R341). -/
def State.codeRoom (s : State) (m : Man) : Bool := !(m.st != .preempted && decide (s.carveBytes < s.carveUsed + m.aligned * 2 ^ 18))

theorem baseFor_alone {s : State} {m : Man} (h : s.mans = [m]) :
    s.baseFor m = if s.codeRoom m then m.bases.find? (s.instanceFree m) else none := by
  unfold State.baseFor State.codeRoom
  simp only [reservedFor_alone h, Bool.not_false, Bool.and_true]
  cases (m.st != .preempted && decide (s.carveBytes < s.carveUsed + m.aligned * 2 ^ 18)) <;> rfl

/-- The same base is free on a device that differs in what neither the berths nor the carve-out show. -/
theorem baseFor_congr {s t : State} {m a : Man} (hs : s.mans = [m]) (ht : t.mans = [a]) (hraw : a.raw = m.raw) (hst : a.st = m.st)
    (hb : t.berths = s.berths) (hsvc : t.svc = s.svc) (hbytes : t.carveBytes = s.carveBytes) (hused : t.carveUsed = s.carveUsed) :
    t.baseFor a = s.baseFor m := by
  have hfree : t.instanceFree a = s.instanceFree m := by
    funext base
    simp only [State.instanceFree, State.inService, State.berth, hb, hsvc, berths_of_raw hraw]
  have hroom : t.codeRoom a = s.codeRoom m := by rw [State.codeRoom, State.codeRoom, hst, hbytes, hused, aligned_of_raw hraw]
  rw [baseFor_alone hs, baseFor_alone ht, hfree, bases_of_raw hraw, hroom]

/-- Where no team holds a berth, an occupied berth counts for priority 0; so ageing changes no choice of an instance (R19). -/
theorem bestInstance_congr {s t : State} {m a : Man} (hs : s.mans = [m]) (ht : t.mans = [a]) (hraw : a.raw = m.raw) (hst : a.st = m.st)
    (hm : m.st = .eligible) (hb : t.berths = s.berths) (hsvc : t.svc = s.svc) (taken : Nat → Bool) :
    t.bestInstance a taken = s.bestInstance m taken := by
  have hnone : ∀ (u : State) (x : Man) (b : Nat), x.st = .eligible → u.holds x b = false := by
    intro u x b hx
    rw [State.holds, hx, Bool.and_false]
  have hocc : t.occupants = s.occupants := by
    funext bs
    have h1 : ∀ b, (t.mans.find? fun x => t.holds x b) = none := fun b => by rw [ht, List.find?_singleton, hnone t a b (hst.trans hm)]; rfl
    have h2 : ∀ b, (s.mans.find? fun x => s.holds x b) = none := fun b => by rw [hs, List.find?_singleton, hnone s m b hm]; rfl
    simp only [State.occupants, h1, h2, State.berth, hb]
  unfold State.bestInstance
  simp only [hocc, berths_of_raw hraw, bases_of_raw hraw, State.inService, State.berth, hb, hsvc]

theorem inChoice_alone {s : State} {a : Man} (h : s.mans = [a]) (hst : a.st = .eligible) (ho : a.origin = none) : s.inChoice = [a] := by
  rw [State.inChoice, h]
  simp [hst, ho]

theorem canPlace_team {s : State} {a : Man} (hk : a.kind = 1) : s.canPlace a = (s.baseFor a).isSome := if_pos hk

/-- A berth that a placed team will start on. -/
def State.startOne (s : State) (b : Nat) : State := s.modBerth b fun x => { x with st := .starting }

theorem berth_startOnes (l : List Nat) (s : State) (k : Nat) :
    (l.foldl State.startOne s).berth k = if k ∈ l then { s.berth k with st := .starting } else s.berth k := by
  induction l generalizing s with
  | nil => rfl
  | cons b l ih =>
    rw [List.foldl_cons, ih, State.startOne, berth_modBerth]
    by_cases hk : k = b
    · subst hk
      simp
    · simp [hk]

theorem modMan_alone {s : State} {a : Man} (h : s.mans = [a]) (f : Man → Man) : s.modMan a.id f = { s with mans := [f a] } := by
  rw [State.modMan, h]
  simp

/-- A team of one device waits for no other (spec/19 R277). -/
theorem launchUp_small {s : State} {i : Nat} {m : Man} (h : s.man i = some m) (htop : m.top ≤ 8) : s.launchUp i = s := by
  rw [State.launchUp, h]
  exact if_pos (.inl htop)

/-- A team of one device that is placed (R18). -/
theorem place_team {s : State} {a : Man} {b : Nat} (h : s.mans = [a]) (hk : a.kind = 1) (hst : a.st = .eligible) (htop : a.top ≤ 7)
    (hb : s.baseFor a = some b) : ∃ k : Man, k.id = a.id ∧ k.st = .placed ∧ k.base = b ∧ k.rank0 = 0 ∧ k.raw = a.raw ∧
      s.place a = { (a.berths b).foldl State.startOne { s with reserve := s.reserve.filter fun x => x.1 != a.id } with mans := [k] } := by
  have hb' : ({ s with reserve := s.reserve.filter fun x => x.1 != a.id } : State).baseFor a = some b := by
    rw [← hb]
    exact baseFor_congr h h rfl rfl rfl rfl rfl rfl
  have hagain : (a.st == .preempted) = false := by rw [hst]; rfl
  have hwide : (decide (8 < a.top) && a.origin.isNone) = false := by rw [decide_eq_false (by omega)]; rfl
  have hplace : ∃ f : Man → Man, ((f a).id = a.id ∧ (f a).st = .placed ∧ (f a).base = b ∧ (f a).raw = a.raw ∧
      (f a).rank0 = 0) ∧ s.place a =
        (((a.berths b).foldl State.startOne { s with reserve := s.reserve.filter fun x => x.1 != a.id }).modMan a.id f).launchUp a.id := by
    unfold State.place
    extract_lets s1 upd again wide cube
    rw [if_pos hk, hb']
    simp only [show again = false from hagain, show wide = false from hwide, Bool.false_eq_true, if_false]
    exact ⟨_, ⟨rfl, rfl, rfl, rfl, if_neg fun h => absurd (h.trans_eq (top_of_raw (m := a) rfl)) (by omega)⟩, rfl⟩
  obtain ⟨f, ⟨h1, h2, h3, h4, h5⟩, hp⟩ := hplace
  have hmans : ((a.berths b).foldl State.startOne { s with reserve := s.reserve.filter fun x => x.1 != a.id }).mans = [a] :=
    (foldl_keeps State.mans State.startOne (fun _ _ => rfl) _ _).trans h
  refine ⟨f a, h1, h2, h3, h5, h4, ?_⟩
  rw [hp, modMan_alone hmans, launchUp_small (m := f a)]
  · rw [man_alone rfl, if_pos h1]
  · rw [top_of_raw h4]
    omega

theorem placeAll_one {s : State} {a : Man} (hc : s.inChoice = [a]) : s.placeAll 1 = if s.canPlace a then s.place a else s := by
  rw [State.placeAll, hc]
  cases h : s.canPlace a with
  | true => rw [List.filter_cons_of_pos h]; rfl
  | false => rw [List.filter_cons_of_neg (by rw [h]; exact Bool.false_ne_true)]; rfl

/-- Once the only manifest is placed no reservation is left. -/
theorem reserveTop_placed {s : State} {k : Man} (h : s.mans = [k]) (hst : k.st = .placed) : s.reserveTop = { s with reserve := [] } := by
  have hc : s.inChoice = [] := by
    rw [State.inChoice, h]
    simp [hst]
  unfold State.reserveTop
  rw [hc]
  simp [bestMan]

/-- A team that cannot be placed reserves the best instance (R19). -/
theorem reserveTop_waiting {s : State} {a : Man} (hc : s.inChoice = [a]) (hk : a.kind = 1) (hp : s.canPlace a = false) :
    s.reserveTop = { s with reserve := match s.bestInstance a (fun _ => false) with | some b => [(a.id, b)] | none => [] } := by
  have hold : (s.reserve.filterMap fun x => [a].find? fun m => m.id == x.1).filter (fun m => !([a].any fun t => t.id == m.id)) = [] := by
    rw [List.filter_eq_nil_iff]
    intro m hm
    obtain ⟨x, -, hx⟩ := List.mem_filterMap.1 hm
    rw [List.mem_singleton.1 (List.mem_of_find?_eq_some hx)]
    simp
  unfold State.reserveTop
  rw [hc]
  simp only [bestMan, hk, hp, Bool.not_false, and_self, if_true]
  rw [hold]
  simp only [List.append_nil, List.foldl_cons, List.foldl_nil, State.reserveFor, List.any_nil]
  cases s.bestInstance a (fun _ => false) <;> rfl

section
variable {s : State} {m : Man} (hlevel : s.level = 2) (hraise : s.raising = false) (hmans : s.mans = [m]) (hst : m.st = .eligible)
    (hkind : m.kind = 1) (horigin : m.origin = none)
include hlevel hraise hmans hst hkind horigin

/-- One team in choice: it is placed where it can be, and has its reservation otherwise. -/
theorem exec_manifestPlace_alone : exec .manifestPlace s = .next
    (let t := { s with mans := [m.aged s.time] }
     (if t.canPlace (m.aged s.time) then t.place (m.aged s.time) else t).reserveTop) := by
  obtain ⟨hraw, -, hast, haorigin, -, -⟩ := aged_fields m s.time
  have hage : s.ageAll = { s with mans := [m.aged s.time] } := by rw [State.ageAll, hmans]; rfl
  have hc : ({ s with mans := [m.aged s.time] } : State).inChoice = [m.aged s.time] :=
    inChoice_alone rfl (hast.trans hst) (haorigin.trans horigin)
  have hheld : ({ s with mans := [m.aged s.time] } : State).placeHeld = none := by
    rw [State.placeHeld, hc, List.findSome?_eq_none_iff]
    intro x hx
    rw [List.mem_singleton.1 (List.mem_filter.1 hx).1]
    exact if_pos ((kind_of_raw hraw).trans hkind)
  have he : exec .manifestPlace s = execManifestPlace s := rfl
  rw [he, execManifestPlace, if_neg (by simp [hlevel, hraise])]
  dsimp only
  rw [hage, hheld]
  exact congrArg (fun t : State => Host.Outcome.next t.reserveTop) (placeAll_one hc)

theorem exec_manifestPlace_placed {b : Nat} (htop : m.top ≤ 7) (hb : s.baseFor m = some b) : ∃ t, exec .manifestPlace s = .next t ∧
    (∃ k, t.mans = [k] ∧ k.id = m.id ∧ k.st = .placed ∧ k.base = b ∧ k.rank0 = 0 ∧ k.raw = m.raw) ∧
    (∀ k, b ≤ k → k < b + m.aligned → (t.berth k).st = .starting) ∧
    (∀ k, k < b ∨ b + m.aligned ≤ k → t.berth k = s.berth k) ∧ t.reserve = [] ∧ t.hbm = s.hbm := by
  obtain ⟨hraw, hid, hast, haorigin, -, -⟩ := aged_fields m s.time
  have hbase : ({ s with mans := [m.aged s.time] } : State).baseFor (m.aged s.time) = some b :=
    (baseFor_congr (t := { s with mans := [m.aged s.time] }) hmans rfl hraw hast rfl rfl rfl rfl).trans hb
  have hcan : ({ s with mans := [m.aged s.time] } : State).canPlace (m.aged s.time) = true := by
    rw [canPlace_team ((kind_of_raw hraw).trans hkind), hbase]
    rfl
  obtain ⟨k, h1, h2, h3, h4, h5, hp⟩ := place_team (a := m.aged s.time) (s := { s with mans := [m.aged s.time] }) rfl
    ((kind_of_raw hraw).trans hkind) (hast.trans hst) (by rw [top_of_raw hraw]; exact htop) hbase
  refine ⟨_, exec_manifestPlace_alone hlevel hraise hmans hst hkind horigin, ?_⟩
  dsimp only
  rw [if_pos hcan, hp, reserveTop_placed rfl h2]
  have hmem : ∀ j, j ∈ (m.aged s.time).berths b ↔ b ≤ j ∧ j < b + m.aligned := by
    intro j
    rw [berths_of_raw hraw, Man.berths, List.mem_map]
    constructor
    · rintro ⟨i, hi, rfl⟩
      rw [List.mem_range] at hi
      omega
    · rintro ⟨hlo, hhi⟩
      exact ⟨j - b, List.mem_range.2 (by omega), by omega⟩
  refine ⟨⟨k, rfl, h1.trans hid, h2, h3, h4, h5.trans hraw⟩, fun j hlo hhi => ?_, fun j hj => ?_, rfl, ?_⟩
  · exact (congrArg Berth.st (berth_startOnes _ _ j)).trans (by rw [if_pos ((hmem j).2 ⟨hlo, hhi⟩)])
  · exact (berth_startOnes _ _ j).trans (if_neg fun h => by have := (hmem j).1 h; omega)
  · exact foldl_keeps State.hbm State.startOne (fun _ _ => rfl) _ _

theorem exec_manifestPlace_reserved (hb : s.baseFor m = none) : exec .manifestPlace s = .next { s with
    mans := [m.aged s.time]
    reserve := match s.bestInstance m (fun _ => false) with | some b => [(m.id, b)] | none => [] } := by
  obtain ⟨hraw, hid, hast, haorigin, -, -⟩ := aged_fields m s.time
  have hbase : ({ s with mans := [m.aged s.time] } : State).baseFor (m.aged s.time) = none :=
    (baseFor_congr (t := { s with mans := [m.aged s.time] }) hmans rfl hraw hast rfl rfl rfl rfl).trans hb
  have hcan : ({ s with mans := [m.aged s.time] } : State).canPlace (m.aged s.time) = false := by
    rw [canPlace_team ((kind_of_raw hraw).trans hkind), hbase]
    rfl
  have hc : ({ s with mans := [m.aged s.time] } : State).inChoice = [m.aged s.time] :=
    inChoice_alone rfl (hast.trans hst) (haorigin.trans horigin)
  rw [exec_manifestPlace_alone hlevel hraise hmans hst hkind horigin]
  dsimp only
  rw [hcan, if_neg Bool.false_ne_true, reserveTop_waiting hc ((kind_of_raw hraw).trans hkind) hcan,
    bestInstance_congr (t := { s with mans := [m.aged s.time] }) hmans rfl hraw hast hst rfl rfl]
  rfl

end

theorem exec_manifestPlace_raising {s : State} (h : s.raising = true) : exec .manifestPlace s = .next s := by
  have he : exec .manifestPlace s = execManifestPlace s := rfl
  rw [he, execManifestPlace]
  exact if_pos (.inr h)

end Sys2Proof.Machine
end

section
/-! PROOF. Starting a team (spec/01 R22-R25). -/

namespace Sys2Proof.Machine
open Sys2Proof

-- what is read of memory does not depend on the manifests ------------------------------------------------------------------------

theorem walkGo_mans (s : State) (l : List Man) (va at_ e lg : Nat) (ls : List (Nat × Nat)) :
    ({ s with mans := l } : State).walkGo va at_ e lg ls = s.walkGo va at_ e lg ls := by
  induction ls generalizing at_ e lg with
  | nil => rfl
  | cons x ls ih =>
    unfold State.walkGo
    dsimp only
    rw [ih]
    rfl

theorem translate_mans (s : State) (l : List Man) (job va : Nat) (a : Option Acc) :
    ({ s with mans := l } : State).translate job va a = s.translate job va a := by
  have hw : ({ s with mans := l } : State).walk job va = s.walk job va := by
    unfold State.walk
    simp only [walkGo_mans]
    rfl
  unfold State.translate
  rw [hw]

theorem plan_mans (s : State) (l : List Man) (job : Nat) (a : Option Acc) (ps : List (Nat × Nat)) :
    ({ s with mans := l } : State).plan job a ps = s.plan job a ps := by
  induction ps with
  | nil => rfl
  | cons p ps ih => simp only [State.plan, translate_mans, ih]

theorem planRead_mans (s : State) (l : List Man) (ps : List (Nat × Nat × Loc)) :
    ({ s with mans := l } : State).planRead ps = s.planRead ps := by
  induction ps with
  | nil => rfl
  | cons p ps ih =>
    have hr : ({ s with mans := l } : State).locRead p.2.2 p.2.1 = s.locRead p.2.2 p.2.1 := rfl
    simp only [State.planRead, ih, hr]

theorem tokens_mans (s : State) (l : List Man) (ps : List Party) (cs : List TokChk) :
    (({ s with mans := l } : State).tokens ps cs).2 = (s.tokens ps cs).2 := by
  induction cs with
  | nil => rfl
  | cons c cs ih =>
    have hr : ({ s with mans := l } : State).region c.job c.ex c.at_ = s.region c.job c.ex c.at_ := rfl
    simp only [State.tokens, hr]
    split
    · split
      · rfl
      · split
        · rfl
        · exact ih
    · split
      · rfl
      · exact ih

theorem codeWords_mans (s : State) (l : List Man) (m : Man) : ({ s with mans := l } : State).codeWords m = s.codeWords m := by
  have hc : ∀ ps, ({ s with mans := l } : State).planChecks m.job .instr ps = s.planChecks m.job .instr ps := fun _ => rfl
  unfold State.codeWords
  rw [plan_mans]
  cases s.plan m.job (some .instr) (pieces m.code_ (8 * m.codelen)) with
  | error e => rfl
  | ok ps =>
    have ht := tokens_mans s l [] (s.planChecks m.job .instr ps)
    dsimp only
    rw [hc]
    generalize ({ s with mans := l } : State).tokens [] (s.planChecks m.job .instr ps) = x at ht
    generalize s.tokens [] (s.planChecks m.job .instr ps) = y at ht
    obtain ⟨x1, x2⟩ := x
    obtain ⟨y1, y2⟩ := y
    subst ht
    cases x2 with
    | some c => rfl
    | none =>
      dsimp only
      rw [planRead_mans]

-- instruction memory -----------------------------------------------------------------------------------------------------------

/-- Words written one after the other from a key on. -/
theorem get_foldl_set {α : Type} [DecidableEq α] (z : α) (ws : List α) (k : Nat) (t : Tab α) (i : Nat) :
    Tab.get z (((List.range' k ws.length).zip ws).foldl (fun t x => Tab.set z t x.1 x.2) t) i =
      if k ≤ i then ws.getD (i - k) (Tab.get z t i) else Tab.get z t i := by
  induction ws generalizing k t with
  | nil => simp
  | cons w ws ih =>
    rw [List.length_cons, List.range'_succ, List.zip_cons_cons, List.foldl_cons, ih]
    simp only [Tab.get_set]
    rcases Nat.lt_trichotomy i k with h | h | h
    · rw [if_neg (by omega), if_neg (by omega), if_neg (by omega)]
    · subst h
      rw [if_neg (by omega), if_pos rfl, if_pos (Nat.le_refl _), Nat.sub_self, List.getD_cons_zero]
    · rw [if_pos (by omega), if_neg (by omega), if_pos (by omega), show i - k = (i - (k + 1)) + 1 from by omega, List.getD_cons_succ]

/-- Instruction memory as a team's code is loaded into it (R22). -/
def codeTab (ws : List W64) : Tab W64 := ((List.range ws.length).zip ws).foldl (fun t x => Tab.set stopNop t x.1 x.2) []

theorem get_codeTab (ws : List W64) (i : Nat) : Tab.get stopNop (codeTab ws) i = ws.getD i stopNop := by
  rw [codeTab, List.range_eq_range', get_foldl_set, if_pos (Nat.zero_le i)]
  rfl

-- a team of one berth -------------------------------------------------------------------------------------------------------------

theorem aligned_of_top_zero {m : Man} (h : m.top = 0) : m.aligned = 1 := by
  rw [Man.aligned, h]
  rfl

theorem held_of_top_zero {m : Man} (h : m.top = 0) : m.held = [m.base] := by
  rw [Man.held, Man.berths, aligned_of_top_zero h]
  rfl

theorem rankAt_base (m : Man) : m.rankAt m.base = m.rank0 := by rw [Man.rankAt, Nat.sub_self, Nat.add_zero]

theorem stages_none (s : State) {m : Man} (h : m.nstage = 0) : s.stages m = some [] := if_pos h
theorem tokTable_none (s : State) {m : Man} (h : m.ntoken = 0) : s.tokTable m = some [] := if_pos h

/-- The context of a berth-thread before it starts (R22, R25). -/
def Man.fresh (m : Man) : Ctx := { Ctx.start with team := m.id, rank := m.rank0 }

theorem loadTeam_one (s : State) {m : Man} (ws : List W64) (htop : m.top = 0) (hn : m.nstage = 0) : s.loadTeam m ws =
    { s.modBerth m.base (fun x => { x with im := codeTab ws, codelen := m.codelen, ctx := m.fresh }) with
      codeStore := s.codeStore ++ [(m.id, m.rank0, codeTab ws, m.codelen)] } := by
  unfold State.loadTeam
  rw [held_of_top_zero htop, stages_none s hn]
  simp only [List.foldl_cons, List.foldl_nil, Option.getD_some, rankAt_base]
  rfl

theorem berth_loadTeam_one (s : State) {m : Man} (ws : List W64) (htop : m.top = 0) (hn : m.nstage = 0) (k : Nat) :
    (s.loadTeam m ws).berth k =
      if k = m.base then { s.berth k with im := codeTab ws, codelen := m.codelen, ctx := m.fresh } else s.berth k := by
  rw [loadTeam_one s ws htop hn]
  refine (berth_modBerth s m.base k fun x => { x with im := codeTab ws, codelen := m.codelen, ctx := m.fresh }).trans ?_
  split
  next h => rw [h]
  next => rfl

theorem mans_loadTeam_one (s : State) {m : Man} (ws : List W64) (htop : m.top = 0) (hn : m.nstage = 0) : (s.loadTeam m ws).mans = s.mans := by
  rw [loadTeam_one s ws htop hn]
  rfl

theorem applyTable_nil (s : State) {m : Man} (h : m.refusal = none) : s.applyTable m [] = .done s := by
  rw [State.applyTable, h]
  dsimp only
  rw [List.flatMap_nil, List.drop_nil]
  rfl

/-- STATE 2 of a team whose start begins (R22). -/
def State.begun (s : State) (m : Man) : State := ((s.healStart m).status m 2 0).modMan m.id fun k => { k with begun := true }

theorem roster_begun (s : State) (m : Man) : ((s.healStart m).status m 2 0).roster = s.roster := by rw [roster_status, roster_healStart]

section
variable {s : State} {m : Man} (hm : s.man s.subj.item = some m) (hkind : m.kind = 1) (htop : m.top = 0)
include hm hkind htop

/-- A team with no tables to apply, whose code can be read, is loaded (R22). -/
theorem exec_teamStart_loaded {ws : List W64} (hst : m.st = .placed) (hb : (s.berth m.base).st = .starting) (hbegun : m.begun = false)
    (hawaits : m.awaits = []) (hstage : m.nstage = 0) (htoken : m.ntoken = 0) (hrefusal : m.refusal = none) (hheld : s.statusHeld m = none)
    (hcode : ((s.healStart m).status m 2 0).codeWords m = .ok ws) :
    exec .teamStart s = .next (((s.begun m).loadTeam m ws).modMan m.id fun k => { k with st := .starting }) := by
  have hstart : s.startHeld m = none := by
    rw [State.startHeld, hheld, tokTable_none s htoken]
    rfl
  have hcode' : (s.begun m).codeWords m = .ok ws := (codeWords_mans _ _ m).trans hcode
  have hctx : ((s.begun m).loadTeam m ws).ctxAt m.base = m.fresh := by
    rw [State.ctxAt, berth_loadTeam_one _ ws htop hstage, if_pos rfl]
  have hfail : firstFail (m.held.flatMap fun b => (((s.begun m).loadTeam m ws).ctxAt b).cfails) = none := by
    rw [held_of_top_zero htop, List.flatMap_singleton, hctx]
    rfl
  have happly : (s.begun m).applyTable m (((s.begun m).tokTable m).getD []) = .done (s.begun m) := by
    rw [tokTable_none _ htoken]
    exact applyTable_nil _ hrefusal
  have he : exec .teamStart s = execTeamStart s := rfl
  rw [he, execTeamStart, withMan_of_man _ hm]
  rw [if_neg (by simp [hst, hkind]), if_neg (by simp [hawaits]), if_neg (by simp [hrefusal]),
    if_neg (by simp [held_of_top_zero htop, hb, hawaits]), hstart]
  dsimp only
  rw [if_neg (by rw [hbegun]; exact Bool.false_ne_true)]
  change Host.Outcome.next (match (s.begun m).applyTable m (((s.begun m).tokTable m).getD []) with
    | .wait s => s | .fault s code => s.failStart m code | .done s => _) = _
  rw [happly]
  dsimp only
  rw [hcode']
  dsimp only
  rw [stages_none _ hstage]
  dsimp only [Option.getD_some, List.findSome?_nil]
  rw [hfail]

theorem exec_teamStart_started {ws : List W64} (hst : m.st = .placed) (hb : (s.berth m.base).st = .starting) (hbegun : m.begun = false)
    (hawaits : m.awaits = []) (hstage : m.nstage = 0) (htoken : m.ntoken = 0) (hrefusal : m.refusal = none) (hheld : s.statusHeld m = none)
    (hcode : ((s.healStart m).status m 2 0).codeWords m = .ok ws) : ∃ t, exec .teamStart s = .next t ∧
      (t.man m.id).map Man.st = some .starting ∧ (t.berth m.base).codelen = m.codelen ∧ (t.berth m.base).im = codeTab ws ∧
      t.ctxAt m.base = m.fresh ∧ (∀ k, k ≠ m.base → t.berth k = s.berth k) := by
  obtain ⟨hberths, hmans, -⟩ := roster_fields (roster_begun s m)
  have hman : (((s.begun m).loadTeam m ws).man m.id).isSome = true := by
    have h1 : ((s.healStart m).status m 2 0).man m.id = some m := by
      rw [State.man, hmans, man_id hm]
      exact hm
    rw [State.man, mans_loadTeam_one _ ws htop hstage]
    exact Option.isSome_of_eq_some (man_modMan_same (fun k => { k with begun := true }) (fun _ => rfl) h1)
  obtain ⟨k, hk⟩ := Option.isSome_iff_exists.1 hman
  have hber : ∀ k, (s.begun m).berth k = s.berth k := fun k => congrArg (fun l => Tab.get Berth.idle l k) hberths
  have ht : ∀ j, ((((s.begun m).loadTeam m ws).modMan m.id fun k => { k with st := .starting }).berth j) =
      if j = m.base then { s.berth j with im := codeTab ws, codelen := m.codelen, ctx := m.fresh } else s.berth j := by
    intro j
    rw [← hber j]
    exact berth_loadTeam_one _ ws htop hstage j
  refine ⟨_, exec_teamStart_loaded hm hkind htop hst hb hbegun hawaits hstage htoken hrefusal hheld hcode, ?_, ?_, ?_, ?_, fun j hj => ?_⟩
  · rw [man_modMan_same (fun k => { k with st := .starting }) (fun _ => rfl) hk]
    rfl
  · rw [ht, if_pos rfl]
  · rw [ht, if_pos rfl]
  · rw [State.ctxAt, ht, if_pos rfl]
  · rw [ht, if_neg hj]

/-- A refusal that came while the tables were applied ends the start (R22). -/
theorem exec_teamStart_refused {code : Nat} (hst : m.st = .placed) (hb : (s.berth m.base).st = .starting) (hbegun : m.begun = true)
    (hawaits : m.awaits = []) (htoken : m.ntoken = 0) (hrefusal : m.refusal = some code) (hheld : s.statusHeld m = none) :
    exec .teamStart s = .next (s.failStart m code) := by
  have hstart : s.startHeld m = none := by
    rw [State.startHeld, hheld, tokTable_none s htoken]
    rfl
  have happly : s.applyTable m ((s.tokTable m).getD []) = .fault s code := by rw [State.applyTable, hrefusal]
  have he : exec .teamStart s = execTeamStart s := rfl
  rw [he, execTeamStart, withMan_of_man _ hm]
  rw [if_neg (by simp [hst, hkind]), if_neg (by simp [hawaits]), if_neg (by simp [hbegun]),
    if_neg (by simp [held_of_top_zero htop, hb, hawaits]), hstart]
  dsimp only
  rw [if_pos hbegun, happly]

end

-- the berth-thread starts (R25) --------------------------------------------------------------------------------------------------------

/-- The context with which a berth-thread starts (R25). -/
def Man.entryCtx (m : Man) : Ctx :=
  { (m.fresh.setReg 1 (w64 ((m.mbox.map Prod.snd).getD 0))).setReg 2 (w64 m.args) with pc := m.entry }

theorem entryCtx_fields (m : Man) : let c := m.entryCtx
    c.pc = m.entry ∧ c.reg 2 = w64 m.args ∧ c.reg 1 = w64 ((m.mbox.map Prod.snd).getD 0) ∧ (∀ r, r ≠ 1 → r ≠ 2 → c.reg r = 0) ∧ c.spad = [] := by
  have hs : m.entryCtx.sregs = Tab.set 0 (Tab.set 0 [] 1 (w64 ((m.mbox.map Prod.snd).getD 0))) 2 (w64 m.args) := rfl
  refine ⟨rfl, ?_, ?_, fun r h1 h2 => ?_, rfl⟩
  · rw [Ctx.reg, if_neg (by decide), hs, Tab.get_set, if_pos rfl]
  · rw [Ctx.reg, if_neg (by decide), hs, Tab.get_set, if_neg (by decide), Tab.get_set, if_pos rfl]
  · rw [Ctx.reg]
    split
    · rfl
    · rw [hs, Tab.get_set, if_neg h2, Tab.get_set, if_neg h1]
      rfl

/-- The shadow of a berth whose state has been committed (spec/23 R345, R361). -/
def State.startShadow (s : State) (b seq : Nat) : Shadow :=
  { Shadow.none with copyA := some ⟨{ s.saved b with mark := 0 }, seq, true⟩, words := [(0, seq), (0, seq), (0, seq)], last := some (s.saved b) }

theorem startShadow_pick (s : State) (b seq : Nat) :
    ∃ r, (s.startShadow b seq).pick = some (0, r) ∧ r.saved.ctx = s.ctxAt b ∧ r.seq = seq := by
  refine ⟨⟨{ s.saved b with mark := 0 }, seq, true⟩, ?_, rfl, rfl⟩
  simp [State.startShadow, Shadow.pick, namedCopy, Shadow.intact]

theorem berth_commitStart (s : State) (b seq k : Nat) :
    (s.commitStart b seq).berth k = if k = b then { s.berth b with shadow := s.startShadow b seq } else s.berth k :=
  berth_modBerth s b k fun x => { x with shadow := s.startShadow b seq }

theorem berth_joinCk (s t : State) (k : Nat) : (s.joinCk t).berth k = t.berth k := by unfold State.joinCk; split <;> rfl
theorem man_joinCk (s t : State) (i : Nat) : (s.joinCk t).man i = t.man i := by unfold State.joinCk; split <;> rfl

theorem pendingPreempt_none {s : State} {i : Nat} {m : Man} (h : s.man i = some m) (ho : m.owed = false) : s.pendingPreempt i = s := by
  rw [State.pendingPreempt, h]
  exact if_neg (by rw [ho]; exact Bool.false_ne_true)

theorem modBerth_congr {s : State} {b : Nat} {f g : Berth → Berth} (h : f (s.berth b) = g (s.berth b)) : s.modBerth b f = s.modBerth b g := by
  have hupd : Tab.upd Berth.idle s.berths b f = Tab.upd Berth.idle s.berths b g := congrArg (Tab.set Berth.idle s.berths b) h
  exact congrArg (fun l => { s with berths := l }) hupd

/-- A berth at its first group. -/
def State.startBerth (s : State) (m : Man) : State := s.modBerth m.base fun x => { x with st := .run, ctx := m.entryCtx }

theorem exec_berthThreadStart_one {s : State} {m : Man} (hm : s.man s.subj.item = some m) (htop : m.top = 0) (hst : m.st = .starting)
    (hstart : m.start = none) (howed : m.owed = false) (hctx : s.ctxAt m.base = m.fresh) : exec .berthThreadStart s = .next (s.joinCk
      (((s.startBerth m).commitStart m.base 0).modMan m.id fun k => { k with st := .running })) := by
  have hheld := held_of_top_zero htop
  have hops : m.fresh.ops = [] := rfl
  have he : exec .berthThreadStart s = execBerthThreadStart s := rfl
  rw [he, execBerthThreadStart, withMan_of_man _ hm]
  refine congrArg _ ?_
  extract_lets due land landed slot go
  have hdue : due = true := by
    simp only [due, hstart, htop]
    rfl
  have hland : landed = s := by
    simp only [landed, hheld, List.foldl_cons, List.foldl_nil, land, hctx, hops]
  have hfail : firstFail (m.held.flatMap fun b => (landed.ctxAt b).cfails) = none := by
    rw [hheld, List.flatMap_singleton, hland, hctx]
    rfl
  have hslot : slot = (m.mbox.map Prod.snd).getD 0 := by
    simp only [slot]
    cases m.mbox <;> rfl
  have hgo : go s m.base = (s.startBerth m).commitStart m.base 0 := by
    refine congrArg (fun t : State => t.commitStart m.base 0) (modBerth_congr ?_)
    have hc : (s.berth m.base).ctx = m.fresh := hctx
    simp only [hc, hslot]
    rfl
  rw [if_neg (by rw [hst]; decide), if_neg (by simp [hst, hdue, hheld, hctx, hops]), hfail]
  dsimp only
  rw [hland, hheld, List.foldl_cons, List.foldl_nil, hgo]
  refine congrArg (s.joinCk ·) (pendingPreempt_none (m := { m with st := .running }) ?_ howed)
  refine man_modMan_same (fun k => { k with st := .running }) (fun _ => rfl) ?_
  rw [man_id hm]
  exact hm

theorem exec_berthThreadStart_running {s : State} {m : Man} (hm : s.man s.subj.item = some m) (htop : m.top = 0) (hst : m.st = .starting)
    (hstart : m.start = none) (howed : m.owed = false) (hctx : s.ctxAt m.base = m.fresh) : ∃ t, exec .berthThreadStart s = .next t ∧
      (t.man m.id).map Man.st = some .running ∧ (t.berth m.base).st = .run ∧ t.ctxAt m.base = m.entryCtx ∧
      (t.berth m.base).im = (s.berth m.base).im ∧ (∃ c, (t.berth m.base).shadow.pick = some (0, c) ∧ c.saved.ctx = m.entryCtx) ∧
      (∀ k, k ≠ m.base → t.berth k = s.berth k) := by
  have hb : ∀ k, (s.startBerth m).berth k = if k = m.base then { s.berth m.base with st := .run, ctx := m.entryCtx } else s.berth k :=
    fun k => berth_modBerth s m.base k fun x => { x with st := .run, ctx := m.entryCtx }
  have ht : ∀ k, (s.joinCk (((s.startBerth m).commitStart m.base 0).modMan m.id fun k => { k with st := .running })).berth k =
      if k = m.base then { (s.startBerth m).berth m.base with shadow := (s.startBerth m).startShadow m.base 0 } else (s.startBerth m).berth k :=
    fun k => (berth_joinCk s _ k).trans (berth_commitStart (s.startBerth m) m.base 0 k)
  have hctx' : (s.startBerth m).ctxAt m.base = m.entryCtx := by rw [State.ctxAt, hb, if_pos rfl]
  obtain ⟨r, hpick, hsaved, -⟩ := startShadow_pick (s.startBerth m) m.base 0
  refine ⟨_, exec_berthThreadStart_one hm htop hst hstart howed hctx, ?_, ?_, ?_, ?_, ⟨r, ?_, hsaved.trans hctx'⟩, fun k hk => ?_⟩
  · have hman : ((s.startBerth m).commitStart m.base 0).man m.id = some m := by
      rw [man_id hm]
      exact hm
    rw [man_joinCk, man_modMan_same (fun k => { k with st := .running }) (fun _ => rfl) hman]
    rfl
  · rw [ht, if_pos rfl, hb, if_pos rfl]
  · rw [State.ctxAt, ht, if_pos rfl, hb, if_pos rfl]
  · rw [ht, if_pos rfl, hb, if_pos rfl]
  · rw [ht, if_pos rfl, hpick]
  · rw [ht, if_neg hk, hb, if_neg hk]

/-- Settles O39: the placing of the only manifest in choice, and the start of a team of one berth. -/
theorem teamsPlacedAndStarted : Obligations.TeamsPlacedAndStarted := by
  refine ⟨fun s m hlevel hraise hmans hst hkind horigin => ⟨fun b htop hb => ?_, fun hb => ?_, fun s' hs' => ?_⟩,
    fun s m ws hm hkind htop => ⟨fun hst hb hbegun hawaits hstage htoken hrefusal hheld hcode => ?_, fun hst hstart howed hctx => ?_,
      fun code hst hb hbegun hawaits htoken hrefusal hheld => ?_⟩⟩
  case refine_1 => exact exec_manifestPlace_placed hlevel hraise hmans hst hkind horigin htop hb
  case refine_2 => exact exec_manifestPlace_reserved hlevel hraise hmans hst hkind horigin hb
  case refine_3 => exact exec_manifestPlace_raising (by rw [hs'])
  case refine_4 =>
    obtain ⟨t, he, hman, hlen, him, hctx, hrest⟩ :=
      exec_teamStart_started hm hkind htop hst hb hbegun hawaits hstage htoken hrefusal hheld hcode
    refine ⟨t, he, hman, hlen, fun i hi => ?_, fun i hi => ?_, hctx, hrest⟩
    · rw [him, get_codeTab, List.getD_eq_getElem _ _ hi, getElem!_pos ws i hi]
    · rw [him, get_codeTab, List.getD_eq_default _ _ hi]
  case refine_5 =>
    obtain ⟨t, he, hman, hrun, hc, him, ⟨r, hpick, hsaved⟩, hrest⟩ := exec_berthThreadStart_running hm htop hst hstart howed hctx
    obtain ⟨h1, h2, h3, h4, h5⟩ := entryCtx_fields m
    refine ⟨t, he, hman, hrun, ?_⟩
    rw [hc]
    exact ⟨h1, h2, h3, h4, h5, him, ⟨r, hpick, hsaved⟩, hrest⟩
  case refine_6 => exact exec_teamStart_refused hm hkind htop hst hb hbegun hawaits htoken hrefusal hheld

end Sys2Proof.Machine
end

section
/-! PROOF. Pre-emption (spec/01 R20). -/

namespace Sys2Proof.Machine
open Sys2Proof

-- pre-empting berths ---------------------------------------------------------------------------------------------------------------

/-- A berth that is pre-empted twice is pre-empted once. -/
theorem Berth.preemptNow_idem (x : Berth) : x.preemptNow.preemptNow = x.preemptNow := by
  unfold Berth.preemptNow
  cases h : x.st <;> simp [h]

def State.preemptOne (s : State) (b : Nat) : State := s.modBerth b Berth.preemptNow

theorem berth_preemptOnes (l : List Nat) (s : State) (k : Nat) :
    (l.foldl State.preemptOne s).berth k = if k ∈ l then (s.berth k).preemptNow else s.berth k := by
  induction l generalizing s with
  | nil => rfl
  | cons b l ih =>
    rw [List.foldl_cons, ih, State.preemptOne, berth_modBerth]
    by_cases hk : k = b
    · subst hk
      simp [Berth.preemptNow_idem]
    · simp [hk]

theorem preemptOnes_frame (l : List Nat) (s : State) : ∃ bs, l.foldl State.preemptOne s = { s with berths := bs } := by
  refine foldl_inv (fun t : State => ∃ bs, t = { s with berths := bs }) _ ?_ l s ⟨_, rfl⟩
  rintro t k ⟨bs, rfl⟩
  exact ⟨_, rfl⟩

-- one team ---------------------------------------------------------------------------------------------------------------------------

/-- Whether a job's teams are pre-empted without a grace window (R20). -/
def State.atOnce (s : State) (m : Man) : Prop := bf (Tab.get 0 s.jobsched m.job) 40 24 = 0

/-- What a step of PREEMPT does to one team, with its notice to the other devices. -/
def State.preemptTeam (s : State) (m : Man) : State := (s.beginPreempt m).spread m noticePreempt 0 s.label

theorem beginPreempt_atOnce {s : State} {m : Man} (h : s.atOnce m) : s.beginPreempt m =
    ((m.held.foldl State.preemptOne (s.modMan m.id fun m => { m with start := none, awaits := [] })).modMan m.id
      fun m => { m with st := .preempting }) := if_pos h

theorem beginPreempt_later {s : State} {m : Man} (h : ¬s.atOnce m) : s.beginPreempt m =
    ((s.modMan m.id fun m => { m with start := none, awaits := [] }).modMan m.id fun m => { m with st := .preempting, grace := some 0 }) := if_neg h

theorem beginPreempt_frame (s : State) (m : Man) : ∃ bs l, s.beginPreempt m = { s with berths := bs, mans := l } := by
  by_cases h : s.atOnce m
  · obtain ⟨bs, hbs⟩ := preemptOnes_frame m.held (s.modMan m.id fun m => { m with start := none, awaits := [] })
    rw [beginPreempt_atOnce h, hbs]
    exact ⟨_, _, rfl⟩
  · rw [beginPreempt_later h]
    exact ⟨_, _, rfl⟩

theorem preemptTeam_frame (s : State) (m : Man) :
    ∃ bs l ps, s.preemptTeam m = { s with berths := bs, mans := l, ports := ps } := by
  obtain ⟨bs, l, h⟩ := beginPreempt_frame s m
  rw [State.preemptTeam, spread_frame, h]
  exact ⟨_, _, _, rfl⟩

theorem berth_preemptTeam (s : State) (m : Man) (k : Nat) : (s.preemptTeam m).berth k =
    if bf (Tab.get 0 s.jobsched m.job) 40 24 = 0 ∧ k ∈ m.held then (s.berth k).preemptNow else s.berth k := by
  have hspread : (s.preemptTeam m).berth k = (s.beginPreempt m).berth k := by rw [State.preemptTeam, spread_frame]; rfl
  rw [hspread]
  by_cases h : s.atOnce m
  · rw [beginPreempt_atOnce h]
    refine (berth_preemptOnes m.held (s.modMan m.id fun m => { m with start := none, awaits := [] }) k).trans ?_
    simp only [show bf (Tab.get 0 s.jobsched m.job) 40 24 = 0 from h, true_and]
    rfl
  · rw [beginPreempt_later h, if_neg fun hc => h hc.1]
    rfl

theorem man_preemptTeam_ne (s : State) {m : Man} {j : Nat} (hj : j ≠ m.id) : (s.preemptTeam m).man j = s.man j := by
  have hspread : (s.preemptTeam m).man j = (s.beginPreempt m).man j := by rw [State.preemptTeam, spread_frame]; rfl
  rw [hspread]
  by_cases h : s.atOnce m
  · obtain ⟨bs, hbs⟩ := preemptOnes_frame m.held (s.modMan m.id fun m => { m with start := none, awaits := [] })
    rw [beginPreempt_atOnce h, man_modMan_ne _ (fun m => { m with st := .preempting }) (fun _ => rfl) hj, hbs]
    exact man_modMan_ne s (fun m => { m with start := none, awaits := [] }) (fun _ => rfl) hj
  · rw [beginPreempt_later h, man_modMan_ne _ (fun m => { m with st := .preempting, grace := some 0 }) (fun _ => rfl) hj]
    exact man_modMan_ne s (fun m => { m with start := none, awaits := [] }) (fun _ => rfl) hj

theorem man_preemptTeam_same {s : State} {m k : Man} (hk : s.man m.id = some k) :
    ∃ z, (s.preemptTeam m).man m.id = some z ∧ z.st = .preempting ∧ (¬s.atOnce m → z.grace = some 0) := by
  have hspread : (s.preemptTeam m).man m.id = (s.beginPreempt m).man m.id := by rw [State.preemptTeam, spread_frame]; rfl
  have h1 := man_modMan_same (fun m => { m with start := none, awaits := [] }) (fun _ => rfl) hk
  rw [hspread]
  by_cases h : s.atOnce m
  · obtain ⟨bs, hbs⟩ := preemptOnes_frame m.held (s.modMan m.id fun m => { m with start := none, awaits := [] })
    rw [beginPreempt_atOnce h, hbs]
    exact ⟨_, man_modMan_same (fun m => { m with st := .preempting }) (fun _ => rfl) h1, rfl, fun hc => absurd h hc⟩
  · rw [beginPreempt_later h]
    exact ⟨_, man_modMan_same (fun m => { m with st := .preempting, grace := some 0 }) (fun _ => rfl) h1, rfl, fun _ => rfl⟩

-- every victim --------------------------------------------------------------------------------------------------------------------------

theorem jobsched_preemptTeam (s : State) (m : Man) : (s.preemptTeam m).jobsched = s.jobsched := by
  obtain ⟨_, _, _, h⟩ := preemptTeam_frame s m
  rw [h]

theorem atOnce_preemptTeam (s : State) (m y : Man) : (s.preemptTeam m).atOnce y ↔ s.atOnce y := by
  rw [State.atOnce, State.atOnce, jobsched_preemptTeam]

theorem berth_preemptTeams (l : List Man) (s : State) (k : Nat) :
    ((∃ y ∈ l, s.atOnce y ∧ k ∈ y.held) → (l.foldl State.preemptTeam s).berth k = (s.berth k).preemptNow) ∧
    ((∀ y ∈ l, s.atOnce y → k ∉ y.held) → (l.foldl State.preemptTeam s).berth k = s.berth k) := by
  induction l generalizing s with
  | nil => exact ⟨fun ⟨y, hy, _⟩ => absurd hy List.not_mem_nil, fun _ => rfl⟩
  | cons m l ih =>
    obtain ⟨ih1, ih2⟩ := ih (s.preemptTeam m)
    simp only [atOnce_preemptTeam] at ih1 ih2
    have hone := berth_preemptTeam s m k
    rw [List.foldl_cons]
    refine ⟨fun ⟨y, hy, hat, hk⟩ => ?_, fun h => ?_⟩
    · by_cases hl : ∃ y ∈ l, s.atOnce y ∧ k ∈ y.held
      · rw [ih1 hl, hone]
        split
        · exact Berth.preemptNow_idem _
        · rfl
      · have hym : y = m := (List.mem_cons.1 hy).resolve_right fun hyl => hl ⟨y, hyl, hat, hk⟩
        subst hym
        rw [ih2 fun x hx hax hkx => hl ⟨x, hx, hax, hkx⟩, hone, if_pos ⟨hat, hk⟩]
    · rw [ih2 fun x hx => h x (List.mem_cons_of_mem _ hx), hone, if_neg fun hc => h m List.mem_cons_self hc.1 hc.2]

theorem man_preemptTeams_ne {l : List Man} (s : State) {j : Nat} (hj : j ∉ l.map Man.id) : (l.foldl State.preemptTeam s).man j = s.man j := by
  induction l generalizing s with
  | nil => rfl
  | cons m l ih =>
    rw [List.map_cons, List.mem_cons, not_or] at hj
    rw [List.foldl_cons, ih _ hj.2, man_preemptTeam_ne s hj.1]

theorem man_preemptTeams {l : List Man} {s : State} {y k : Man} (hnodup : (l.map Man.id).Nodup) (hy : y ∈ l) (hk : s.man y.id = some k) :
    ∃ z, (l.foldl State.preemptTeam s).man y.id = some z ∧ z.st = .preempting ∧ (¬s.atOnce y → z.grace = some 0) := by
  induction l generalizing s with
  | nil => cases hy
  | cons m l ih =>
    rw [List.map_cons, List.nodup_cons] at hnodup
    rw [List.foldl_cons]
    rcases List.mem_cons.1 hy with rfl | hl
    · rw [man_preemptTeams_ne _ hnodup.1]
      exact man_preemptTeam_same hk
    · have hne : y.id ≠ m.id := fun h => hnodup.1 (h ▸ List.mem_map_of_mem hl)
      rw [← atOnce_preemptTeam s m y]
      exact ih hnodup.2 hl ((man_preemptTeam_ne s hne).trans hk)

-- PREEMPT ---------------------------------------------------------------------------------------------------------------------------------

theorem held_of_raw {a m : Man} (h : a.raw = m.raw) (hb : a.base = m.base) : a.held = m.held := by
  rw [Man.held, Man.held, berths_of_raw h, hb]

/-- Whether a team makes room for the holder of a reservation (R20). -/
def State.isVictim (s : State) (p : Man) (base : Nat) (m : Man) : Bool :=
  m.kind == 1 && m.st == .running && decide (m.eprio < p.eprio) && (m.held.any fun b => (p.berths base).contains b) && s.spillRoom m

theorem isVictim_aged (s : State) (p m : Man) (base now : Nat) : s.isVictim (p.aged now) base (m.aged now) = true ↔
    m.kind = 1 ∧ m.st = .running ∧ (m.aged now).eprio < (p.aged now).eprio ∧ (∃ k ∈ m.held, k ∈ p.berths base) ∧
      s.spillRoom (m.aged now) = true := by
  obtain ⟨hraw, -, hst, -, -, hbase⟩ := aged_fields m now
  obtain ⟨hrawp, -⟩ := aged_fields p now
  rw [State.isVictim, kind_of_raw hraw, hst, held_of_raw hraw hbase, berths_of_raw hrawp]
  simp [and_assoc]

theorem exec_preempt (s : State) : exec .preempt s = execPreempt s := rfl

theorem man_of_mem {s : State} {m : Man} (hnodup : (s.mans.map Man.id).Nodup) (hm : m ∈ s.mans) : s.man m.id = some m := by
  rw [State.man]
  generalize s.mans = l at hnodup hm
  induction l with
  | nil => cases hm
  | cons k l ih =>
    rw [List.map_cons, List.nodup_cons] at hnodup
    rcases List.mem_cons.1 hm with rfl | hl
    · exact List.find?_cons_of_pos (by simp)
    · rw [List.find?_cons_of_neg]
      · exact ih hnodup.2 hl
      · intro h
        rw [beq_iff_eq] at h
        exact hnodup.1 (by rw [h]; exact List.mem_map_of_mem hl)

/-- PREEMPT with one reservation: its victims in order. -/
theorem exec_preempt_reserved {s : State} {p : Man} {base : Nat} (hr : s.reserve = [(p.id, base)]) (hp : s.ageAll.man p.id = some (p.aged s.time)) :
    exec .preempt s = .next ((s.ageAll.mans.filter (s.ageAll.isVictim (p.aged s.time) base)).foldl State.preemptTeam s.ageAll) := by
  have hr' : s.ageAll.reserve = [(p.id, base)] := hr
  rw [exec_preempt, execPreempt]
  dsimp only
  rw [hr', List.foldl_cons, List.foldl_nil, hp]
  rfl

section
variable {s : State} {p : Man} {base : Nat} (hnodup : (s.mans.map Man.id).Nodup)
include hnodup

theorem ageAll_nodup : (s.ageAll.mans.map Man.id).Nodup := by
  have h : s.ageAll.mans.map Man.id = s.mans.map Man.id := by
    rw [State.ageAll, List.map_map]
    rfl
  rw [h]
  exact hnodup

theorem man_ageAll {m : Man} (hm : m ∈ s.mans) : s.ageAll.man m.id = some (m.aged s.time) :=
  man_of_mem (m := m.aged s.time) (ageAll_nodup hnodup) (List.mem_map_of_mem hm)

/-- What PREEMPT does to a device with one reservation (R20). -/
theorem exec_preempt_spec (hr : s.reserve = [(p.id, base)]) (hp : p ∈ s.mans) : ∃ t, exec .preempt s = .next t ∧ t.hbm = s.hbm ∧
    t.regions = s.regions ∧
    (∀ y ∈ s.mans, s.ageAll.isVictim (p.aged s.time) base (y.aged s.time) = true → ∃ z, t.man y.id = some z ∧ z.st = .preempting ∧
      (s.atOnce y → ∀ k ∈ y.held, t.berth k = (s.berth k).preemptNow) ∧ (¬s.atOnce y → z.grace = some 0)) ∧
    (∀ k, (∀ y ∈ s.mans, s.ageAll.isVictim (p.aged s.time) base (y.aged s.time) = true → s.atOnce y → k ∉ y.held) →
      t.berth k = s.berth k) ∧
    (∀ y ∈ s.mans, ¬s.ageAll.isVictim (p.aged s.time) base (y.aged s.time) = true → t.man y.id = some (y.aged s.time)) := by
  have hheld : ∀ y : Man, (y.aged s.time).held = y.held := by
    intro y
    obtain ⟨hraw, -, -, -, -, hbase⟩ := aged_fields y s.time
    exact held_of_raw hraw hbase
  have hat : ∀ y : Man, s.ageAll.atOnce (y.aged s.time) ↔ s.atOnce y := fun _ => Iff.rfl
  have hsub : ((s.ageAll.mans.filter (s.ageAll.isVictim (p.aged s.time) base)).map Man.id).Nodup :=
    (List.filter_sublist.map Man.id).nodup (ageAll_nodup hnodup)
  refine ⟨_, exec_preempt_reserved hr (man_ageAll hnodup hp), ?_, ?_, fun y hy hv => ?_, fun k hk => ?_, fun y hy hv => ?_⟩
  · refine foldl_keeps State.hbm State.preemptTeam (fun t m => ?_) _ _
    obtain ⟨_, _, _, h⟩ := preemptTeam_frame t m
    rw [h]
  · refine foldl_keeps State.regions State.preemptTeam (fun t m => ?_) _ _
    obtain ⟨_, _, _, h⟩ := preemptTeam_frame t m
    rw [h]
  · have hmem : y.aged s.time ∈ s.ageAll.mans.filter (s.ageAll.isVictim (p.aged s.time) base) :=
      List.mem_filter.2 ⟨List.mem_map_of_mem hy, hv⟩
    obtain ⟨z, hz, hst, hgrace⟩ := man_preemptTeams hsub hmem (man_ageAll (m := y) hnodup hy)
    refine ⟨z, hz, hst, fun ha k hk => ?_, fun ha => hgrace ha⟩
    exact (berth_preemptTeams _ s.ageAll k).1 ⟨_, hmem, ha, by rw [hheld]; exact hk⟩
  · refine (berth_preemptTeams _ s.ageAll k).2 fun x hx ha => ?_
    obtain ⟨hx1, hx2⟩ := List.mem_filter.1 hx
    obtain ⟨y, hy, rfl⟩ := List.mem_map.1 hx1
    rw [hheld]
    exact hk y hy hx2 ha
  · refine (man_preemptTeams_ne s.ageAll ?_).trans (man_ageAll hnodup hy)
    intro hj
    obtain ⟨x, hx, hxid⟩ := List.mem_map.1 hj
    obtain ⟨hx1, hx2⟩ := List.mem_filter.1 hx
    have hsame : x = y.aged s.time := List.inj_on_of_nodup_map (ageAll_nodup hnodup) hx1 (List.mem_map_of_mem hy) hxid
    exact hv (hsame ▸ hx2)

end

-- GRACE_EXPIRY -------------------------------------------------------------------------------------------------------------------------------

theorem exec_graceExpiry {s : State} {m : Man} {n : Nat} (hm : s.man s.subj.item = some m) (hg : m.grace = some n) :
    (n < bf (Tab.get 0 s.jobsched m.job) 40 24 * 1024 ∨ s.spillRoom m = false → exec .graceExpiry s = .next s) ∧
    (bf (Tab.get 0 s.jobsched m.job) 40 24 * 1024 ≤ n → s.spillRoom m = true → exec .graceExpiry s = .next
      ((m.held.foldl State.preemptOne s).modMan m.id fun m => { m with grace := none })) := by
  have he : exec .graceExpiry s = execGraceExpiry s := rfl
  rw [he, execGraceExpiry, withMan_of_man _ hm, hg]
  dsimp only
  refine ⟨fun h => congrArg _ (if_pos ?_), fun h1 h2 => congrArg _ (if_neg ?_)⟩
  · rw [Bool.not_eq_true']
    exact h
  · rw [h2]
    simpa using h1

theorem exec_graceExpiry_spec {s : State} {m : Man} {n : Nat} (hm : s.man s.subj.item = some m) (hg : m.grace = some n)
    (hover : bf (Tab.get 0 s.jobsched m.job) 40 24 * 1024 ≤ n) (hroom : s.spillRoom m = true) : ∃ t, exec .graceExpiry s = .next t ∧
      (∀ k ∈ m.held, t.berth k = (s.berth k).preemptNow) ∧ (∀ k, k ∉ m.held → t.berth k = s.berth k) ∧
      (t.man m.id).map Man.grace = some none ∧ t.hbm = s.hbm := by
  obtain ⟨bs, hbs⟩ := preemptOnes_frame m.held s
  have hman : (m.held.foldl State.preemptOne s).man m.id = some m := by
    rw [hbs, man_id hm]
    exact hm
  refine ⟨_, (exec_graceExpiry hm hg).2 hover hroom, fun k hk => ?_, fun k hk => ?_, ?_, ?_⟩
  · exact (berth_preemptOnes m.held s k).trans (if_pos hk)
  · exact (berth_preemptOnes m.held s k).trans (if_neg hk)
  · rw [man_modMan_same (fun m => { m with grace := none }) (fun _ => rfl) hman]
    rfl
  · rw [hbs]
    rfl

end Sys2Proof.Machine
end

section
/-! PROOF. The dry dock (spec/23 R339-R341, R361). -/

namespace Sys2Proof.Machine
open Sys2Proof

-- draining (R339) --------------------------------------------------------------------------------------------------------------------

theorem exec_preemptDrainDone (s : State) : exec .preemptDrainDone s = execPreemptDrainDone s := rfl

theorem exec_preemptDrainDone_drained {s : State} (hst : (s.berth s.subj.berth).st = .draining) (hd : s.drainDone s.subj.berth = true) :
    exec .preemptDrainDone s = .next (s.modBerth s.subj.berth fun y => { y with st := .spilling }) := by
  rw [exec_preemptDrainDone, execPreemptDrainDone]
  exact if_pos ⟨hst, hd⟩

theorem exec_preemptDrainDone_not {s : State} (h : (s.berth s.subj.berth).st ≠ .draining ∨ s.drainDone s.subj.berth = false) :
    exec .preemptDrainDone s = .next s := by
  rw [exec_preemptDrainDone, execPreemptDrainDone]
  refine if_neg fun hc => ?_
  rcases h with h | h
  · exact h hc.1
  · exact Bool.false_ne_true (h ▸ hc.2)

-- spilling (R340, R341) ---------------------------------------------------------------------------------------------------------------

theorem exec_spillDone (s : State) : exec .spillDone s = execSpillDone s := rfl

theorem spillFits_iff (x : Berth) : x.spillFits = true ↔ x.pool.length < 3 ∧ x.ctx.blocks ≤ x.freeBlocks := decide_eq_true_iff

/-- The image of a berth's berth-thread (R342). -/
def State.imageOf (s : State) (b : Nat) : Image :=
  let x := s.berth b
  ⟨x.ctx, x.shadow.seq + 1, if x.wasHalted then some x.reason else none, b, s.nextId, x.bpSkip⟩

/-- A berth whose image has gone into its pool. -/
def State.spilled (s : State) (b : Nat) : State :=
  ({ s with nextId := s.nextId + 1 }).modBerth b fun x => { x.free with pool := x.pool ++ [s.imageOf b] }

theorem berth_teamAway (s : State) (m : Man) (k : Nat) : (s.teamAway m).berth k = s.berth k := by
  rw [State.teamAway, tellHomes_frame]
  rfl

theorem exec_spillDone_spilled {s : State} {m : Man} (hst : (s.berth s.subj.berth).st = .spilling)
    (hfits : (s.berth s.subj.berth).spillFits = true)
    (hlead : ∀ y ∈ s.berths, y.1 ≠ s.subj.berth → y.2.st = .run → (s.followers y.1).contains s.subj.berth = false)
    (hm : s.man (s.berth s.subj.berth).ctx.team = some m) : ∃ t, exec .spillDone s = .next t ∧
      ∀ k, t.berth k = (s.spilled s.subj.berth).berth k := by
  have hany : s.berths.any (fun y => y.1 != s.subj.berth && (s.followers y.1).contains s.subj.berth && y.2.st == .run) = false := by
    rw [List.any_eq_false]
    intro y hy hc
    simp only [Bool.and_eq_true, bne_iff_ne, beq_iff_eq] at hc
    obtain ⟨⟨h1, h2⟩, h3⟩ := hc
    exact Bool.false_ne_true ((hlead y hy h1 h3).symm.trans h2)
  rw [exec_spillDone]
  unfold execSpillDone
  extract_lets b x c img out
  have hgo : ¬(x.st ≠ .spilling ∨ !x.spillFits ∨
      s.berths.any (fun y => y.1 != b && (s.followers y.1).contains b && y.2.st == .run)) := by
    rintro (h | h | h)
    · exact h hst
    · exact absurd h (by simp [x, b, hfits])
    · exact Bool.false_ne_true (hany.symm.trans h)
  rw [if_neg hgo]
  split
  next hno => cases hno.symm.trans hm
  next k hk =>
  cases hk.symm.trans hm
  extract_lets told left
  have hout : ∀ k, told.berth k = (s.spilled b).berth k := berth_event (s.spilled b) _ _ _ _
  clear_value left
  cases left with
  | true => exact ⟨_, congrArg _ (if_pos rfl), hout⟩
  | false => exact ⟨_, congrArg _ (if_neg Bool.false_ne_true), fun k => (berth_teamAway told m k).trans (hout k)⟩

theorem exec_spillDone_full {s : State} (h : 3 ≤ (s.berth s.subj.berth).pool.length ∨
    (s.berth s.subj.berth).freeBlocks < (s.berth s.subj.berth).ctx.blocks) : exec .spillDone s = .next s := by
  have hfits : (s.berth s.subj.berth).spillFits = false := by
    rw [Bool.eq_false_iff, ne_eq, spillFits_iff]
    omega
  rw [exec_spillDone, execSpillDone]
  exact if_pos (.inr (.inl (by rw [hfits]; rfl)))

-- eviction (R341) -----------------------------------------------------------------------------------------------------------------------

theorem exec_imageEvict (s : State) : exec .imageEvict s = execImageEvict s := rfl

/-- The oldest image of a pool goes to the dock store. -/
def State.evicted (s : State) (b : Nat) (i : Image) (l : List Image) : State :=
  { s.modBerth b fun x => { x with pool := l } with dock := s.dock ++ [i] }

theorem exec_imageEvict_evicted {s : State} {i : Image} {l : List Image} (hp : (s.berth s.subj.berth).pool = i :: l)
    (hn : (s.berth s.subj.berth).needsRoom = true) (hroom : s.carveUsed + 2 ^ 21 ≤ s.carveBytes) : ∃ t, exec .imageEvict s = .next t ∧
      t.roster = (s.evicted s.subj.berth i l).roster := by
  rw [exec_imageEvict, execImageEvict]
  simp only [hp, hn, Nat.not_lt.2 hroom, Bool.not_true, Bool.false_eq_true, or_self, if_false]
  refine ⟨_, rfl, ?_⟩
  split
  · exact roster_event (s.evicted s.subj.berth i l) _ _ _ _
  · rfl

theorem exec_imageEvict_not {s : State} (h : (s.berth s.subj.berth).needsRoom = false ∨ s.carveBytes < s.carveUsed + 2 ^ 21) :
    exec .imageEvict s = .next s := by
  rw [exec_imageEvict, execImageEvict]
  dsimp only
  split
  · rfl
  · refine if_pos ?_
    rcases h with h | h
    · exact .inl (by rw [h]; rfl)
    · exact .inr h

-- filling (R340, R361) --------------------------------------------------------------------------------------------------------------------

/-- What a filled berth holds. -/
structure Filled (s : State) (m : Man) (b : Nat) (c : Ctx) (im : Tab W64) (n seq : Nat) (skip : Bool) : Prop where
  mans : ∃ k, s.mans = [k] ∧ k.id = m.id ∧ k.owed = false
  ctx : (s.berth b).ctx = c
  im : (s.berth b).im = im
  codelen : (s.berth b).codelen = n
  bpSkip : (s.berth b).bpSkip = skip
  dock : s.dock = []
  committed : ∃ r, (s.berth b).shadow.pick = some (0, r) ∧ r.saved.ctx = c ∧ r.seq = seq
  seq : (s.berth b).shadow.seq = seq

section
variable {s : State} {m : Man} {b n seq : Nat} {c : Ctx} {im : Tab W64} {skip : Bool}

/-- Anything that leaves the berths, the manifests and the dock store as they are. -/
theorem filled_congr {t : State} (h : Filled s m b c im n seq skip) (hb : t.berths = s.berths) (hm : t.mans = s.mans) (hd : t.dock = s.dock) :
    Filled t m b c im n seq skip := by
  have hber : t.berth b = s.berth b := congrArg (fun l => Tab.get Berth.idle l b) hb
  obtain ⟨h1, h2, h3, h4, h5, h6, h7, h8⟩ := h
  exact ⟨by rw [hm]; exact h1, by rw [hber]; exact h2, by rw [hber]; exact h3, by rw [hber]; exact h4, by rw [hber]; exact h5,
    by rw [hd]; exact h6, by rw [hber]; exact h7, by rw [hber]; exact h8⟩

/-- A commit of a filled berth under its own number. -/
theorem filled_commitStart (h : Filled s m b c im n seq skip) : Filled (s.commitStart b (s.berth b).shadow.seq) m b c im n seq skip := by
  have hb : (s.commitStart b (s.berth b).shadow.seq).berth b = { s.berth b with shadow := s.startShadow b (s.berth b).shadow.seq } :=
    (berth_commitStart s b _ b).trans (if_pos rfl)
  obtain ⟨r, hpick, hctx, hseq⟩ := startShadow_pick s b (s.berth b).shadow.seq
  refine ⟨h.mans, ?_, ?_, ?_, ?_, h.dock, ⟨r, ?_, hctx.trans h.ctx, hseq.trans h.seq⟩, ?_⟩
  · rw [hb]; exact h.ctx
  · rw [hb]; exact h.im
  · rw [hb]; exact h.codelen
  · rw [hb]; exact h.bpSkip
  · rw [hb]; exact hpick
  · rw [hb]; exact h.seq

/-- A berth that changes its state of work alone. -/
theorem filled_modBerth (f : Berth → Berth) (hf : ∀ x, (f x).ctx = x.ctx ∧ (f x).im = x.im ∧ (f x).codelen = x.codelen ∧
    (f x).bpSkip = x.bpSkip ∧ (f x).shadow = x.shadow) (h : Filled s m b c im n seq skip) : Filled (s.modBerth b f) m b c im n seq skip := by
  have hb : (s.modBerth b f).berth b = f (s.berth b) := (berth_modBerth s b b f).trans (if_pos rfl)
  obtain ⟨h1, h2, h3, h4, h5⟩ := hf (s.berth b)
  refine ⟨h.mans, ?_, ?_, ?_, ?_, h.dock, ?_, ?_⟩
  · rw [hb, h1]; exact h.ctx
  · rw [hb, h2]; exact h.im
  · rw [hb, h3]; exact h.codelen
  · rw [hb, h4]; exact h.bpSkip
  · rw [hb, h5]; exact h.committed
  · rw [hb, h5]; exact h.seq

theorem filled_modMan (i : Nat) (f : Man → Man) (hf : ∀ x, (f x).id = x.id ∧ (f x).owed = x.owed) (h : Filled s m b c im n seq skip) :
    Filled (s.modMan i f) m b c im n seq skip := by
  obtain ⟨k, hk, hid, howed⟩ := h.mans
  refine ⟨⟨if k.id = i then f k else k, ?_, ?_, ?_⟩, h.ctx, h.im, h.codelen, h.bpSkip, h.dock, h.committed, h.seq⟩
  · rw [State.modMan, hk]
    rfl
  · split
    · exact (hf k).1.trans hid
    · exact hid
  · split
    · exact (hf k).2.trans howed
    · exact howed

theorem filled_joinCk {t : State} (h : Filled t m b c im n seq skip) : Filled (s.joinCk t) m b c im n seq skip := by
  unfold State.joinCk
  split
  · exact filled_congr h rfl rfl rfl
  · exact h

/-- A team to which no pre-emption is owed goes on. -/
theorem filled_pendingPreempt (h : Filled s m b c im n seq skip) : Filled (s.pendingPreempt m.id) m b c im n seq skip := by
  obtain ⟨k, hk, hid, howed⟩ := h.mans
  have hman : s.man m.id = some k := (man_alone hk m.id).trans (if_pos hid)
  rw [pendingPreempt_none hman howed]
  exact h

/-- The berth of a team of one goes on as it was filled (R361). -/
theorem filled_goOn (htop : m.top = 0) (hbase : m.base = b) (hfailed : m.failed = [])
    (h : Filled s m b c im n seq skip) : Filled (s.goOn m) m b c im n seq skip := by
  unfold State.goOn
  extract_lets src go
  have hgo : Filled (m.held.foldl go s) m b c im n seq skip := by
    rw [held_of_top_zero htop, hbase, List.foldl_cons, List.foldl_nil]
    simp only [go, hfailed, List.contains_nil, Bool.false_eq_true, if_false]
    split
    · exact h
    · exact filled_modBerth _ (fun x => ⟨rfl, rfl, rfl, rfl, rfl⟩) h
  exact filled_joinCk (filled_pendingPreempt (filled_modMan m.id _ (fun x => ⟨rfl, rfl⟩) hgo))

/-- The team resumes, or waits; either way the berth holds what it was filled with. -/
theorem filled_fillCheck (htop : m.top = 0) (hbase : m.base = b) (hfailed : m.failed = []) (hm : s.mans = [m])
    (h : Filled s m b c im n seq skip) : Filled (s.fillCheck m.id) m b c im n seq skip := by
  rw [State.fillCheck, man_alone hm, if_pos rfl]
  dsimp only
  split
  · exact h
  · rw [if_neg (by omega)]
    refine filled_goOn htop hbase hfailed ?_
    rw [held_of_top_zero htop, hbase, List.filter_singleton]
    cases !(s.followers b).isEmpty with
    | true => exact filled_commitStart h
    | false => exact h

end

/-- The device without an image in its pools and its dock store. -/
def State.unstored (s : State) (i : Image) : State :=
  let gone := fun l : List Image => l.filter fun k => k.order != i.order
  { s with dock := gone s.dock, berths := Tab.sweep Berth.idle (fun x => { x with pool := gone x.pool }) s.berths }

theorem exec_fillDone (s : State) : exec .fillDone s = execFillDone s := rfl

/-- A berth with the context of an image, and its team's code (R340). -/
def State.restored (s : State) (b : Nat) (i : Image) (im : Tab W64) (n : Nat) : State :=
  (s.unstored i).modBerth b fun x => { x with
    ctx := i.ctx.rebase fun k => k + b - i.berth
    im := im
    codelen := n
    reason := i.halted.getD 0
    wasHalted := i.halted.isSome
    bpSkip := i.skip }

section
variable {s : State} {m : Man} {i : Image} {im : Tab W64} {n : Nat} (hmans : s.mans = [m]) (hst : m.st = .placed) (hkind : m.kind = 1)
    (htop : m.top = 0) (hbase : m.base = s.subj.berth) (hfill : (s.berth s.subj.berth).st = .filling)
    (hi : s.findImage m.id m.rank0 = some i)
    (hcode : (s.codeStore.find? fun e => e.1 == m.id && e.2.1 == m.rank0) = some (m.id, m.rank0, im, n))
include hmans hst hkind htop hbase hfill hi hcode

/-- FILL_DONE of a team of one berth (R340, R361). -/
theorem exec_fillDone_restored : exec .fillDone s = .next ((((s.restored s.subj.berth i im n).commitStart s.subj.berth (i.seq + 1)).event srcHm
    evFill (some m.job) (m.dockData m.rank0 s.subj.berth)).fillCheck m.id) := by
  have hmine : (s.mans.find? fun m => m.st == .placed &&
      decide (m.kind = 1 ∧ m.base ≤ s.subj.berth ∧ s.subj.berth < m.base + m.aligned)) = some m := by
    rw [hmans, List.find?_singleton, if_pos]
    simp [hst, hkind, hbase, aligned_of_top_zero htop]
  have hrank : m.rankAt s.subj.berth = m.rank0 := by rw [← hbase, rankAt_base]
  rw [exec_fillDone]
  unfold execFillDone
  extract_lets b mine
  have hmine' : mine = some m := hmine
  have hrank' : m.rankAt b = m.rank0 := hrank
  clear_value mine
  subst hmine'
  split
  next hno => cases hno
  next k hk =>
  cases hk
  rw [hrank', hi]
  split
  next hno => cases hno
  next j hj =>
  cases hj
  rw [if_neg (not_not.2 hfill)]
  extract_lets gone drop bs bare code im' len c back told
  have hcode' : code = some (m.id, m.rank0, im, n) := hcode
  have him : im' = im := by simp only [im', hcode']
  have hlen : len = n := by simp only [len, hcode']
  have hback : back = s.restored b i im n := by
    simp only [back, him, hlen]
    rfl
  rw [← hback]

/-- What the berth then holds. -/
theorem exec_fillDone_filled (hfailed : m.failed = []) (howed : m.owed = false) (hdock : s.dock = [i]) : ∃ t, exec .fillDone s = .next t ∧
    Filled t m s.subj.berth (i.ctx.rebase fun k => k + s.subj.berth - i.berth) im n (i.seq + 1) i.skip := by
  refine ⟨_, exec_fillDone_restored hmans hst hkind htop hbase hfill hi hcode, ?_⟩
  have hb : ∀ seq, ((s.restored s.subj.berth i im n).commitStart s.subj.berth seq).berth s.subj.berth =
      { (s.restored s.subj.berth i im n).berth s.subj.berth with shadow := (s.restored s.subj.berth i im n).startShadow s.subj.berth seq } :=
    fun seq => (berth_commitStart _ _ _ _).trans (if_pos rfl)
  have hr : (s.restored s.subj.berth i im n).berth s.subj.berth = { (s.unstored i).berth s.subj.berth with
      ctx := i.ctx.rebase fun k => k + s.subj.berth - i.berth
      im := im
      codelen := n
      reason := i.halted.getD 0
      wasHalted := i.halted.isSome
      bpSkip := i.skip } := (berth_modBerth _ _ _ _).trans (if_pos rfl)
  have hctx : (s.restored s.subj.berth i im n).ctxAt s.subj.berth = i.ctx.rebase fun k => k + s.subj.berth - i.berth := by
    rw [State.ctxAt, hr]
  obtain ⟨r, hpick, hsaved, hseq⟩ := startShadow_pick (s.restored s.subj.berth i im n) s.subj.berth (i.seq + 1)
  have hfilled : Filled ((s.restored s.subj.berth i im n).commitStart s.subj.berth (i.seq + 1)) m s.subj.berth
      (i.ctx.rebase fun k => k + s.subj.berth - i.berth) im n (i.seq + 1) i.skip := by
    refine ⟨⟨m, hmans, rfl, howed⟩, ?_, ?_, ?_, ?_, ?_, ⟨r, ?_, hsaved.trans hctx, hseq⟩, ?_⟩
    · rw [hb, hr]
    · rw [hb, hr]
    · rw [hb, hr]
    · rw [hb, hr]
    · change s.dock.filter (fun k => k.order != i.order) = []
      rw [hdock]
      simp
    · rw [hb]
      exact hpick
    · rw [hb]
      rfl
  have hev := roster_event ((s.restored s.subj.berth i im n).commitStart s.subj.berth (i.seq + 1)) srcHm evFill (some m.job)
    (m.dockData m.rank0 s.subj.berth)
  obtain ⟨e1, e2, -, e4, -⟩ := roster_fields hev
  exact filled_fillCheck htop hbase hfailed (e2.trans hmans) (filled_congr hfilled e1 e2 e4)

end

end Sys2Proof.Machine
end

section
/-! PROOF. Barriers and mailboxes (spec/01 R26-R28, spec/02 R34), and the statement of pre-emption and barriers. -/

namespace Sys2Proof.Machine
open Sys2Proof

theorem exec_barrierComplete (t l inst : Nat) (s : State) : exec (.barrierComplete t l inst) s = execBarrierComplete t l inst s := rfl
theorem exec_mailboxHandlerEnter (id slot : Nat) (s : State) :
    exec (.mailboxHandlerEnter id slot) s = execMailboxHandlerEnter id slot s := rfl

section
variable {s : State} {t l inst : Nat}

theorem exec_barrierComplete_gone (h : s.man t = none) : exec (.barrierComplete t l inst) s = .next s := by
  rw [exec_barrierComplete, execBarrierComplete, h]

/-- A level of several devices moves along its tree (spec/19 R276). -/
theorem exec_barrierComplete_wide {m : Man} (h : s.man t = some m) (hw : m.wide l = true) : exec (.barrierComplete t l inst) s =
    .next (((m.barriers.filter fun x => x.level == l && x.inst == inst).foldl (fun s x => s.barrierMove t x) s).levelMove m l) := by
  rw [exec_barrierComplete, execBarrierComplete, h]
  exact if_pos hw

/-- A barrier whose members of this device have all arrived, and that is not LOST, is done (R26). -/
def Barrier.complete (l inst : Nat) (m : Man) (x : Barrier) : Barrier :=
  if x.level = l ∧ x.inst = inst ∧ m.localDone x = true ∧ x.lost = false then { x with done := true } else x

theorem exec_barrierComplete_local {m : Man} (h : s.man t = some m) (hw : m.wide l = false) :
    (s.ckStart = true → exec (.barrierComplete t l inst) s =
      .next (s.modMan t fun m => { m with barriers := m.barriers.map (Barrier.complete l inst m) })) ∧
    (s.ckStart = false → exec (.barrierComplete t l inst) s = .next s) := by
  have hf : (fun m : Man => { m with barriers := m.barriers.map fun x =>
      if x.level = l ∧ x.inst = inst ∧ m.localDone x ∧ !x.lost then { x with done := true } else x }) =
      fun m : Man => { m with barriers := m.barriers.map (Barrier.complete l inst m) } := by
    funext m
    have hx : (fun x : Barrier => if x.level = l ∧ x.inst = inst ∧ m.localDone x ∧ !x.lost then { x with done := true } else x) =
        Barrier.complete l inst m := by
      funext x
      exact if_congr (by rw [Bool.not_eq_true']) rfl rfl
    rw [hx]
  rw [exec_barrierComplete, execBarrierComplete, h]
  dsimp only
  rw [if_neg (by rw [hw]; exact Bool.false_ne_true), hf]
  exact ⟨fun hc => if_neg (by rw [hc]; exact Bool.false_ne_true), fun hc => if_pos (by rw [hc]; rfl)⟩

end

section
variable {s : State} {x : Mailbox} {h id slot : Nat} {m : Man} (hx : (s.mboxes.find? fun y => y.id == id) = some x)
    (htmpl : x.template = some h) (hm : s.man h = some m)
include hx htmpl hm

/-- A copy of the slot that has not retired keeps another from being made (R28). -/
theorem exec_mailboxHandlerEnter_busy (hbusy : ∃ k ∈ s.mans, k.mbox = some (id, slot) ∧ k.origin = none ∧ k.st ≠ .retired) :
    exec (.mailboxHandlerEnter id slot) s = .next s := by
  obtain ⟨k, hk, h1, h2, h3⟩ := hbusy
  have hany : s.mans.any (fun m => m.mbox == some (id, slot) && m.origin.isNone && m.st != .retired) = true :=
    List.any_eq_true.2 ⟨k, hk, by simp [h1, h2, h3]⟩
  rw [exec_mailboxHandlerEnter, execMailboxHandlerEnter, hx]
  dsimp only
  rw [htmpl, Option.bind_some, hm]
  exact if_pos (.inr hany)

/-- A pending slot makes one copy of its handler's template (R28, R34). -/
theorem exec_mailboxHandlerEnter_copy (hslot : slot ∈ x.pend)
    (hfree : ∀ k ∈ s.mans, k.mbox = some (id, slot) → k.origin = none → k.st = .retired) :
    ∃ k : Man, exec (.mailboxHandlerEnter id slot) s = .next { s with nextId := s.nextId + 1, mans := enlist k s.mans } ∧ k.id = s.nextId ∧
      k.raw = m.raw ∧ k.st = .waiting ∧ k.mbox = some (id, slot) ∧ k.writes = false ∧ k.eprio = m.prio ∧ k.accepted = s.time := by
  have hany : s.mans.any (fun m => m.mbox == some (id, slot) && m.origin.isNone && m.st != .retired) = false := by
    rw [List.any_eq_false]
    intro k hk hc
    simp only [Bool.and_eq_true, beq_iff_eq, Option.isNone_iff_eq_none, bne_iff_ne] at hc
    obtain ⟨⟨h1, h2⟩, h3⟩ := hc
    exact h3 (hfree k hk h1 h2)
  rw [exec_mailboxHandlerEnter, execMailboxHandlerEnter, hx]
  dsimp only
  rw [htmpl, Option.bind_some, hm]
  dsimp only
  rw [if_neg (by rw [hany]; simp [hslot])]
  exact ⟨_, rfl, rfl, rfl, rfl, rfl, rfl, rfl, rfl⟩

end

/-- Settles O41: each clause is the case of its instruction that it names. -/
theorem preemptionAndBarriers : Obligations.PreemptionAndBarriers := by
  refine ⟨?_, fun s t l inst m => ⟨fun hm hw => exec_barrierComplete_local hm hw, fun hm hw => exec_barrierComplete_wide hm hw,
    fun hm => exec_barrierComplete_gone hm, fun x h id slot hx htmpl hm hslot => ⟨fun hfree => ?_, fun hbusy =>
      exec_mailboxHandlerEnter_busy hx htmpl hm hbusy⟩⟩⟩
  · rintro s _ m rfl
    refine ⟨fun p base hr hp hnodup => ?_, fun hr => ?_, fun n hm hg => ⟨(exec_graceExpiry hm hg).1, exec_graceExpiry_spec hm hg⟩,
      exec_preemptDrainDone_drained, exec_preemptDrainDone_not, fun hst hlen hblocks hlead hm => ?_, exec_spillDone_full,
      fun i l hp hn hroom => ?_, exec_imageEvict_not,
      fun i im n hmans hst hkind htop hfailed howed hbase hfill hi hpools hdock hcode => ?_⟩
    case refine_1 =>
      obtain ⟨t, he, hbm, hreg, hvictim, hother, hkept⟩ := exec_preempt_spec hnodup hr hp
      simp only [isVictim_aged] at hvictim hother hkept
      exact ⟨t, he, hbm, hreg, hvictim, hother, hkept⟩
    case refine_2 =>
      rw [exec_preempt, execPreempt]
      dsimp only
      rw [show s.ageAll.reserve = [] from hr]
      rfl
    case refine_3 =>
      obtain ⟨t, he, ht⟩ := exec_spillDone_spilled hst ((spillFits_iff _).2 ⟨hlen, hblocks⟩) hlead hm
      have hb : ∀ k, t.berth k = if k = s.subj.berth then
          { (s.berth s.subj.berth).free with pool := (s.berth s.subj.berth).pool ++ [s.imageOf s.subj.berth] } else s.berth k :=
        fun k => (ht k).trans (berth_modBerth _ _ _ _)
      refine ⟨t, he, ⟨s.imageOf s.subj.berth, ?_, rfl, rfl, rfl, rfl, rfl⟩, ?_, ?_, fun k hk => ?_⟩
      · rw [hb, if_pos rfl]
      · rw [hb, if_pos rfl]; rfl
      · rw [hb, if_pos rfl]; rfl
      · rw [hb, if_neg hk]
    case refine_4 =>
      obtain ⟨t, he, ht⟩ := exec_imageEvict_evicted hp hn hroom
      obtain ⟨h1, -, -, h4, -⟩ := roster_fields ht
      have hb : ∀ k, t.berth k = if k = s.subj.berth then { s.berth s.subj.berth with pool := l } else s.berth k :=
        fun k => (congrArg (fun b => Tab.get Berth.idle b k) h1).trans (berth_modBerth s s.subj.berth k fun x => { x with pool := l })
      refine ⟨t, he, ?_, h4, fun k hk => ?_⟩
      · rw [hb, if_pos rfl]
      · rw [hb, if_neg hk]
    case refine_5 =>
      obtain ⟨t, he, hf⟩ := exec_fillDone_filled hmans hst hkind htop hbase hfill hi hcode hfailed howed hdock
      exact ⟨t, he, hf.ctx, hf.im, hf.codelen, hf.bpSkip, hf.dock, hf.committed⟩
  · obtain ⟨k, he, hk⟩ := exec_mailboxHandlerEnter_copy hx htmpl hm hslot hfree
    exact ⟨_, k, he, rfl, hk⟩

end Sys2Proof.Machine
end

section
/-! SUPPORT. A word whose guard is false, and what a step executes (spec/03 R37, R35, spec/19 R284, spec/21 R300). -/

namespace Sys2Proof.Machine
open Sys2Proof

/-- A control transfer that is guarded off (spec/03 R37). -/
theorem issueTransfer_off {h : Hd} {v : State → Verdict} {eff : State → State} {s : State} (hg : s.ctx.guard h = false) :
    issueTransfer h v eff s = .next { s with iss := .issued } := by
  rw [issueTransfer, issue_off hg, ite_self]

/-- Every berth word but SEL opens with the test of its guard; a control transfer has the test for a delay group before it. -/
theorem exec_guardedOff {i : Instr} {h : Hd} {s : State} (hw : wordHead i = some h) (hg : s.ctx.guard h = false)
    (hsel : ∀ d a b, i ≠ .sel h d a b) : exec i s = .next { s with iss := .issued } := by
  have hoff : ¬ s.ctx.guard h = true := by simp [hg]
  cases i with
  | sel h' d a b => cases hw; exact absurd rfl (hsel d a b)
  | br | call | jmp | ret | loop | loopi | probe | rett => cases hw; exact issueTransfer_off hg
  | _ => cases hw <;> exact if_neg hoff

/-- Settles O1: the guard is tested before anything else that a word does. -/
theorem guardedOffWordDoesNothing : Obligations.GuardedOffWordDoesNothing :=
  fun _ _ _ hw hg hsel => exec_guardedOff hw hg hsel

/-- A step on an empty agenda is the turn of the agent. -/
theorem step_idle {s : State} (h : s.agenda = []) : step s = agentTurn true s := by rw [step, h]

/-- An agent that has an instruction to execute executes it. -/
theorem agentTurn_run {s t : State} {i : Instr} {idle : Bool} (h : s.agentWord = .run i t) : agentTurn idle s = exec i t := by
  rw [agentTurn, h]

/-- A step on an empty agenda, of an agent that has an instruction to execute. -/
theorem step_run {s t : State} {i : Instr} (ha : s.agenda = []) (h : s.agentWord = .run i t) : step s = exec i t := by
  rw [step_idle ha, agentTurn_run h]

/-- A pier run has the instruction that the word at its offset decodes to (spec/19 R284). -/
theorem agentWord_pier {s : State} {p k : Nat} {w : W32} {i : Instr} (ha : s.agent = .pier p k) (hf : s.pierFetch p k = some w)
    (hd : decodePier w.toNat = some i) : s.agentWord = .run i { s with pcur := (p, k) } := by
  unfold State.agentWord
  split <;> rename_i h <;> cases ha.symm.trans h
  simp only [show ({ s with pcur := (p, k) } : State).pierFetch p k = some w from hf, hd]

/-- A wharf unit has the command at the head of its ring (spec/21 R300). -/
theorem agentWord_wharf {s : State} {u : Nat} {e : Entry} {l : List Entry} {i : Instr} (ha : s.agent = .wharf u)
    (hr : (s.unit u).ring = e :: l) (hd : decodeWharf e.word.toNat = some i) :
    s.agentWord = .run i { s with wcur := u, subj := ⟨0, 0, 0, u⟩ } := by
  unfold State.agentWord
  split <;> rename_i h <;> cases ha.symm.trans h
  simp only [show (({ s with wcur := u, subj := ⟨0, 0, 0, u⟩ } : State).unit u).ring = e :: l from hr, hd]

/-- Settles O54: the turn of the agenda, else what the agent whose turn it is has to execute. -/
theorem stepRunsTheDecodedInstruction : Obligations.StepRunsTheDecodedInstruction := by
  refine fun s => ⟨fun t l ha hi => ?agenda, fun ha => ⟨fun b hb => ?issue, fun b hb => ?land, fun b hb => ?release,
    fun p k w i hp hf hd => step_run ha (agentWord_pier hp hf hd), fun u e l i hu hr hd => step_run ha (agentWord_wharf hu hr hd)⟩⟩
  case agenda => rw [step, ha]; exact if_pos hi
  case issue => exact step_run ha (by rw [State.agentWord, hb])
  case land => exact step_run ha (by rw [State.agentWord, hb])
  case release => exact step_run ha (by rw [State.agentWord, hb])

end Sys2Proof.Machine
end

section
/-! SUPPORT. What a decoded berth word is: an instruction with a head, whose meaning is that of the word (spec/05 R67). -/

namespace Sys2Proof.Machine
open Sys2Proof

/-- Whatever a decoder of berth words accepts is a berth word. -/
def YieldsWord (d : Dec) : Prop := ∀ i, d = .ok i → (wordHead i).isSome = true

theorem yieldsWord_error (c : Nat) : YieldsWord (.error c) := fun _ h => Except.noConfusion rfl rfl (heq_of_eq h)

theorem yieldsWord_ok {i : Instr} (hi : (wordHead i).isSome = true) : YieldsWord (.ok i) := fun _ h => Except.ok.inj h ▸ hi

theorem yieldsWord_dec {r z : Bool} {i : Instr} (hi : (wordHead i).isSome = true) : YieldsWord (dec r z i) := by
  cases r <;> cases z
  case true.true => exact yieldsWord_ok hi
  all_goals exact yieldsWord_error _

theorem yieldsWord_decQ {α : Type} {q : Option α} {k : α → Dec} (hk : ∀ x, YieldsWord (k x)) : YieldsWord (decQ q k) := by
  cases q with
  | none => exact yieldsWord_error _
  | some x => exact hk x

-- the decoder's forms, one after the other: each of its branches ends in a word, or refuses

theorem yieldsWord_decScalar (op : Nat) (h : Hd) (opd : Nat) : YieldsWord (decScalar op h opd) := by
  unfold decScalar
  dsimp only
  split
  case h_1 => unfold decAlu; split; any_goals exact yieldsWord_dec rfl
              exact yieldsWord_error _
  case h_2 => unfold decMul; split; any_goals exact yieldsWord_dec rfl
              exact yieldsWord_error _
  any_goals exact yieldsWord_dec rfl
  exact yieldsWord_error _

theorem yieldsWord_decControl (op : Nat) (h : Hd) (opd : Nat) : YieldsWord (decControl op h opd) := by
  unfold decControl
  split
  any_goals exact yieldsWord_dec rfl
  any_goals exact yieldsWord_decQ fun _ => yieldsWord_dec rfl
  exact yieldsWord_error _

theorem yieldsWord_decSystem (op : Nat) (h : Hd) (opd : Nat) : YieldsWord (decSystem op h opd) := by
  unfold decSystem
  split
  any_goals exact yieldsWord_dec rfl
  exact yieldsWord_error _

theorem yieldsWord_decToken (h : Hd) (f : LC) : YieldsWord (decToken h f) := by
  unfold decToken
  split
  any_goals exact yieldsWord_dec rfl
  exact yieldsWord_error _

theorem yieldsWord_decCopy (h : Hd) (f : LC) : YieldsWord (decCopy h f) := by
  unfold decCopy
  split
  case h_1 | h_3 => exact yieldsWord_decQ fun _ => yieldsWord_dec rfl
  case h_2 | h_4 =>
    refine yieldsWord_decQ fun _ => ?_
    split
    · exact yieldsWord_error _
    · exact yieldsWord_dec rfl
  case h_5 => exact yieldsWord_dec rfl
  case h_6 => exact yieldsWord_error _

theorem yieldsWord_decAtom (r : Bool) (h : Hd) (f : LC) : YieldsWord (decAtom r h f) := by
  unfold decAtom
  refine yieldsWord_decQ fun q => ?_
  dsimp only
  split <;> exact yieldsWord_dec rfl

theorem yieldsWord_decVV (op : Nat) (h : Hd) (f : VV) : YieldsWord (decVV op h f) := by
  unfold decVV
  dsimp only
  split
  any_goals split
  any_goals exact yieldsWord_dec rfl
  any_goals exact yieldsWord_decQ fun _ => yieldsWord_dec rfl
  any_goals exact yieldsWord_error _
  exact yieldsWord_decQ fun _ => yieldsWord_decQ fun _ => yieldsWord_decQ fun _ => yieldsWord_dec rfl

theorem yieldsWord_decVS (op : Nat) (h : Hd) (f : VS) : YieldsWord (decVS op h f) := by
  unfold decVS
  split
  any_goals split
  any_goals exact yieldsWord_dec rfl
  all_goals exact yieldsWord_error _

theorem yieldsWord_decLC (op : Nat) (h : Hd) (f : LC) : YieldsWord (decLC op h f) := by
  unfold decLC
  split
  case h_1 => exact yieldsWord_decToken h f
  case h_5 => exact yieldsWord_decCopy h f
  any_goals exact yieldsWord_decAtom _ h f
  any_goals split
  any_goals exact yieldsWord_dec rfl
  any_goals exact yieldsWord_decQ fun _ => yieldsWord_dec rfl
  all_goals exact yieldsWord_error _

theorem yieldsWord_decMX (op : Nat) (h : Hd) (f : MX) : YieldsWord (decMX op h f) := by
  unfold decMX
  refine yieldsWord_decQ fun g => ?_
  dsimp only
  split
  any_goals split
  any_goals exact yieldsWord_dec rfl
  any_goals exact yieldsWord_error _
  any_goals exact yieldsWord_decQ fun _ => yieldsWord_dec rfl
  exact yieldsWord_decQ fun _ => yieldsWord_decQ fun _ => yieldsWord_dec rfl

theorem yieldsWord_decForm (op : Nat) (h : Hd) (opd : Nat) : YieldsWord (decForm op h opd) := by
  unfold decForm
  repeat' split
  · exact yieldsWord_dec rfl
  · exact yieldsWord_decScalar op h opd
  · exact yieldsWord_decControl op h opd
  · exact yieldsWord_decSystem op h opd
  · exact yieldsWord_decLC op h _
  · exact yieldsWord_error _
  · exact yieldsWord_decVV op h _
  · exact yieldsWord_decVS op h _
  · exact yieldsWord_decLC op h _
  · exact yieldsWord_decMX op h _

/-- The decoder accepts berth words alone. -/
theorem yieldsWord_decodeBerth (w : Nat) : YieldsWord (decodeBerth w) := by
  unfold decodeBerth
  dsimp only
  split
  · exact yieldsWord_error _
  · rename_i i hi
    split
    · exact yieldsWord_error _
    · exact yieldsWord_ok (yieldsWord_decForm _ _ _ i hi)

/-- The meaning that a group gives a berth word is the instruction's. -/
theorem berthWord_of_wordHead {i : Instr} {h : Hd} (hw : wordHead i = some h) (s : State) : berthWord i s = exec i s := by
  cases i with
  | _ => cases hw <;> rfl

/-- A decoded word has in its group the meaning of its instruction. -/
theorem berthWord_of_decodeBerth {w : Nat} {i : Instr} (hd : decodeBerth w = .ok i) (s : State) : berthWord i s = exec i s := by
  obtain ⟨h, hw⟩ := Option.isSome_iff_exists.1 (yieldsWord_decodeBerth w i hd)
  exact berthWord_of_wordHead hw s

end Sys2Proof.Machine
end

section
/-! PROOF. The boundary of a berth-thread that nothing holds up, and the issue of its group (spec/03 R35, R36, R64). -/

namespace Sys2Proof.Machine
open Sys2Proof

/-- The turn of a berth whose berth-thread runs is its boundary. -/
theorem exec_groupIssue_running {s : State} {b : Nat} (hb : s.subj.berth = b) (ha : s.agent = .issue b) (hst : (s.berth b).st = .run)
    (ht : s.throttled = false) (hp : (s.berth b).ctx.pilot = .run) :
    exec .groupIssue s = ({ s with cur := b } : State).boundary := by
  subst hb
  have hstands : ¬ ((s.berth s.subj.berth).st ≠ .run ∨ s.throttled = true) := by simp [hst, ht]
  have hpilot : ∀ p, p ≠ Pilot.run → ¬ (s.berth s.subj.berth).ctx.pilot = p := fun p hne h => hne (h.symm.trans hp)
  exact (if_neg (not_not_intro ha)).trans <| (if_neg hstands).trans <| (if_neg (hpilot .retired nofun)).trans <|
    (if_neg (hpilot .exit nofun)).trans (if_neg (hpilot .rett nofun))

/-- A boundary at which nothing is to be done leads to the issue of the group (spec/23 R334). -/
theorem boundary_issues {s : State} (hpend : (s.berth s.cur).ctx.pending = none)
    (hteam : (s.teamOf (s.berth s.cur).ctx).map Man.ended = some false) (hdbg : bt (s.berth s.cur).dbgctl 63 = false)
    (hstep : (s.berth s.cur).stepping = none) (hbps : (s.berth s.cur).bps = []) (hpre : (s.berth s.cur).preempt = false)
    (hgate : (s.berth s.cur).gate = false) (hreplay : (s.berth s.cur).replay = none) (href : (s.berth s.cur).ctx.refusals = [])
    (hent : (s.berth s.cur).shadow.entries < 1024) (hfly : ∀ f ∈ (s.berth s.cur).ctx.flights, f.rem ≠ 0) :
    s.boundary = s.issueGroup := by
  have hdue : (s.berth s.cur).ctx.flights.any (fun f => f.rem == 0) = false := by simpa using hfly
  have hrefusal : s.refusalDue = none := by
    have h : s.ctx.refusals = [] := href
    simp [State.refusalDue, h, firstFail]
  have hbreaks : (s.berth s.cur).breaks = false := by simp [Berth.breaks, hbps]
  have hdone : (s.berth s.cur).stepDone = false := by simp [Berth.stepDone, hstep]
  rw [State.boundary]
  simp [hpend, hteam, hdbg, hstep, hpre, hgate, hreplay, hrefusal, hbreaks, hdone, hdue, Nat.not_le.2 hent]

/-- A fetch past the code raises BOUND at the word that is not there (R36). -/
theorem issueGroup_fetchError {s : State} {o : Nat} (h : fetchGroup (s.berth s.cur) groupFuel s.ctx.pc = .error o) :
    s.issueGroup = .next (s.takeTrap ⟨0x02, w64 o, 0, 0⟩) := by
  have h' : fetchGroup (s.berth s.cur) groupFuel (s.berth s.cur).ctx.pc = .error o := h
  rw [State.issueGroup]
  simp only [h']
  rfl

section
variable {s : State} {raw : List (Nat × W64)} (hf : fetchGroup (s.berth s.cur) groupFuel s.ctx.pc = .ok raw)
include hf

/-- A word that the decoder refuses stops the machine by name (spec/05 R86, log entry 12). -/
theorem issueGroup_undecodable {code : Nat} (hd : decodeGroup raw = .error code) : s.issueGroup = .fault (.undecodable code) := by
  have hf' : fetchGroup (s.berth s.cur) groupFuel (s.berth s.cur).ctx.pc = .ok raw := hf
  rw [State.issueGroup]
  simp only [hf', hd]

/-- A group whose words all have their answer: a fault, a wait, a freeze, or the issue of them all. -/
theorem issueGroup_all {ws : List Fetched} {l : List (Fetched × State)} (hd : decodeGroup raw = .ok ws) (ht : tryWords s ws = .all l) :
    s.issueGroup = match groupFault l with
      | some t => .next { t with woff := 0, skip := none }
      | none =>
        if l.any fun y => y.2.iss == .waiting then .next s.waitCk
        else if l.any fun y => y.2.iss == .frozen then .next (sendRequests l s).frozenCk
        else match issueWords s ws with
          | some t => .next (t.afterWords s ws (s.ctx.pc + raw.length))
          | none => .next s.frozenCk := by
  have hf' : fetchGroup (s.berth s.cur) groupFuel (s.berth s.cur).ctx.pc = .ok raw := hf
  rw [State.issueGroup]
  simp only [hf', hd, ht]
  rfl
end

-- a group of one word -------------------------------------------------------------------------------------------------

/-- A word with its stop bit set is a group (spec/03 R35). -/
theorem fetchGroup_one {x : Berth} {o : Nat} {w : W64} (hlen : o < x.codelen) (hmax : o ≤ 32767) (hload : x.ctx.loading o = false)
    (hw : x.word o = w) (hstop : bt w 63 = true) : fetchGroup x groupFuel o = .ok [(o, w)] := by
  have hin : ¬ (x.codelen ≤ o ∨ 32767 < o ∨ x.ctx.loading o = true) := by simp [hload]; omega
  rw [groupFuel, fetchGroup, if_neg hin]
  simp [hw, hstop]

theorem decodeGroup_one_error {o : Nat} {w : W64} {code : Nat} (h : decodeBerth w.toNat = .error code) :
    decodeGroup [(o, w)] = .error code := by simp only [decodeGroup, h]

theorem decodeGroup_one {o : Nat} {w : W64} {i : Instr} (h : decodeBerth w.toNat = .ok i) :
    decodeGroup [(o, w)] = .ok [⟨o, slotClass (fld w.toNat 56 7), i⟩] := by simp only [decodeGroup, h]

theorem tryWords_one {s u : State} {w : Fetched} (h : w.run s = .next u) : tryWords s [w] = .all [(w, u)] := by
  simp only [tryWords, h]

theorem groupFault_one_trapped {w : Fetched} {u : State} {op : Option Nat} (h : u.iss = .trapped op) :
    groupFault [(w, u)] = some u := by cases op <;> simp [groupFault, h]

theorem groupFault_one_none {w : Fetched} {u : State} (h : ∀ op, u.iss ≠ .trapped op) : groupFault [(w, u)] = none := by
  cases hu : u.iss with
  | trapped op => exact absurd hu (h op)
  | _ => simp [groupFault, hu]

theorem sendRequests_one {s u : State} {w : Fetched} (h : w.run s = .next u) (hu : u.iss = .frozen) : sendRequests [(w, u)] s = u := by
  simp [sendRequests, hu, h]

theorem issueWords_one {s u : State} {w : Fetched} (h : w.run s = .next u) (hu : u.iss = .issued) :
    issueWords s [w] = some (u.holdNew s) := by simp [issueWords, runWords, h, hu]

/-- Settles O55: nothing stands at the boundary, so the group is fetched and the answers of its words decide. -/
theorem groupsIssue : Obligations.GroupsIssue := by
  intro s b
  dsimp only
  intro ha hst ht hp hpend hteam hdbg hstep hbps hpre hgate hreplay href hent hfly
  have hgo : exec .groupIssue { s with subj := ⟨b, 0, 0, 0⟩ } = ({ s with cur := b, subj := ⟨b, 0, 0, 0⟩ } : State).issueGroup :=
    (exec_groupIssue_running (s := { s with subj := ⟨b, 0, 0, 0⟩ }) rfl ha hst ht hp).trans
      (boundary_issues (s := { s with cur := b, subj := ⟨b, 0, 0, 0⟩ }) hpend hteam hdbg hstep hbps hpre hgate hreplay href hent hfly)
  rw [hgo]
  refine ⟨fun o hf => issueGroup_fetchError hf, fun raw ws l hf hd htry => ?words, fun w hlen hmax hload hw hstop => ?one⟩
  case words =>
    rw [issueGroup_all hf hd htry]
    refine ⟨fun t hfault => by rw [hfault], fun hfault hwait => ?_, fun hfault hall u hu => ?_⟩
    · rw [hfault]
      exact if_pos (by simpa using hwait)
    · have hnot : ∀ i, i ≠ Iss.issued → ¬ (l.any (fun y => y.2.iss == i) = true) := fun i hi h => by
        obtain ⟨y, hy, hyi⟩ := List.any_eq_true.1 h
        exact hi ((beq_iff_eq.1 hyi).symm.trans (hall y hy))
      rw [hfault]
      dsimp only
      rw [if_neg (hnot .waiting nofun), if_neg (hnot .frozen nofun), hu]
      rfl
  case one =>
    have hf := fetchGroup_one hlen hmax hload hw hstop
    refine ⟨fun code hd => issueGroup_undecodable hf (decodeGroup_one_error hd), fun i hd u hu => ?_⟩
    have hrun : Fetched.run ⟨(s.berth b).ctx.pc, slotClass (fld w.toNat 56 7), i⟩ { s with cur := b, subj := ⟨b, 0, 0, 0⟩ } = .next u :=
      (berthWord_of_decodeBerth hd _).trans hu
    rw [issueGroup_all hf (decodeGroup_one hd) (tryWords_one hrun)]
    refine ⟨fun op hop => by rw [groupFault_one_trapped hop], fun hwait => ?_, fun hfreeze => ?_, fun hiss => ?_⟩
    · rw [groupFault_one_none (by simp [hwait])]
      simp [hwait]
    · rw [groupFault_one_none (by simp [hfreeze])]
      simp [hfreeze, sendRequests_one hrun hfreeze]
    · rw [groupFault_one_none (by simp [hiss])]
      simp [hiss, issueWords_one hrun hiss]
      rfl

end Sys2Proof.Machine
end

section
/-! SUPPORT. The landing of results at the end of a berth's ck (spec/03 R45, R46): what one ck takes off the flights, and the landing of
the one flight that is due. -/

namespace Sys2Proof.Machine
open Sys2Proof

-- a change of one berth -----------------------------------------------------------------------------------------------

/-- t is s but for the record of berth b. -/
def State.sameBut (s : State) (b : Nat) (t : State) : Prop := t = { s with berths := t.berths } ∧ ∀ k, k ≠ b → t.berth k = s.berth k

theorem sameBut_setBerth (s : State) (b : Nat) (x : Berth) : s.sameBut b (s.setBerth b x) :=
  ⟨rfl, fun k hk => by rw [berth_setBerth, if_neg hk]⟩

theorem sameBut_modCtxAt (s : State) (b : Nat) (f : Ctx → Ctx) : s.sameBut b (s.modCtxAt b f) := sameBut_setBerth s b _

theorem sameBut_trans {s t u : State} {b : Nat} (h : s.sameBut b t) (k : t.sameBut b u) : s.sameBut b u := by
  obtain ⟨ht, hs⟩ := h
  obtain ⟨hu, ht'⟩ := k
  refine ⟨?_, fun j hj => (ht' j hj).trans (hs j hj)⟩
  rw [hu, ht]

theorem berth_modCtxAt_same (s : State) (b : Nat) (f : Ctx → Ctx) :
    (s.modCtxAt b f).berth b = { s.berth b with ctx := f (s.ctxAt b) } := by
  rw [State.modCtxAt, berth_modBerth, if_pos rfl]
  rfl

-- the count of a ck ---------------------------------------------------------------------------------------------------

/-- No load that is due gives way where no load is due (spec/03 R46). -/
theorem yieldDue_of_noLoad {l : List Flight} (h : ∀ f ∈ l, f.rem = 1 → ∀ i d x, f.eff ≠ .rload i d x) : yieldDue l = l := by
  induction l with
  | nil => rfl
  | cons f fs ih =>
    rw [yieldDue, ih fun g hg => h g (List.mem_cons_of_mem _ hg)]
    congr 1
    split
    · rename_i i d x hr he
      exact absurd he (h f List.mem_cons_self hr i d x)
    · rfl

/-- No MMUL and no WLOAD. -/
def Eff.notMatrix (e : Eff) : Prop := (∀ r, e ≠ .mmul r) ∧ ∀ r, e ≠ .wload r

/-- What each member of a fold leaves alone, the fold leaves alone. -/
theorem foldl_eq_self {α β : Type} {f : β → α → β} {b : β} {l : List α} (h : ∀ a ∈ l, f b a = b) : l.foldl f b = b := by
  induction l with
  | nil => rfl
  | cons a l ih => rw [List.foldl_cons, h a List.mem_cons_self, ih fun x hx => h x (List.mem_cons_of_mem _ hx)]

/-- The matrix sequencer reads and writes nothing where no MMUL and no WLOAD is in flight. -/
theorem matrixTick_of_notMatrix {s : State} {b : Nat} (h : ∀ f ∈ (s.ctxAt b).flights, f.eff.notMatrix) :
    s.sameBut b (s.matrixTick b) ∧ (s.matrixTick b).berth b = s.berth b := by
  have htick : ∃ g : Ctx → Ctx, s.matrixTick b = s.modCtxAt b g ∧ g (s.ctxAt b) = s.ctxAt b := by
    rw [State.matrixTick, foldl_eq_self]
    · refine ⟨_, rfl, ?_⟩
      rw [List.map_congr_left (g := id), List.map_id]
      intro f hf
      obtain ⟨hm, -⟩ := h f hf
      split
      · rename_i r he; exact absurd he (hm r)
      · rfl
    · intro f hf
      obtain ⟨-, hw⟩ := h f hf
      split
      · rename_i r he; exact absurd he (hw r)
      · rfl
  obtain ⟨g, ht, hg⟩ := htick
  rw [ht]
  refine ⟨sameBut_modCtxAt s b g, ?_⟩
  rw [berth_modCtxAt_same, hg]
  rfl

/-- One ck taken off the flights of a berth with no load that is due and no matrix work. -/
theorem countDown_of_quiet {s : State} {b : Nat} (hm : ∀ f ∈ (s.ctxAt b).flights, f.eff.notMatrix)
    (hl : ∀ f ∈ (s.ctxAt b).flights, f.rem = 1 → ∀ i d x, f.eff ≠ .rload i d x) :
    s.sameBut b (s.countDown b) ∧ (s.countDown b).berth b = { s.berth b with ctx := { s.ctxAt b with
      landed := true, flights := (s.ctxAt b).flights.map fun f => { f with rem := f.rem - 1 } } } := by
  obtain ⟨hsame, hb⟩ := matrixTick_of_notMatrix hm
  refine ⟨sameBut_trans hsame (sameBut_modCtxAt _ b _), ?_⟩
  rw [State.countDown, berth_modCtxAt_same, State.ctxAt, hb, show yieldDue (s.berth b).ctx.flights = _ from yieldDue_of_noLoad hl]
  rfl

-- the landing of one flight --------------------------------------------------------------------------------------------

/-- Flights that are not due stay. -/
theorem landDue_notDue (s : State) (b : Nat) {l : List Flight} (h : ∀ f ∈ l, f.rem ≠ 0) (done fs : List Flight) :
    s.landDue b done (l ++ fs) = s.landDue b (done ++ l) fs := by
  induction l generalizing done with
  | nil => simp
  | cons f l ih =>
    rw [List.cons_append, State.landDue, if_pos (h f List.mem_cons_self), ih fun g hg => h g (List.mem_cons_of_mem _ hg)]
    simp

/-- An effect that lands of itself: no MMUL or WLOAD, which retire in steps of their own, and no load that has not returned. -/
def Eff.landsNow : Eff → Prop
  | .mmul _ | .wload _ | .rfail _ _ _ | .rload _ _ none => False
  | _ => True

theorem landDue_due (s : State) (b : Nat) {f : Flight} (h0 : f.rem = 0) (h : f.eff.landsNow) (done fs : List Flight) :
    s.landDue b done (f :: fs) = (s.landEff b f.eff).landDue b done fs := by
  rw [State.landDue, if_neg (by simp [h0])]
  obtain ⟨n, e, m⟩ := f
  dsimp only at h ⊢
  split <;> simp_all [Eff.landsNow]

/-- Where one flight alone is due, it lands and the others stay. -/
theorem landDue_one (s : State) (b : Nat) {l1 l2 : List Flight} {e : Eff} {m : Bool} (h1 : ∀ f ∈ l1, f.rem ≠ 0)
    (h2 : ∀ f ∈ l2, f.rem ≠ 0) (he : e.landsNow) :
    s.landDue b [] (l1 ++ ⟨0, e, m⟩ :: l2) = ((s.landEff b e).modCtxAt b fun c => { c with flights := l1 ++ l2 }, none) := by
  rw [landDue_notDue s b h1, List.nil_append, landDue_due s b rfl he, ← List.append_nil l2, landDue_notDue _ b h2, State.landDue,
    List.append_nil]

theorem exec_resultLand (s : State) : exec .resultLand s = execResultLand s := rfl

/-- RESULT_LAND of an unfrozen ck: the flights count down, and what is due lands. -/
theorem exec_resultLand_open {s t : State} {b : Nat} (hb : s.subj.berth = b) (ha : s.agent = .land b) (ho : (s.ctxAt b).open_ = true)
    (hl : (s.ctxAt b).landed = false) (ht : (s.countDown b).landDue b [] ((s.countDown b).ctxAt b).flights = (t, none)) :
    exec .resultLand s = .next { t with agent := .release b } := by
  subst hb
  rw [exec_resultLand, execResultLand]
  simp [ha, ho, hl, ht]

/-- Counted down by one ck. -/
def countedDown (l : List Flight) : List Flight := l.map fun f => { f with rem := f.rem - 1 }

/-- RESULT_LAND where one flight is due: u is the state before it lands. -/
theorem exec_resultLand_one {s : State} {b : Nat} {l1 l2 : List Flight} {e : Eff} {m : Bool} (hb : s.subj.berth = b)
    (ha : s.agent = .land b) (ho : (s.ctxAt b).open_ = true) (hl : (s.ctxAt b).landed = false)
    (hf : (s.ctxAt b).flights = l1 ++ ⟨1, e, m⟩ :: l2) (hq : ∀ f ∈ l1 ++ l2, 2 ≤ f.rem ∧ f.eff.notMatrix) (he : e.landsNow)
    (hload : ∀ i d x, e ≠ .rload i d x) : ∃ u fl, s.sameBut b u ∧
      u.berth b = { s.berth b with ctx := { s.ctxAt b with landed := true, flights := fl } } ∧
      exec .resultLand s = .next { (u.landEff b e).modCtxAt b (fun c => { c with flights := countedDown (l1 ++ l2) }) with
        agent := .release b } := by
  have hem : e.notMatrix := ⟨by rintro r rfl; exact he, by rintro r rfl; exact he⟩
  have hmem : ∀ f ∈ (s.ctxAt b).flights, f ∈ l1 ++ l2 ∨ f = ⟨1, e, m⟩ := fun f h => by
    rw [hf] at h
    simpa [or_assoc, or_comm, or_left_comm] using h
  obtain ⟨hsame, hbe⟩ := countDown_of_quiet (s := s) (b := b)
    (fun f h => (hmem f h).elim (fun h => (hq f h).2) (fun h => h ▸ hem))
    (fun f h hr => (hmem f h).elim (fun h => absurd (hq f h).1 (by omega)) (fun h => h ▸ hload))
  refine ⟨_, _, hsame, hbe, exec_resultLand_open hb ha ho hl ?_⟩
  have hdue : ∀ f ∈ countedDown (l1 ++ l2), f.rem ≠ 0 := fun f h => by
    obtain ⟨g, hg, rfl⟩ := List.mem_map.1 h
    have := (hq g hg).1
    dsimp only
    omega
  have hfl : ((s.countDown b).ctxAt b).flights = countedDown l1 ++ ⟨0, e, m⟩ :: countedDown l2 := by
    rw [State.ctxAt, hbe]
    simp [hf, countedDown]
  have happ : countedDown (l1 ++ l2) = countedDown l1 ++ countedDown l2 := List.map_append
  rw [happ] at hdue ⊢
  rw [hfl, landDue_one _ b (fun f h => hdue f (List.mem_append_left _ h)) (fun f h => hdue f (List.mem_append_right _ h)) he]

/-- A due flight whose landing changes the context of its berth alone. -/
theorem exec_resultLand_ctx {s : State} {b : Nat} {l1 l2 : List Flight} {e : Eff} {m : Bool} (hb : s.subj.berth = b)
    (ha : s.agent = .land b) (ho : (s.ctxAt b).open_ = true) (hl : (s.ctxAt b).landed = false)
    (hf : (s.ctxAt b).flights = l1 ++ ⟨1, e, m⟩ :: l2) (hq : ∀ f ∈ l1 ++ l2, 2 ≤ f.rem ∧ f.eff.notMatrix) (he : e.landsNow)
    (hload : ∀ i d x, e ≠ .rload i d x) {g : Ctx → Ctx}
    (hg : ∀ u : State, u.mboxes = s.mboxes → (u.ctxAt b).self = (s.ctxAt b).self → u.landEff b e = u.modCtxAt b g) :
    ∃ t fl, exec .resultLand s = .next t ∧ t = { s with agent := .release b, berths := t.berths } ∧
      (∀ k, k ≠ b → t.berth k = s.berth k) ∧ t.berth b = { s.berth b with ctx :=
        { g { s.ctxAt b with landed := true, flights := fl } with flights := countedDown (l1 ++ l2) } } := by
  obtain ⟨u, fl, hu, hub, hex⟩ := exec_resultLand_one hb ha ho hl hf hq he hload
  have huc : u.ctxAt b = { s.ctxAt b with landed := true, flights := fl } := by rw [State.ctxAt, hub]
  rw [hg u (by rw [hu.1]) (by rw [huc]; rfl)] at hex
  obtain ⟨hframe, hother⟩ := sameBut_trans hu (sameBut_trans (sameBut_modCtxAt u b g)
    (sameBut_modCtxAt _ b fun c => { c with flights := countedDown (l1 ++ l2) }))
  refine ⟨_, fl, hex, ?_, hother, ?_⟩
  · rw [hframe]
  · refine Eq.trans (b := ((u.modCtxAt b g).modCtxAt b fun c => { c with flights := countedDown (l1 ++ l2) }).berth b) rfl ?_
    rw [berth_modCtxAt_same, berth_modCtxAt_same, ctxAt_modCtxAt, if_pos rfl, huc, hub]

end Sys2Proof.Machine
end

section
/-! PROOF. The landing of scalar results, stores, system registers and rotating-region changes (spec/03 R38, R45, spec/11 R154, R163,
R169). -/

namespace Sys2Proof.Machine
open Sys2Proof

-- registers -------------------------------------------------------------------------------------------------------------

/-- A register after a write of one (spec/03 R38). -/
theorem reg_setReg (c : Ctx) (d r : Nat) (v : W64) : (c.setReg d v).reg r = if r = d ∧ r ≠ 0 then v else c.reg r := by
  by_cases hd : d = 0
  · by_cases hr : r = 0 <;> simp [Ctx.setReg, hd, hr]
  · by_cases hr : r = 0
    · simp [Ctx.reg, hr]
    · simp [Ctx.setReg, Ctx.reg, hd, hr]

theorem setReg_frame (c : Ctx) (d : Nat) (v : W64) : c.setReg d v = { c with sregs := (c.setReg d v).sregs } := by
  unfold Ctx.setReg
  split <;> rfl

/-- A lane mask after a write of one. -/
theorem kmask_setKmask (c : Ctx) (k j : Nat) (v : BitVec 512) : (c.setKmask k v).kmask j = if j = k ∧ j ≠ 0 then v else c.kmask j := by
  by_cases hk : k = 0
  · by_cases hj : j = 0 <;> simp [Ctx.setKmask, hk, hj]
  · by_cases hj : j = 0
    · simp [Ctx.kmask, hj]
    · simp [Ctx.setKmask, Ctx.kmask, hk, hj]

theorem setKmask_frame (c : Ctx) (k : Nat) (v : BitVec 512) : c.setKmask k v = { c with kmasks := (c.setKmask k v).kmasks } := by
  unfold Ctx.setKmask
  split <;> rfl

/-- A word with one bit replaced. -/
def putBit (x : W64) (p : Nat) (v : Bool) : W64 := if v then x ||| ((1 <<< p : Nat) : W64) else x &&& ~~~((1 : W64) <<< p)

theorem getLsbD_one_shiftLeft (p i : Nat) (hi : i < 64) :
    ((1 : W64) <<< p).getLsbD i = decide (i = p) ∧ (((1 <<< p : Nat) : W64)).getLsbD i = decide (i = p) := by
  constructor
  · rw [show (1 : W64) <<< p = BitVec.twoPow 64 p from (BitVec.twoPow_eq 64 p).symm, BitVec.getLsbD_twoPow]
    by_cases h : i = p
    · subst h; simp [hi]
    · simp [h, Ne.symm h]
  · rw [show ((1 <<< p : Nat) : W64) = BitVec.ofNat 64 (1 <<< p) from rfl, BitVec.getLsbD_ofNat, Nat.one_shiftLeft,
      Nat.testBit_two_pow]
    simp [hi, eq_comm]

theorem getLsbD_putBit (x : W64) (p : Nat) {i : Nat} (v : Bool) (hi : i < 64) :
    (putBit x p v).getLsbD i = if i = p then v else x.getLsbD i := by
  obtain ⟨hone, hcast⟩ := getLsbD_one_shiftLeft p i hi
  unfold putBit
  cases v
  · rw [if_neg Bool.false_ne_true, BitVec.getLsbD_and, BitVec.getLsbD_not, hone]
    by_cases h : i = p <;> simp [h, hi]
  · rw [if_pos rfl, BitVec.getLsbD_or, hcast]
    by_cases h : i = p <;> simp [h]

-- arrivals of stores ------------------------------------------------------------------------------------------------------

/-- A write into an export with no mailbox changes no mailbox. -/
theorem arrive_of_noMailbox {s : State} {p : Party} (h : ∀ x ∈ s.mboxes, x.local_ ≠ some p) (j a n : Nat) :
    s.arrive j (some p) a n = s :=
  foldl_eq_self fun m hm => if_neg fun hc => h m hm hc.1

/-- Whether mailboxes change, and how, depends on the mailboxes alone. -/
theorem mboxes_arriveSlot_congr {s t : State} (h : s.mboxes = t.mboxes) (i k : Nat) :
    (s.arriveSlot i k).mboxes = (t.arriveSlot i k).mboxes := by
  unfold State.arriveSlot
  rw [h]
  split
  · exact h
  · split
    · simp [h]
    · rfl

/-- A fold keeps a relation that its members keep. -/
theorem foldl_keeps_rel {α β γ : Type} {R : β → γ → Prop} {f : β → α → β} {g : γ → α → γ} (h : ∀ b c a, R b c → R (f b a) (g c a))
    (l : List α) {b : β} {c : γ} (hbc : R b c) : R (l.foldl f b) (l.foldl g c) := by
  induction l generalizing b c with
  | nil => exact hbc
  | cons a l ih => exact ih (h b c a hbc)

theorem mboxes_arrive_congr {s t : State} (h : s.mboxes = t.mboxes) (j : Nat) (e : Option Party) (a n : Nat) :
    (s.arrive j e a n).mboxes = (t.arrive j e a n).mboxes := by
  rw [State.arrive, State.arrive, h]
  refine foldl_keeps_rel (R := fun u v : State => u.mboxes = v.mboxes) (fun u v m huv => ?_) _ h
  by_cases hm : m.local_ = e ∧ (e.isSome ∨ m.job = j)
  · rw [if_pos hm, if_pos hm]
    exact foldl_keeps_rel (R := fun u v : State => u.mboxes = v.mboxes) (fun _ _ i huv => mboxes_arriveSlot_congr huv _ i) _ huv
  · rw [if_neg hm, if_neg hm]
    exact huv

/-- The arrivals of a store's bytes at the mailboxes of an export (spec/01 R28). -/
def State.arriveCells (s : State) (p : Party) (l : List Host.Cell) : State :=
  (cellRuns (l.map Prod.fst)).foldl (fun u r => u.arrive 0 (some p) r.1 r.2) s

theorem berths_arriveCells (s : State) (p : Party) (l : List Host.Cell) : (s.arriveCells p l).berths = s.berths :=
  foldl_keeps State.berths (fun (u : State) (r : Nat × Nat) => u.arrive 0 (some p) r.1 r.2)
    (fun u r => berths_arrive u 0 (some p) r.1 r.2) _ _

theorem arriveCells_of_noMailbox {s : State} {p : Party} (h : ∀ x ∈ s.mboxes, x.local_ ≠ some p) (l : List Host.Cell) :
    s.arriveCells p l = s := foldl_eq_self fun _ _ => arrive_of_noMailbox h _ _ _

theorem mboxes_arriveCells_congr {s t : State} (h : s.mboxes = t.mboxes) (p : Party) (l : List Host.Cell) :
    (s.arriveCells p l).mboxes = (t.arriveCells p l).mboxes :=
  foldl_keeps_rel (R := fun u v : State => u.mboxes = v.mboxes) (fun _ _ r huv => mboxes_arrive_congr huv 0 (some p) r.1 r.2) _ h

/-- An arrival changes no berth, so the party of the export is the same at each of them. -/
theorem foldl_arrive_self {b : Nat} {p : Party} (runs : List (Nat × Nat)) {s : State} (h : (s.ctxAt b).self = p) :
    runs.foldl (fun u r => u.arrive 0 (some (u.ctxAt b).self) r.1 r.2) s = runs.foldl (fun u r => u.arrive 0 (some p) r.1 r.2) s := by
  induction runs generalizing s with
  | nil => rfl
  | cons r runs ih =>
    have hb : ((s.arrive 0 (some p) r.1 r.2).ctxAt b).self = p := by
      rw [State.ctxAt, State.berth, berths_arrive]
      exact h
    rw [List.foldl_cons, List.foldl_cons, h, ih hb]

/-- A store's landing: the scratchpad first, then the arrivals. -/
theorem storeIn_eq (s : State) (b : Nat) (l : List Host.Cell) :
    s.storeIn b l = (s.modCtxAt b fun c => c.landStore l).arriveCells (s.ctxAt b).self l := by
  have hself : ((s.modCtxAt b fun c => c.landStore l).ctxAt b).self = (s.ctxAt b).self := by
    rw [ctxAt_modCtxAt, if_pos rfl]
    rfl
  by_cases hm : s.mboxes = []
  · rw [arriveCells_of_noMailbox (by simp [hm])]
    exact if_pos hm
  · exact (if_neg hm).trans (foldl_arrive_self _ hself)

/-- A store into an export with no mailbox changes the scratchpad alone. -/
theorem storeIn_of_noMailbox {s : State} {b : Nat} (h : ∀ x ∈ s.mboxes, x.local_ ≠ some (s.ctxAt b).self) (l : List Host.Cell) :
    s.storeIn b l = s.modCtxAt b fun c => c.landStore l := by
  rw [storeIn_eq, arriveCells_of_noMailbox (by simpa using h)]

-- system registers --------------------------------------------------------------------------------------------------------

theorem bf_zero (v : W64) (n : Nat) : bf v 0 n = v.toNat % 2 ^ n := by simp [bf, fld]

/-- Bit 63 of a word, at its place. -/
theorem bit_bt_63 (v : W64) : bit (bt v 63) * 2 ^ 63 = v.toNat / 2 ^ 63 * 2 ^ 63 := by
  rw [bt_eq, bit]
  have hv := v.isLt
  split <;> rename_i h <;> simp only [decide_eq_true_eq] at h <;> omega

-- the landing ------------------------------------------------------------------------------------------------------------------

/-- RESULT_LAND gives berth b the context c' with the flights `rest`, passes the turn on, and changes nothing else. -/
def State.landsTo (s : State) (b : Nat) (rest : List Flight) (c' : Ctx) : Prop :=
  ∃ t, exec .resultLand s = .next t ∧ t = { s with agent := .release b, berths := t.berths } ∧
    (∀ k, k ≠ b → t.berth k = s.berth k) ∧ t.berth b = { s.berth b with ctx := { c' with landed := true, flights := rest } }

/-- The landing of a berth's only flight, as a change of its context. -/
theorem landsTo_alone {s : State} {b : Nat} {c' : Ctx} (h : s.landsTo b [] c') : ∃ t, exec .resultLand s = .next t ∧
    t = { s with agent := .release b, berths := t.berths } ∧ (∀ k, k ≠ b → t.berth k = s.berth k) ∧
    t.ctxAt b = { c' with landed := true, flights := [] } := by
  obtain ⟨t, hex, hframe, hother, hberth⟩ := h
  exact ⟨t, hex, hframe, hother, by rw [State.ctxAt, hberth]⟩

section
variable {s : State} {b : Nat} {l1 l2 : List Flight} {e : Eff} {m : Bool} (hb : s.subj.berth = b) (ha : s.agent = .land b)
  (ho : (s.ctxAt b).open_ = true) (hl : (s.ctxAt b).landed = false) (hf : (s.ctxAt b).flights = l1 ++ ⟨1, e, m⟩ :: l2)
  (hq : ∀ f ∈ l1 ++ l2, 2 ≤ f.rem ∧ f.eff.notMatrix)
include hb ha ho hl hf hq

/-- A due flight whose landing changes the context of its berth alone, by a function that neither reads nor writes the flights. -/
theorem landsTo_of_landEff {g : Ctx → Ctx} {c' : Ctx} (he : e.landsNow) (hload : ∀ i d x, e ≠ .rload i d x)
    (hg : ∀ u : State, u.mboxes = s.mboxes → (u.ctxAt b).self = (s.ctxAt b).self → u.landEff b e = u.modCtxAt b g)
    (hc : ∀ fl, { g { s.ctxAt b with landed := true, flights := fl } with flights := countedDown (l1 ++ l2) } =
      { c' with landed := true, flights := countedDown (l1 ++ l2) }) : s.landsTo b (countedDown (l1 ++ l2)) c' := by
  obtain ⟨t, fl, hex, hframe, hother, hberth⟩ := exec_resultLand_ctx hb ha ho hl hf hq he hload hg
  exact ⟨t, hex, hframe, hother, hberth.trans (by rw [hc])⟩

end

theorem setReg_flights (c : Ctx) (d : Nat) (v : W64) (l fl : List Flight) :
    { Ctx.setReg { c with landed := true, flights := fl } d v with flights := l } = { c.setReg d v with landed := true, flights := l } := by
  unfold Ctx.setReg
  split <;> rfl

theorem setKmask_flights (c : Ctx) (k : Nat) (v : BitVec 512) (l fl : List Flight) :
    { Ctx.setKmask { c with landed := true, flights := fl } k v with flights := l } =
      { c.setKmask k v with landed := true, flights := l } := by
  unfold Ctx.setKmask
  split <;> rfl

/-- A system register write lands (R169, spec/23 R333). -/
theorem landSysreg_ne (s : State) (b : Nat) {n : Nat} (v : W64) (h : n ≠ 0x40) : s.landSysreg b n v = s.modCtxAt b fun c =>
    if n = 0 then { c with tcause := w64 (bf v 0 8) }
    else if n = 1 then { c with tpc := w64 (bf v 0 15) }
    else if n = 2 then { c with drop := bt v 61 }
    else if n = 3 then { c with taddr := v }
    else if n = 4 then { c with tvec := w64 (bit (bt v 63) * 2 ^ 63 + bf v 0 15) }
    else if n = 5 then { c with tscratch := v }
    else if 0x70 ≤ n ∧ n < 0x74 then
      { c with
        ptconf := Tab.set 0 c.ptconf (n - 0x70) (w64 (bf v 0 28))
        ways := c.ways.filter fun w => w.1 / 4096 != n - 0x70 }
    else c := if_neg h

-- the trap registers, each by its number (spec/23 R333)

theorem landSysreg_tcause (s : State) (b : Nat) (v : W64) :
    s.landSysreg b 0 v = s.modCtxAt b (fun c => { c with tcause := w64 (v.toNat % 256) }) :=
  (landSysreg_ne s b v (by decide)).trans (by simp [bf_zero])

theorem landSysreg_tpc (s : State) (b : Nat) (v : W64) :
    s.landSysreg b 1 v = s.modCtxAt b (fun c => { c with tpc := w64 (v.toNat % 32768) }) :=
  (landSysreg_ne s b v (by decide)).trans (by simp [bf_zero])

theorem landSysreg_drop (s : State) (b : Nat) (v : W64) :
    s.landSysreg b 2 v = s.modCtxAt b (fun c => { c with drop := v.getLsbD 61 }) :=
  landSysreg_ne s b v (by decide)

theorem landSysreg_taddr (s : State) (b : Nat) (v : W64) :
    s.landSysreg b 3 v = s.modCtxAt b (fun c => { c with taddr := v }) :=
  landSysreg_ne s b v (by decide)

theorem landSysreg_tvec (s : State) (b : Nat) (v : W64) :
    s.landSysreg b 4 v = s.modCtxAt b (fun c => { c with tvec := w64 (v.toNat / 2 ^ 63 * 2 ^ 63 + v.toNat % 32768) }) :=
  (landSysreg_ne s b v (by decide)).trans (by rw [bit_bt_63]; simp [bf_zero])

theorem landSysreg_tscratch (s : State) (b : Nat) (v : W64) :
    s.landSysreg b 5 v = s.modCtxAt b (fun c => { c with tscratch := v }) :=
  landSysreg_ne s b v (by decide)

/-- The landing of a probe table's configuration. -/
def Ctx.setPtconf (c : Ctx) (t : Nat) (v : W64) : Ctx :=
  { c with ptconf := Tab.set 0 c.ptconf t (w64 (v.toNat % 2 ^ 28)), ways := c.ways.filter fun w => w.1 / 4096 != t }

theorem landSysreg_ptconf (s : State) (b : Nat) {t : Nat} (v : W64) (h : t < 4) :
    s.landSysreg b (0x70 + t) v = s.modCtxAt b fun c => c.setPtconf t v := by
  rw [landSysreg_ne s b v (by omega)]
  congr 1
  funext c
  rw [if_neg (by omega), if_neg (by omega), if_neg (by omega), if_neg (by omega), if_neg (by omega), if_neg (by omega),
    if_pos (by omega), Nat.add_sub_cancel_left, bf_zero]
  rfl

/-- A scalar result or a lane mask lands in the context of its berth (R38, R45, R154). -/
theorem resultsLand_scalar (s : State) (b : Nat) (l1 l2 : List Flight) (e : Eff) (m : Bool) : let c := s.ctxAt b
    s.subj.berth = b → s.agent = .land b → c.open_ = true → c.landed = false → c.flights = l1 ++ ⟨1, e, m⟩ :: l2 →
    (∀ f ∈ l1 ++ l2, 2 ≤ f.rem ∧ f.eff.notMatrix) →
    let lands := s.landsTo b (countedDown (l1 ++ l2))
    (∀ d v, e = .sreg d v → lands (c.setReg d v)) ∧ (∀ d p v, e = .sbit d p v → lands (c.setReg d (putBit (c.reg d) p v))) ∧
    (∀ k v, e = .kmask k v → lands (c.setKmask k v)) := by
  intro c hb ha ho hl hf hq lands
  refine ⟨?_, ?_, ?_⟩
  · rintro d v rfl
    exact landsTo_of_landEff (g := fun c => c.setReg d v) hb ha ho hl hf hq trivial nofun (fun _ _ _ => rfl) (setReg_flights c d v _)
  · rintro d p v rfl
    exact landsTo_of_landEff (g := fun c => c.setReg d (putBit (c.reg d) p v)) hb ha ho hl hf hq trivial nofun (fun _ _ _ => rfl)
      (setReg_flights c d (putBit (c.reg d) p v) _)
  · rintro k v rfl
    exact landsTo_of_landEff (g := fun c => c.setKmask k v) hb ha ho hl hf hq trivial nofun (fun _ _ _ => rfl)
      (setKmask_flights c k v _)

/-- Effects that are functions of their berth's context alone: a store that no mailbox counts, a system register, and the rotating
region (R45, R163, R169, R205). -/
theorem resultsLand_state (s : State) (b : Nat) (e : Eff) (m : Bool) : let c := s.ctxAt b
    s.subj.berth = b → s.agent = .land b → c.open_ = true → c.landed = false → c.flights = [⟨1, e, m⟩] →
    let lands := s.landsTo b []
    (∀ p l, e = .store p l → (∀ x ∈ s.mboxes, x.local_ ≠ some c.self) → lands (c.landStore l)) ∧
    (∀ v, e = .sysreg 0 v → lands { c with tcause := w64 (v.toNat % 256) }) ∧
    (∀ v, e = .sysreg 1 v → lands { c with tpc := w64 (v.toNat % 32768) }) ∧
    (∀ v, e = .sysreg 2 v → lands { c with drop := v.getLsbD 61 }) ∧
    (∀ v, e = .sysreg 3 v → lands { c with taddr := v }) ∧
    (∀ v, e = .sysreg 4 v → lands { c with tvec := w64 (v.toNat / 2 ^ 63 * 2 ^ 63 + v.toNat % 32768) }) ∧
    (∀ v, e = .sysreg 5 v → lands { c with tscratch := v }) ∧
    (∀ t v, t < 4 → e = .sysreg (0x70 + t) v → lands (c.setPtconf t v)) ∧
    (∀ n, e = .rot n → lands { c with rb := (c.rb + 128 - n % 128) % 128 }.clearDead) ∧
    (∀ n, e = .depth n → lands { c with ld := n }.clearDead) ∧ (∀ bs, e = .mpb bs → lands { c with mpb := some bs }) := by
  intro c hb ha ho hl hf lands
  have hland : ∀ {e g c'}, c.flights = [⟨1, e, m⟩] → e.landsNow → (∀ i d x, e ≠ .rload i d x) →
      (∀ u : State, u.mboxes = s.mboxes → (u.ctxAt b).self = c.self → u.landEff b e = u.modCtxAt b g) →
      (∀ fl, { g { c with landed := true, flights := fl } with flights := [] } = { c' with landed := true, flights := [] }) → lands c' :=
    fun hf => landsTo_of_landEff (l1 := []) (l2 := []) hb ha ho hl hf (by simp)
  refine ⟨?_, ?_, ?_, ?_, ?_, ?_, ?_, ?_, ?_, ?_, ?_⟩
  case refine_1 =>
    rintro p l rfl hm
    exact hland (g := fun c => c.landStore l) hf trivial nofun (fun u hu hs => storeIn_of_noMailbox (by rwa [hu, hs]) l) fun _ => rfl
  case refine_8 =>
    rintro t v ht rfl
    exact hland (g := fun c => c.setPtconf t v) hf trivial nofun (fun u _ _ => landSysreg_ptconf u b v ht) fun _ => rfl
  case refine_9 =>
    rintro n rfl
    exact hland (g := fun c => { c with rb := (c.rb + 128 - n % 128) % 128 }.clearDead) hf trivial nofun (fun _ _ _ => rfl) fun _ => rfl
  case refine_10 => rintro n rfl; exact hland (g := fun c => { c with ld := n }.clearDead) hf trivial nofun (fun _ _ _ => rfl) fun _ => rfl
  case refine_11 => rintro bs rfl; exact hland (g := fun c => { c with mpb := some bs }) hf trivial nofun (fun _ _ _ => rfl) fun _ => rfl
  all_goals rintro v rfl
  case refine_2 => exact hland hf trivial nofun (fun u _ _ => landSysreg_tcause u b v) fun _ => rfl
  case refine_3 => exact hland hf trivial nofun (fun u _ _ => landSysreg_tpc u b v) fun _ => rfl
  case refine_4 => exact hland hf trivial nofun (fun u _ _ => landSysreg_drop u b v) fun _ => rfl
  case refine_5 => exact hland hf trivial nofun (fun u _ _ => landSysreg_taddr u b v) fun _ => rfl
  case refine_6 => exact hland hf trivial nofun (fun u _ _ => landSysreg_tvec u b v) fun _ => rfl
  case refine_7 => exact hland hf trivial nofun (fun u _ _ => landSysreg_tscratch u b v) fun _ => rfl

/-- A store into a mailbox of the own export is an arrival there as well (spec/01 R28, spec/11 R178). -/
theorem resultLand_store {s : State} {b p : Nat} {l : List Host.Cell} {m : Bool} (hb : s.subj.berth = b) (ha : s.agent = .land b)
    (ho : (s.ctxAt b).open_ = true) (hl : (s.ctxAt b).landed = false) (hf : (s.ctxAt b).flights = [⟨1, .store p l, m⟩]) :
    ∃ t, exec .resultLand s = .next t ∧
      t.berth b = { s.berth b with ctx := { (s.ctxAt b).landStore l with landed := true, flights := [] } } ∧
      t.mboxes = (s.arriveCells (s.ctxAt b).self l).mboxes := by
  obtain ⟨u, fl, hu, hub, hex⟩ := exec_resultLand_one (l1 := []) (l2 := []) hb ha ho hl hf (by simp) trivial nofun
  have huc : u.ctxAt b = { s.ctxAt b with landed := true, flights := fl } := by rw [State.ctxAt, hub]
  have hland : u.landEff b (.store p l) = (u.modCtxAt b fun c => c.landStore l).arriveCells (s.ctxAt b).self l := by
    rw [show (s.ctxAt b).self = (u.ctxAt b).self by rw [huc]; rfl]
    exact storeIn_eq u b l
  have hber : (u.landEff b (.store p l)).berth b = { s.berth b with ctx := (u.ctxAt b).landStore l } := by
    rw [hland, State.berth, berths_arriveCells]
    exact (berth_modCtxAt_same u b _).trans (by rw [hub])
  refine ⟨_, hex, ?_, ?_⟩
  · refine Eq.trans (b := ((u.landEff b (.store p l)).modCtxAt b fun c => { c with flights := [] }).berth b) rfl ?_
    rw [berth_modCtxAt_same, State.ctxAt, hber, huc]
    rfl
  · refine Eq.trans (b := (u.landEff b (.store p l)).mboxes) rfl ?_
    rw [hland]
    exact mboxes_arriveCells_congr (by rw [mboxes_modCtxAt, hu.1]) _ _

end Sys2Proof.Machine
end

section
/-! SUPPORT. Elements of a vector under a write mask, and the cells of a name's lanes (spec/03 R40-R44, spec/13 R183). -/

namespace Sys2Proof.Machine
open Sys2Proof

-- folds whose steps touch different keys ------------------------------------------------------------------------------

/-- A fold over numbers whose steps each change what they touch, where no two of them touch the same: what is observed of it. -/
theorem foldl_range_touch {σ ι α : Type} {obs : σ → ι → α} {step : σ → Nat → σ} {touches : Nat → ι → Prop} {F : Nat → ι → α → α}
    {n : Nat} (hin : ∀ s i k, i < n → touches i k → obs (step s i) k = F i k (obs s k))
    (hout : ∀ s i k, i < n → ¬ touches i k → obs (step s i) k = obs s k)
    (hone : ∀ i j k, i < n → j < n → touches i k → touches j k → i = j) (s : σ) :
    (∀ i k, i < n → touches i k → obs ((List.range n).foldl step s) k = F i k (obs s k)) ∧
    ∀ k, (∀ i, i < n → ¬ touches i k) → obs ((List.range n).foldl step s) k = obs s k := by
  suffices h : ∀ m, m ≤ n → (∀ i k, i < m → touches i k → obs ((List.range m).foldl step s) k = F i k (obs s k)) ∧
      ∀ k, (∀ i, i < m → ¬ touches i k) → obs ((List.range m).foldl step s) k = obs s k from h n (Nat.le_refl n)
  intro m
  induction m with
  | zero => exact fun _ => ⟨fun i k hi => absurd hi (Nat.not_lt_zero i), fun _ _ => rfl⟩
  | succ m ih =>
    intro hm
    obtain ⟨hdone, hkept⟩ := ih (by omega)
    simp only [List.range_succ, List.foldl_append, List.foldl_cons, List.foldl_nil]
    refine ⟨fun i k hi ht => ?_, fun k hk => ?_⟩
    · by_cases him : i = m
      · subst him
        rw [hin _ i k (by omega) ht, hkept k fun j hj htj => Nat.ne_of_lt hj (hone j i k (by omega) (by omega) htj ht)]
      · have hnot : ¬ touches m k := fun h => him (hone i m k (by omega) (by omega) ht h)
        rw [hout _ m k (by omega) hnot, hdone i k (by omega) ht]
    · rw [hout _ m k (by omega) (hk m (by omega)), hkept k fun i hi => hk i (by omega)]

-- the elements of a lane ------------------------------------------------------------------------------------------------

/-- A lane of which the masked bits are replaced. -/
def mergeLane (x mask v : W32) : W32 := (x &&& ~~~mask) ||| (v &&& mask)

theorem mergeLane_zero (x v : W32) : mergeLane x 0 v = x := by
  change (x &&& BitVec.allOnes 32) ||| (v &&& 0#32) = x
  rw [BitVec.and_allOnes, BitVec.and_zero, BitVec.or_zero]

theorem laneElems_eq_map (w n v : Nat) : laneElems w n v = (List.range n).map fun i => v / 2 ^ (w * i) % 2 ^ w := by
  induction n generalizing v with
  | zero => rfl
  | succ n ih =>
    rw [laneElems, ih, List.range_succ_eq_map, List.map_cons, List.map_map]
    refine congrArg₂ _ (by simp) (List.map_congr_left fun i _ => ?_)
    rw [Function.comp, Nat.div_div_eq_div_mul, ← Nat.pow_add, Nat.succ_eq_add_one, Nat.mul_add, Nat.mul_one, Nat.add_comm w]

theorem laneElems_length (w n v : Nat) : (laneElems w n v).length = n := by simp [laneElems_eq_map]

/-- A bit of packed elements. -/
theorem testBit_packElems (w : Nat) (es : List Nat) (i : Nat) {j : Nat} (hj : j < w) :
    (packElems w es).testBit (w * i + j) = (es.getD i 0).testBit j := by
  induction es generalizing i with
  | nil => simp [packElems]
  | cons e es ih =>
    have hlt : e % 2 ^ w < 2 ^ w := Nat.mod_lt _ (Nat.two_pow_pos w)
    rw [packElems, Nat.add_comm, Nat.testBit_two_pow_mul_add _ hlt]
    cases i with
    | zero => simp [hj]
    | succ i =>
      rw [if_neg (by rw [Nat.mul_succ]; omega), show w * (i + 1) + j - w = w * i + j by rw [Nat.mul_succ]; omega, ih,
        List.getD_cons_succ]

/-- The new element where the write mask selects it, the old one elsewhere (R183). -/
def pickElem (x : Bool × Nat × Nat) : Nat := if x.1 then x.2.1 else x.2.2

/-- The lane mask word of elements that a write mask selects. -/
def maskWord (w : Nat) (ms : List Bool) : W32 := BitVec.ofNat 32 (packElems w (ms.map fun b => if b then 2 ^ w - 1 else 0))

theorem laneElems_mergeLane {w n : Nat} (hw : w * n = 32) {ms : List Bool} {es : List Nat} (hm : ms.length = n) (he : es.length = n)
    (hlt : ∀ e ∈ es, e < 2 ^ w) (x : W32) :
    laneElems w n (mergeLane x (maskWord w ms) (BitVec.ofNat 32 (packElems w es))).toNat =
      (ms.zip (es.zip (laneElems w n x.toNat))).map pickElem := by
  refine List.ext_getElem (by simp [laneElems_length, hm, he]) fun i h1 _ => ?_
  have hi : i < n := by simpa [laneElems_length] using h1
  simp only [laneElems_eq_map, List.getElem_map, List.getElem_zip, List.getElem_range, pickElem]
  refine Nat.eq_of_testBit_eq fun j => ?_
  rw [Nat.testBit_mod_two_pow, Nat.testBit_div_two_pow]
  by_cases hj : j < w
  · have hp : w * i + j < 32 := by
      have : w * (i + 1) ≤ w * n := Nat.mul_le_mul_left w hi
      rw [Nat.mul_succ] at this
      omega
    have hmask : (maskWord w ms).getLsbD (w * i + j) = ms[i] := by
      rw [maskWord, BitVec.getLsbD_ofNat, testBit_packElems w _ i hj]
      simp [hp, hm, hi]
      cases ms[i] <;> simp [Nat.testBit_two_pow_sub_one, hj]
    have hval : (BitVec.ofNat 32 (packElems w es)).getLsbD (w * i + j) = es[i].testBit j := by
      rw [BitVec.getLsbD_ofNat, testBit_packElems w _ i hj]
      simp [hp, he, hi]
    rw [show (mergeLane x _ _).toNat.testBit (j + w * i) = (mergeLane x _ _).getLsbD (w * i + j) by rw [Nat.add_comm]; rfl, mergeLane,
      BitVec.getLsbD_or, BitVec.getLsbD_and, BitVec.getLsbD_and, BitVec.getLsbD_not, hmask, hval]
    cases ms[i]
    · have hp' : j + w * i < 32 := by omega
      simp [hj, hp', Nat.testBit_mod_two_pow, Nat.testBit_div_two_pow, Nat.add_comm (w * i) j, BitVec.getLsbD]
    · simp [hj]
  · have hpow : 2 ^ w ≤ 2 ^ j := Nat.pow_le_pow_right (by decide) (by omega)
    have hold : x.toNat / 2 ^ (w * i) % 2 ^ w < 2 ^ j := lt_of_lt_of_le (Nat.mod_lt _ (Nat.two_pow_pos w)) hpow
    have hnew : es[i] < 2 ^ j := lt_of_lt_of_le (hlt _ (List.getElem_mem _)) hpow
    rw [decide_eq_false hj, Bool.false_and]
    split
    · exact (Nat.testBit_lt_two_pow hnew).symm
    · exact (Nat.testBit_lt_two_pow hold).symm

/-- The same of a run of lanes, taken lane by lane. -/
theorem flatMap_laneElems_merge {w n : Nat} (hw : w * n = 32) (xs : List W32) {ms : List Bool} {es : List Nat}
    (hm : ms.length = n * xs.length) (he : es.length = n * xs.length) (hlt : ∀ e ∈ es, e < 2 ^ w) :
    ((xs.zip (((chunks n xs.length ms).map (maskWord w)).zip ((chunks n xs.length es).map fun l => BitVec.ofNat 32 (packElems w l)))).map
      fun y => mergeLane y.1 y.2.1 y.2.2).flatMap (fun l => laneElems w n l.toNat) =
    (ms.zip (es.zip (xs.flatMap fun l => laneElems w n l.toNat))).map pickElem := by
  induction xs generalizing ms es with
  | nil =>
    have : ms = [] := List.length_eq_zero_iff.1 (by simpa using hm)
    simp [this]
  | cons x xs ih =>
    rw [List.length_cons, Nat.mul_succ] at hm he
    have hm1 : (ms.take n).length = n := by simp [hm]
    have he1 : (es.take n).length = n := by simp [he]
    simp only [List.length_cons, chunks, List.map_cons, List.zip_cons_cons, List.flatMap_cons]
    rw [laneElems_mergeLane hw hm1 he1 (fun e h => hlt e (List.mem_of_mem_take h)) x,
      ih (ms := ms.drop n) (es := es.drop n) (by simp [hm]) (by simp [he]) (fun e h => hlt e (List.mem_of_mem_drop h)),
      ← List.map_append, ← List.zip_append (by simp [hm1, he1, laneElems_length]), ← List.zip_append (by simp [he1, laneElems_length]),
      List.take_append_drop, List.take_append_drop]

-- the cells of a name's lanes -----------------------------------------------------------------------------------------

/-- A cell that is in no dead row (R42, R43). -/
def cellAlive (rb ld k : Nat) : Prop := ¬ (49152 ≤ k ∧ rowDead rb ld ((k - 49152) / 128) = true)

theorem nameCell_lt {d : MName} (hd : d.idx < 128) {i : Nat} (hi : i < 128) : (nameCell d i).1 < 128 ∧ (nameCell d i).2 < 128 := by
  unfold nameCell
  split <;> simp only <;> omega

theorem nameCell_inj {d : MName} {i j : Nat} (h : nameCell d i = nameCell d j) : i = j := by
  unfold nameCell at h
  split at h <;> simp only [Prod.mk.injEq] at h <;> omega

theorem cellKey_inj {p r c p' r' c' : Nat} (hr : r < 128) (hc : c < 128) (hr' : r' < 128) (hc' : c' < 128)
    (h : cellKey p r c = cellKey p' r' c') : r = r' ∧ c = c' := by
  unfold cellKey at h
  omega

section
variable {rb ld : Nat} {d : MName} (hd : d.wf = true) (h3 : d.plane = 3 → ld = 128)
include hd h3

/-- Every lane of a name outside the rotating plane, or with no dead row, has a cell that is alive. -/
theorem laneCell_alive {i : Nat} (hi : i < 128) : ∃ k, laneCell rb ld d i = some k ∧ cellAlive rb ld k := by
  simp only [MName.wf, Bool.and_eq_true, decide_eq_true_eq] at hd
  obtain ⟨hp, hx⟩ := hd
  obtain ⟨hrow, hcol⟩ := nameCell_lt hx hi
  by_cases h : d.plane = 3
  · refine ⟨_, by simp only [laneCell]; rw [if_pos h, if_pos (by rw [h3 h]; exact hrow)], fun hdead => ?_⟩
    have := hdead.2
    simp only [rowDead, h3 h, decide_eq_true_eq] at this
    omega
  · refine ⟨_, by simp only [laneCell]; rw [if_neg h], fun hdead => ?_⟩
    have := hdead.1
    unfold cellKey at this
    omega

/-- No two lanes of a name share a cell. -/
theorem laneCell_inj {i j : Nat} (hi : i < 128) (hj : j < 128) (h : laneCell rb ld d i = laneCell rb ld d j) : i = j := by
  simp only [MName.wf, Bool.and_eq_true, decide_eq_true_eq] at hd
  obtain ⟨hp, hx⟩ := hd
  obtain ⟨hri, hci⟩ := nameCell_lt hx hi
  obtain ⟨hrj, hcj⟩ := nameCell_lt hx hj
  refine nameCell_inj (d := d) (Prod.ext_iff.2 ?_)
  by_cases h' : d.plane = 3
  · simp only [laneCell, if_pos h', h3 h', if_pos hri, if_pos hrj, Option.some.injEq] at h
    obtain ⟨h1, h2⟩ := cellKey_inj (Nat.mod_lt _ (by decide)) hci (Nat.mod_lt _ (by decide)) hcj h
    exact ⟨by omega, h2⟩
  · simp only [laneCell, if_neg h', Option.some.injEq] at h
    exact cellKey_inj hri hci hrj hcj h

end

-- the landing of cells --------------------------------------------------------------------------------------------------

/-- The table of cells after lane i of a result has landed. -/
def landLane (rb ld : Nat) (d : MName) (masks vals : List W32) (t : Tab W32) (i : Nat) : Tab W32 :=
  if masks.getD i 0 = 0 then t else match laneCell rb ld d i with
    | some k => Tab.upd 0 t k fun x => mergeLane x (masks.getD i 0) (vals.getD i 0)
    | none => t

/-- The landing of a list of cells that are alive changes the cells alone. -/
theorem foldl_landCell {l : List (Nat × W32 × W32)} (c : Ctx) (h : ∀ x ∈ l, cellAlive c.rb c.ld x.1) :
    l.foldl (fun c x => c.landCell x.1 x.2.1 x.2.2) c =
      { c with mrf := l.foldl (fun t x => Tab.upd 0 t x.1 fun y => mergeLane y x.2.1 x.2.2) c.mrf } := by
  induction l generalizing c with
  | nil => rfl
  | cons x l ih =>
    have hx : c.landCell x.1 x.2.1 x.2.2 = { c with mrf := Tab.upd 0 c.mrf x.1 fun y => mergeLane y x.2.1 x.2.2 } :=
      if_neg (h x List.mem_cons_self)
    rw [List.foldl_cons, hx, ih]
    · rfl
    · exact fun y hy => h y (List.mem_cons_of_mem _ hy)

section
variable {c : Ctx} {d : MName} {masks vals : List W32} (hm : masks.length = 128) (hv : vals.length = 128)
include hm hv

theorem zip_lanes : (List.range 128).zip (masks.zip vals) = (List.range 128).map fun i => (i, masks.getD i 0, vals.getD i 0) := by
  refine List.ext_getElem (by simp [hm, hv]) fun i h1 h2 => ?_
  have hi : i < 128 := by simpa using h2
  simp [hm, hv, hi]

theorem cellsOf_eq : c.cellsOf d masks vals = (List.range 128).filterMap fun i =>
    if masks.getD i 0 = 0 then none else (laneCell c.rb c.ld d i).map fun j => (j, masks.getD i 0, vals.getD i 0) := by
  rw [Ctx.cellsOf, zip_lanes hm hv, List.filterMap_map]
  rfl

/-- The cells of a result, landed lane by lane. -/
theorem foldl_cellsOf (t : Tab W32) : (c.cellsOf d masks vals).foldl (fun t x => Tab.upd 0 t x.1 fun y => mergeLane y x.2.1 x.2.2) t =
    (List.range 128).foldl (landLane c.rb c.ld d masks vals) t := by
  rw [cellsOf_eq hm hv, List.foldl_filterMap]
  congr 1
  funext t i
  unfold landLane
  by_cases h0 : masks.getD i 0 = 0
  · simp only [h0, if_true]
  · cases laneCell c.rb c.ld d i <;> simp only [h0, if_false, Option.map]

theorem cellsOf_alive (hd : d.wf = true) (h3 : d.plane = 3 → c.ld = 128) : ∀ x ∈ c.cellsOf d masks vals, cellAlive c.rb c.ld x.1 := by
  intro x hx
  rw [cellsOf_eq hm hv] at hx
  obtain ⟨i, hi, hxi⟩ := List.mem_filterMap.1 hx
  obtain ⟨k, hk, halive⟩ := laneCell_alive (rb := c.rb) hd h3 (List.mem_range.1 hi)
  rw [hk] at hxi
  split at hxi
  · cases hxi
  · cases hxi; exact halive

end

/-- A vector result lands (R43, R44): each lane of its name is merged, and every other cell keeps its value. -/
theorem get_landLanes {c : Ctx} {d : MName} {masks vals : List W32} (hd : d.wf = true) (h3 : d.plane = 3 → c.ld = 128) (t : Tab W32) :
    let t' := (List.range 128).foldl (landLane c.rb c.ld d masks vals) t
    (∀ i k, i < 128 → laneCell c.rb c.ld d i = some k → Tab.get 0 t' k = mergeLane (Tab.get 0 t k) (masks.getD i 0) (vals.getD i 0)) ∧
    ∀ k, (∀ i, i < 128 → laneCell c.rb c.ld d i ≠ some k) → Tab.get 0 t' k = Tab.get 0 t k := by
  refine foldl_range_touch (obs := fun t k => Tab.get 0 t k) (touches := fun i k => laneCell c.rb c.ld d i = some k)
    (F := fun i _ x => mergeLane x (masks.getD i 0) (vals.getD i 0)) (fun t i k _ hk => ?_) (fun t i k hi hk => ?_)
    (fun i j k hi hj hik hjk => laneCell_inj hd h3 hi hj (hik.trans hjk.symm)) t
  · unfold landLane
    split
    · rename_i h0; rw [h0, mergeLane_zero]
    · rw [hk]; simp
  · unfold landLane
    obtain ⟨k', hk', -⟩ := laneCell_alive (rb := c.rb) hd h3 hi
    split
    · rfl
    · rw [hk'] at hk ⊢
      simp only [Tab.get_upd]
      exact if_neg fun h => hk (by rw [h])

end Sys2Proof.Machine
end

section
/-! PROOF. The landing of vector results (spec/03 R40-R45, spec/13 R183), and the statement of the landings. -/

namespace Sys2Proof.Machine
open Sys2Proof

theorem bits_mul (w : Width) : w.bits * (32 / w.bits) = 32 := by cases w <;> rfl
theorem widthCount_eq (w : Width) : widthCount w = 32 / w.bits * 128 := by cases w <;> rfl

theorem chunks_length {α : Type} (n k : Nat) (l : List α) : (chunks n k l).length = k := by
  induction k generalizing l with
  | zero => rfl
  | succ k ih => simp [chunks, ih]

theorem length_lanesMask (w : Width) (ms : List Bool) : (lanesMask w ms).length = 128 := by rw [lanesMask, List.length_map, chunks_length]
theorem length_lanesOf (w : Width) (es : List Nat) : (lanesOf w es).length = 128 := by rw [lanesOf, List.length_map, chunks_length]

section
variable {c : Ctx} {d : MName} {w : Width} {ms : List Bool} {es : List Nat} (hd : d.wf = true) (h3 : d.plane = 3 → c.ld = 128)
include hd h3

/-- The cells after a vector result has landed. -/
def Ctx.landedCells (c : Ctx) (d : MName) (w : Width) (ms : List Bool) (es : List Nat) : Tab W32 :=
  (List.range 128).foldl (landLane c.rb c.ld d (lanesMask w ms) (lanesOf w es)) c.mrf

theorem foldl_landCell_vec : (c.cellsOf d (lanesMask w ms) (lanesOf w es)).foldl (fun c x => c.landCell x.1 x.2.1 x.2.2) c =
    { c with mrf := c.landedCells d w ms es } := by
  have hm := length_lanesMask w ms
  have hv := length_lanesOf w es
  rw [foldl_landCell c (cellsOf_alive hm hv hd h3), foldl_cellsOf hm hv]
  rfl

/-- Every cell that is not the name's keeps its value. -/
theorem get_landedCells_other {k : Nat} (hk : ∀ i, i < 128 → laneCell c.rb c.ld d i ≠ some k) :
    Tab.get 0 (c.landedCells d w ms es) k = Tab.get 0 c.mrf k :=
  (get_landLanes hd h3 c.mrf).2 k hk

section
variable {c' : Ctx} (hrb : c'.rb = c.rb) (hld : c'.ld = c.ld) (hmrf : c'.mrf = c.landedCells d w ms es)
include hrb hld hmrf

/-- A lane of the name is merged. -/
theorem lane_landedCells {i : Nat} (hi : i < 128) : c'.lane d i =
    mergeLane (c.lane d i) ((lanesMask w ms).getD i 0) ((lanesOf w es).getD i 0) := by
  obtain ⟨k, hk, -⟩ := laneCell_alive (rb := c.rb) hd h3 hi
  simp only [Ctx.lane, hrb, hld, hmrf, hk]
  exact (get_landLanes hd h3 c.mrf).1 i k hi hk

/-- Each selected element of the name takes its value, and every other element keeps its own (R183). -/
theorem elems_landedCells (hm : ms.length = widthCount w) (he : es.length = widthCount w) (hlt : ∀ x ∈ es, x < 2 ^ w.bits) :
    c'.elems d w = (ms.zip (es.zip (c.elems d w))).map pickElem := by
  have hlanes : c'.lanes d =
      ((c.lanes d).zip ((lanesMask w ms).zip (lanesOf w es))).map fun y => mergeLane y.1 y.2.1 y.2.2 := by
    refine List.ext_getElem (by simp [Ctx.lanes, length_lanesMask, length_lanesOf]) fun i h1 _ => ?_
    have hi : i < 128 := by simpa [Ctx.lanes] using h1
    simp [Ctx.lanes, lane_landedCells hd h3 hrb hld hmrf hi, length_lanesMask, length_lanesOf, hi]
  have hlen : (c.lanes d).length = 128 := by simp [Ctx.lanes]
  have h := flatMap_laneElems_merge (bits_mul w) (c.lanes d) (by rw [hm, hlen, widthCount_eq]) (by rw [he, hlen, widthCount_eq]) hlt
  rw [hlen] at h
  rw [Ctx.elems, elemsOf, hlanes]
  exact h

end

end

/-- Settles O4: what is due lands as a change of its berth's context; a vector result, lane by lane. -/
theorem resultsLand : Obligations.ResultsLand := by
  refine ⟨fun s b l1 l2 e m => ?scalar, fun s b e m => ?state, fun s b d w ms es m => ?vector⟩
  case scalar =>
    dsimp only
    intro hb ha ho hl hf hq
    obtain ⟨hsreg, hsbit, hkmask⟩ := resultsLand_scalar s b l1 l2 e m hb ha ho hl hf hq
    refine ⟨fun d v he => ⟨_, hsreg d v he, setReg_frame _ d v, fun r => reg_setReg _ d r v⟩, fun d p v he hp =>
      ⟨_, hsbit d p v he, setReg_frame _ d _, fun r hr => ?_, fun hd => ?_, fun hd i hi => ?_⟩,
      fun k v he => ⟨_, hkmask k v he, setKmask_frame _ k v, fun j => kmask_setKmask _ k j v⟩⟩
    · rw [reg_setReg, if_neg fun h => hr h.1]
    · rw [hd]; rfl
    · rw [reg_setReg, if_pos ⟨rfl, hd⟩, getLsbD_putBit _ p v hi]
  case state =>
    dsimp only
    intro hb ha ho hl hf
    obtain ⟨hstore, hrest⟩ := resultsLand_state s b e m hb ha ho hl hf
    refine ⟨hstore, ?_, hrest⟩
    rintro p l rfl
    exact resultLand_store hb ha ho hl hf
  case vector =>
    dsimp only
    intro hb ha ho hl hf hd h3 hm he hlt
    obtain ⟨t, hex, hframe, hother, hctx⟩ := landsTo_alone <| landsTo_of_landEff (l1 := []) (l2 := [])
      (g := fun x => ((s.ctxAt b).cellsOf d (lanesMask w ms) (lanesOf w es)).foldl (fun c x => c.landCell x.1 x.2.1 x.2.2) x)
      (c' := { s.ctxAt b with mrf := (s.ctxAt b).landedCells d w ms es }) hb ha ho hl hf (by simp) trivial nofun (fun _ _ _ => rfl)
      (fun fl => congrArg (fun x : Ctx => { x with flights := countedDown ([] ++ []) })
        (foldl_landCell_vec (c := { s.ctxAt b with landed := true, flights := fl }) (w := w) (ms := ms) (es := es) hd h3))
    have hmrf : (t.ctxAt b).mrf = (s.ctxAt b).landedCells d w ms es := by rw [hctx]
    refine ⟨t, hex, ?_, fun k hk => ?_, by rw [hctx], hframe, hother⟩
    · exact elems_landedCells hd h3 (by rw [hctx]) (by rw [hctx]) hmrf hm he hlt
    · rw [hmrf]
      exact get_landedCells_other hd h3 hk

end Sys2Proof.Machine
end

section
/-! SUPPORT. The accumulators (spec/17 R249, R255, R256): what a write of a row, a clear of a slot and the landing of an MMUL leave in
each cell. -/

namespace Sys2Proof.Machine
open Sys2Proof

theorem mem_insertNat {x y : Nat} {l : List Nat} : y ∈ insertNat x l ↔ y = x ∨ y ∈ l := by
  induction l with
  | nil => simp [insertNat]
  | cons z zs ih =>
    unfold insertNat
    split
    · simp
    · split
      · rename_i h
        simp [h]
      · rw [List.mem_cons, ih, List.mem_cons, or_left_comm]

/-- A row of cells, column by column. -/
theorem accKey_inj {j a n k r i : Nat} (ha : a < 256) (hn : n < 128) (hr : r < 256) (hi : i < 128) :
    accKey j a n = accKey k r i ↔ j = k ∧ a = r ∧ n = i := by
  unfold accKey
  omega

/-- The slot of a cell. -/
theorem accKey_div {a n : Nat} (k : Nat) (ha : a < 256) (hn : n < 128) : accKey k a n / 32768 = k := by
  unfold accKey
  omega

/-- A fold over the numbered members of a list goes through their places. -/
theorem foldl_range_zip {α β : Type} (f : β → Nat × α → β) (z : α) (l : List α) (b : β) :
    ((List.range l.length).zip l).foldl f b = (List.range l.length).foldl (fun b i => f b (i, l.getD i z)) b := by
  have h : (List.range l.length).zip l = (List.range l.length).map fun i => (i, l.getD i z) := by
    refine List.ext_getElem (by simp) fun i _ hi => ?_
    have : i < l.length := by simpa using hi
    simp [this]
  rw [h, List.foldl_map]

/-- A write of a row: its cells take the row's values, and every other cell keeps its own. -/
theorem accCell_setAccRow (c : Ctx) {k r a n : Nat} {l : List W32} (hl : l.length = 128) (hr : r < 256) (j : Nat) (ha : a < 256)
    (hn : n < 128) : (c.setAccRow k r l).accCell j a n = if j = k ∧ a = r then l.getD n 0 else c.accCell j a n := by
  obtain ⟨hin, hout⟩ := foldl_range_touch (obs := Tab.get (0 : W32)) (step := fun t i => Tab.set 0 t (accKey k r i) (l.getD i 0))
    (touches := fun i key => key = accKey k r i) (F := fun i _ _ => l.getD i 0) (n := 128)
    (fun t i key _ h => by rw [Tab.get_set, if_pos h]) (fun t i key _ h => by rw [Tab.get_set, if_neg h])
    (fun i i' key hi hi' h h' => ((accKey_inj hr hi hr hi').1 (h.symm.trans h')).2.2) c.acc
  have hcell : (c.setAccRow k r l).accCell j a n =
      Tab.get 0 ((List.range 128).foldl (fun t i => Tab.set 0 t (accKey k r i) (l.getD i 0)) c.acc) (accKey j a n) := by
    rw [← hl, ← foldl_range_zip (fun t (x : Nat × W32) => Tab.set 0 t (accKey k r x.1) x.2), hl]
    rfl
  rw [hcell]
  split <;> rename_i h
  · obtain ⟨rfl, rfl⟩ := h
    exact hin n _ hn rfl
  · exact hout _ fun i hi he => h ⟨((accKey_inj ha hn hr hi).1 he).1, ((accKey_inj ha hn hr hi).1 he).2.1⟩

/-- A slot that is dropped reads +0, and the others are as they were. -/
theorem accCell_dropAcc (c : Ctx) (k j : Nat) {a n : Nat} (ha : a < 256) (hn : n < 128) :
    (c.dropAcc k).accCell j a n = if j = k then 0 else c.accCell j a n := by
  have hget : ∀ t : Tab W32, Tab.get 0 (t.filter fun e => e.1 / 32768 != k) (accKey j a n) = if j = k then 0 else Tab.get 0 t (accKey j a n) := by
    intro t
    induction t with
    | nil => simp [Tab.get]
    | cons e t ih =>
      by_cases hk : accKey j a n = e.1
      · have he : e.1 / 32768 = j := by rw [← hk, accKey_div j ha hn]
        by_cases hj : j = k
        · simp [he, hj] at ih ⊢
          exact ih
        · simp [he, hj, Tab.get, hk]
      · by_cases hd : e.1 / 32768 = k <;> simpa [hd, Tab.get, hk] using ih
  exact hget c.acc

/-- But for its accumulators, c' is c. -/
def Ctx.sameButAcc (c c' : Ctx) : Prop := c' = { c with acc := c'.acc, live := c'.live }

theorem sameButAcc_setAccRow (c : Ctx) (k r : Nat) (l : List W32) : c.sameButAcc (c.setAccRow k r l) := rfl

theorem sameButAcc_trans {c c' c'' : Ctx} (h : c.sameButAcc c') (k : c'.sameButAcc c'') : c.sameButAcc c'' := by
  unfold Ctx.sameButAcc at *
  rw [k, h]

/-- One row of an MMUL's landing. -/
def Ctx.mmulRow (r : MRec) (bank : Bank) (j : Nat) (fmt : Fmt) (c : Ctx) (row : Nat) : Ctx :=
  c.setAccRow r.slot (r.row0 + row) ((List.range 128).map fun n => r.cell bank fmt j row n (c.accCell r.slot (r.row0 + row) n))

theorem mmulLand_eq (c : Ctx) (r : MRec) (j i : Nat) (fmt : Fmt) :
    c.mmulLand r j i fmt = (List.range r.rows).foldl (Ctx.mmulRow r (c.bank i) j fmt) c := rfl

theorem sameButAcc_mmulLand (c : Ctx) (r : MRec) (j i : Nat) (fmt : Fmt) : c.sameButAcc (c.mmulLand r j i fmt) :=
  foldl_inv c.sameButAcc _ (fun u _ h => sameButAcc_trans h (sameButAcc_setAccRow u _ _ _)) _ c rfl

/-- The landing of an MMUL in one member: each row of it once, and no other cell. -/
theorem accCell_mmulLand (c : Ctx) {r : MRec} (j i : Nat) (fmt : Fmt) (hr : r.row0 + r.rows ≤ 256) (k : Nat) {a n : Nat} (ha : a < 256)
    (hn : n < 128) :
    (∀ row, row < r.rows → k = r.slot → a = r.row0 + row → (c.mmulLand r j i fmt).accCell k a n =
      r.cell (c.bank i) fmt j row n (c.accCell k a n)) ∧
    ((k ≠ r.slot ∨ a < r.row0 ∨ r.row0 + r.rows ≤ a) → (c.mmulLand r j i fmt).accCell k a n = c.accCell k a n) := by
  have hrow : ∀ (c' : Ctx) (row : Nat), row < r.rows → (Ctx.mmulRow r (c.bank i) j fmt c' row).accCell k a n =
      if k = r.slot ∧ a = r.row0 + row then r.cell (c.bank i) fmt j row n (c'.accCell k a n) else c'.accCell k a n := by
    intro c' row hrow
    rw [Ctx.mmulRow, accCell_setAccRow c' (by simp) (by omega) k ha hn]
    split <;> rename_i h
    · obtain ⟨rfl, rfl⟩ := h
      simp [hn]
    · rfl
  obtain ⟨hin, hout⟩ := foldl_range_touch (ι := Unit) (obs := fun c' _ => Ctx.accCell c' k a n) (step := Ctx.mmulRow r (c.bank i) j fmt)
    (touches := fun row _ => k = r.slot ∧ a = r.row0 + row) (F := fun row _ => r.cell (c.bank i) fmt j row n) (n := r.rows)
    (fun c' row _ h ht => by rw [hrow c' row h, if_pos ht]) (fun c' row _ h ht => by rw [hrow c' row h, if_neg ht])
    (fun _ _ _ _ _ h h' => Nat.add_left_cancel (h.2.symm.trans h'.2)) c
  rw [mmulLand_eq]
  exact ⟨fun row h hk ha => hin row () h ⟨hk, ha⟩, fun h => hout () fun row hrow ht => by omega⟩

end Sys2Proof.Machine
end

section
/-! PROOF. What MMUL, WLOAD and the accumulator words leave when they retire (spec/17 R249, R253, R255, R256, R261). -/

namespace Sys2Proof.Machine
open Sys2Proof

-- the gang ------------------------------------------------------------------------------------------------------------------

/-- A change of one context that leaves all but its accumulators alone changes no berth's place in a gang. -/
theorem followers_modCtxAt {s : State} {m : Nat} {f : Ctx → Ctx} (ht : (f (s.ctxAt m)).team = (s.ctxAt m).team)
    (hm : (f (s.ctxAt m)).mode = (s.ctxAt m).mode) (b : Nat) : (s.modCtxAt m f).followers b = s.followers b := by
  have hteam : ∀ k, ((s.modCtxAt m f).ctxAt k).team = (s.ctxAt k).team := fun k => by
    rw [ctxAt_modCtxAt]
    split <;> simp_all
  have hmode : ∀ k, ((s.modCtxAt m f).ctxAt k).mode = (s.ctxAt k).mode := fun k => by
    rw [ctxAt_modCtxAt]
    split <;> simp_all
  have hplaced : ∀ k, ((s.modCtxAt m f).berth k).placed = (s.berth k).placed := fun k => by
    rw [State.modCtxAt, berth_modBerth]
    split <;> simp_all [Berth.placed]
  unfold State.followers
  refine List.filter_congr fun k _ => ?_
  dsimp only
  rw [show ((s.modCtxAt m f).berth k).ctx.team = _ from hteam k, show ((s.modCtxAt m f).berth k).ctx.mode = _ from hmode k, hplaced k,
    hteam b]
  rfl

theorem inGang_modCtxAt {s : State} {m : Nat} {f : Ctx → Ctx} (h : (s.ctxAt m).sameButAcc (f (s.ctxAt m))) (b k : Nat) :
    (s.modCtxAt m f).inGang b k = s.inGang b k := by
  unfold State.inGang
  rw [followers_modCtxAt (by rw [h]) (by rw [h])]

theorem inGang_iff {s : State} {b m : Nat} : s.inGang b m = true ↔ m = b ∨ m ∈ s.followers b := by simp [State.inGang]

/-- What the members of a gang do, each in its own berth. -/
theorem foldl_gang {α : Type} {b : Nat} {place : α → Nat} {g : α → Ctx → Ctx} (hg : ∀ x (c : Ctx), c.sameButAcc (g x c)) (L : List α)
    (hnd : (L.map place).Nodup) (s : State) :
    let t := L.foldl (fun u x => if u.inGang b (place x) then u.modCtxAt (place x) (g x) else u) s
    t = { s with berths := t.berths } ∧ (∀ k, (s.ctxAt k).sameButAcc (t.ctxAt k)) ∧
      (∀ x ∈ L, s.inGang b (place x) = true → t.ctxAt (place x) = g x (s.ctxAt (place x))) ∧
      ∀ k, k ∉ L.map place → t.berth k = s.berth k := by
  induction L generalizing s with
  | nil => exact ⟨rfl, fun _ => rfl, nofun, fun _ _ => rfl⟩
  | cons x L ih =>
    obtain ⟨hx, hnd⟩ := List.nodup_cons.1 hnd
    have hfirst : ∃ u, (if s.inGang b (place x) then s.modCtxAt (place x) (g x) else s) = u ∧ s.sameBut (place x) u ∧
        (∀ k, (s.ctxAt k).sameButAcc (u.ctxAt k)) ∧ (∀ k, u.inGang b k = s.inGang b k) ∧
        (s.inGang b (place x) = true → u.ctxAt (place x) = g x (s.ctxAt (place x))) := by
      by_cases h : s.inGang b (place x) = true
      · refine ⟨_, if_pos h, sameBut_modCtxAt _ _ _, fun k => ?_, inGang_modCtxAt (hg x _) b, fun _ => by simp⟩
        rw [ctxAt_modCtxAt]
        split
        · rename_i hk
          rw [hk]
          exact hg x _
        · rfl
      · exact ⟨s, if_neg h, ⟨rfl, fun _ _ => rfl⟩, fun _ => rfl, fun _ => rfl, fun h' => absurd h' h⟩
    obtain ⟨u, hu, ⟨hframe, hother⟩, hacc, hgang, hown⟩ := hfirst
    obtain ⟨hframe', hacc', hmem, hout⟩ := ih hnd u
    simp only [List.foldl_cons, hu]
    refine ⟨?_, fun k => sameButAcc_trans (hacc k) (hacc' k), fun y hy hin => ?_, fun k hk => ?_⟩
    · rw [hframe', hframe]
    · rcases List.mem_cons.1 hy with rfl | hy
      · rw [State.ctxAt, hout _ (by simpa using hx)]
        exact hown hin
      · have hne : place y ≠ place x := fun he => hx (by simpa [he] using ⟨y, hy, he⟩)
        rw [hmem y hy (by rw [hgang, hin]), State.ctxAt, hother _ hne]
        rfl
    · simp only [List.map_cons, List.mem_cons, not_or] at hk
      rw [hout k hk.2, hother k hk.1]

-- retirement -------------------------------------------------------------------------------------------------------------

/-- The slots that a retiring word releases: the oldest of one ring, and of a second where it names one (R249). -/
def Ctx.slotsFreed (q : Nat) (sq : Option Nat) (c : Ctx) : Ctx :=
  match sq with
  | some k => (c.releaseOldest q).releaseOldest k
  | none => c.releaseOldest q

/-- A release of a slot reads and writes the rings, and reads the operations. -/
theorem releaseOldest_congr {c c' : Ctx} (hr : c'.rings = c.rings) (ho : c'.ops = c.ops) (q : Nat) :
    c'.releaseOldest q = { c' with rings := (c.releaseOldest q).rings } := by
  have hring : c'.ring q = c.ring q := congrArg (Tab.get Ring.none · q) hr
  unfold Ctx.releaseOldest
  rw [hring, ho]
  dsimp only
  cases (c.ring q).oldest with
  | some i =>
    dsimp only [Ctx.modRing]
    rw [hr, ← ho]
  | none =>
    dsimp only
    rw [← hr, ← ho]

theorem slotsFreed_congr {c c' : Ctx} (hr : c'.rings = c.rings) (ho : c'.ops = c.ops) (q : Nat) (sq : Option Nat) :
    c'.slotsFreed q sq = { c' with rings := (c.slotsFreed q sq).rings } := by
  have hone := releaseOldest_congr hr ho q
  have hops : (c.releaseOldest q).ops = c.ops := by rw [releaseOldest_congr (c := c) rfl rfl]
  cases sq with
  | none => exact hone
  | some k =>
    refine (releaseOldest_congr (c := c.releaseOldest q) (by rw [hone]) (by rw [hone, hops, ← ho]) k).trans ?_
    rw [hone]
    rfl

theorem retireMmul_eq (s : State) (b : Nat) (r : MRec) : s.retireMmul b r =
    (((List.range r.members.length).zip r.members).foldl (fun u x => if u.inGang b x.2.1 then
      u.modCtxAt x.2.1 fun c => c.mmulLand r x.1 x.2.2.1 x.2.2.2 else u) s).modCtxAt b (Ctx.slotsFreed r.qa r.sq) := rfl

theorem retireWload_eq (s : State) (b : Nat) (w : WRec) : s.retireWload b w = s.modCtxAt b (Ctx.slotsFreed w.qb w.sq) := rfl

theorem modCtxAt_congr {s : State} {b : Nat} {f g : Ctx → Ctx} (h : f (s.ctxAt b) = g (s.ctxAt b)) : s.modCtxAt b f = s.modCtxAt b g :=
  congrArg (fun c => s.setBerth b { s.berth b with ctx := c }) h

section
variable {s : State} {l : List Flight}

/-- A flight at the head that is due to land, and the flights without it. -/
theorem firstDue_head {c : Ctx} {e : Eff} (hf : c.flights = ⟨0, e, false⟩ :: l) (he : Flight.lands ⟨0, e, false⟩ = true) :
    c.firstDue = some ⟨0, e, false⟩ ∧ c.dropDue = { c with flights := l } := by
  rw [Ctx.firstDue, Ctx.dropDue, hf]
  simp [he, dropDue]

theorem exec_mmulRetire {r : MRec} (hf : (s.ctxAt s.subj.berth).flights = ⟨0, .mmul r, false⟩ :: l) :
    exec .mmulRetire s = .next ((s.modCtxAt s.subj.berth fun c => { c with flights := l }).retireMmul s.subj.berth r) := by
  obtain ⟨hdue, hdrop⟩ := firstDue_head hf rfl
  rw [show exec .mmulRetire s = execMmulRetire s from rfl, execMmulRetire]
  simp only [hdue]
  rw [modCtxAt_congr (f := Ctx.dropDue) (g := fun c => { c with flights := l }) hdrop]

theorem exec_wloadRetire {w : WRec} (hf : (s.ctxAt s.subj.berth).flights = ⟨0, .wload w, false⟩ :: l) :
    exec .wloadRetire s = .next ((s.modCtxAt s.subj.berth fun c => { c with flights := l }).retireWload s.subj.berth w) := by
  obtain ⟨hdue, hdrop⟩ := firstDue_head hf rfl
  rw [show exec .wloadRetire s = execWloadRetire s from rfl, execWloadRetire]
  simp only [hdue]
  rw [modCtxAt_congr (f := Ctx.dropDue) (g := fun c => { c with flights := l }) hdrop]

end

/-- A WLOAD retires: its slots are released, and nothing else changes. -/
theorem retireWload_effect (s : State) (b : Nat) (w : WRec) (l : List Flight) :
    let t := (s.modCtxAt b fun c => { c with flights := l }).retireWload b w
    t = { s with berths := t.berths } ∧ (∀ k, k ≠ b → t.berth k = s.berth k) ∧
      t.ctxAt b = Ctx.slotsFreed w.qb w.sq { s.ctxAt b with flights := l } := by
  dsimp only
  rw [retireWload_eq]
  obtain ⟨hframe, hother⟩ := sameBut_trans (sameBut_modCtxAt s b fun c => { c with flights := l })
    (sameBut_modCtxAt _ b (Ctx.slotsFreed w.qb w.sq))
  refine ⟨hframe, hother, ?_⟩
  rw [ctxAt_modCtxAt, if_pos rfl, ctxAt_modCtxAt, if_pos rfl]

/-- The member of a gang at a place of the list. -/
theorem mem_range_zip {α : Type} {l : List α} {j : Nat} {x : α} (h : l[j]? = some x) : (j, x) ∈ (List.range l.length).zip l := by
  obtain ⟨hj, rfl⟩ := List.getElem?_eq_some_iff.1 h
  exact List.mem_iff_getElem.2 ⟨j, by simpa using hj, by simp⟩

/-- An MMUL retires: it lands in each member that still follows, and its slots are released. -/
theorem retireMmul_effect (s : State) (b : Nat) (r : MRec) (l : List Flight) (hnd : (r.members.map Prod.fst).Nodup) :
    let t := (s.modCtxAt b fun c => { c with flights := l }).retireMmul b r
    t = { s with berths := t.berths } ∧
      (∀ (j mb bank : Nat) (f : Fmt), r.members[j]? = some (mb, bank, f) → mb = b ∨ mb ∈ s.followers b →
        ∃ c : Ctx, c.acc = (s.ctxAt mb).acc ∧ c.banks = (s.ctxAt mb).banks ∧ (t.ctxAt mb).acc = (c.mmulLand r j bank f).acc) ∧
      (∀ k, k ≠ b → k ∉ r.members.map Prod.fst → t.berth k = s.berth k) ∧
      (t.ctxAt b).rings = (Ctx.slotsFreed r.qa r.sq { s.ctxAt b with flights := l }).rings ∧ (t.ctxAt b).flights = l := by
  dsimp only
  rw [retireMmul_eq]
  generalize hs0 : (s.modCtxAt b fun c => { c with flights := l }) = s0
  obtain ⟨hframe0, hother0⟩ : s.sameBut b s0 := hs0 ▸ sameBut_modCtxAt s b _
  have hfl : s0.ctxAt b = { s.ctxAt b with flights := l } := by rw [← hs0, ctxAt_modCtxAt, if_pos rfl]
  have hgang0 : ∀ m, s0.inGang b m = s.inGang b m := fun m => by
    rw [← hs0]
    unfold State.inGang
    rw [followers_modCtxAt rfl rfl]
  have hin0 : ∀ m, (s0.ctxAt m).acc = (s.ctxAt m).acc ∧ (s0.ctxAt m).banks = (s.ctxAt m).banks := fun m => by
    rw [← hs0, ctxAt_modCtxAt]
    split
    · rename_i h
      rw [h]
      exact ⟨rfl, rfl⟩
    · exact ⟨rfl, rfl⟩
  have hplace : ((List.range r.members.length).zip r.members).map (fun x => x.2.1) = r.members.map Prod.fst := by
    rw [show (fun x : Nat × Nat × Nat × Fmt => x.2.1) = Prod.fst ∘ Prod.snd from rfl, ← List.map_map, List.map_snd_zip (by simp)]
  obtain ⟨hframe, hacc, hmem, hout⟩ := foldl_gang (b := b) (place := fun x : Nat × Nat × Nat × Fmt => x.2.1)
    (g := fun x c => c.mmulLand r x.1 x.2.2.1 x.2.2.2) (fun x c => sameButAcc_mmulLand c r _ _ _) _ (hplace ▸ hnd) s0
  generalize ((List.range r.members.length).zip r.members).foldl _ s0 = u at *
  obtain ⟨hframe', hother'⟩ := sameBut_modCtxAt u b (Ctx.slotsFreed r.qa r.sq)
  have hkept : ∀ m, ((u.modCtxAt b (Ctx.slotsFreed r.qa r.sq)).ctxAt m).acc = (u.ctxAt m).acc := fun m => by
    rw [ctxAt_modCtxAt]
    split
    · rename_i h
      rw [slotsFreed_congr rfl rfl, h]
    · rfl
  have hb : u.ctxAt b = { s.ctxAt b with acc := (u.ctxAt b).acc, live := (u.ctxAt b).live, flights := l } := by
    have h := hacc b
    rw [hfl] at h
    exact h
  refine ⟨?_, fun j mb bank f hj hin => ?_, fun k hk hnot => ?_, ?_, ?_⟩
  · rw [hframe', hframe, hframe0]
  · have hat := hmem (j, mb, bank, f) (mem_range_zip hj) (by rw [hgang0]; exact inGang_iff.2 hin)
    refine ⟨s0.ctxAt mb, ?_, ?_, (hkept mb).trans (congrArg Ctx.acc hat)⟩
    · exact (hin0 mb).1
    · exact (hin0 mb).2
  · rw [hother' k hk, hout k (hplace ▸ hnot), hother0 k hk]
  · rw [ctxAt_modCtxAt, if_pos rfl, slotsFreed_congr (c := { s.ctxAt b with flights := l }) (by rw [hb]) (by rw [hb])]
  · rw [ctxAt_modCtxAt, if_pos rfl, slotsFreed_congr rfl rfl, hb]

-- the accumulator words ---------------------------------------------------------------------------------------------------

section
variable {s : State} {b : Nat} {e : Eff} {m : Bool} (hb : s.subj.berth = b) (ha : s.agent = .land b)
  (ho : (s.ctxAt b).open_ = true) (hl : (s.ctxAt b).landed = false) (hf : (s.ctxAt b).flights = [⟨1, e, m⟩])
include hb ha ho hl hf

/-- A flight that changes its own berth's accumulators alone: c' is the context that holds them as they are then. -/
theorem resultLand_acc {g : Ctx → Ctx} {c' : Ctx} (hsame : (s.ctxAt b).sameButAcc c') (he : e.landsNow)
    (hload : ∀ i d x, e ≠ .rload i d x) (hg : ∀ u : State, u.landEff b e = u.modCtxAt b g)
    (hc : ∀ fl, g { s.ctxAt b with landed := true, flights := fl } = { c' with landed := true, flights := fl }) :
    ∃ t, exec .resultLand s = .next t ∧ t = { s with agent := .release b, berths := t.berths } ∧
      (∀ j, j ≠ b → t.berth j = s.berth j) ∧ (∀ j a n, (t.ctxAt b).accCell j a n = c'.accCell j a n) ∧ (t.ctxAt b).live = c'.live ∧
      t.ctxAt b = { s.ctxAt b with acc := (t.ctxAt b).acc, live := (t.ctxAt b).live, landed := true, flights := [] } := by
  obtain ⟨t, hex, hframe, hother, hctx⟩ := landsTo_alone <| landsTo_of_landEff (l1 := []) (l2 := []) (g := g) (c' := c') hb ha ho hl hf
    (by simp) he hload (fun u _ _ => hg u) (fun fl => congrArg (fun x : Ctx => { x with flights := countedDown ([] ++ []) }) (hc fl))
  refine ⟨t, hex, hframe, hother, fun j a n => ?_, ?_, ?_⟩
  · rw [hctx]
    rfl
  · rw [hctx]
  · rw [hctx, hsame]

end

/-- Settles O25: the retirements, gang and all, and the accumulator words, cell by cell. -/
theorem matrixResultsLand : Obligations.MatrixResultsLand := by
  refine ⟨fun s l r w => ⟨fun hf => ?wload, fun hf hnd hrows => ?mmul⟩, fun s b k r e m l => ?words⟩
  case wload =>
    obtain ⟨hframe, hother, hctx⟩ := retireWload_effect s s.subj.berth w l
    exact ⟨_, exec_wloadRetire hf, hframe, hother, hctx⟩
  case mmul =>
    obtain ⟨hframe, hmem, hout, hrings, hfl⟩ := retireMmul_effect s s.subj.berth r l hnd
    refine ⟨_, exec_mmulRetire hf, hframe, fun j mb bank f hj hin => ?_, hout, hrings, hfl⟩
    obtain ⟨c, hacc, hbanks, ht⟩ := hmem j mb bank f hj hin
    have hcell : ∀ k a n, ((((s.modCtxAt s.subj.berth fun c => { c with flights := l }).retireMmul s.subj.berth r).ctxAt mb).accCell k a n) =
        (c.mmulLand r j bank f).accCell k a n := fun k a n => congrArg (Tab.get 0 · (accKey k a n)) ht
    have hold : ∀ k a n, c.accCell k a n = (s.ctxAt mb).accCell k a n := fun k a n => congrArg (Tab.get 0 · (accKey k a n)) hacc
    have hbank : c.bank bank = (s.ctxAt mb).bank bank := congrArg (Tab.get Bank.none · bank) hbanks
    refine ⟨fun i n hi hn => ?_, fun k a n ha hn hk => ?_⟩
    · obtain ⟨hin, -⟩ := accCell_mmulLand c (r := r) j bank f hrows r.slot (a := r.row0 + i) (by omega) hn
      rw [hcell, hin i hi rfl rfl, hbank, hold]
    · obtain ⟨-, hout⟩ := accCell_mmulLand c (r := r) j bank f hrows k ha hn
      rw [hcell, hout hk, hold]
  case words =>
    dsimp only
    intro hb ha ho hl hf
    have hgang : ∀ (u : State) (f : Ctx → Ctx), [b].foldl (fun s m => if s.inGang b m then s.modCtxAt m f else s) u = u.modCtxAt b f :=
      fun u f => if_pos (inGang_iff.2 (Or.inl rfl))
    refine ⟨?_, ?_, ?_⟩
    · rintro rfl hr hlen
      obtain ⟨t, hex, hframe, hother, hcell, hlive, hctx⟩ := resultLand_acc (g := fun c => c.setAccRow k r l)
        (c' := (s.ctxAt b).setAccRow k r l) hb ha ho hl hf rfl trivial nofun (fun _ => rfl) (fun _ => rfl)
      refine ⟨t, hex, hframe, hother, ⟨fun j a n hj ha hn => ?_, ?_, fun a n ha hn => ?_⟩, hctx⟩
      · rw [hcell, accCell_setAccRow _ hlen hr j ha hn, if_neg fun h => hj h.1]
      · rw [hlive]
        exact mem_insertNat.2 (Or.inl rfl)
      · rw [hcell, accCell_setAccRow _ hlen hr k ha hn]
        simp
    · rintro rfl
      obtain ⟨t, hex, hframe, hother, hcell, hlive, hctx⟩ := resultLand_acc (g := fun c => (c.dropAcc k).liven k)
        (c' := ((s.ctxAt b).dropAcc k).liven k) hb ha ho hl hf rfl trivial nofun (fun u => hgang u _) (fun _ => rfl)
      replace hcell : ∀ j a n, (t.ctxAt b).accCell j a n = ((s.ctxAt b).dropAcc k).accCell j a n := hcell
      refine ⟨t, hex, hframe, hother, ⟨fun j a n hj ha hn => ?_, ?_, fun a n ha hn => ?_⟩, hctx⟩
      · rw [hcell, accCell_dropAcc _ k j ha hn, if_neg hj]
      · rw [hlive]
        exact mem_insertNat.2 (Or.inl rfl)
      · rw [hcell, accCell_dropAcc _ k k ha hn, if_pos rfl]
    · rintro rfl
      obtain ⟨t, hex, hframe, hother, hcell, hlive, hctx⟩ := resultLand_acc
        (g := fun c => { c.dropAcc k with live := c.live.filter (· != k) })
        (c' := { (s.ctxAt b).dropAcc k with live := (s.ctxAt b).live.filter (· != k) }) hb ha ho hl hf rfl trivial nofun
        (fun u => hgang u _) (fun _ => rfl)
      replace hcell : ∀ j a n, (t.ctxAt b).accCell j a n = ((s.ctxAt b).dropAcc k).accCell j a n := hcell
      refine ⟨t, hex, hframe, hother, ⟨fun j a n hj ha hn => ?_, ?_, fun a n ha hn => ?_⟩, hctx⟩
      · rw [hcell, accCell_dropAcc _ k j ha hn, if_neg hj]
      · rw [hlive]
        simp
      · rw [hcell, accCell_dropAcc _ k k ha hn, if_pos rfl]

end Sys2Proof.Machine
end

section
/-! PROOF. Local accesses (spec/09 R120, R123, spec/11 R162, R163, spec/13 R205): their faults, and what they do at a window. -/

namespace Sys2Proof.Machine
open Sys2Proof

-- the faults ---------------------------------------------------------------------------------------------------------------

/-- An address range outside the scratchpad and the windows (R120). -/
def outside (v : W64) (n : Nat) : Prop := (v.toNat < 0x100000 ∧ 0x100000 < v.toNat + n) ∨ 0x1100000 ≤ v.toNat

/-- A misaligned range of the scratchpad (R162). -/
def misaligned (v : W64) (n al : Nat) : Prop := v.toNat + n ≤ 0x100000 ∧ v.toNat % al ≠ 0

theorem localBad_outside {c : Ctx} {v : W64} {n : Nat} (h : outside v n) : c.localBad v n = true := by
  unfold Ctx.localBad
  dsimp only
  obtain ⟨hlt, hend⟩ | hge := h
  · rw [if_pos hlt, decide_eq_true hend]
  · rw [if_neg (by omega), isWin, decide_eq_false (by omega)]
    rfl

theorem localBad_inside {c : Ctx} {v : W64} {n : Nat} (hn : 0 < n) (h : v.toNat + n ≤ 0x100000) : c.localBad v n = false := by
  unfold Ctx.localBad
  dsimp only
  rw [if_pos (by omega), decide_eq_false (by omega)]

section
variable {s : State} {v : W64} {n : Nat} {acc : Acc}

/-- Outside the scratchpad and the windows an access raises BOUND, aligned or not. -/
theorem localChecks_outside (al : Nat) (h : outside v n) : checks (s.localChecks v n al acc) = some (0x02, v) := by
  rw [State.localChecks, localBad_outside h]
  rfl

/-- A misaligned access of the scratchpad raises ALIGN. -/
theorem localChecks_misaligned {al : Nat} (hn : 0 < n) (h : misaligned v n al) : checks (s.localChecks v n al acc) = some (0x01, v) := by
  obtain ⟨hin, hodd⟩ := h
  rw [State.localChecks, localBad_inside hn hin, bne_iff_ne.2 hodd]
  rfl

end

theorem exec_lds (h : Hd) (d a imm : Nat) (s : State) : exec (.lds h d a imm) s = execLds h d a imm s := rfl
theorem exec_sts (h : Hd) (d a imm : Nat) (s : State) : exec (.sts h d a imm) s = execSts h d a imm s := rfl
theorem exec_vld (h : Hd) (m : MName) (a k : Nat) (w : Width) (imm : Nat) (s : State) :
    exec (.vld h m a k w imm) s = execVld h m a k w imm s := rfl
theorem exec_vst (h : Hd) (m : MName) (a k : Nat) (w : Width) (imm : Nat) (s : State) :
    exec (.vst h m a k w imm) s = execVst h m a k w imm s := rfl

/-- LDS and STS trap alike where the range that starts at their address fails a check. -/
theorem exec_scalarAccess_fault {s : State} {h : Hd} (hg : s.ctx.guard h = true) {a imm code : Nat} (d : Nat)
    (hc : ∀ acc, checks (s.localChecks (memAddr s.ctx a imm) 8 8 acc) = some (code, memAddr s.ctx a imm)) :
    exec (.lds h d a imm) s = .next (s.trapped code (memAddr s.ctx a imm)) ∧
    exec (.sts h d a imm) s = .next (s.trapped code (memAddr s.ctx a imm)) := by
  rw [exec_lds, execLds, exec_sts, execSts]
  exact ⟨issue_flt hg (verdict_of_some (hc .read)), issue_flt hg (verdict_of_some (hc .write))⟩

/-- VLD and VST trap alike where the range that starts at their address fails a check. -/
theorem exec_vectorAccess_fault {s : State} {h : Hd} (hg : s.ctx.guard h = true) {a imm code : Nat} (m : MName) (k : Nat) (w : Width)
    (hc : ∀ acc, checks (s.localChecks (vmemAddr s.ctx a imm) 512 64 acc) = some (code, vmemAddr s.ctx a imm)) :
    exec (.vld h m a k w imm) s = .next (s.trapped code (vmemAddr s.ctx a imm)) ∧
    exec (.vst h m a k w imm) s = .next (s.trapped code (vmemAddr s.ctx a imm)) := by
  rw [exec_vld, execVld, exec_vst, execVst]
  exact ⟨issue_flt hg (verdict_of_some (hc .read)), issue_flt hg (verdict_of_some (hc .write))⟩

-- windows ------------------------------------------------------------------------------------------------------------------

/-- A word that issues one operation and changes its own context. -/
theorem issuedAs_pushOp (s : State) (path : Nat) (kind : OpKind) (route : Route) (tag rel : Nat) (f : Ctx → Ctx) :
    s.issuedAs { (s.pushOp path kind route tag rel).modCtx f with iss := .issued }
      (f { s.ctx with ops := s.ctx.ops ++ [s.newOp path kind route tag rel] }) 1 false := by
  rw [pushOp_eq]
  generalize s.newOp path kind route tag rel = o
  have hsame : s.sameBut s.cur ((s.modCtxAt s.cur fun c => { c with ops := c.ops ++ [o] }).modCtxAt s.cur f) :=
    sameBut_trans (sameBut_modCtxAt s s.cur _) (sameBut_modCtxAt _ s.cur f)
  have hown : ((s.modCtxAt s.cur fun c => { c with ops := c.ops ++ [o] }).modCtxAt s.cur f).berth s.cur =
      { s.berth s.cur with ctx := f { s.ctx with ops := s.ctx.ops ++ [o] } } := by
    rw [berth_modCtxAt_same, berth_modCtxAt_same, ctxAt_modCtxAt, if_pos rfl]
    rfl
  change s.issuedAs { (s.modCtxAt s.cur fun c => { c with ops := c.ops ++ [o] }).modCtxAt s.cur f with
    nextId := s.nextId + 1, iss := .issued } _ 1 false
  generalize (s.modCtxAt s.cur fun c => { c with ops := c.ops ++ [o] }).modCtxAt s.cur f = u at hsame hown
  obtain ⟨hframe, hother⟩ := hsame
  refine ⟨by rw [hframe], hother, hown.trans ?_⟩
  rw [Bool.or_false]

theorem isWin_of_bounds {p : Nat} (hlo : 0x100000 ≤ p) (hhi : p < 0x1100000) : isWin p = true := decide_eq_true ⟨hlo, hhi⟩

section
variable {s : State} {h : Hd} {a imm : Nat} (hg : s.ctx.guard h = true) (hlo : 0x100000 ≤ (s.ctx.reg a + sx31 imm).toNat)
  (hhi : (s.ctx.reg a + sx31 imm).toNat < 0x1100000) (hal : (s.ctx.reg a + sx31 imm).toNat % 8 = 0)
  (hv : (Tab.get Window.none s.ctx.windows (((s.ctx.reg a + sx31 imm).toNat - 0x100000) / 0x100000)).valid = true)
  (hp : (Tab.get Window.none s.ctx.windows (((s.ctx.reg a + sx31 imm).toNat - 0x100000) / 0x100000)).lbase +
    (s.ctx.reg a + sx31 imm).toNat % 0x100000 + 8 ≤ 0x100000)

include hlo hhi hal hv hp in
/-- An aligned access of a valid window, within the peer's scratchpad, raises nothing. -/
theorem localChecks_window (acc : Acc) : checks (s.localChecks (memAddr s.ctx a imm) 8 8 acc) = none := by
  have hbad : s.ctx.localBad (memAddr s.ctx a imm) 8 = false := by
    unfold Ctx.localBad Ctx.peerAddr winOf memAddr
    dsimp only
    rw [if_neg (by omega), isWin_of_bounds hlo hhi, if_pos rfl, hv, decide_eq_false (by omega), decide_eq_false (by omega)]
    rfl
  have hlt : ¬(memAddr s.ctx a imm).toNat < 0x100000 := Nat.not_lt.2 hlo
  have hodd : ((memAddr s.ctx a imm).toNat % 8 != 0) = false := bne_eq_false_iff_eq.2 hal
  rw [State.localChecks, hbad, hodd]
  exact checks_cons_none rfl (checks_cons_none rfl (checks_cons_none (if_neg hlt) checks_nil))

include hlo hhi hal hv hp

include hg in
/-- A load through a window. -/
theorem exec_lds_window (d : Nat) : ∃ t, exec (.lds h d a imm) s = .next t ∧ s.issuedAs t { s.ctx with
    ops := s.ctx.ops ++ [s.newOp 32 (.rload (((s.ctx.reg a + sx31 imm).toNat - 0x100000) / 0x100000)
      (s.ctx.reg a + sx31 imm).toNat 8) .count 0 0]
    flights := s.ctx.flights ++ [⟨4, .rload s.nextId (.sreg d) none, false⟩] } 1 false := by
  rw [show exec (.lds h d a imm) s = execLds h d a imm s from rfl, execLds,
    issue_go hg (verdict_of_none (localChecks_window hlo hhi hal hv hp .read))]
  dsimp only
  refine ⟨_, rfl, ?_⟩
  rw [show memAddr s.ctx a imm = s.ctx.reg a + sx31 imm from rfl, if_pos (isWin_of_bounds hlo hhi)]
  exact issuedAs_pushOp s _ _ _ _ _ fun c => c.fly 4 (.rload s.nextId (.sreg d) none)

/-- The verdict of a store through a window, once its checks have passed: its window's allowance (R123). -/
theorem storeVerdict_window : storeVerdict (memAddr s.ctx a imm) 8 8 s =
    freezeIf s (!s.ctx.allowed (s.ctx.reg a + sx31 imm).toNat) .go := by
  rw [storeVerdict, verdict_of_none (localChecks_window hlo hhi hal hv hp .write)]
  exact if_pos (isWin_of_bounds hlo hhi)

include hg

/-- A store through a window that has an allowance unit left. -/
theorem exec_sts_window (d : Nat) (hh : s.ctx.holding = false)
    (hu : (Tab.get Window.none s.ctx.windows (((s.ctx.reg a + sx31 imm).toNat - 0x100000) / 0x100000)).out <
      (Tab.get Window.none s.ctx.windows (((s.ctx.reg a + sx31 imm).toNat - 0x100000) / 0x100000)).limit) :
    ∃ t, exec (.sts h d a imm) s = .next t ∧ s.issuedAs t (({ s.ctx with
      ops := s.ctx.ops ++ [s.newOp 32 (.wstore (((s.ctx.reg a + sx31 imm).toNat - 0x100000) / 0x100000) (s.ctx.reg a + sx31 imm).toNat
        (cellsFrom (s.ctx.reg a + sx31 imm).toNat (leBytes 8 (s.ctx.reg d).toNat))) .count 0 0] } : Ctx).takeUnit
          (s.ctx.reg a + sx31 imm).toNat) 1 false := by
  have hgo : storeVerdict (memAddr s.ctx a imm) 8 8 s = .go := by
    rw [storeVerdict_window hlo hhi hal hv hp, freezeIf, hh, Ctx.allowed, winOf, decide_eq_true hu]
    rfl
  rw [exec_sts, execSts]
  refine ⟨_, issue_go hg hgo, ?_⟩
  dsimp only
  rw [show memAddr s.ctx a imm = s.ctx.reg a + sx31 imm from rfl, State.localStore, if_pos (isWin_of_bounds hlo hhi)]
  exact issuedAs_pushOp s _ _ _ _ _ fun c => c.takeUnit (s.ctx.reg a + sx31 imm).toNat

end

/-- Settles O6: the faults in the order of the checks, and the accesses that a window takes. -/
theorem localAccessFaultsAndWindows : Obligations.LocalAccessFaultsAndWindows := by
  refine ⟨fun s h d a imm k m w hg => ?faults, fun s h d a imm hg => ?windows⟩
  case faults =>
    exact ⟨fun ho => exec_scalarAccess_fault hg d fun _ => localChecks_outside 8 ho,
      fun ho => exec_scalarAccess_fault hg d fun _ => localChecks_misaligned (by decide) ho,
      fun ho => exec_vectorAccess_fault hg m k w fun _ => localChecks_outside 64 ho,
      fun ho => exec_vectorAccess_fault hg m k w fun _ => localChecks_misaligned (by decide) ho⟩
  case windows =>
    dsimp only
    intro hlo hhi hal hv hp
    have hverdict := storeVerdict_window hlo hhi hal hv hp
    refine ⟨exec_lds_window hg hlo hhi hal hv hp d, fun hh hu => exec_sts_window hg hlo hhi hal hv hp d hh hu, fun hh hu => ?_, fun hh => ?_⟩
    · rw [exec_sts, execSts]
      refine issue_freeze (u := s) hg ?_
      rw [hverdict, freezeIf, hh, Ctx.allowed, winOf, decide_eq_false (Nat.not_lt.2 hu)]
      rfl
    · rw [exec_sts, execSts]
      refine issue_wait hg ?_
      rw [hverdict, freezeIf, hh]
      rfl

end Sys2Proof.Machine
end

section
/-! PROOF. Branches with their delay groups, and hardware loops (spec/03 R55-R58, spec/05 R85, spec/11 R164-R167, spec/23 R336). -/

namespace Sys2Proof.Machine
open Sys2Proof

-- branches ---------------------------------------------------------------------------------------------------------------

section
variable {s : State} {h : Hd}

/-- Outside a delay group, a transfer whose checks pass has its effect. -/
theorem issueTransfer_go {v : State → Verdict} {eff : State → State} (hg : s.ctx.guard h = true) (hb : s.ctx.branch = none)
    (hq : s.ctx.quiet = 0) (hv : v s = .go) : issueTransfer h v eff s = .next { eff s with iss := .issued } :=
  (issueTransfer_free hb hq).trans (issue_go hg hv)

/-- Outside a delay group, a transfer whose checks fail traps. -/
theorem issueTransfer_flt {v : State → Verdict} {eff : State → State} {code : Nat} {addr : W64} (hg : s.ctx.guard h = true)
    (hb : s.ctx.branch = none) (hq : s.ctx.quiet = 0) (hv : v s = flt code addr) :
    issueTransfer h v eff s = .next (s.trapped code addr) := (issueTransfer_free hb hq).trans (issue_flt hg hv)

/-- In a delay group, of a branch or of a PROBE that hit, a transfer has no effect (R85). -/
theorem issueTransfer_held {v : State → Verdict} {eff : State → State} (hd : s.ctx.branch ≠ none ∨ s.ctx.quiet ≠ 0) :
    issueTransfer h v eff s = .next { s with iss := .issued } := by
  obtain hb | hq := hd
  · exact issueTransfer_delay (Option.isSome_iff_ne_none.2 hb)
  · exact issueTransfer_quiet hq

/-- The control transfers: every word that a delay group turns off. -/
theorem exec_transfer_held (d a off : Nat) (hd : s.ctx.branch ≠ none ∨ s.ctx.quiet ≠ 0) :
    ∀ i ∈ [Instr.br h off, .call h d off, .jmp h d a, .ret h a, .loop h 0 a off, .loopi h 0 d off, .probe h a d 0 off, .rett h],
      exec i s = .next { s with iss := .issued } := by
  have hheld : ∀ v eff, issueTransfer h v eff s = .next { s with iss := .issued } := fun _ _ => issueTransfer_held hd
  simp only [List.mem_cons, List.not_mem_nil, or_false, forall_eq_or_imp, forall_eq]
  exact ⟨hheld _ _, hheld _ _, hheld _ _, hheld _ _, hheld _ _, hheld _ _, hheld _ _, hheld _ _⟩

/-- Outside a delay group, a branch is taken, and CALL and JMP put the link in flight (R55, R164, R165). -/
theorem exec_branches (d a off : Nat) (hg : s.ctx.guard h = true) (hb : s.ctx.branch = none) (hq : s.ctx.quiet = 0) :
    exec (.br h off) s = .next (s.withCtx (s.ctx.take (relTarget s.woff 37 off))) ∧
    exec (.call h d off) s = .next (s.withCtx ((s.ctx.take (relTarget s.woff 37 off)).fly 1 (.sreg d (w64 s.link)))) ∧
    exec (.jmp h d a) s = .next (s.withCtx ((s.ctx.take (s.ctx.reg a)).fly 1 (.sreg d (w64 s.link)))) ∧
    exec (.ret h a) s = .next (s.withCtx (s.ctx.take (s.ctx.reg a))) :=
  ⟨issueTransfer_go hg hb hq rfl, issueTransfer_go hg hb hq rfl, issueTransfer_go hg hb hq rfl, issueTransfer_go hg hb hq rfl⟩

-- loops --------------------------------------------------------------------------------------------------------------------

/-- The start of a loop: its level, and the group after the body where it runs no time (R56). -/
theorem startLoop_issued (l count off : Nat) : ({ s.startLoop l count off with iss := .issued } : State) =
    { s.withCtx { s.ctx with loops := Tab.set Loop.zero s.ctx.loops l ⟨count, s.groupEnd, s.groupEnd + off, s.groupEnd, s.groupEnd + off⟩ } with
      skip := if count = 0 then some (s.groupEnd + off + 1) else s.skip } := by
  unfold State.startLoop
  dsimp only
  split <;> rfl

theorem loopVerdict_go {l off : Nat} (hs : s.ctx.hs = false) (hn : s.ctx.nestBad l s.woff (s.groupEnd + off) = false) :
    loopVerdict l off s = .go := by
  rw [loopVerdict, hs, hn]
  rfl

theorem loopVerdict_nest {l off : Nat} (hs : s.ctx.hs = false) (hn : s.ctx.nestBad l s.woff (s.groupEnd + off) = true) :
    loopVerdict l off s = flt 0x08 (w64 l) := by
  rw [loopVerdict, hs, hn]
  rfl

theorem loopVerdict_handler {l off : Nat} (hs : s.ctx.hs = true) : loopVerdict l off s = flt 0x63 0 := by
  rw [loopVerdict, hs]
  rfl

theorem exec_mtl (r : LoopReg) (l a : Nat) : exec (.mtl h r l a) s = execMtl h r l a s := rfl

/-- MTL whose checks pass (R167). -/
theorem exec_mtl_go {r : LoopReg} (l : Nat) {a : Nat} (hg : s.ctx.guard h = true) (hs : s.ctx.hs = false)
    (hv : r = .lc ∨ (s.ctx.reg a).toNat ≤ 32767) :
    exec (.mtl h r l a) s = .next (s.withCtx (s.ctx.setLoop r l (s.ctx.reg a).toNat)) := by
  have hin : (r != .lc && decide (32767 < (s.ctx.reg a).toNat)) = false := by
    obtain rfl | hv := hv
    · rfl
    · rw [decide_eq_false (Nat.not_lt.2 hv), Bool.and_false]
  rw [exec_mtl, execMtl]
  refine issue_go hg ?_
  dsimp only
  rw [hs, hin]
  rfl

/-- MTL of a bound past the instruction memory. -/
theorem exec_mtl_bound {r : LoopReg} (l : Nat) {a : Nat} (hg : s.ctx.guard h = true) (hs : s.ctx.hs = false)
    (hv : 32767 < (s.ctx.reg a).toNat) (hr : r ≠ .lc) : exec (.mtl h r l a) s = .next (s.trapped 0x02 (s.ctx.reg a)) := by
  rw [exec_mtl, execMtl]
  refine issue_flt hg ?_
  dsimp only
  rw [hs, bne_iff_ne.2 hr, decide_eq_true hv]
  rfl

/-- MTL in handler state (R336). -/
theorem exec_mtl_handler (r : LoopReg) (l a : Nat) (hg : s.ctx.guard h = true) (hs : s.ctx.hs = true) :
    exec (.mtl h r l a) s = .next (s.trapped 0x63 0) := by
  rw [exec_mtl, execMtl]
  refine issue_flt hg ?_
  dsimp only
  rw [hs]
  rfl

end

/-- Settles O7: transfers in and outside a delay group, and the loop registers. -/
theorem branchesAndHardwareLoops : Obligations.BranchesAndHardwareLoops := by
  refine ⟨fun s h d a off hg => ⟨fun hb hq => exec_branches d a off hg hb hq, fun i hi hd => exec_transfer_held d a off hd i hi⟩,
    fun s h l a n off d r hg => ?loops⟩
  refine ⟨fun hb hq hs hn => ?_, fun hb hq hs hn => ?_, fun hs => ?_, issueFly_go hg, fun hs => ?_⟩
  · exact ⟨(issueTransfer_go hg hb hq (loopVerdict_go hs hn)).trans (congrArg _ (startLoop_issued l _ off)),
      (issueTransfer_go hg hb hq (loopVerdict_go hs hn)).trans (congrArg _ (startLoop_issued l n off))⟩
  · exact ⟨issueTransfer_flt hg hb hq (loopVerdict_nest hs hn), issueTransfer_flt hg hb hq (loopVerdict_nest hs hn)⟩
  · exact ⟨exec_mtl_go l hg hs (.inl rfl), fun hv => ⟨exec_mtl_go l hg hs (.inr hv), exec_mtl_go l hg hs (.inr hv)⟩,
      exec_mtl_bound l hg hs⟩
  · exact ⟨exec_mtl_handler r l a hg hs, fun hb hq => ⟨issueTransfer_flt hg hb hq (loopVerdict_handler hs),
      issueTransfer_flt hg hb hq (loopVerdict_handler hs)⟩⟩

end Sys2Proof.Machine
end

section
/-! SUPPORT. Two changes of one berth in a row, and the end of a berth's ck and the answers that reach it (spec/03 R45, R49, spec/09
R130, R144, spec/11 R178, spec/23 R344). -/

namespace Sys2Proof.Machine
open Sys2Proof

-- writing a berth twice --------------------------------------------------------------------------------------------------

theorem Tab.erase_insert {α : Type} (t : Tab α) (i : Nat) (x : α) : Tab.erase (Tab.insert t i x) i = Tab.erase t i := by
  induction t with
  | nil => simp [Tab.insert, Tab.erase]
  | cons e t ih =>
    obtain ⟨k, v⟩ := e
    by_cases hk : i = k
    · simp [Tab.insert, Tab.erase, hk]
    · by_cases hlt : i < k <;> simp [Tab.insert, Tab.erase, hk, hlt, ih]

theorem Tab.insert_insert {α : Type} (t : Tab α) (i : Nat) (x y : α) : Tab.insert (Tab.insert t i x) i y = Tab.insert t i y := by
  induction t with
  | nil => simp [Tab.insert]
  | cons e t ih =>
    obtain ⟨k, v⟩ := e
    by_cases hk : i = k
    · simp [Tab.insert, hk]
    · by_cases hlt : i < k <;> simp [Tab.insert, hk, hlt, ih]

/-- Of two writes of a key the last one stands, where the first lists it. -/
theorem Tab.set_set {α : Type} [DecidableEq α] {z : α} (t : Tab α) (i : Nat) {x : α} (y : α) (hx : x ≠ z) :
    Tab.set z (Tab.set z t i x) i y = Tab.set z t i y := by
  rw [Tab.set.eq_1 z t i x, if_neg hx]
  unfold Tab.set
  split
  · exact Tab.erase_insert t i x
  · exact Tab.insert_insert t i x y

theorem setBerth_setBerth (s : State) (b : Nat) {x : Berth} (y : Berth) (hx : x ≠ Berth.idle) :
    (s.setBerth b x).setBerth b y = s.setBerth b y :=
  congrArg (fun l => { s with berths := l }) (Tab.set_set s.berths b y hx)

/-- Two changes of a context, the first of which leaves something in flight, are one. -/
theorem modCtxAt_modCtxAt (s : State) (b : Nat) {f g : Ctx → Ctx} (hf : (f (s.ctxAt b)).flights ≠ []) :
    (s.modCtxAt b f).modCtxAt b g = s.modCtxAt b fun c => g (f c) := by
  have hidle : { s.berth b with ctx := f (s.ctxAt b) } ≠ Berth.idle := fun h => hf (by
    have hc : f (s.ctxAt b) = Berth.idle.ctx := congrArg Berth.ctx h
    rw [hc]
    rfl)
  have hsecond : (s.modCtxAt b f).modCtxAt b g = (s.setBerth b { s.berth b with ctx := f (s.ctxAt b) }).setBerth b
      { s.berth b with ctx := g (f (s.ctxAt b)) } := by
    change (s.modCtxAt b f).setBerth b { (s.modCtxAt b f).berth b with ctx := g ((s.modCtxAt b f).berth b).ctx } = _
    rw [berth_modCtxAt_same]
    rfl
  rw [hsecond, setBerth_setBerth s b _ hidle]
  rfl

-- the end of a ck --------------------------------------------------------------------------------------------------------

theorem exec_heldOpRelease (s : State) : exec .heldOpRelease s = execHeldOpRelease s := rfl

/-- What the end of a ck leaves of a context: the counts of an unfrozen one, and no mark of the ck. -/
def Ctx.ended (c : Ctx) : Ctx := { (if c.open_ then c.tick else c) with open_ := false, landed := false, went := false }

/-- The end of a ck whose group asked for no persist: berth b's context, and its journal. -/
theorem exec_heldOpRelease_quiet {s : State} {b : Nat} (hb : s.subj.berth = b) (ha : s.agent = .release b)
    (hw : (s.berth b).shadow.want = false) : ∃ u, s.sameBut b u ∧ u.ctxAt b = (s.ctxAt b).ended ∧
      (u.berth b).shadow.entries = (s.berth b).shadow.entries + (if (s.ctxAt b).went && (s.berth b).placed then 1 else 0) ∧
      exec .heldOpRelease s = .next { u with agent := u.berthFrom (b + 1) } := by
  subst hb
  generalize hs1 : (if (s.ctxAt s.subj.berth).open_ then s.modCtxAt s.subj.berth Ctx.tick else s) = s1
  obtain ⟨hsame1, hown1⟩ : s.sameBut s.subj.berth s1 ∧ s1.berth s.subj.berth = { s.berth s.subj.berth with
      ctx := if (s.ctxAt s.subj.berth).open_ then (s.ctxAt s.subj.berth).tick else s.ctxAt s.subj.berth } := by
    rw [← hs1]
    split
    · exact ⟨sameBut_modCtxAt _ _ _, berth_modCtxAt_same _ _ _⟩
    · exact ⟨⟨rfl, fun _ _ => rfl⟩, rfl⟩
  generalize hs2 : (s1.modCtxAt s.subj.berth fun c => { c with open_ := false, landed := false, went := false }) = s2
  have hsame2 : s.sameBut s.subj.berth s2 := hs2 ▸ sameBut_trans hsame1 (sameBut_modCtxAt _ _ _)
  have hown2 : s2.berth s.subj.berth = { s.berth s.subj.berth with ctx := (s.ctxAt s.subj.berth).ended } := by
    rw [← hs2, berth_modCtxAt_same, State.ctxAt, hown1]
    rfl
  have hex : exec .heldOpRelease s = .next
      { (if (s.ctxAt s.subj.berth).went && (s2.berth s.subj.berth).placed then s2.journal s.subj.berth else s2) with
        agent := (if (s.ctxAt s.subj.berth).went && (s2.berth s.subj.berth).placed then s2.journal s.subj.berth else s2).berthFrom
          (s.subj.berth + 1) } := by
    rw [exec_heldOpRelease, execHeldOpRelease, if_neg (by simp [ha])]
    dsimp only
    rw [hs1, hs2, show (s2.berth s.subj.berth).shadow.want = false by rw [hown2, hw], if_neg Bool.false_ne_true]
  have hplaced : (s2.berth s.subj.berth).placed = (s.berth s.subj.berth).placed := by
    rw [hown2]
    rfl
  rw [hplaced] at hex
  refine ⟨_, ?_, ?_, ?_, hex⟩
  · split
    · exact sameBut_trans hsame2 (sameBut_setBerth _ _ _)
    · exact hsame2
  · split
    · rw [State.ctxAt, State.journal, berth_modBerth, if_pos rfl, hown2]
    · rw [State.ctxAt, hown2]
  · split
    · rw [State.journal, berth_modBerth, if_pos rfl, hown2]
    · rw [hown2]
      rfl

-- answers ------------------------------------------------------------------------------------------------------------------

theorem exec_remoteLoadReturn (s : State) : exec .remoteLoadReturn s = execRemoteLoadReturn s := rfl

/-- What a load's flight holds once its word has come back. -/
theorem returned_word {o : Op} {v : W64} (hs : o.stage = .replied [v]) (d : Nat) (m3 : Bool) :
    Flight.returned o ⟨0, .rload o.id (.sreg d) none, m3⟩ = ⟨0, .rload o.id (.sreg d) (some (leBytes 8 v.toNat)), m3⟩ := by
  simp [Flight.returned, hs]

theorem landLoad_word (c : Ctx) (d : Nat) (v : W64) : c.landLoad (.sreg d) (leBytes 8 v.toNat) = c.setReg d v := by
  rw [Ctx.landLoad, leValue_leBytes, Nat.mod_eq_of_lt v.isLt, w64, BitVec.ofNat_toNat, BitVec.setWidth_eq]

theorem flights_setReg (c : Ctx) (d : Nat) (v : W64) : (c.setReg d v).flights = c.flights := by
  unfold Ctx.setReg
  split <;> rfl

/-- The word's landing neither reads nor writes the flights, and drops the operation once. -/
theorem dropOp_setReg_dropOp (c : Ctx) (fl : List Flight) (id d : Nat) (v : W64) :
    { ((({ c with flights := fl } : Ctx).dropOp id).setReg d v).dropOp id with flights := [] } =
      { (c.setReg d v).dropOp id with flights := [] } := by
  unfold Ctx.setReg
  split <;> simp [Ctx.dropOp]

/-- The context of a load that has come back whole, before what waits behind it lands. -/
def Ctx.loadReturned (o : Op) (c : Ctx) : Ctx := ({ c with flights := c.flights.map (Flight.returned o) } : Ctx).dropOp o.id

theorem exec_remoteLoadReturn_lands {s u : State} {o : Op} {w addr n : Nat} {ws : List W64} (ho : (s.ctxAt s.subj.berth).op s.subj.op = some o)
    (hk : o.kind = .rload w addr n) (hs : o.stage = .replied ws)
    (hu : (s.modCtxAt s.subj.berth (Ctx.loadReturned o)).landDue s.subj.berth []
      ((s.modCtxAt s.subj.berth (Ctx.loadReturned o)).ctxAt s.subj.berth).flights = (u, none)) : exec .remoteLoadReturn s = .next u := by
  have hfun : (fun c : Ctx => ({ c with flights := c.flights.map (Flight.returned o) } : Ctx).dropOp o.id) = Ctx.loadReturned o := rfl
  rw [exec_remoteLoadReturn, execRemoteLoadReturn]
  simp only [ho, hk, hs, if_true, hfun, hu]

/-- A remote load of one word has come back: it lands, and its operation is over (R49). -/
theorem exec_remoteLoadReturn_word {s : State} {b : Nat} {o : Op} {w addr n d : Nat} {v : W64} {m3 : Bool} (hb : s.subj.berth = b)
    (ho : (s.ctxAt b).op s.subj.op = some o) (hk : o.kind = .rload w addr n) (hs : o.stage = .replied [v])
    (hf : (s.ctxAt b).flights = [⟨0, .rload o.id (.sreg d) none, m3⟩]) : exec .remoteLoadReturn s =
      .next (s.modCtxAt b fun c => { (c.setReg d v).dropOp o.id with flights := [] }) := by
  subst hb
  have hfl : ((s.ctxAt s.subj.berth).loadReturned o).flights = [⟨0, .rload o.id (.sreg d) (some (leBytes 8 v.toNat)), m3⟩] := by
    rw [Ctx.loadReturned, Ctx.dropOp, hf, List.map_singleton, returned_word hs]
  have hland : ∀ u : State, u.landEff s.subj.berth (.rload o.id (.sreg d) (some (leBytes 8 v.toNat))) =
      u.modCtxAt s.subj.berth fun c => (c.setReg d v).dropOp o.id := fun u => by
    simp only [State.landEff, Option.getD_some, landLoad_word]
  refine exec_remoteLoadReturn_lands ho hk hs ?_
  rw [ctxAt_modCtxAt, if_pos rfl, hfl, landDue_due _ _ (f := ⟨0, .rload o.id (.sreg d) (some (leBytes 8 v.toNat)), m3⟩) rfl trivial,
    State.landDue, hland, modCtxAt_modCtxAt (hf := by simp [Ctx.dropOp, flights_setReg, hfl]), modCtxAt_modCtxAt (hf := by simp [hfl])]
  exact congrArg (·, none) (modCtxAt_congr (dropOp_setReg_dropOp (s.ctxAt s.subj.berth) _ o.id d v))

end Sys2Proof.Machine
end

section
/-! PROOF. The elements of a stream, the answer to MBOXREG, and the statement of the end of a ck (spec/09 R130, spec/11 R178). -/

namespace Sys2Proof.Machine
open Sys2Proof

-- streams ------------------------------------------------------------------------------------------------------------------

theorem exec_streamElementArrive (b k : Nat) (s : State) : exec (.streamElementArrive b k) s = execStreamElementArrive b k s := rfl

/-- A full stream takes no element. -/
theorem exec_streamElementArrive_full {s : State} {b k : Nat} (h : ((s.ctxAt b).stream k).arrived.length = 16) :
    exec (.streamElementArrive b k) s = .next s := by
  rw [exec_streamElementArrive, execStreamElementArrive]
  dsimp only
  cases ((s.ctxAt b).stream k).items with
  | nil => rfl
  | cons i l =>
    dsimp only
    cases i.elems with
    | nil => rfl
    | cons e es => exact if_pos (.inl (Nat.le_of_eq h.symm))

/-- A stream with its next element, and the operation over where it was the last. -/
def Ctx.takeElem (k : Nat) (i : SItem) (l : List SItem) (e : List Byte) (es : List (List Byte)) (c : Ctx) : Ctx :=
  let c := c.modStream k fun t => { t with arrived := t.arrived ++ [e], items := trimItems ({ i with elems := es } :: l) }
  if es.isEmpty ∧ i.done then c.dropOp i.op else c

/-- The next element of a stream's first operation arrives (R130). -/
theorem exec_streamElementArrive_next {s : State} {b k : Nat} {i : SItem} {e : List Byte} {es : List (List Byte)} {l : List SItem}
    (hi : ((s.ctxAt b).stream k).items = i :: l) (he : i.elems = e :: es) (hf : i.fail = none)
    (hn : ((s.ctxAt b).stream k).arrived.length < 16) :
    exec (.streamElementArrive b k) s = .next (s.modCtxAt b (Ctx.takeElem k i l e es)) := by
  rw [exec_streamElementArrive, execStreamElementArrive]
  have hroom : ¬(16 ≤ ((s.ctxAt b).stream k).arrived.length ∨ i.fail.isSome = true) := by
    rw [hf]
    simpa using hn
  dsimp only
  rw [hi]
  dsimp only
  rw [he]
  exact if_neg hroom

theorem stream_takeElem (k : Nat) (i : SItem) (l : List SItem) (e : List Byte) (es : List (List Byte)) (c : Ctx) (j : Nat) :
    (c.takeElem k i l e es).stream j = if j = k then
      { c.stream k with arrived := (c.stream k).arrived ++ [e], items := trimItems ({ i with elems := es } :: l) } else c.stream j := by
  have hget : (c.takeElem k i l e es).stream j = (c.modStream k fun t =>
      { t with arrived := t.arrived ++ [e], items := trimItems ({ i with elems := es } :: l) }).stream j := by
    unfold Ctx.takeElem
    dsimp only
    split <;> rfl
  rw [hget, Ctx.stream, Ctx.modStream, Tab.get_upd]
  rfl

theorem ops_takeElem (k : Nat) (i : SItem) (l : List SItem) (e : List Byte) (es : List (List Byte)) (c : Ctx) :
    (c.takeElem k i l e es).ops = if es = [] ∧ i.done = true then c.ops.filter (fun o => o.id != i.op) else c.ops := by
  unfold Ctx.takeElem
  simp only [List.isEmpty_iff]
  split <;> rfl

-- mailboxes ----------------------------------------------------------------------------------------------------------------

theorem exec_mboxregAnswer (s : State) : exec .mboxregAnswer s = execMboxregAnswer s := rfl

/-- No mailbox has the number that is given out. -/
theorem freeMbox_unused {s : State} (h : s.freeMbox ≠ 0) : ∀ m ∈ s.mboxes, m.id ≠ s.freeMbox := by
  intro m hm he
  unfold State.freeMbox at h he
  dsimp only at h he
  split at h
  · exact h rfl
  · rename_i hroom
    rw [if_neg hroom] at he
    cases hfind : List.find? _ _ with
    | none => exact h (by rw [hfind]; rfl)
    | some i =>
      rw [hfind] at he
      have hunused := List.find?_some hfind
      simp only [Bool.not_eq_true', Bool.or_eq_false_iff, List.any_eq_false] at hunused
      exact hunused.1 m hm (by simpa using he)

/-- There is none to give out where the device holds 4,096. -/
theorem freeMbox_full {s : State} (h : 4096 ≤ s.mboxes.length) : s.freeMbox = 0 := if_pos h

/-- A mailbox that the own job has not asked for before: the answer, and the mailbox where a number was left (R178). -/
theorem exec_mboxregAnswer_fresh {s : State} {b base n lg : Nat} {loc : Bool} (hb : s.subj.berth = b)
    (hq : (s.ctxAt b).mboxReq = some (base, n, lg, loc)) (ha : (s.ctxAt b).mboxAns = none) (hp : (s.berth b).persistBusy = false)
    (hold : ∀ m ∈ s.mboxes, ¬(m.job = s.jobAt b ∧ m.local_ = (if loc then some (s.ctxAt b).self else none) ∧ m.base = base ∧ m.n = n ∧
      m.log2s = lg)) :
    exec .mboxregAnswer s = .next (State.modCtxAt { s with mboxes := if s.freeMbox = 0 then s.mboxes else
      s.mboxes ++ [⟨s.freeMbox, s.jobAt b, base, n, lg, if loc then some (s.ctxAt b).self else none, [], none⟩] } b
        fun c => { c with mboxAns := some (w64 s.freeMbox) }) := by
  subst hb
  have hfind : (s.mboxes.find? fun m => m.job == s.jobAt s.subj.berth &&
      m.local_ == (if loc then some (s.ctxAt s.subj.berth).self else none) && m.base == base && m.n == n && m.log2s == lg) = none := by
    rw [List.find?_eq_none]
    intro m hm h
    simp only [Bool.and_eq_true, beq_iff_eq, and_assoc] at h
    exact hold m hm h
  rw [exec_mboxregAnswer, execMboxregAnswer]
  simp only [hq, ha, hp, hfind, Option.isSome_some, Option.isNone_none, Option.isSome_none, Bool.and_self, if_true,
    Bool.false_eq_true, if_false, or_false]
  by_cases h0 : s.freeMbox = 0
  · simp [h0]
  · simp [h0]

/-- The fields of a context that the end of a ck leaves, and its counts. -/
theorem ended_fields (c : Ctx) : c.ended.sregs = c.sregs ∧ c.ended.spad = c.spad ∧ c.ended.pc = c.pc ∧ c.ended.flights = c.flights ∧
    (c.open_ = false → c.ended.ops = c.ops ∧ c.ended.fences = c.fences ∧ c.ended.uck = c.uck) ∧
    (c.open_ = true → c.ended.ops = c.tick.ops ∧ c.ended.fences = c.tick.fences) := by
  cases h : c.open_
  · refine ⟨?_, ?_, ?_, ?_, fun _ => ?_, nofun⟩ <;> simp [Ctx.ended, h]
  · refine ⟨?_, ?_, ?_, ?_, nofun, fun _ => ?_⟩ <;> simp [Ctx.ended, h] <;> rfl

/-- Settles O31: the end of a ck by what it leaves of the context, and the answers one by one. -/
theorem endOfTheCkAndAnswers : Obligations.EndOfTheCkAndAnswers := by
  refine ⟨fun s b hb ha hw => ?release, fun s b hb => ⟨fun o w addr n d v m3 ho hk hs hf => ?load,
    fun k i e es l hi he hf hn => ?element, fun k => exec_streamElementArrive_full, fun base n lg loc hq ha hp hold => ?mailbox⟩⟩
  case release =>
    obtain ⟨u, ⟨hframe, hother⟩, hctx, hent, hex⟩ := exec_heldOpRelease_quiet hb ha hw
    obtain ⟨hsregs, hspad, hpc, hfl, hidle, hcount⟩ := ended_fields (s.ctxAt b)
    have hown : ({ u with agent := u.berthFrom (b + 1) } : State).ctxAt b = (s.ctxAt b).ended := hctx
    refine ⟨_, hex, ?_, hother, ?_⟩
    · rw [hframe]
      rfl
    · rw [hown]
      exact ⟨rfl, rfl, rfl, hsregs, hspad, hpc, hfl, hidle, fun h => hcount h, hent⟩
  case load => exact exec_remoteLoadReturn_word hb ho hk hs hf
  case element =>
    refine ⟨_, exec_streamElementArrive_next hi he hf hn, ?_⟩
    rw [ctxAt_modCtxAt, if_pos rfl, stream_takeElem, if_pos rfl]
    exact ⟨rfl, rfl, fun j hj => by rw [stream_takeElem, if_neg hj]; rfl, ops_takeElem k i l e es _⟩
  case mailbox =>
    refine ⟨_, exec_mboxregAnswer_fresh hb hq ha hp hold, ?_, rfl, freeMbox_unused, freeMbox_full, ?_⟩
    · rw [ctxAt_modCtxAt, if_pos rfl]
    · exact (sameBut_modCtxAt _ b _).2

end Sys2Proof.Machine
end

section
/-! PROOF. The vertical bus (spec/03 R65) and planned power gates (spec/23 R349, spec/25 R382). -/

namespace Sys2Proof.Machine
open Sys2Proof

-- the vertical bus ---------------------------------------------------------------------------------------------------------

theorem exec_vbusCrcFailure (b group wire : Nat) (s : State) :
    exec (.vbusCrcFailure b group wire) s = execVbusCrcFailure b group wire s := rfl

section
variable {s : State} {b : Nat} (group wire : Nat)

theorem exec_vbusCrcFailure_retired (h : (s.berth b).retired = true) : exec (.vbusCrcFailure b group wire) s = .next s := by
  rw [exec_vbusCrcFailure, execVbusCrcFailure]
  exact if_pos h

/-- A berth whose spare has taken a wire's place and which replays the burst (R65). -/
def Berth.spared (x : Berth) (group wire : Nat) : Berth :=
  { x with spares := x.spares ++ [(group, wire)], replay := some (x.replay.getD 0 + 6) }

/-- The first failure of a wire group. -/
theorem exec_vbusCrcFailure_first (hr : (s.berth b).retired = false) (hs : ∀ p ∈ (s.berth b).spares, p.1 ≠ group) :
    ∃ job d, exec (.vbusCrcFailure b group wire) s =
      .next ((s.setBerth b ((s.berth b).spared group wire)).event (srcBerth b) evVbusSpare job d) := by
  have hnone : (s.berth b).spares.any (fun w => w.1 == group) = false := by simpa using hs
  rw [exec_vbusCrcFailure, execVbusCrcFailure]
  dsimp only
  rw [hr, hnone]
  exact ⟨_, _, rfl⟩

/-- A team that is not on the device has no pre-emption to end. -/
theorem preemptCheck_noTeam {t : Nat} (h : s.man t = none) : s.preemptCheck t = s := by
  rw [State.preemptCheck, h]

/-- A berth that holds nothing, and whose berth-thread's team is not on the device, is retired, and nothing else changes but the log. -/
theorem failBerth_idle (code : Nat) (d : W64) (hr : (s.berth b).retired = false) (hst : (s.berth b).st = .idle)
    (hm : s.man (s.berth b).ctx.team = none) : ∃ job, s.failBerth b code d =
      (s.event (srcBerth b) evBerthRetired job d).modBerth b fun y => { y.free with retired := true } := by
  have hplaced : (s.berth b).placed = false := by rw [Berth.placed, hst]
  rw [State.failBerth]
  dsimp only
  rw [hr, hplaced]
  refine ⟨none, ?_⟩
  simp only [hst, Bool.false_and, Bool.false_eq_true, if_false]
  generalize hu : (s.event (srcBerth b) evBerthRetired none d).modBerth b _ = u
  have hman : u.man (s.berth b).ctx.team = none := by
    rw [← hu]
    exact (man_event s _ _ _ _ _).trans hm
  cases u.placing b with
  | none => exact preemptCheck_noTeam hman
  | some m => exact preemptCheck_noTeam hman

/-- A second failure of a wire group, in a berth that holds nothing. -/
theorem exec_vbusCrcFailure_second (hr : (s.berth b).retired = false) (hs : ∃ w, (group, w) ∈ (s.berth b).spares) :
    ∃ d, exec (.vbusCrcFailure b group wire) s = .next (s.failBerth b fcMachVbus d) := by
  obtain ⟨w, hw⟩ := hs
  have hany : (s.berth b).spares.any (fun w => w.1 == group) = true := List.any_eq_true.2 ⟨_, hw, beq_self_eq_true group⟩
  rw [exec_vbusCrcFailure, execVbusCrcFailure]
  dsimp only
  rw [hr, hany]
  exact ⟨_, rfl⟩

end

-- planned power gates ------------------------------------------------------------------------------------------------------

/-- A gated berth issues nothing: its ck goes on at the landings. -/
theorem exec_groupIssue_gated {s : State} {b : Nat} (hb : s.subj.berth = b) (ha : s.agent = .issue b) (hst : (s.berth b).st = .gated) :
    exec .groupIssue s = .next { s with agent := .land b, cur := b, woff := 0, skip := none } := by
  subst hb
  have hstands : (s.berth s.subj.berth).st ≠ .run := by rw [hst]; decide
  exact (if_neg (not_not_intro ha)).trans (if_pos (.inl hstands))

/-- The boundary of a berth that is to be gated. -/
theorem boundary_gates {s : State} (hpend : (s.berth s.cur).ctx.pending = none)
    (hteam : (s.teamOf (s.berth s.cur).ctx).map Man.ended = some false) (hdbg : bt (s.berth s.cur).dbgctl 63 = false)
    (hstep : (s.berth s.cur).stepping = none) (hbps : (s.berth s.cur).bps = []) (hpre : (s.berth s.cur).preempt = false)
    (hgate : (s.berth s.cur).gate = true) : s.boundary = .next (((s.modBerth s.cur fun x => { x with
      st := .gated, gate := false, ctx := { x.ctx.abandonLoads with persisting := false, persisted := false } }).beginPersist s.cur).toLand) := by
  have hbreaks : (s.berth s.cur).breaks = false := by simp [Berth.breaks, hbps]
  have hdone : (s.berth s.cur).stepDone = false := by simp [Berth.stepDone, hstep]
  rw [State.boundary]
  simp [hpend, hteam, hdbg, hpre, hgate, hbreaks, hdone]

/-- What a persist saves of a berth reads its context, the count of its journal's entries, and the berths of its followers. -/
theorem saved_setBerth {s : State} {b : Nat} {x y : Berth} (hctx : x.ctx = y.ctx) (hent : x.shadow.entries = y.shadow.entries) :
    (s.setBerth b x).saved b = (s.setBerth b y).saved b := by
  have hberth : ∀ k, k ≠ b → (s.setBerth b x).berth k = (s.setBerth b y).berth k := fun k hk => by
    rw [berth_setBerth, berth_setBerth, if_neg hk, if_neg hk]
  have hown : ∀ z, (s.setBerth b z).berth b = z := fun z => by rw [berth_setBerth, if_pos rfl]
  have hat : ∀ k, (s.setBerth b x).ctxAt k = (s.setBerth b y).ctxAt k := fun k => by
    by_cases hk : k = b
    · rw [State.ctxAt, State.ctxAt, hk, hown, hown, hctx]
    · rw [State.ctxAt, State.ctxAt, hberth k hk]
  have hfollow : (s.setBerth b x).followers b = (s.setBerth b y).followers b := by
    unfold State.followers
    refine List.filter_congr fun m _ => ?_
    by_cases hm : m = b
    · simp [hm]
    · simp only [hberth m hm, hat b]
  rw [State.saved, State.saved, hfollow, hat b, hown, hown, hent]
  exact congrArg (fun l => (⟨_, l, _⟩ : Saved)) (List.map_congr_left fun m _ => by rw [hat m])

/-- A berth that has been gated: its snapshot is queued to be persisted. -/
theorem gated_beginPersist (s : State) (b : Nat) (held : Ctx) :
    (s.setBerth b { s.berth b with st := .gated, gate := false, ctx := held }).beginPersist b = s.setBerth b { s.berth b with
      st := .gated, gate := false, ctx := held,
      shadow := { (s.berth b).shadow with queue := (s.berth b).shadow.queue ++ [(s.modCtxAt b fun _ => held).saved b] } } := by
  have hsaved : (s.setBerth b { s.berth b with st := .gated, gate := false, ctx := held }).saved b = (s.modCtxAt b fun _ => held).saved b :=
    saved_setBerth rfl rfl
  have hne : { s.berth b with st := .gated, gate := false, ctx := held } ≠ Berth.idle :=
    fun h => BerthSt.noConfusion (congrArg Berth.st h)
  rw [State.beginPersist, hsaved]
  change (s.setBerth b { s.berth b with st := .gated, gate := false, ctx := held }).setBerth b _ = _
  rw [berth_setBerth, if_pos rfl]
  exact setBerth_setBerth s b _ hne

/-- Settles O32: the wires' failures one after the other, and a gate from its request to its end. -/
theorem verticalBusAndPlannedGates : Obligations.VerticalBusAndPlannedGates := by
  refine ⟨fun s b group wire hb => ⟨fun h => ?_, fun h => ?_, fun hr hs => ?first, fun hr hs hst hm => ?second,
    exec_vbusCrcFailure_retired group wire⟩, fun s b hb => ⟨fun hst hp hen hdel hform => ?_, fun hlt => ?_, fun hen => ?_,
    fun ha hst ht hp hpend hteam hdbg hstep hbps hpre hgate => ?gates, exec_groupIssue_gated hb, fun hst hp hstill => ?_, fun hp => ?_⟩⟩
  · subst hb
    exact if_pos h
  · subst hb
    exact if_neg h
  case first =>
    obtain ⟨job, d, hex⟩ := exec_vbusCrcFailure_first group wire hr hs
    refine ⟨_, hex, ?_, fun k hk => ?_, ?_, ?_, ?_, ?_⟩
    · rw [berth_event, berth_setBerth, if_pos rfl]
      rfl
    · rw [berth_event, berth_setBerth, if_neg hk]
    · rw [hbm_event]
      rfl
    · rw [regions_event]
      rfl
    · rw [mans_event]
      rfl
    · rw [evSeq_event, if_pos rfl]
      rfl
  case second =>
    obtain ⟨d, hex⟩ := exec_vbusCrcFailure_second group wire hr hs
    obtain ⟨job, hfail⟩ := failBerth_idle fcMachVbus d hr hst hm
    rw [hfail] at hex
    refine ⟨_, hex, ?_, fun k hk => ?_, ?_⟩
    · rw [berth_modBerth, if_pos rfl, berth_event]
    · rw [berth_modBerth, if_neg hk, berth_event]
    · exact regions_event s _ _ _ _
  · subst hb
    exact if_pos ⟨hst, hp, hen, hdel, hform⟩
  · subst hb
    have hunit : 1 ≤ Nat.max 1 (bf s.pwrctl 32 16) := Nat.le_max_left _ _
    exact if_neg fun ⟨_, _, _, hdel, _⟩ => absurd hdel (by omega)
  · subst hb
    exact if_neg fun ⟨_, _, hon, _, _⟩ => Bool.false_ne_true (hen.symm.trans hon)
  case gates =>
    rw [exec_groupIssue_running hb ha hst ht hp,
      boundary_gates (s := { s with cur := b }) hpend hteam hdbg hstep hbps hpre hgate]
    exact congrArg (fun u : State => Host.Outcome.next u.toLand) (gated_beginPersist { s with cur := b } b
      { (s.berth b).ctx.abandonLoads with persisting := false, persisted := false })
  · subst hb
    have hbusy : (!(s.berth s.subj.berth).persistBusy) = true := by rw [hp]; rfl
    have hfree : (!s.stillHeld s.subj.berth) = true := by rw [hstill]; rfl
    exact if_pos ⟨hst, hbusy, .inr (.inr (.inr hfree))⟩
  · subst hb
    have hbusy : ¬(!(s.berth s.subj.berth).persistBusy) = true := by rw [hp]; decide
    exact if_neg fun ⟨_, hnot, _⟩ => hbusy hnot

end Sys2Proof.Machine
end

section
/-! SUPPORT. A field of a word gives back what was put there, and a code its name (spec/05 R67, R70, R73, R95, R105). -/

namespace Sys2Proof

@[simp] theorem tst_bit (b : Bool) : tst (bit b) = b := by cases b <;> rfl
@[simp] theorem bit_false : bit false = 0 := rfl
@[simp] theorem tst_zero : tst 0 = false := rfl
theorem bit_lt (b : Bool) : bit b < 2 := by cases b <;> decide

-- each small enumeration: its codes fit their field, and each gives back its value

theorem Width.code_lt (w : Width) : w.code < 4 := by cases w <;> decide
@[simp] theorem Width.ofCode_code (w : Width) : Width.ofCode w.code = w := by cases w <;> rfl
theorem Dir.code_lt (dir : Dir) : dir.code < 4 := by cases dir <;> decide
@[simp] theorem Dir.ofCode_code (dir : Dir) : Dir.ofCode dir.code = dir := by cases dir <;> rfl
theorem RM.code_lt (rm : RM) : rm.code < 5 := by cases rm <;> decide
@[simp] theorem RM.ofCode?_code (rm : RM) : RM.ofCode? rm.code = some rm := by cases rm <;> rfl
theorem Fmt.code_lt (t : Fmt) : t.code < 9 := by cases t <;> decide
@[simp] theorem Fmt.ofCode?_code (t : Fmt) : Fmt.ofCode? t.code = some t := by cases t <;> rfl
theorem LoopReg.code_lt (r : LoopReg) : r.code < 3 := by cases r <;> decide
@[simp] theorem LoopReg.ofCode?_code (r : LoopReg) : LoopReg.ofCode? r.code = some r := by cases r <;> rfl
theorem CmpType.code_lt (t : CmpType) : t.code < 4 := by cases t <;> decide
@[simp] theorem CmpType.ofCode_code (t : CmpType) : CmpType.ofCode t.code = t := by cases t <;> rfl
theorem VCond.code_lt (c : VCond) : c.code < 7 := by cases c <;> decide
@[simp] theorem VCond.ofCode?_code (c : VCond) : VCond.ofCode? c.code = some c := by cases c <;> rfl
theorem KeyType.code_lt (t : KeyType) : t.code < 3 := by cases t <;> decide
@[simp] theorem KeyType.ofCode?_code (t : KeyType) : KeyType.ofCode? t.code = some t := by cases t <;> rfl
theorem RedKind.code_lt (k : RedKind) : k.code < 8 := by cases k <;> decide
@[simp] theorem RedKind.ofCode_code (k : RedKind) : RedKind.ofCode k.code = k := by cases k <;> rfl
theorem AtomOp.code_lt (o : AtomOp) : o.code < 14 := by cases o <;> decide
@[simp] theorem AtomOp.ofCode?_code (o : AtomOp) : AtomOp.ofCode? o.code = some o := by cases o <;> rfl
theorem Gang.code_lt (g : Gang) : g.code < 3 := by cases g <;> decide
@[simp] theorem Gang.ofCode?_code (g : Gang) : Gang.ofCode? g.code = some g := by cases g <;> rfl
theorem CopyQ.code_lt (q : CopyQ) : q.code < 5 := by cases q <;> decide
@[simp] theorem CopyQ.ofCode?_code (q : CopyQ) : CopyQ.ofCode? q.code = some q := by cases q <;> rfl
theorem SCond.code_lt (c : SCond) : c.code < 3 := by cases c <;> decide
@[simp] theorem SCond.ofCode?_code (c : SCond) : SCond.ofCode? c.code = some c := by cases c <;> rfl

/-- A form without stochastic rounding reads every other mode. -/
theorem RM.det?_code {rm : RM} (h : rm ≠ .sr) : RM.det? rm.code = some rm := by
  have hlt : rm.code < 4 := by cases rm <;> simp_all [RM.code]
  rw [RM.det?, if_pos hlt, RM.ofCode?_code]

-- matrix-register names (R73)

theorem MName.code_lt {m : MName} (h : m.wf = true) : m.code < 2048 := by
  have hd := m.dir.code_lt
  simp only [MName.wf, Bool.and_eq_true, decide_eq_true_eq] at h
  simp only [MName.code]
  omega

theorem MName.ofCode_code {m : MName} (h : m.wf = true) : MName.ofCode m.code = m := by
  have hd := m.dir.code_lt
  simp only [MName.wf, Bool.and_eq_true, decide_eq_true_eq] at h
  obtain ⟨hplane, hdir, hidx⟩ : fld m.code 9 2 = m.plane ∧ fld m.code 7 2 = m.dir.code ∧ fld m.code 0 7 = m.idx := by
    simp only [fld, MName.code]
    omega
  rw [MName.ofCode, hplane, hdir, hidx, Dir.ofCode_code]

-- what the decoder answers

@[simp] theorem dec_true_true (i : Instr) : dec true true i = .ok i := rfl
@[simp] theorem decQ_some {α : Type} (a : α) (k : α → Dec) : decQ (some a) k = k a := rfl

/-- The widths of a floating-point form are those that its decoders accept: 32 bits without the H bit, or 16. -/
theorem fwOk_iff (w : Width) (f16 : Bool) : fwOk w f16 = ((w == .w32 || w == .w16) && !(f16 && w == .w32)) := by
  cases w <;> cases f16 <;> rfl

end Sys2Proof
end

section
/-! SUPPORT. The operand formats and the berth word: packing and reading are inverse (spec/05 R67, R68, R70, R71). -/

namespace Sys2Proof

theorem Raw.ofWord_word {r : Raw} (hop : r.op < 128) (hgr : r.gr < 64) (hgb : r.gb < 64) (hopd : r.opd < 2 ^ 43) :
    Raw.ofWord r.word = r ∧ r.word < 2 ^ 64 := by
  have hs := bit_lt r.stop
  have he := bit_lt r.e
  obtain ⟨hstop, hel⟩ : fld r.word 63 1 = bit r.stop ∧ fld r.word 55 1 = bit r.e := by
    simp only [fld, Raw.word]
    omega
  obtain ⟨hop', hgr', hgb', hopd', hlt⟩ : fld r.word 56 7 = r.op ∧ fld r.word 49 6 = r.gr ∧ fld r.word 43 6 = r.gb ∧
      fld r.word 0 43 = r.opd ∧ r.word < 2 ^ 64 := by
    simp only [fld, Raw.word]
    omega
  exact ⟨by rw [Raw.ofWord, hstop, hel, hop', hgr', hgb', hopd', tst_bit, tst_bit], hlt⟩

theorem SS.ofBits_bits {f : SS} (hf : f.d < 64 ∧ f.a < 64 ∧ f.b < 64 ∧ f.fn < 256 ∧ f.z < 2 ^ 17) :
    SS.ofBits f.bits = f ∧ f.bits < 2 ^ 43 := by
  obtain ⟨d, a, b, fn, z⟩ := f
  simp only [SS.ofBits, SS.bits, SS.mk.injEq, fld] at *
  omega

theorem SI.ofBits_bits {f : SI} (hf : f.d < 64 ∧ f.a < 64 ∧ f.imm < 2 ^ 31) : SI.ofBits f.bits = f ∧ f.bits < 2 ^ 43 := by
  obtain ⟨d, a, imm⟩ := f
  simp only [SI.ofBits, SI.bits, SI.mk.injEq, fld] at *
  omega

theorem BRf.ofBits_bits {f : BRf} (hf : f.d < 64 ∧ f.off < 2 ^ 37) : BRf.ofBits f.bits = f ∧ f.bits < 2 ^ 43 := by
  obtain ⟨d, off⟩ := f
  simp only [BRf.ofBits, BRf.bits, BRf.mk.injEq, fld] at *
  omega

theorem LP.ofBits_bits {f : LP} (hf : f.l < 4 ∧ f.c < 64 ∧ f.n < 2 ^ 20 ∧ f.off < 2 ^ 15) :
    LP.ofBits f.bits = f ∧ f.bits < 2 ^ 43 := by
  obtain ⟨l, c, n, off⟩ := f
  simp only [LP.ofBits, LP.bits, LP.mk.injEq, fld] at *
  omega

theorem VV.ofBits_bits {f : VV} (hf : f.d < 2048 ∧ f.a < 2048 ∧ f.b < 2048 ∧ f.sub < 32 ∧ f.w < 4 ∧ f.k < 8) :
    VV.ofBits f.bits = f ∧ f.bits < 2 ^ 43 := by
  obtain ⟨d, a, b, sub, w, k⟩ := f
  simp only [VV.ofBits, VV.bits, VV.mk.injEq, fld] at *
  omega

theorem VS.ofBits_bits {f : VS} (hf : f.m < 2048 ∧ f.s < 64 ∧ f.sub < 32 ∧ f.imm < 2 ^ 21) :
    VS.ofBits f.bits = f ∧ f.bits < 2 ^ 43 := by
  obtain ⟨m, s, sub, imm⟩ := f
  simp only [VS.ofBits, VS.bits, VS.mk.injEq, fld] at *
  omega

theorem LC.ofBits_bits {f : LC} (hf : f.g < 64 ∧ f.l < 64 ∧ f.n < 64 ∧ f.x < 32 ∧ f.q < 8 ∧ f.sub < 128 ∧ f.z < 1024) :
    LC.ofBits f.bits = f ∧ f.bits < 2 ^ 43 := by
  obtain ⟨g, l, n, x, q, sub, z⟩ := f
  simp only [LC.ofBits, LC.bits, LC.mk.injEq, fld] at *
  omega

theorem MX.ofBits_bits {f : MX}
    (hf : f.c < 4 ∧ f.qa < 16 ∧ f.qb < 16 ∧ f.m < 64 ∧ f.gang < 8 ∧ f.fn < 256 ∧ f.z < 2 ^ 16) :
    MX.ofBits f.bits = f ∧ f.bits < 2 ^ 43 := by
  obtain ⟨c, qa, qb, m, gang, fn, z⟩ := f
  simp only [MX.ofBits, MX.bits, MX.mk.injEq, fld] at *
  omega

theorem SY.ofBits_bits {f : SY} (hf : f.d < 64 ∧ f.a < 64 ∧ f.num < 4096 ∧ f.fn < 256 ∧ f.z < 2 ^ 11) :
    SY.ofBits f.bits = f ∧ f.bits < 2 ^ 43 := by
  obtain ⟨d, a, num, fn, z⟩ := f
  simp only [SY.ofBits, SY.bits, SY.mk.injEq, fld] at *
  omega

-- a berth word that decodes to the instruction it encodes --------------------------------------------------------------

/-- The instruction has a word of 64 bits, and the word decodes to it. -/
def RoundTrips (i : Instr) : Prop := ∃ w, encodeBerth i = some w ∧ w < 2 ^ 64 ∧ decodeBerth w = .ok i

/-- A guard that the scanner accepts is not refused for what it leaves on s0 (R68). -/
theorem Hd.wf_guard {h : Hd} (hh : h.wf = true) : h.gr < 64 ∧ h.gb < 64 ∧ (h.gr == 0 && (h.e || h.gb != 0)) = false := by
  simp only [Hd.wf, Bool.and_eq_true, Bool.or_eq_true, decide_eq_true_eq, bne_iff_ne, Bool.not_eq_true', beq_iff_eq] at hh
  obtain ⟨⟨hgr, hgb⟩, hne | ⟨he, hb⟩⟩ := hh
  · exact ⟨hgr, hgb, by simp [hne]⟩
  · exact ⟨hgr, hgb, by simp [he, hb]⟩

section
variable {i : Instr} {h : Hd} {op : Nat} (hop : op < 128) (hh : h.wf = true)
include hop hh

/-- A word from a head and operands, whose form its decoder accepts. -/
theorem roundTrips_of_operands {opd : Nat} (he : encodeBerth i = some (Raw.mk' h op opd)) (hopd : opd < 2 ^ 43)
    (hdec : decForm op h opd = .ok i) : RoundTrips i := by
  obtain ⟨hgr, hgb, hguard⟩ := Hd.wf_guard hh
  obtain ⟨hraw, hlt⟩ := Raw.ofWord_word (r := ⟨h.stop, op, h.e, h.gr, h.gb, opd⟩) hop hgr hgb hopd
  have hform : decForm op (Raw.mk h.stop op h.e h.gr h.gb opd).hd opd = .ok i := hdec
  refine ⟨_, he, hlt, ?_⟩
  rw [Raw.mk', decodeBerth, hraw]
  simp only [hform, hguard]
  rfl

theorem roundTrips_ss {d a b fn : Nat} (he : encodeBerth i = some (encSS h op d a b fn)) (hf : d < 64 ∧ a < 64 ∧ b < 64 ∧ fn < 256)
    (hdec : ∀ opd, SS.ofBits opd = ⟨d, a, b, fn, 0⟩ → decForm op h opd = .ok i) : RoundTrips i := by
  obtain ⟨hd, ha, hb, hfn⟩ := hf
  obtain ⟨hof, hlt⟩ := SS.ofBits_bits (f := ⟨d, a, b, fn, 0⟩) ⟨hd, ha, hb, hfn, Nat.two_pow_pos 17⟩
  exact roundTrips_of_operands hop hh he hlt (hdec _ hof)

theorem roundTrips_si {d a imm : Nat} (he : encodeBerth i = some (encSI h op d a imm)) (hf : d < 64 ∧ a < 64 ∧ imm < 2 ^ 31)
    (hdec : ∀ opd, SI.ofBits opd = ⟨d, a, imm⟩ → decForm op h opd = .ok i) : RoundTrips i := by
  obtain ⟨hof, hlt⟩ := SI.ofBits_bits (f := ⟨d, a, imm⟩) hf
  exact roundTrips_of_operands hop hh he hlt (hdec _ hof)

theorem roundTrips_brf {d off : Nat} (he : encodeBerth i = some (Raw.mk' h op (BRf.mk d off).bits)) (hf : d < 64 ∧ off < 2 ^ 37)
    (hdec : ∀ opd, BRf.ofBits opd = ⟨d, off⟩ → decForm op h opd = .ok i) : RoundTrips i := by
  obtain ⟨hof, hlt⟩ := BRf.ofBits_bits (f := ⟨d, off⟩) hf
  exact roundTrips_of_operands hop hh he hlt (hdec _ hof)

theorem roundTrips_lp {l c n off : Nat} (he : encodeBerth i = some (Raw.mk' h op (LP.mk l c n off).bits))
    (hf : l < 4 ∧ c < 64 ∧ n < 2 ^ 20 ∧ off < 2 ^ 15) (hdec : ∀ opd, LP.ofBits opd = ⟨l, c, n, off⟩ → decForm op h opd = .ok i) :
    RoundTrips i := by
  obtain ⟨hof, hlt⟩ := LP.ofBits_bits (f := ⟨l, c, n, off⟩) hf
  exact roundTrips_of_operands hop hh he hlt (hdec _ hof)

theorem roundTrips_sy {d a num fn : Nat} (he : encodeBerth i = some (encSY h op d a num fn))
    (hf : d < 64 ∧ a < 64 ∧ num < 4096 ∧ fn < 256)
    (hdec : ∀ opd, SY.ofBits opd = ⟨d, a, num, fn, 0⟩ → decForm op h opd = .ok i) : RoundTrips i := by
  obtain ⟨hd, ha, hn, hfn⟩ := hf
  obtain ⟨hof, hlt⟩ := SY.ofBits_bits (f := ⟨d, a, num, fn, 0⟩) ⟨hd, ha, hn, hfn, Nat.two_pow_pos 11⟩
  exact roundTrips_of_operands hop hh he hlt (hdec _ hof)

end

-- the opcodes whose forms are all read in one format (R79-R81)

/-- The opcodes of format F-VV. -/
abbrev IsVV (op : Nat) : Prop := 0x40 ≤ op ∧ op < 0x57 ∨ op = 0x5A ∨ op = 0x62 ∨ op = 0x63
/-- The opcodes of format F-VS. -/
abbrev IsVS (op : Nat) : Prop := 0x57 ≤ op ∧ op < 0x62 ∧ op ≠ 0x5A
/-- The opcodes of format F-LC. -/
abbrev IsLC (op : Nat) : Prop := op = 0x3A ∨ 0x64 ≤ op ∧ op < 0x74
/-- The opcodes of format F-MX. -/
abbrev IsMX (op : Nat) : Prop := 0x74 ≤ op ∧ op < 0x80

theorem decForm_vv {op : Nat} (h : Hd) (opd : Nat) (hop : IsVV op) :
    decForm op h opd = decVV op h (VV.ofBits opd) := by
  rw [decForm, if_neg (by omega), if_neg (by omega), if_neg (by omega), if_neg (by omega), if_neg (by omega), if_neg (by omega),
    if_pos (by omega)]

theorem decForm_vs {op : Nat} (h : Hd) (opd : Nat) (hop : IsVS op) :
    decForm op h opd = decVS op h (VS.ofBits opd) := by
  rw [decForm, if_neg (by omega), if_neg (by omega), if_neg (by omega), if_neg (by omega), if_neg (by omega), if_neg (by omega),
    if_neg (by omega), if_pos (by omega)]

theorem decForm_lc {op : Nat} (h : Hd) (opd : Nat) (hop : IsLC op) :
    decForm op h opd = decLC op h (LC.ofBits opd) := by
  rw [decForm, if_neg (by omega), if_neg (by omega), if_neg (by omega), if_neg (by omega)]
  rcases hop with rfl | ⟨hlo, hhi⟩
  · rfl
  · rw [if_neg (by omega), if_neg (by omega), if_neg (by omega), if_neg (by omega), if_pos hhi]

theorem decForm_mx {op : Nat} (h : Hd) (opd : Nat) (hop : IsMX op) : decForm op h opd = decMX op h (MX.ofBits opd) := by
  rw [decForm, if_neg (by omega), if_neg (by omega), if_neg (by omega), if_neg (by omega), if_neg (by omega), if_neg (by omega),
    if_neg (by omega), if_neg (by omega), if_neg (by omega)]

section
variable {i : Instr} {h : Hd} {op : Nat}

theorem roundTrips_vv {d a b sub w k : Nat} (hop : IsVV op) (hh : h.wf = true)
    (he : encodeBerth i = some (encVV h op d a b sub w k)) (hf : d < 2048 ∧ a < 2048 ∧ b < 2048 ∧ sub < 32 ∧ w < 4 ∧ k < 8)
    (hdec : decVV op h ⟨d, a, b, sub, w, k⟩ = .ok i) : RoundTrips i := by
  obtain ⟨hof, hlt⟩ := VV.ofBits_bits (f := ⟨d, a, b, sub, w, k⟩) hf
  exact roundTrips_of_operands (by omega) hh he hlt (by rw [decForm_vv h _ hop, hof, hdec])

theorem roundTrips_vs {m s sub imm : Nat} (hop : IsVS op) (hh : h.wf = true)
    (he : encodeBerth i = some (encVS h op m s sub imm)) (hf : m < 2048 ∧ s < 64 ∧ sub < 32 ∧ imm < 2 ^ 21)
    (hdec : decVS op h ⟨m, s, sub, imm⟩ = .ok i) : RoundTrips i := by
  obtain ⟨hof, hlt⟩ := VS.ofBits_bits (f := ⟨m, s, sub, imm⟩) hf
  exact roundTrips_of_operands (by omega) hh he hlt (by rw [decForm_vs h _ hop, hof, hdec])

theorem roundTrips_lc {sub g l n x q z : Nat} (hop : IsLC op) (hh : h.wf = true)
    (he : encodeBerth i = some (encLC h op sub g l n x q z))
    (hf : g < 64 ∧ l < 64 ∧ n < 64 ∧ x < 32 ∧ q < 8 ∧ sub < 128 ∧ z < 1024)
    (hdec : decLC op h ⟨g, l, n, x, q, sub, z⟩ = .ok i) : RoundTrips i := by
  obtain ⟨hof, hlt⟩ := LC.ofBits_bits (f := ⟨g, l, n, x, q, sub, z⟩) hf
  exact roundTrips_of_operands (by omega) hh he hlt (by rw [decForm_lc h _ hop, hof, hdec])

theorem roundTrips_mx {fn c qa qb m gang z : Nat} (hop : IsMX op) (hh : h.wf = true)
    (he : encodeBerth i = some (encMX h op fn c qa qb m gang z))
    (hf : c < 4 ∧ qa < 16 ∧ qb < 16 ∧ m < 64 ∧ gang < 8 ∧ fn < 256 ∧ z < 2 ^ 16)
    (hdec : decMX op h ⟨c, qa, qb, m, gang, fn, z⟩ = .ok i) : RoundTrips i := by
  obtain ⟨hof, hlt⟩ := MX.ofBits_bits (f := ⟨c, qa, qb, m, gang, fn, z⟩) hf
  exact roundTrips_of_operands (by omega) hh he hlt (by rw [decForm_mx h _ hop, hof, hdec])

end

end Sys2Proof
end

section
/-! PROOF. Scalar, control, system and token words decode to what they encode (spec/05 R77, R78, spec/11, spec/15 R235). -/

namespace Sys2Proof

section
variable {h : Hd} {op : Nat}

-- scalar forms

/-- Forms of one opcode told apart by FN, with the operands d, a and b, or d and a (R155, R156, R161). -/
theorem roundTrips_regs {i : Instr} {d a b fn : Nat} (he : encodeBerth i = some (encSS h op d a b fn)) (hop : op < 128) (hfn : fn < 256)
    (hdec : ∀ opd, SS.ofBits opd = ⟨d, a, b, fn, 0⟩ → decForm op h opd = .ok i)
    (hwf : (h.wf && reg d && reg a && reg b) = true) : RoundTrips i := by
  simp only [reg, Bool.and_eq_true, decide_eq_true_eq] at hwf
  obtain ⟨⟨⟨hh, hd⟩, ha⟩, hb⟩ := hwf
  exact roundTrips_ss hop hh he ⟨hd, ha, hb, hfn⟩ hdec

theorem roundTrips_alu {i : Instr} {d a b fn : Nat} (he : encodeBerth i = some (encSS h 0x01 d a b fn)) (hfn : fn < 256)
    (hdec : decAlu h ⟨d, a, b, fn, 0⟩ = .ok i) (hwf : (h.wf && reg d && reg a && reg b) = true) : RoundTrips i :=
  roundTrips_regs he (by decide) hfn (fun opd hf => (congrArg (decAlu h) hf).trans hdec) hwf

theorem roundTrips_mul {i : Instr} {d a b fn : Nat} (he : encodeBerth i = some (encSS h 0x02 d a b fn)) (hfn : fn < 256)
    (hdec : decMul h ⟨d, a, b, fn, 0⟩ = .ok i) (hwf : (h.wf && reg d && reg a && reg b) = true) : RoundTrips i :=
  roundTrips_regs he (by decide) hfn (fun opd hf => (congrArg (decMul h) hf).trans hdec) hwf

theorem roundTrips_sel {d a b : Nat} (hwf : (h.wf && reg d && reg a && reg b) = true) : RoundTrips (.sel h d a b) :=
  roundTrips_regs rfl (by decide) (by decide) (fun opd hf => by simp [decForm, decScalar, hf]) hwf

/-- A compare (R160). -/
theorem roundTrips_cmp {c : Nat → Nat → Nat → Nat → Instr} {d p a b : Nat} (he : encodeBerth (c d p a b) = some (encSS h op d a b p))
    (hop : op < 128)
    (hdec : ∀ opd, decForm op h opd = let f := SS.ofBits opd; dec true (f.z == 0 && decide (f.fn < 64)) (c f.d f.fn f.a f.b))
    (hwf : (h.wf && reg d && decide (p < 64) && reg a && reg b) = true) : RoundTrips (c d p a b) := by
  simp only [reg, Bool.and_eq_true, decide_eq_true_eq] at hwf
  obtain ⟨⟨⟨⟨hh, hd⟩, hp⟩, ha⟩, hb⟩ := hwf
  exact roundTrips_ss hop hh he (by omega) fun opd hf => by simp [hdec, hf, hp]

/-- A form whose immediate may be any (R157, R162, R163). -/
theorem roundTrips_imm {c : Nat → Nat → Nat → Instr} {d a n : Nat} (he : encodeBerth (c d a n) = some (encSI h op d a n)) (hop : op < 128)
    (hdec : ∀ opd, decForm op h opd = let f := SI.ofBits opd; dec true true (c f.d f.a f.imm))
    (hwf : (h.wf && reg d && reg a && decide (n < 2 ^ 31)) = true) : RoundTrips (c d a n) := by
  simp only [reg, Bool.and_eq_true, decide_eq_true_eq] at hwf
  obtain ⟨⟨⟨hh, hd⟩, ha⟩, hn⟩ := hwf
  exact roundTrips_si hop hh he ⟨hd, ha, hn⟩ fun opd hf => by simp [hdec, hf]

/-- A form whose immediate is the number of a bit (R158, R159). -/
theorem roundTrips_bitNo {c : Nat → Nat → Nat → Instr} {d a n : Nat} (he : encodeBerth (c d a n) = some (encSI h op d a n)) (hop : op < 128)
    (hdec : ∀ opd, decForm op h opd = let f := SI.ofBits opd; dec true (decide (f.imm < 64)) (c f.d f.a f.imm))
    (hwf : (h.wf && reg d && reg a && decide (n < 64)) = true) : RoundTrips (c d a n) := by
  simp only [reg, Bool.and_eq_true, decide_eq_true_eq] at hwf
  obtain ⟨⟨⟨hh, hd⟩, ha⟩, hn⟩ := hwf
  exact roundTrips_si hop hh he (by omega) fun opd hf => by simp [hdec, hf, hn]

/-- A form with the position and the width of a field (R159). -/
theorem roundTrips_field {c : Nat → Nat → Nat → Nat → Instr} {d a lo w : Nat}
    (he : encodeBerth (c d a lo w) = some (encSI h op d a (w * 64 + lo))) (hop : op < 128)
    (hdec : ∀ opd, decForm op h opd =
      let f := SI.ofBits opd; dec true (decide (f.imm < 4096)) (c f.d f.a (fld f.imm 0 6) (fld f.imm 6 6)))
    (hwf : (h.wf && reg d && reg a && decide (lo < 64) && decide (w < 64)) = true) : RoundTrips (c d a lo w) := by
  simp only [reg, Bool.and_eq_true, decide_eq_true_eq] at hwf
  obtain ⟨⟨⟨⟨hh, hd⟩, ha⟩, hlo⟩, hw⟩ := hwf
  have hfit : w * 64 + lo < 4096 := by omega
  have himm : fld (w * 64 + lo) 0 6 = lo ∧ fld (w * 64 + lo) 6 6 = w := by simp only [fld]; omega
  exact roundTrips_si hop hh he (by omega) fun opd hf => by simp [hdec, hf, hfit, himm]

theorem roundTrips_movi {d n : Nat} (hwf : (h.wf && reg d && decide (n < 2 ^ 31)) = true) : RoundTrips (.movi h d n) := by
  simp only [reg, Bool.and_eq_true, decide_eq_true_eq] at hwf
  obtain ⟨⟨hh, hd⟩, hn⟩ := hwf
  exact roundTrips_si (by decide) hh rfl (by omega) fun opd hf => by simp [decForm, decScalar, hf]

/-- The head of a NOP is that of an unguarded word (R69). -/
theorem roundTrips_nop (hwf : (h.wf && h.gr == 0) = true) : RoundTrips (.nop h) := by
  obtain ⟨hh, hgr⟩ := Bool.and_eq_true_iff.1 hwf
  obtain ⟨-, -, hguard⟩ := Hd.wf_guard hh
  obtain ⟨he, hgb⟩ : h.e = false ∧ h.gb = 0 := by simpa [hgr] using hguard
  exact roundTrips_of_operands (by decide) hh rfl (Nat.two_pow_pos 43) (by simp [decForm, he, hgr, hgb])

-- control forms (R164-R167)

theorem roundTrips_br {n : Nat} (hwf : (h.wf && decide (n < 2 ^ 37)) = true) : RoundTrips (.br h n) := by
  simp only [Bool.and_eq_true, decide_eq_true_eq] at hwf
  exact roundTrips_brf (by decide) hwf.1 rfl (by omega) fun opd hf => by simp [decForm, decControl, hf]

theorem roundTrips_call {d n : Nat} (hwf : (h.wf && reg d && decide (n < 2 ^ 37)) = true) : RoundTrips (.call h d n) := by
  simp only [reg, Bool.and_eq_true, decide_eq_true_eq] at hwf
  obtain ⟨⟨hh, hd⟩, hn⟩ := hwf
  exact roundTrips_brf (by decide) hh rfl ⟨hd, hn⟩ fun opd hf => by simp [decForm, decControl, hf]

theorem roundTrips_jmp {d a : Nat} (hwf : (h.wf && reg d && reg a) = true) : RoundTrips (.jmp h d a) := by
  simp only [reg, Bool.and_eq_true, decide_eq_true_eq] at hwf
  obtain ⟨⟨hh, hd⟩, ha⟩ := hwf
  exact roundTrips_ss (by decide) hh rfl (by omega) fun opd hf => by simp [decForm, decControl, hf]

theorem roundTrips_ret {a : Nat} (hwf : (h.wf && reg a) = true) : RoundTrips (.ret h a) := by
  simp only [reg, Bool.and_eq_true, decide_eq_true_eq] at hwf
  obtain ⟨hh, ha⟩ := hwf
  exact roundTrips_ss (by decide) hh rfl (by omega) fun opd hf => by simp [decForm, decControl, hf]

theorem roundTrips_loop {l c n : Nat} (hwf : (h.wf && decide (l < 4) && reg c && decide (n < 2 ^ 15)) = true) :
    RoundTrips (.loop h l c n) := by
  simp only [reg, Bool.and_eq_true, decide_eq_true_eq] at hwf
  obtain ⟨⟨⟨hh, hl⟩, hc⟩, hn⟩ := hwf
  exact roundTrips_lp (by decide) hh rfl (by omega) fun opd hf => by simp [decForm, decControl, hf]

theorem roundTrips_loopi {l c n : Nat} (hwf : (h.wf && decide (l < 4) && decide (c < 2 ^ 20) && decide (n < 2 ^ 15)) = true) :
    RoundTrips (.loopi h l c n) := by
  simp only [Bool.and_eq_true, decide_eq_true_eq] at hwf
  obtain ⟨⟨⟨hh, hl⟩, hc⟩, hn⟩ := hwf
  exact roundTrips_lp (by decide) hh rfl (by omega) fun opd hf => by simp [decForm, decControl, hf]

/-- The FN of MTL and MFL: a loop register above the number of its loop. -/
theorem loopReg_fields (r : LoopReg) {l : Nat} (hl : l < 4) :
    fld (r.code * 4 + l) 0 2 = l ∧ fld (r.code * 4 + l) 2 2 = r.code ∧ r.code * 4 + l < 16 := by
  have hr := r.code_lt
  simp only [fld]
  omega

theorem roundTrips_mtl {r : LoopReg} {l a : Nat} (hwf : (h.wf && decide (l < 4) && reg a) = true) : RoundTrips (.mtl h r l a) := by
  simp only [reg, Bool.and_eq_true, decide_eq_true_eq] at hwf
  obtain ⟨⟨hh, hl⟩, ha⟩ := hwf
  have hfn := loopReg_fields r hl
  exact roundTrips_ss (by decide) hh rfl (by omega) fun opd hf => by simp [decForm, decControl, hf, hfn]

theorem roundTrips_mfl {r : LoopReg} {l d : Nat} (hwf : (h.wf && reg d && decide (l < 4)) = true) : RoundTrips (.mfl h d r l) := by
  simp only [reg, Bool.and_eq_true, decide_eq_true_eq] at hwf
  obtain ⟨⟨hh, hd⟩, hl⟩ := hwf
  have hfn := loopReg_fields r hl
  exact roundTrips_ss (by decide) hh rfl (by omega) fun opd hf => by simp [decForm, decControl, hf, hfn]

-- system forms (R168-R180)

/-- TRAP and BKPT. -/
theorem roundTrips_trap {c : Nat → Instr} {n : Nat} (he : encodeBerth (c n) = some (encSI h op 0 0 n)) (hop : op < 128)
    (hdec : ∀ opd, decForm op h opd = let f := SI.ofBits opd; dec true (f.d == 0 && f.a == 0) (c f.imm))
    (hwf : (h.wf && decide (n < 2 ^ 31)) = true) : RoundTrips (c n) := by
  simp only [Bool.and_eq_true, decide_eq_true_eq] at hwf
  exact roundTrips_si hop hwf.1 he (by omega) fun opd hf => by simp [hdec, hf]

/-- RETT, EXIT and MBOXACK. -/
theorem roundTrips_bareSystem {i : Instr} (he : encodeBerth i = some (encSY h op 0 0 0 0)) (hop : op < 128)
    (hdec : ∀ opd, decForm op h opd = let f := SY.ofBits opd; dec true (f.z == 0 && f.num == 0 && f.a == 0 && f.d == 0 && f.fn == 0) i)
    (hwf : h.wf = true) : RoundTrips i :=
  roundTrips_sy hop hwf he (by decide) fun opd hf => by simp [hdec, hf]

theorem sysOk_lt {n : Nat} (hn : Instr.wf.sysOk n = true) : n < 4096 := by
  simp only [Instr.wf.sysOk, Bool.or_eq_true, Bool.and_eq_true, decide_eq_true_eq, beq_iff_eq] at hn
  omega

theorem roundTrips_mfsys {d n : Nat} (hwf : (h.wf && reg d && Instr.wf.sysOk n) = true) : RoundTrips (.mfsys h d n) := by
  simp only [reg, Bool.and_eq_true, decide_eq_true_eq] at hwf
  obtain ⟨⟨hh, hd⟩, hn⟩ := hwf
  have hlt := sysOk_lt hn
  exact roundTrips_sy (by decide) hh rfl (by omega) fun opd hf => by simp [decForm, decSystem, hf, hn]

theorem roundTrips_mtsys {a n : Nat} (hwf : (h.wf && reg a && Instr.wf.sysOk n) = true) : RoundTrips (.mtsys h a n) := by
  simp only [reg, Bool.and_eq_true, decide_eq_true_eq] at hwf
  obtain ⟨⟨hh, ha⟩, hn⟩ := hwf
  have hlt := sysOk_lt hn
  exact roundTrips_sy (by decide) hh rfl (by omega) fun opd hf => by simp [decForm, decSystem, hf, hn]

theorem roundTrips_phase {l : Nat} (hwf : (h.wf && decide (l < 8)) = true) : RoundTrips (.phase h l) := by
  simp only [Bool.and_eq_true, decide_eq_true_eq] at hwf
  obtain ⟨hh, hl⟩ := hwf
  exact roundTrips_sy (by decide) hh rfl (by omega) fun opd hf => by simp [decForm, decSystem, hf, hl]

theorem roundTrips_fence {a b : Nat} (hwf : (h.wf && decide (a < 128) && decide (b < 128)) = true) : RoundTrips (.fence h a b) := by
  simp only [Bool.and_eq_true, decide_eq_true_eq] at hwf
  obtain ⟨⟨hh, ha⟩, hb⟩ := hwf
  have hnum : fld (a * 32) 0 5 = 0 ∧ fld (a * 32) 5 7 = a := by simp only [fld]; omega
  exact roundTrips_sy (by decide) hh rfl (by omega) fun opd hf => by simp [decForm, decSystem, hf, hnum, hb]

theorem roundTrips_pfence {die : Bool} (hwf : h.wf = true) : RoundTrips (.pfence h die) := by
  have hdie := bit_lt die
  exact roundTrips_sy (by decide) hwf rfl (by omega) fun opd hf => by simp [decForm, decSystem, hf, hdie]

theorem roundTrips_time {d : Nat} {fabric : Bool} (hwf : (h.wf && reg d) = true) : RoundTrips (.time h d fabric) := by
  simp only [reg, Bool.and_eq_true, decide_eq_true_eq] at hwf
  obtain ⟨hh, hd⟩ := hwf
  have hbit := bit_lt fabric
  exact roundTrips_sy (by decide) hh rfl (by omega) fun opd hf => by simp [decForm, decSystem, hf, hbit]

theorem roundTrips_id {d k : Nat} (hwf : (h.wf && reg d && decide (k < 22)) = true) : RoundTrips (.id h d k) := by
  simp only [reg, Bool.and_eq_true, decide_eq_true_eq] at hwf
  obtain ⟨⟨hh, hd⟩, hk⟩ := hwf
  exact roundTrips_sy (by decide) hh rfl (by omega) fun opd hf => by simp [decForm, decSystem, hf, hk]

theorem roundTrips_launch {a q : Nat} (hwf : (h.wf && reg a && decide (q < 16)) = true) : RoundTrips (.launch h a q) := by
  simp only [reg, Bool.and_eq_true, decide_eq_true_eq] at hwf
  obtain ⟨⟨hh, ha⟩, hq⟩ := hwf
  exact roundTrips_sy (by decide) hh rfl (by omega) fun opd hf => by simp [decForm, decSystem, hf, hq]

theorem roundTrips_mboxreg {d a n s : Nat} {loc : Bool}
    (hwf : (h.wf && reg d && reg a && decide (n < 1024) && decide (s < 7)) = true) : RoundTrips (.mboxreg h d a n s loc) := by
  simp only [reg, Bool.and_eq_true, decide_eq_true_eq] at hwf
  obtain ⟨⟨⟨⟨hh, hd⟩, ha⟩, hn⟩, hs⟩ := hwf
  have hloc := bit_lt loc
  have hfn : fld (bit loc * 8 + s) 0 3 = s ∧ fld (bit loc * 8 + s) 3 1 = bit loc ∧ bit loc * 8 + s < 16 := by simp only [fld]; omega
  have hne : (s != 7) = true := bne_iff_ne.2 (by omega)
  exact roundTrips_sy (by decide) hh rfl (by omega) fun opd hf => by simp [decForm, decSystem, hf, hn, hfn, hne]

-- token forms (R235)

/-- The flag and SP of a token form. -/
theorem tokZ_fields (flag sp : Bool) : fld (tokZ flag sp) 0 1 = bit flag ∧ fld (tokZ flag sp) 1 1 = bit sp ∧ tokZ flag sp < 4 ∧
    (tokZ false sp == 0 || tokZ false sp == 2) = true := by
  cases flag <;> cases sp <;> decide

/-- The token forms that name a region alone. -/
theorem roundTrips_region {c : Nat → Bool → Instr} {g sub : Nat} {sp : Bool}
    (he : encodeBerth (c g sp) = some (encLC h 0x3A sub g 0 0 0 0 (tokZ false sp))) (hsub : sub < 128)
    (hdec : ∀ g z, decToken h ⟨g, 0, 0, 0, 0, sub, z⟩ = dec true (z == 0 || z == 2) (c g (tst (fld z 1 1))))
    (hwf : (h.wf && reg g) = true) : RoundTrips (c g sp) := by
  simp only [reg, Bool.and_eq_true, decide_eq_true_eq] at hwf
  obtain ⟨hh, hg⟩ := hwf
  obtain ⟨-, hsp, hz, hno⟩ := tokZ_fields false sp
  exact roundTrips_lc (by decide) hh he (by omega) (by simp [decLC, hdec, hsp, hno])

theorem roundTrips_tklend {g n : Nat} {sp : Bool} (hwf : (h.wf && reg g && reg n) = true) : RoundTrips (.tklend h g n sp) := by
  simp only [reg, Bool.and_eq_true, decide_eq_true_eq] at hwf
  obtain ⟨⟨hh, hg⟩, hn⟩ := hwf
  obtain ⟨-, hsp, hz, hno⟩ := tokZ_fields false sp
  exact roundTrips_lc (by decide) hh rfl (by omega) (by simp [decLC, decToken, qRes, hsp, hno])

theorem roundTrips_tkshare {g n : Nat} {lvl sp : Bool} (hwf : (h.wf && reg g && reg n) = true) : RoundTrips (.tkshare h g n lvl sp) := by
  simp only [reg, Bool.and_eq_true, decide_eq_true_eq] at hwf
  obtain ⟨⟨hh, hg⟩, hn⟩ := hwf
  obtain ⟨hlvl, hsp, hz, -⟩ := tokZ_fields lvl sp
  exact roundTrips_lc (by decide) hh rfl (by omega) (by simp [decLC, decToken, qRes, hlvl, hsp, hz])

theorem roundTrips_tkatom {g : Nat} {back sp : Bool} (hwf : (h.wf && reg g) = true) : RoundTrips (.tkatom h g back sp) := by
  simp only [reg, Bool.and_eq_true, decide_eq_true_eq] at hwf
  obtain ⟨hh, hg⟩ := hwf
  obtain ⟨hback, hsp, hz, -⟩ := tokZ_fields back sp
  exact roundTrips_lc (by decide) hh rfl (by omega) (by simp [decLC, decToken, qRes, hback, hsp, hz])

theorem roundTrips_tkquery {g x : Nat} {sp : Bool} (hwf : (h.wf && reg g && decide (x < 16)) = true) : RoundTrips (.tkquery h g x sp) := by
  simp only [reg, Bool.and_eq_true, decide_eq_true_eq] at hwf
  obtain ⟨⟨hh, hg⟩, hx⟩ := hwf
  obtain ⟨-, hsp, hz, hno⟩ := tokZ_fields false sp
  exact roundTrips_lc (by decide) hh rfl (by omega) (by simp [decLC, decToken, qRes, hsp, hno, hx])

end

end Sys2Proof
end

section
/-! PROOF. Vector and lane-mask words decode to what they encode (spec/05 R79, spec/13 R182-R206). -/

namespace Sys2Proof

section
variable {h : Hd} {op : Nat}

-- forms with two or three matrix registers, a width and a mask

theorem roundTrips_mmm {i : Instr} {d a b : MName} {w : Width} {sub k : Nat} (hop : IsVV op) (hh : h.wf = true)
    (he : encodeBerth i = some (encVV h op d.code a.code b.code sub w.code k)) (hd : d.wf = true) (ha : a.wf = true) (hb : b.wf = true)
    (hsub : sub < 32) (hk : k < 8) (hdec : decVV op h ⟨d.code, a.code, b.code, sub, w.code, k⟩ = .ok i) : RoundTrips i :=
  roundTrips_vv hop hh he ⟨d.code_lt hd, a.code_lt ha, b.code_lt hb, hsub, w.code_lt, hk⟩ hdec

theorem roundTrips_mm {i : Instr} {d a : MName} {w : Width} {b sub k : Nat} (hop : IsVV op) (hh : h.wf = true)
    (he : encodeBerth i = some (encVV h op d.code a.code b sub w.code k)) (hd : d.wf = true) (ha : a.wf = true) (hb : b < 2048)
    (hsub : sub < 32) (hk : k < 8) (hdec : decVV op h ⟨d.code, a.code, b, sub, w.code, k⟩ = .ok i) : RoundTrips i :=
  roundTrips_vv hop hh he ⟨d.code_lt hd, a.code_lt ha, hb, hsub, w.code_lt, hk⟩ hdec

-- floating-point forms (R185, R186)

/-- The sub-op of a floating-point form: H above RM. -/
theorem floatSub_fields (f16 : Bool) (rm : RM) : fld (bit f16 * 8 + rm.code) 0 3 = rm.code ∧
    fld (bit f16 * 8 + rm.code) 3 1 = bit f16 ∧ fld (bit f16 * 8 + rm.code) 4 1 = 0 ∧ bit f16 * 8 + rm.code < 32 := by
  cases f16 <;> cases rm <;> decide

/-- What decVV does for each of the five forms that round (R185). -/
def decFloat (c : MName → MName → MName → Bool → RM → Width → Nat → Instr) (x : VV) : Dec :=
  let w := Width.ofCode x.w
  let f16 := tst (fld x.sub 3 1)
  decQ (RM.det? (fld x.sub 0 3)) fun rm => dec (w == .w32 || w == .w16) (!(f16 && w == .w32) && fld x.sub 4 1 == 0)
    (c (MName.ofCode x.d) (MName.ofCode x.a) (MName.ofCode x.b) f16 rm w x.k)

theorem roundTrips_float {c : MName → MName → MName → Bool → RM → Width → Nat → Instr} {d a b : MName} {f16 : Bool} {rm : RM}
    {w : Width} {k : Nat}
    (he : encodeBerth (c d a b f16 rm w k) = some (encVV h op d.code a.code b.code (bit f16 * 8 + rm.code) w.code k)) (hop : IsVV op)
    (hdec : ∀ x, decVV op h x = decFloat c x)
    (hwf : (h.wf && d.wf && a.wf && b.wf && fwOk w f16 && rm != .sr && kreg k) = true) : RoundTrips (c d a b f16 rm w k) := by
  simp only [kreg, fwOk_iff, Bool.and_eq_true, decide_eq_true_eq, bne_iff_ne] at hwf
  obtain ⟨⟨⟨⟨⟨⟨hh, hd⟩, ha⟩, hb⟩, hw, hf16⟩, hrm⟩, hk⟩ := hwf
  obtain ⟨hlow, hh16, hzero, hlt⟩ := floatSub_fields f16 rm
  exact roundTrips_mmm hop hh he hd ha hb hlt hk
    (by simp [hdec, decFloat, hlow, hh16, hzero, RM.det?_code hrm, MName.ofCode_code, hd, ha, hb, hw, hf16])

/-- What decVV does for VMIN and VMAX (R185). -/
def decMinMax (c : MName → MName → MName → Bool → Width → Nat → Instr) (x : VV) : Dec :=
  let w := Width.ofCode x.w
  let f16 := tst (fld x.sub 3 1)
  dec ((w == .w32 || w == .w16) && decide (fld x.sub 0 3 < 4)) (!(f16 && w == .w32) && fld x.sub 4 1 == 0 && fld x.sub 0 3 == 0)
    (c (MName.ofCode x.d) (MName.ofCode x.a) (MName.ofCode x.b) f16 w x.k)

theorem roundTrips_minMax {c : MName → MName → MName → Bool → Width → Nat → Instr} {d a b : MName} {f16 : Bool} {w : Width} {k : Nat}
    (he : encodeBerth (c d a b f16 w k) = some (encVV h op d.code a.code b.code (bit f16 * 8) w.code k)) (hop : IsVV op)
    (hdec : ∀ x, decVV op h x = decMinMax c x)
    (hwf : (h.wf && d.wf && a.wf && b.wf && fwOk w f16 && kreg k) = true) : RoundTrips (c d a b f16 w k) := by
  simp only [kreg, fwOk_iff, Bool.and_eq_true, decide_eq_true_eq] at hwf
  obtain ⟨⟨⟨⟨⟨hh, hd⟩, ha⟩, hb⟩, hw, hf16⟩, hk⟩ := hwf
  obtain ⟨hlow, hh16, hzero, hlt⟩ := floatSub_fields f16 .rne
  simp only [RM.code, Nat.add_zero] at hlow hh16 hzero hlt
  exact roundTrips_mmm hop hh he hd ha hb hlt hk
    (by simp [hdec, decMinMax, hlow, hh16, hzero, MName.ofCode_code, hd, ha, hb, hw, hf16])

/-- What decVV does for a form of one operand, once its selector has told which it is (R186). -/
def decUnary (c : MName → MName → Bool → Width → Nat → Instr) (x : VV) : Dec :=
  let w := Width.ofCode x.w
  let f16 := tst (fld x.sub 0 1)
  dec (w == .w32 || w == .w16) (!(f16 && w == .w32) && fld x.sub 1 2 == 0 && x.b == 0) (c (MName.ofCode x.d) (MName.ofCode x.a) f16 w x.k)

theorem roundTrips_unary {c : MName → MName → Bool → Width → Nat → Instr} {d a : MName} {f16 : Bool} {w : Width} {sub k : Nat}
    (he : encodeBerth (c d a f16 w k) = some (encVV h op d.code a.code 0 sub w.code k)) (hop : IsVV op)
    (hsub : fld sub 0 1 = bit f16 ∧ fld sub 1 2 = 0 ∧ sub < 32)
    (hdec : ∀ x, fld x.sub 3 2 = fld sub 3 2 → decVV op h x = decUnary c x)
    (hwf : (h.wf && d.wf && a.wf && fwOk w f16 && kreg k) = true) : RoundTrips (c d a f16 w k) := by
  simp only [kreg, fwOk_iff, Bool.and_eq_true, decide_eq_true_eq] at hwf
  obtain ⟨⟨⟨⟨hh, hd⟩, ha⟩, hw, hf16⟩, hk⟩ := hwf
  obtain ⟨hlow, hzero, hlt⟩ := hsub
  refine roundTrips_mm hop hh he hd ha (by decide) hlt hk ?_
  rw [hdec _ rfl]
  simp [decUnary, hlow, hzero, MName.ofCode_code, hd, ha, hw, hf16]

-- integer and bitwise forms (R188-R190, R192)

/-- The sub-op of an integer form: HI, U and SAT (R188). -/
theorem intSub_fields (hi u sat : Bool) : fld (bit hi * 4 + bit u * 2 + bit sat) 0 1 = bit sat ∧
    fld (bit hi * 4 + bit u * 2 + bit sat) 1 1 = bit u ∧ fld (bit hi * 4 + bit u * 2 + bit sat) 2 1 = bit hi ∧
    fld (bit hi * 4 + bit u * 2 + bit sat) 3 2 = 0 ∧ bit hi * 4 + bit u * 2 + bit sat < 32 := by
  cases hi <;> cases u <;> cases sat <;> decide

/-- The sub-op of a form with two flags and no more: U and SAT of VIADD and VISUB, HALF and ACC of VHIST, Z and HI of VPERM. -/
theorem flagSub_fields (x y : Bool) : fld (bit x * 2 + bit y) 0 1 = bit y ∧ fld (bit x * 2 + bit y) 1 1 = bit x ∧
    fld (bit x * 2 + bit y) 2 1 = 0 ∧ fld (bit x * 2 + bit y) 2 3 = 0 ∧ fld (bit x * 2 + bit y) 3 2 = 0 ∧ bit x * 2 + bit y < 32 := by
  cases x <;> cases y <;> decide

/-- VIADD and VISUB. -/
theorem roundTrips_int {c : MName → MName → MName → Bool → Bool → Width → Nat → Instr} {d a b : MName} {u sat : Bool} {w : Width}
    {k : Nat} (he : encodeBerth (c d a b u sat w k) = some (encVV h op d.code a.code b.code (bit u * 2 + bit sat) w.code k))
    (hop : IsVV op)
    (hdec : ∀ x, decVV op h x =
      dec (Width.ofCode x.w != .w4 && !(tst (fld x.sub 2 1) && tst (fld x.sub 0 1))) (fld x.sub 3 2 == 0 && !tst (fld x.sub 2 1))
        (c (MName.ofCode x.d) (MName.ofCode x.a) (MName.ofCode x.b) (tst (fld x.sub 1 1)) (tst (fld x.sub 0 1)) (Width.ofCode x.w) x.k))
    (hwf : (h.wf && d.wf && a.wf && b.wf && iwOk w && kreg k) = true) : RoundTrips (c d a b u sat w k) := by
  simp only [kreg, iwOk, Bool.and_eq_true, decide_eq_true_eq] at hwf
  obtain ⟨⟨⟨⟨⟨hh, hd⟩, ha⟩, hb⟩, hw⟩, hk⟩ := hwf
  have hsub := flagSub_fields u sat
  exact roundTrips_mmm hop hh he hd ha hb (by omega) hk (by simp [hdec, hsub, MName.ofCode_code, hd, ha, hb, hw])

theorem roundTrips_vimul {d a b : MName} {hi u sat : Bool} {w : Width} {k : Nat}
    (hwf : (h.wf && d.wf && a.wf && b.wf && iwOk w && !(hi && sat) && kreg k) = true) : RoundTrips (.vimul h d a b hi u sat w k) := by
  simp only [kreg, iwOk, Bool.and_eq_true, decide_eq_true_eq] at hwf
  obtain ⟨⟨⟨⟨⟨⟨hh, hd⟩, ha⟩, hb⟩, hw⟩, hno⟩, hk⟩ := hwf
  have hsub := intSub_fields hi u sat
  exact roundTrips_mmm (by decide) hh rfl hd ha hb (by omega) hk (by simp [decVV, hsub, MName.ofCode_code, hd, ha, hb, hw, hno])

/-- VAND, VOR, VXOR and VSEL have no field but their operands, and take every width. -/
theorem roundTrips_anyWidth {c : MName → MName → MName → Width → Nat → Instr} {d a b : MName} {w : Width} {sub k : Nat}
    (he : encodeBerth (c d a b w k) = some (encVV h op d.code a.code b.code sub w.code k)) (hop : IsVV op) (hsub : sub < 32)
    (hdec : ∀ d a b w k, decVV op h ⟨d, a, b, sub, w, k⟩ = .ok (c (MName.ofCode d) (MName.ofCode a) (MName.ofCode b) (Width.ofCode w) k))
    (hwf : (h.wf && d.wf && a.wf && b.wf && kreg k) = true) : RoundTrips (c d a b w k) := by
  simp only [kreg, Bool.and_eq_true, decide_eq_true_eq] at hwf
  obtain ⟨⟨⟨⟨hh, hd⟩, ha⟩, hb⟩, hk⟩ := hwf
  exact roundTrips_mmm hop hh he hd ha hb hsub hk (by simp [hdec, MName.ofCode_code, hd, ha, hb])

/-- The shifts (R190). -/
theorem roundTrips_shift {c : MName → MName → MName → Width → Nat → Instr} {d a b : MName} {w : Width} {sub k : Nat}
    (he : encodeBerth (c d a b w k) = some (encVV h op d.code a.code b.code sub w.code k)) (hop : IsVV op) (hsub : sub < 32)
    (hdec : ∀ d a b w k, decVV op h ⟨d, a, b, sub, w, k⟩ =
      dec (Width.ofCode w != .w4) true (c (MName.ofCode d) (MName.ofCode a) (MName.ofCode b) (Width.ofCode w) k))
    (hwf : (h.wf && d.wf && a.wf && b.wf && iwOk w && kreg k) = true) : RoundTrips (c d a b w k) := by
  simp only [kreg, iwOk, Bool.and_eq_true, decide_eq_true_eq] at hwf
  obtain ⟨⟨⟨⟨⟨hh, hd⟩, ha⟩, hb⟩, hw⟩, hk⟩ := hwf
  exact roundTrips_mmm hop hh he hd ha hb hsub hk (by simp [hdec, MName.ofCode_code, hd, ha, hb, hw])

/-- VCOMP and VEXPD (R199). -/
theorem roundTrips_compress {c : MName → MName → Width → Nat → Instr} {d a : MName} {w : Width} {sub k : Nat}
    (he : encodeBerth (c d a w k) = some (encVV h op d.code a.code 0 sub w.code k)) (hop : IsVV op) (hsub : sub < 32)
    (hdec : ∀ d a w k, decVV op h ⟨d, a, 0, sub, w, k⟩ =
      dec (Width.ofCode w != .w4) true (c (MName.ofCode d) (MName.ofCode a) (Width.ofCode w) k))
    (hwf : (h.wf && d.wf && a.wf && iwOk w && kreg k) = true) : RoundTrips (c d a w k) := by
  simp only [kreg, iwOk, Bool.and_eq_true, decide_eq_true_eq] at hwf
  obtain ⟨⟨⟨⟨hh, hd⟩, ha⟩, hw⟩, hk⟩ := hwf
  exact roundTrips_mm hop hh he hd ha (by decide) hsub hk (by simp [hdec, MName.ofCode_code, hd, ha, hw])

theorem roundTrips_vperm {d a b : MName} {z hi : Bool} {w : Width} {k : Nat}
    (hwf : (h.wf && d.wf && a.wf && b.wf && iwOk w && (!hi || w == .w8) && kreg k) = true) : RoundTrips (.vperm h d a b z hi w k) := by
  simp only [kreg, iwOk, Bool.and_eq_true, decide_eq_true_eq] at hwf
  obtain ⟨⟨⟨⟨⟨⟨hh, hd⟩, ha⟩, hb⟩, hw⟩, hhi⟩, hk⟩ := hwf
  have hsub := flagSub_fields z hi
  exact roundTrips_mmm (by decide) hh rfl hd ha hb (by omega) hk (by simp [decVV, hsub, MName.ofCode_code, hd, ha, hb, hw, hhi])

-- compares, conversions and the forms across elements (R191, R193-R198)

theorem roundTrips_vcmp {kd : Nat} {a b : MName} {t : CmpType} {c : VCond} {w : Width} {k : Nat}
    (hwf : (h.wf && kreg kd && a.wf && b.wf && kreg k && Instr.wf.vcmpOk t c w) = true) : RoundTrips (.vcmp h kd a b t c w k) := by
  simp only [kreg, Bool.and_eq_true, decide_eq_true_eq] at hwf
  obtain ⟨⟨⟨⟨⟨hh, hkd⟩, ha⟩, hb⟩, hk⟩, hok⟩ := hwf
  have ht := t.code_lt
  have hc := c.code_lt
  have hfld : fld (t.code * 8 + c.code) 0 3 = c.code ∧ fld (t.code * 8 + c.code) 3 2 = t.code ∧ fld kd 0 3 = kd := by
    simp only [fld]; omega
  exact roundTrips_vv (by decide) hh rfl ⟨by omega, a.code_lt ha, b.code_lt hb, by omega, w.code_lt, hk⟩
    (by simp [decVV, hfld, MName.ofCode_code, ha, hb, hok, hkd])

/-- The ratio of two formats' widths. -/
theorem cvtRatio_le (s t : Fmt) : cvtRatio s t ≤ 4 ∨ cvtRatio s t = 8 := by cases s <;> cases t <;> decide

/-- The part P of a conversion (R193): its low bits in the width field, and bit 2 in the sub-op where the ratio is 8. -/
theorem cvtPart_fields {r p n : Nat} (sat : Bool) (hr : r ≤ 4 ∨ r = 8) (hp : p < r) (hsat : (r != 8 || !sat) = true) (hn : n < 16) :
    let sub := (if r = 8 then p / 4 else bit sat) * 16 + n
    fld sub 0 4 = n ∧ sub < 32 ∧ p % 4 + (if r == 8 then 4 * fld sub 4 1 else 0) = p ∧ (r != 8 && tst (fld sub 4 1)) = sat := by
  have hs := bit_lt sat
  rcases eq_or_ne r 8 with rfl | h8
  · have hsub : fld (p / 4 * 16 + n) 4 1 = p / 4 ∧ fld (p / 4 * 16 + n) 0 4 = n := by simp only [fld]; omega
    have hsat' : sat = false := by simpa using hsat
    simp [hsub, hsat']
    omega
  · have hsub : fld (bit sat * 16 + n) 4 1 = bit sat ∧ fld (bit sat * 16 + n) 0 4 = n := by simp only [fld]; omega
    simp [h8, hsub]
    omega

theorem roundTrips_vcvt {d a : MName} {s t : Fmt} {rm : RM} {sat : Bool} {n p k : Nat}
    (hwf : (h.wf && d.wf && a.wf && cvtFmt s && cvtFmt t && kreg k && decide (p < cvtRatio s t) && (cvtRatio s t != 8 || !sat)
      && (if rm == .sr then decide (n < Nat.min 16 t.bits) else n == 0)) = true) : RoundTrips (.vcvt h d a s t rm sat n p k) := by
  simp only [kreg, Bool.and_eq_true, decide_eq_true_eq] at hwf
  obtain ⟨⟨⟨⟨⟨⟨⟨⟨hh, hd⟩, ha⟩, hs⟩, ht⟩, hk⟩, hp⟩, hsat⟩, hn⟩ := hwf
  have hsc := s.code_lt
  have htc := t.code_lt
  have hrc := rm.code_lt
  have hb : fld (s.code * 128 + t.code * 8 + rm.code) 7 4 = s.code ∧ fld (s.code * 128 + t.code * 8 + rm.code) 3 4 = t.code ∧
      fld (s.code * 128 + t.code * 8 + rm.code) 0 3 = rm.code := by simp only [fld]; omega
  have hn16 : n < 16 := by
    split at hn
    · exact Nat.lt_of_lt_of_le (of_decide_eq_true hn) (Nat.min_le_left _ _)
    · simp only [beq_iff_eq] at hn; omega
  have hnm : (rm != .sr || decide (n < Nat.min 16 t.bits)) = true ∧ (rm == .sr || n == 0) = true := by
    split at hn <;> simp_all
  obtain ⟨hnf, hlt, hpf, hsf⟩ := cvtPart_fields sat (cvtRatio_le s t) hp hsat hn16
  refine roundTrips_vv (by decide) hh rfl ⟨d.code_lt hd, a.code_lt ha, by omega, hlt, by omega, hk⟩ ?_
  simp only [decVV, hb, hnf, hpf, hsf, hnm, hs, ht, hp, Fmt.ofCode?_code, RM.ofCode?_code, decQ_some, d.ofCode_code hd, a.ofCode_code ha,
    decide_true, Bool.and_self, dec_true_true]

theorem roundTrips_vkey {d a : MName} {desc : Bool} {t : KeyType} {f16 : Bool} {w : Width} {k : Nat}
    (hwf : (h.wf && d.wf && a.wf && kreg k && (if t == .flt then fwOk w f16 else iwOk w && !f16)) = true) :
    RoundTrips (.vkey h d a desc t f16 w k) := by
  simp only [kreg, fwOk_iff, iwOk, Bool.and_eq_true, decide_eq_true_eq] at hwf
  obtain ⟨⟨⟨⟨hh, hd⟩, ha⟩, hk⟩, hw⟩ := hwf
  have ht := t.code_lt
  have hs := bit_lt desc
  have hf := bit_lt f16
  have hsub : fld (bit desc * 8 + t.code * 2 + bit f16) 1 2 = t.code ∧ fld (bit desc * 8 + t.code * 2 + bit f16) 0 1 = bit f16 ∧
      fld (bit desc * 8 + t.code * 2 + bit f16) 3 1 = bit desc ∧ fld (bit desc * 8 + t.code * 2 + bit f16) 4 1 = 0 := by
    simp only [fld]; omega
  obtain ⟨hwidth, hflag⟩ : (if t == .flt then w == .w32 || w == .w16 else w != .w4) = true ∧
      (if t == .flt then !(f16 && w == .w32) else !f16) = true := by
    cases t <;> simpa using hw
  exact roundTrips_mm (by decide) hh rfl hd ha (by decide) (by omega) hk
    (by simp only [decVV, hsub, KeyType.ofCode?_code, Width.ofCode_code, tst_bit, decQ_some, hwidth, hflag, d.ofCode_code hd,
      a.ofCode_code ha, beq_self_eq_true, Bool.and_self, dec_true_true])

theorem roundTrips_vhist {d a : MName} {lo db : Nat} {half acc : Bool} {w : Width} {k : Nat}
    (hwf : (h.wf && d.wf && a.wf && decide (lo < 32) && decide (db < 8) && iwOk w && kreg k) = true) :
    RoundTrips (.vhist h d a lo db half acc w k) := by
  simp only [kreg, iwOk, Bool.and_eq_true, decide_eq_true_eq] at hwf
  obtain ⟨⟨⟨⟨⟨⟨hh, hd⟩, ha⟩, hlo⟩, hdb⟩, hw⟩, hk⟩ := hwf
  have hsub := flagSub_fields half acc
  have hb : fld (lo * 64 + db * 8) 0 3 = 0 ∧ fld (lo * 64 + db * 8) 6 5 = lo ∧ fld (lo * 64 + db * 8) 3 3 = db := by
    simp only [fld]; omega
  exact roundTrips_mm (by decide) hh rfl hd ha (by omega) (by omega) hk (by simp [decVV, hsub, hb, MName.ofCode_code, hd, ha, hw])

theorem roundTrips_vscan {d a : MName} {rev int : Bool} {rm : RM} {w : Width} {k : Nat}
    (hwf : (h.wf && d.wf && a.wf && kreg k && (if int then iwOk w && rm == .rne else w == .w32 && rm != .sr)) = true) :
    RoundTrips (.vscan h d a rev int rm w k) := by
  simp only [kreg, iwOk, Bool.and_eq_true, decide_eq_true_eq] at hwf
  obtain ⟨⟨⟨⟨hh, hd⟩, ha⟩, hk⟩, hw⟩ := hwf
  obtain ⟨hrm, hwidth, hmode⟩ : rm ≠ .sr ∧ (if int then w != .w4 else w == .w32) = true ∧ (!int || rm == .rne) = true := by
    cases int <;> simp_all
  have hrc := rm.code_lt
  have hr := bit_lt rev
  have hi := bit_lt int
  have hsub : fld (bit rev * 16 + bit int * 8 + rm.code) 0 3 = rm.code ∧ fld (bit rev * 16 + bit int * 8 + rm.code) 3 1 = bit int ∧
      fld (bit rev * 16 + bit int * 8 + rm.code) 4 1 = bit rev := by simp only [fld]; omega
  exact roundTrips_mm (by decide) hh rfl hd ha (by decide) (by omega) hk
    (by simp only [decVV, hsub, RM.det?_code hrm, Width.ofCode_code, tst_bit, decQ_some, hwidth, hmode, d.ofCode_code hd,
      a.ofCode_code ha, beq_self_eq_true, Bool.and_self, dec_true_true])

/-- What R198 leaves a kind: its widths, and no stochastic rounding. -/
theorem vredOk_imp {kind : RedKind} {u f16 : Bool} {rm : RM} {w : Width} (hok : Instr.wf.vredOk kind u f16 rm w = true) :
    rm ≠ .sr ∧ (if kind == .fsum || kind == .fmax || kind == .fmin then w == .w32 || w == .w16 else w != .w4) = true := by
  cases kind <;> simp_all [Instr.wf.vredOk, fwOk_iff, iwOk]

theorem roundTrips_vred {d a : MName} {kind : RedKind} {u f16 : Bool} {rm : RM} {w : Width} {k : Nat}
    (hwf : (h.wf && d.wf && a.wf && kreg k && Instr.wf.vredOk kind u f16 rm w) = true) : RoundTrips (.vred h d a kind u f16 rm w k) := by
  simp only [kreg, Bool.and_eq_true, decide_eq_true_eq] at hwf
  obtain ⟨⟨⟨⟨hh, hd⟩, ha⟩, hk⟩, hok⟩ := hwf
  obtain ⟨hrm, hw⟩ := vredOk_imp hok
  have hkc := kind.code_lt
  have hrc := rm.code_lt
  have hu := bit_lt u
  have hf := bit_lt f16
  have hb : fld (bit u * 16 + bit f16 * 8 + rm.code) 4 1 = bit u ∧ fld (bit u * 16 + bit f16 * 8 + rm.code) 3 1 = bit f16 ∧
      fld (bit u * 16 + bit f16 * 8 + rm.code) 0 3 = rm.code ∧ bit u * 16 + bit f16 * 8 + rm.code < 32 := by simp only [fld]; omega
  have hs : fld kind.code 0 3 = kind.code ∧ fld kind.code 3 2 = 0 := by simp only [fld]; omega
  refine roundTrips_mm (by decide) hh rfl hd ha (by omega) (by omega) hk ?_
  simp only [decVV, hb, hs, RM.det?_code hrm, RedKind.ofCode_code, Width.ofCode_code, tst_bit, decQ_some, hw, hok, d.ofCode_code hd,
    a.ofCode_code ha, decide_true, beq_self_eq_true, Bool.and_self, dec_true_true]

-- lane masks (R204)

/-- A lane mask in a field for a matrix register. -/
theorem kreg_field {k : Nat} (hk : k < 8) : fld k 0 3 = k := by simp only [fld]; omega

/-- KAND and KOR. -/
theorem roundTrips_maskPair {c : Nat → Nat → Nat → Instr} {d a b sub : Nat}
    (he : encodeBerth (c d a b) = some (encVV h 0x5A d a b sub 0 0)) (hsub : sub < 32)
    (hdec : ∀ d a b, decVV 0x5A h ⟨d, a, b, sub, 0, 0⟩ =
      dec true (decide (d < 8) && decide (a < 8) && decide (b < 8)) (c (fld d 0 3) (fld a 0 3) (fld b 0 3)))
    (hwf : (h.wf && kreg d && kreg a && kreg b) = true) : RoundTrips (c d a b) := by
  simp only [kreg, Bool.and_eq_true, decide_eq_true_eq] at hwf
  obtain ⟨⟨⟨hh, hd⟩, ha⟩, hb⟩ := hwf
  exact roundTrips_vv (by decide) hh he (by omega) (by simp [hdec, kreg_field, hd, ha, hb])

theorem roundTrips_knot {d a : Nat} (hwf : (h.wf && kreg d && kreg a) = true) : RoundTrips (.knot h d a) := by
  simp only [kreg, Bool.and_eq_true, decide_eq_true_eq] at hwf
  obtain ⟨⟨hh, hd⟩, ha⟩ := hwf
  have hsub : fld 16 3 2 = 2 ∧ fld 16 0 3 = 0 := by decide
  exact roundTrips_vv (by decide) hh rfl (by omega) (by simp [decVV, hsub, kreg_field, hd, ha])

theorem roundTrips_kpopc {d a : Nat} (hwf : (h.wf && reg d && kreg a) = true) : RoundTrips (.kpopc h d a) := by
  simp only [reg, kreg, Bool.and_eq_true, decide_eq_true_eq] at hwf
  obtain ⟨⟨hh, hd⟩, ha⟩ := hwf
  have hsub : fld 24 3 2 = 3 ∧ fld 24 0 3 = 0 := by decide
  have hreg : fld d 0 6 = d := by simp only [fld]; omega
  exact roundTrips_vv (by decide) hh rfl (by omega) (by simp [decVV, hsub, kreg_field, hreg, hd, ha])

-- loads and stores of local memory, and scalars to and from vectors (R200-R203, R205, R206)

theorem Width.positions_le {w : Width} (hw : iwOk w = true) : 32 / w.bits ≤ 4 := by
  cases w
  case w4 => exact absurd hw (by decide)
  all_goals decide

theorem roundTrips_vldx {d a : MName} {p : Nat} {w : Width} {k : Nat}
    (hwf : (h.wf && d.wf && a.wf && iwOk w && decide (p < 32 / w.bits) && kreg k) = true) : RoundTrips (.vldx h d a p w k) := by
  simp only [kreg, Bool.and_eq_true, decide_eq_true_eq] at hwf
  obtain ⟨⟨⟨⟨⟨hh, hd⟩, ha⟩, hw⟩, hp⟩, hk⟩ := hwf
  have hle := Width.positions_le hw
  have hsub : fld p 0 2 = p ∧ fld p 2 3 = 0 := by simp only [fld]; omega
  rw [iwOk] at hw
  exact roundTrips_mm (by decide) hh rfl hd ha (by decide) (by omega) hk (by simp [decVV, hsub, MName.ofCode_code, hd, ha, hw, hp])

theorem roundTrips_vstx {a b : MName} {p : Nat} {w : Width} {k : Nat}
    (hwf : (h.wf && a.wf && b.wf && iwOk w && decide (p < 32 / w.bits) && kreg k) = true) : RoundTrips (.vstx h a b p w k) := by
  simp only [kreg, Bool.and_eq_true, decide_eq_true_eq] at hwf
  obtain ⟨⟨⟨⟨⟨hh, ha⟩, hb⟩, hw⟩, hp⟩, hk⟩ := hwf
  have hle := Width.positions_le hw
  have hsub : fld p 0 2 = p ∧ fld p 2 3 = 0 := by simp only [fld]; omega
  rw [iwOk] at hw
  exact roundTrips_vv (by decide) hh rfl ⟨by decide, a.code_lt ha, b.code_lt hb, by omega, w.code_lt, hk⟩
    (by simp [decVV, hsub, MName.ofCode_code, ha, hb, hw, hp])

theorem roundTrips_vbcast {d : MName} {a imm : Nat} {w : Width} (hwf : (h.wf && d.wf && reg a && decide (imm < 2 ^ 21)) = true) :
    RoundTrips (.vbcast h d a w imm) := by
  simp only [reg, Bool.and_eq_true, decide_eq_true_eq] at hwf
  obtain ⟨⟨⟨hh, hd⟩, ha⟩, himm⟩ := hwf
  have hw := w.code_lt
  have hsub : fld w.code 0 2 = w.code ∧ fld w.code 2 3 = 0 := by simp only [fld]; omega
  exact roundTrips_vs (by decide) hh rfl ⟨d.code_lt hd, ha, by omega, himm⟩ (by simp [decVS, hsub, MName.ofCode_code, hd])

theorem roundTrips_vmovs {m : MName} {s : Nat} {sx toVec : Bool} {w : Width} {j : Nat}
    (hwf : (h.wf && m.wf && reg s && !(sx && toVec) && decide (j < 4096 / w.bits)) = true) : RoundTrips (.vmovs h m s sx toVec w j) := by
  simp only [reg, Bool.and_eq_true, decide_eq_true_eq] at hwf
  obtain ⟨⟨⟨⟨hh, hm⟩, hs⟩, hno⟩, hj⟩ := hwf
  have hsub : fld (bit sx * 8 + bit toVec * 4 + w.code) 0 2 = w.code ∧ fld (bit sx * 8 + bit toVec * 4 + w.code) 3 1 = bit sx ∧
      fld (bit sx * 8 + bit toVec * 4 + w.code) 2 1 = bit toVec ∧ fld (bit sx * 8 + bit toVec * 4 + w.code) 4 1 = 0 ∧
      bit sx * 8 + bit toVec * 4 + w.code < 32 := by
    have hw := w.code_lt
    have hx := bit_lt sx
    have hv := bit_lt toVec
    simp only [fld]; omega
  have hle : 4096 / w.bits ≤ 1024 := by cases w <;> decide
  have hj10 : fld j 0 10 = j ∧ j < 1024 := by simp only [fld]; omega
  exact roundTrips_vs (by decide) hh rfl ⟨m.code_lt hm, hs, by omega, by omega⟩
    (by simp [decVS, hsub, MName.ofCode_code, hm, hj10, hj, hno])

/-- VROT and VMCONF. -/
theorem roundTrips_vectorConfig {c : Nat → Nat → Instr} {a imm sub : Nat} (he : encodeBerth (c a imm) = some (encVS h 0x59 0 a sub imm))
    (hsub : sub < 32) (hdec : ∀ a imm, decVS 0x59 h ⟨0, a, sub, imm⟩ = .ok (c a imm))
    (hwf : (h.wf && reg a && decide (imm < 2 ^ 21)) = true) : RoundTrips (c a imm) := by
  simp only [reg, Bool.and_eq_true, decide_eq_true_eq] at hwf
  obtain ⟨⟨hh, ha⟩, himm⟩ := hwf
  exact roundTrips_vs (by decide) hh he ⟨by decide, ha, hsub, himm⟩ (hdec a imm)

/-- VLD and VST. -/
theorem roundTrips_vectorMem {c : MName → Nat → Nat → Width → Nat → Instr} {m : MName} {a k imm : Nat} {w : Width}
    (he : encodeBerth (c m a k w imm) = some (encVS h op m.code a (k * 4 + w.code) imm)) (hop : IsVS op)
    (hdec : ∀ x, decVS op h x = .ok (c (MName.ofCode x.m) x.s (fld x.sub 2 3) (Width.ofCode (fld x.sub 0 2)) x.imm))
    (hwf : (h.wf && m.wf && reg a && kreg k && decide (imm < 2 ^ 21)) = true) : RoundTrips (c m a k w imm) := by
  simp only [reg, kreg, Bool.and_eq_true, decide_eq_true_eq] at hwf
  obtain ⟨⟨⟨⟨hh, hm⟩, ha⟩, hk⟩, himm⟩ := hwf
  have hw := w.code_lt
  have hsub : fld (k * 4 + w.code) 0 2 = w.code ∧ fld (k * 4 + w.code) 2 3 = k := by simp only [fld]; omega
  exact roundTrips_vs hop hh he ⟨m.code_lt hm, ha, by omega, himm⟩ (by simp [hdec, hsub, MName.ofCode_code, hm])

end

end Sys2Proof
end

section
/-! PROOF. Copy, ring, stream, probe, atomic, semaphore and matrix words decode to what they encode (spec/05 R80, R81, spec/15, spec/17);
the statement for every berth word. -/

namespace Sys2Proof

section
variable {h : Hd} {op : Nat}

-- copies (R210, R213, R214)

/-- Bits 9:0 of a copy: the direction, the route and the tag. -/
theorem copyZ_fields (out st : Bool) {tag : Nat} (ht : tag < 256) : fld (copyZ out st tag) 9 1 = bit out ∧
    fld (copyZ out st tag) 8 1 = bit st ∧ fld (copyZ out st tag) 0 8 = tag ∧ copyZ out st tag < 1024 := by
  have ho := bit_lt out
  have hs := bit_lt st
  simp only [fld, copyZ]
  omega

/-- What decCopy does for CP, CPW and CPS, once the qualifier is known. -/
def decRoute (c : Nat → Nat → Nat → Nat → CopyQ → Bool → Bool → Nat → Instr) (f : LC) (q : CopyQ) : Dec :=
  let out := tst (fld f.z 9 1)
  let st := tst (fld f.z 8 1)
  dec (!(out && (q == .t8 || q == .t16 || q == .publish)) && !(st && (out || q == .publish)) && !(st && decide (16 ≤ f.x))
      && !(q == .publish && decide (f.x < 16)))
    ((st || q == .publish || f.x == 0) && (!st || f.l == 0)) (c f.g f.l f.n f.x q out st (fld f.z 0 8))

/-- A route that R214 admits is accepted, and names no stream or ring beyond the field X. -/
theorem routeOk_imp {l x : Nat} {q : CopyQ} {out st : Bool} (hr : routeOk l x q out st = true)
    (ht : (!(q == .t8 || q == .t16) || !out) = true) :
    (!(out && (q == .t8 || q == .t16 || q == .publish)) && !(st && (out || q == .publish)) && !(st && decide (16 ≤ x))
      && !(q == .publish && decide (x < 16))) = true ∧ ((st || q == .publish || x == 0) && (!st || l == 0)) = true ∧ x < 32 := by
  cases st
  case false =>
    cases q
    case publish => simp_all [routeOk]
    all_goals cases out <;> simp_all [routeOk]
  case true =>
    simp only [routeOk, Bool.and_eq_true, decide_eq_true_eq, bne_iff_ne, beq_iff_eq, if_true, Bool.not_eq_true'] at hr
    obtain ⟨⟨⟨hx, hq⟩, hout⟩, hl⟩ := hr
    have hlt : x < 32 := by omega
    simp [hx, hq, hout, hl, hlt]

theorem roundTrips_copy {c : Nat → Nat → Nat → Nat → CopyQ → Bool → Bool → Nat → Instr} {sub g l n x tag : Nat} {q : CopyQ} {out st : Bool}
    (he : encodeBerth (c g l n x q out st tag) = some (encLC h 0x6C sub g l n x q.code (copyZ out st tag))) (hsub : sub < 128)
    (hh : h.wf = true) (hg : g < 64) (hl : l < 64) (hn : n < 64) (htag : tag < 256) (hr : routeOk l x q out st = true)
    (ht : (!(q == .t8 || q == .t16) || !out) = true)
    (hdec : ∀ z, decCopy h ⟨g, l, n, x, q.code, sub, z⟩ = decRoute c ⟨g, l, n, x, q.code, sub, z⟩ q) :
    RoundTrips (c g l n x q out st tag) := by
  obtain ⟨hres, hzero, hx⟩ := routeOk_imp hr ht
  have hz := copyZ_fields out st htag
  have hq := q.code_lt
  refine roundTrips_lc (by decide) hh he (by omega) ((hdec _).trans ?_)
  simp only [decRoute, hz, tst_bit, hres, hzero, dec_true_true]

theorem roundTrips_cp {g l n x tag : Nat} {q : CopyQ} {out st : Bool}
    (hwf : (h.wf && reg g && reg l && reg n && decide (tag < 256) && routeOk l x q out st && (!(q == .t8 || q == .t16) || !out)) = true) :
    RoundTrips (.cp h g l n x q out st tag) := by
  simp only [reg, Bool.and_eq_true, decide_eq_true_eq] at hwf
  obtain ⟨⟨⟨⟨⟨⟨hh, hg⟩, hl⟩, hn⟩, htag⟩, hr⟩, ht⟩ := hwf
  exact roundTrips_copy rfl (by decide) hh hg hl hn htag hr ht fun z => by simp only [decCopy, CopyQ.ofCode?_code, decQ_some, decRoute]

/-- CPW and CPS do not transpose. -/
theorem roundTrips_cpPlain {c : Nat → Nat → Nat → Nat → CopyQ → Bool → Bool → Nat → Instr} {sub g l n x tag : Nat} {q : CopyQ}
    {out st : Bool} (he : encodeBerth (c g l n x q out st tag) = some (encLC h 0x6C sub g l n x q.code (copyZ out st tag)))
    (hsub : sub < 128)
    (hdec : ∀ q' z, decCopy h ⟨g, l, n, x, q', sub, z⟩ = decQ (CopyQ.ofCode? q') fun q =>
      if q == .t8 || q == .t16 then .error scanReserved else decRoute c ⟨g, l, n, x, q', sub, z⟩ q)
    (hwf : (h.wf && reg g && reg l && reg n && decide (tag < 256) && routeOk l x q out st && q != .t8 && q != .t16) = true) :
    RoundTrips (c g l n x q out st tag) := by
  simp only [reg, Bool.and_eq_true, decide_eq_true_eq, bne_iff_ne] at hwf
  obtain ⟨⟨⟨⟨⟨⟨⟨hh, hg⟩, hl⟩, hn⟩, htag⟩, hr⟩, h8⟩, h16⟩ := hwf
  exact roundTrips_copy he hsub hh hg hl hn htag hr (by simp [h8, h16]) fun z => by simp [hdec, h8, h16]

theorem roundTrips_cpg {g l n tag : Nat} {zero : Bool} (hwf : (h.wf && reg g && reg l && reg n && decide (tag < 256)) = true) :
    RoundTrips (.cpg h g l n zero tag) := by
  simp only [reg, Bool.and_eq_true, decide_eq_true_eq] at hwf
  obtain ⟨⟨⟨⟨hh, hg⟩, hl⟩, hn⟩, htag⟩ := hwf
  have ht : fld tag 0 8 = tag := by simp only [fld]; omega
  refine roundTrips_lc (by decide) hh rfl (by split <;> omega) ?_
  cases zero <;> simp [decLC, decCopy, CopyQ.ofCode?, ht, htag]

theorem roundTrips_lwait {c : Nat} (hwf : (h.wf && decide (c ≤ 64)) = true) : RoundTrips (.lwait h c) := by
  simp only [Bool.and_eq_true, decide_eq_true_eq] at hwf
  obtain ⟨hh, hc⟩ := hwf
  have hz : fld c 0 7 = c ∧ c < 128 := by simp only [fld]; omega
  exact roundTrips_lc (by decide) hh rfl (by omega) (by simp [decLC, decCopy, qRes, hz, hc])

-- streams and rings (R220-R225)

theorem roundTrips_stbind {x es : Nat} (hwf : (h.wf && decide (x < 16) && decide (es < 3)) = true) : RoundTrips (.stbind h x es) := by
  simp only [Bool.and_eq_true, decide_eq_true_eq] at hwf
  obtain ⟨⟨hh, hx⟩, hes⟩ := hwf
  have hz : fld es 0 2 = es ∧ es < 4 := by simp only [fld]; omega
  have hne : (es != 3) = true := bne_iff_ne.2 (by omega)
  exact roundTrips_lc (by decide) hh rfl (by omega) (by simp [decLC, qRes, hz, hx, hne])

theorem roundTrips_strel {g l x : Nat} (hwf : (h.wf && reg g && reg l && decide (x < 16)) = true) : RoundTrips (.strel h g l x) := by
  simp only [reg, Bool.and_eq_true, decide_eq_true_eq] at hwf
  obtain ⟨⟨⟨hh, hg⟩, hl⟩, hx⟩ := hwf
  exact roundTrips_lc (by decide) hh rfl (by omega) (by simp [decLC, qRes, hx])

theorem roundTrips_rconf {q l n : Nat} (hwf : (h.wf && decide (q < 16) && reg l && reg n) = true) : RoundTrips (.rconf h q l n) := by
  simp only [reg, Bool.and_eq_true, decide_eq_true_eq] at hwf
  obtain ⟨⟨⟨hh, hq⟩, hl⟩, hn⟩ := hwf
  exact roundTrips_lc (by decide) hh rfl (by omega) (by simp [decLC, qRes])

/-- RACQ, RPUB and RTAKE. -/
theorem roundTrips_ring {c : Nat → Nat → Instr} {sub q l : Nat} (he : encodeBerth (c q l) = some (encLC h 0x66 sub 0 l 0 (16 + q) 0 0))
    (hsub : sub < 128) (hdec : ∀ l x, decLC 0x66 h ⟨0, l, 0, x, 0, sub, 0⟩ = dec (decide (16 ≤ x)) true (c (x - 16) l))
    (hwf : (h.wf && decide (q < 16) && reg l) = true) : RoundTrips (c q l) := by
  simp only [reg, Bool.and_eq_true, decide_eq_true_eq] at hwf
  obtain ⟨⟨hh, hq⟩, hl⟩ := hwf
  exact roundTrips_lc (by decide) hh he (by omega) (by simp [hdec])

theorem roundTrips_rrel {q : Nat} (hwf : (h.wf && decide (q < 16)) = true) : RoundTrips (.rrel h q) := by
  simp only [Bool.and_eq_true, decide_eq_true_eq] at hwf
  obtain ⟨hh, hq⟩ := hwf
  exact roundTrips_lc (by decide) hh rfl (by omega) (by simp [decLC, qRes])

-- probe tables, atomics and semaphores (R226-R233)

theorem roundTrips_probe {g l p o : Nat} (hwf : (h.wf && reg g && reg l && decide (p < 4) && decide (o < 1024)) = true) :
    RoundTrips (.probe h g l p o) := by
  simp only [reg, Bool.and_eq_true, decide_eq_true_eq] at hwf
  obtain ⟨⟨⟨⟨hh, hg⟩, hl⟩, hp⟩, ho⟩ := hwf
  exact roundTrips_lc (by decide) hh rfl (by omega) (by simp [decLC, qRes, hp])

theorem roundTrips_pinv {g p : Nat} {all : Bool} (hwf : (h.wf && reg g && decide (p < 4) && (!all || g == 0)) = true) :
    RoundTrips (.pinv h g p all) := by
  simp only [reg, Bool.and_eq_true, decide_eq_true_eq] at hwf
  obtain ⟨⟨⟨hh, hg⟩, hp⟩, hall⟩ := hwf
  have hz : (bit all == 0 || g == 0) = true := by cases all <;> simp_all
  have hbit := bit_lt all
  exact roundTrips_lc (by decide) hh rfl (by omega) (by simp [decLC, qRes, hp, hbit, hz])

/-- The sub-op of an atomic: the operation, its order and its width. -/
theorem atomSub_fields (o : AtomOp) {ord : Nat} (w64 : Bool) (hord : ord < 4) : fld (atomSub o ord w64) 3 4 = o.code ∧
    fld (atomSub o ord w64) 1 2 = ord ∧ fld (atomSub o ord w64) 0 1 = bit w64 ∧ atomSub o ord w64 < 128 := by
  have ho := o.code_lt
  have hw := bit_lt w64
  simp only [fld, atomSub]
  omega

/-- A scope number fills the four low bits. -/
theorem scope_field {scope : Nat} (hs : scope < 10) : fld scope 0 4 = scope ∧ scope < 16 := by
  simp only [fld]
  omega

theorem roundTrips_atom {g l n x ord scope : Nat} {o : AtomOp} {w64 : Bool}
    (hwf : (h.wf && reg g && reg l && reg n && decide (x < 16) && Instr.wf.atomOk o w64 l && decide (ord < 4)
      && decide (scope < 10)) = true) : RoundTrips (.atom h g l n x o ord w64 scope) := by
  simp only [reg, Bool.and_eq_true, decide_eq_true_eq] at hwf
  obtain ⟨⟨⟨⟨⟨⟨⟨hh, hg⟩, hl⟩, hn⟩, hx⟩, hok⟩, hord⟩, hs⟩ := hwf
  have hsub := atomSub_fields o w64 hord
  have hz := scope_field hs
  exact roundTrips_lc (by decide) hh rfl (by omega) (by simp [decLC, decAtom, qRes, hsub, hz, hok, hs, hx])

theorem roundTrips_atomnr {g l n ord scope : Nat} {o : AtomOp} {w64 : Bool}
    (hwf : (h.wf && reg g && reg l && reg n && o != .read && Instr.wf.atomOk o w64 l && decide (ord < 4)
      && decide (scope < 10)) = true) : RoundTrips (.atomnr h g l n o ord w64 scope) := by
  simp only [reg, Bool.and_eq_true, decide_eq_true_eq] at hwf
  obtain ⟨⟨⟨⟨⟨⟨⟨hh, hg⟩, hl⟩, hn⟩, hread⟩, hok⟩, hord⟩, hs⟩ := hwf
  have hsub := atomSub_fields o w64 hord
  have hz := scope_field hs
  exact roundTrips_lc (by decide) hh rfl (by omega) (by simp [decLC, decAtom, qRes, hsub, hz, hok, hs, hread])

theorem roundTrips_atomfence {scope : Nat} (hwf : (h.wf && decide (scope < 10)) = true) : RoundTrips (.atomfence h scope) := by
  simp only [Bool.and_eq_true, decide_eq_true_eq] at hwf
  obtain ⟨hh, hs⟩ := hwf
  have hz := scope_field hs
  exact roundTrips_lc (by decide) hh rfl (by omega) (by simp [decLC, qRes, hz, hs])

theorem roundTrips_semwait {g n : Nat} {c : SCond} {sub : Bool} (hwf : (h.wf && reg g && reg n && (!sub || c == .geu)) = true) :
    RoundTrips (.semwait h g n c sub) := by
  simp only [reg, Bool.and_eq_true, decide_eq_true_eq] at hwf
  obtain ⟨⟨⟨hh, hg⟩, hn⟩, hsub⟩ := hwf
  have hc := c.code_lt
  have hs := bit_lt sub
  have hz : fld (bit sub * 4 + c.code) 0 2 = c.code ∧ fld (bit sub * 4 + c.code) 2 1 = bit sub ∧ bit sub * 4 + c.code < 8 := by
    simp only [fld]; omega
  exact roundTrips_lc (by decide) hh rfl (by omega) (by simp [decLC, qRes, hz, hsub])

-- forms whose operands are registers alone

/-- The operands g, l and n; what the form does not use is s0. -/
theorem roundTrips_gln {i : Instr} {sub g l n : Nat} (he : encodeBerth i = some (encLC h op sub g l n 0 0 0)) (hop : IsLC op)
    (hsub : sub < 128) (hdec : decLC op h ⟨g, l, n, 0, 0, sub, 0⟩ = .ok i) (hwf : (h.wf && reg g && reg l && reg n) = true) :
    RoundTrips i := by
  simp only [reg, Bool.and_eq_true, decide_eq_true_eq] at hwf
  obtain ⟨⟨⟨hh, hg⟩, hl⟩, hn⟩ := hwf
  exact roundTrips_lc hop hh he (by omega) hdec

theorem roundTrips_pwait {l : Nat} (hwf : (h.wf && reg l) = true) : RoundTrips (.pwait h l) :=
  roundTrips_gln rfl (by decide) (by decide) rfl (by simpa [reg] using hwf)

theorem roundTrips_sempost {g n : Nat} (hwf : (h.wf && reg g && reg n) = true) : RoundTrips (.sempost h g n) :=
  roundTrips_gln rfl (by decide) (by decide) rfl (by simpa [reg] using hwf)

theorem roundTrips_layset {l n : Nat} (hwf : (h.wf && reg l && reg n) = true) : RoundTrips (.layset h l n) :=
  roundTrips_gln rfl (by decide) (by decide) rfl (by simpa [reg] using hwf)

theorem roundTrips_imload {g l n tag : Nat} (hwf : (h.wf && reg g && reg l && reg n && decide (tag < 256)) = true) :
    RoundTrips (.imload h g l n tag) := by
  simp only [reg, Bool.and_eq_true, decide_eq_true_eq] at hwf
  obtain ⟨⟨⟨⟨hh, hg⟩, hl⟩, hn⟩, ht⟩ := hwf
  exact roundTrips_lc (by decide) hh rfl (by omega) (by simp [decLC, qRes, ht])

theorem roundTrips_wconf {w g l n : Nat} (hwf : (h.wf && decide (w < 16) && reg g && reg l && reg n) = true) :
    RoundTrips (.wconf h w g l n) := by
  simp only [reg, Bool.and_eq_true, decide_eq_true_eq] at hwf
  obtain ⟨⟨⟨⟨hh, hw⟩, hg⟩, hl⟩, hn⟩ := hwf
  exact roundTrips_lc (by decide) hh rfl (by omega) (by simp [decLC, qRes, hw])

-- matrix forms (R245-R260)

theorem roundTrips_mmul {c q m : Nat} {g : Gang} {z mask : Bool} (hwf : (h.wf && decide (c < 4) && decide (q < 16) && reg m) = true) :
    RoundTrips (.mmul h c q m g z mask) := by
  simp only [reg, Bool.and_eq_true, decide_eq_true_eq] at hwf
  obtain ⟨⟨⟨hh, hc⟩, hq⟩, hm⟩ := hwf
  have hg := g.code_lt
  have hfn : fld (bit mask * 2 + bit z) 0 1 = bit z ∧ fld (bit mask * 2 + bit z) 1 1 = bit mask ∧ bit mask * 2 + bit z < 4 := by
    cases mask <;> cases z <;> decide
  exact roundTrips_mx (by decide) hh rfl (by omega) (by simp [decMX, hfn])

theorem roundTrips_wload {q : Nat} {g : Gang} {t : Fmt} (hwf : (h.wf && decide (q < 16) && t != .fp32) = true) :
    RoundTrips (.wload h q g t) := by
  simp only [Bool.and_eq_true, decide_eq_true_eq] at hwf
  obtain ⟨⟨hh, hq⟩, ht⟩ := hwf
  have hg := g.code_lt
  have htc := t.code_lt
  have hfn : fld t.code 0 4 = t.code ∧ t.code < 16 := by simp only [fld]; omega
  exact roundTrips_mx (by decide) hh rfl (by omega) (by simp [decMX, hfn, ht])

theorem roundTrips_wswap {g : Gang} (hwf : h.wf = true) : RoundTrips (.wswap h g) := by
  have hg := g.code_lt
  exact roundTrips_mx (by decide) hwf rfl (by omega) (by simp [decMX])

theorem roundTrips_sqbind {q : Nat} {none : Bool} (hwf : (h.wf && decide (q < 16) && (!none || q == 0)) = true) :
    RoundTrips (.sqbind h q none) := by
  simp only [Bool.and_eq_true, decide_eq_true_eq] at hwf
  obtain ⟨⟨hh, hq⟩, hnone⟩ := hwf
  have hbit := bit_lt none
  have hz : (bit none == 0 || q == 0) = true := by cases none <;> simp_all
  exact roundTrips_mx (by decide) hh rfl (by omega) (by simp [decMX, Gang.ofCode?, hbit, hz])

/-- FMTCLR and MPBCLR. -/
theorem roundTrips_bareMatrix {i : Instr} {fn : Nat} (he : encodeBerth i = some (encMX h op fn 0 0 0 0 0 0)) (hop : IsMX op)
    (hfn : fn < 256) (hdec : decMX op h ⟨0, 0, 0, 0, 0, fn, 0⟩ = .ok i) (hwf : h.wf = true) : RoundTrips i :=
  roundTrips_mx hop hwf he (by omega) hdec

/-- FMTPUSH, ACCCONF and MPBLD. -/
theorem roundTrips_matrixReg {c : Nat → Instr} {m fn : Nat} (he : encodeBerth (c m) = some (encMX h op fn 0 0 0 m 0 0))
    (hop : IsMX op) (hfn : fn < 256) (hdec : ∀ m, decMX op h ⟨0, 0, 0, m, 0, fn, 0⟩ = .ok (c m))
    (hwf : (h.wf && reg m) = true) : RoundTrips (c m) := by
  simp only [reg, Bool.and_eq_true, decide_eq_true_eq] at hwf
  obtain ⟨hh, hm⟩ := hwf
  exact roundTrips_mx hop hh he (by omega) (hdec m)

/-- ACCZERO and ACCFREE. -/
theorem roundTrips_accumulator {f : Nat → Gang → Instr} {c fn : Nat} {g : Gang}
    (he : encodeBerth (f c g) = some (encMX h 0x79 fn c 0 0 0 g.code 0)) (hfn : fn < 256)
    (hdec : ∀ c gang, decMX 0x79 h ⟨c, 0, 0, 0, gang, fn, 0⟩ = decQ (Gang.ofCode? gang) fun g => .ok (f c g))
    (hwf : (h.wf && decide (c < 4)) = true) : RoundTrips (f c g) := by
  simp only [Bool.and_eq_true, decide_eq_true_eq] at hwf
  obtain ⟨hh, hc⟩ := hwf
  have hg := g.code_lt
  exact roundTrips_mx (by decide) hh he (by omega) (by simp [hdec])

theorem roundTrips_accdrain {c m a b : Nat} {g : Gang} {t : Fmt} {rm : RM} {sat : Bool}
    (hwf : (h.wf && decide (c < 4) && reg m && t != .mxfp4 && t != .zb4 && rm != .sr && reg a && reg b) = true) :
    RoundTrips (.accdrain h c m g t rm sat a b) := by
  simp only [reg, Bool.and_eq_true, decide_eq_true_eq] at hwf
  obtain ⟨⟨⟨⟨⟨⟨⟨hh, hc⟩, hm⟩, hmx⟩, hzb⟩, hrm⟩, ha⟩, hb⟩ := hwf
  have hg := g.code_lt
  have hfn : fld (bit sat * 128 + rm.code * 16 + t.code) 0 4 = t.code ∧ fld (bit sat * 128 + rm.code * 16 + t.code) 4 3 = rm.code ∧
      fld (bit sat * 128 + rm.code * 16 + t.code) 7 1 = bit sat ∧ bit sat * 128 + rm.code * 16 + t.code < 256 := by
    have htc := t.code_lt
    have hrc := rm.code_lt
    have hs := bit_lt sat
    simp only [fld]; omega
  have hz : fld (a * 1024 + b * 16) 0 4 = 0 ∧ fld (a * 1024 + b * 16) 10 6 = a ∧ fld (a * 1024 + b * 16) 4 6 = b := by
    simp only [fld]; omega
  exact roundTrips_mx (by decide) hh rfl (by omega) (by simp [decMX, hfn, hz, RM.det?_code (bne_iff_ne.1 hrm), hmx, hzb])

/-- ACCREAD and ACCWRITE. -/
theorem roundTrips_accMove {f : MName → Nat → Nat → Instr} {x : MName} {c m fn : Nat}
    (he : encodeBerth (f x c m) = some (encMX h 0x7B fn c 0 0 m 0 (x.code * 32))) (hfn : fn < 256)
    (hdec : ∀ z, decMX 0x7B h ⟨c, 0, 0, m, 0, fn, z⟩ = dec true (fld z 0 5 == 0 && true) (f (MName.ofCode (fld z 5 11)) c m))
    (hwf : (h.wf && x.wf && decide (c < 4) && reg m) = true) : RoundTrips (f x c m) := by
  simp only [reg, Bool.and_eq_true, decide_eq_true_eq] at hwf
  obtain ⟨⟨⟨hh, hx⟩, hc⟩, hm⟩ := hwf
  have hxc := x.code_lt hx
  have hz : fld (x.code * 32) 0 5 = 0 ∧ fld (x.code * 32) 5 11 = x.code := by simp only [fld]; omega
  exact roundTrips_mx (by decide) hh he (by omega) (by simp [hdec, hz, MName.ofCode_code, hx])

end
end Sys2Proof
end

section
/-! PROOF. Every well-formed berth word decodes to what it encodes (spec/05 R67). -/

namespace Sys2Proof
open Sys2Proof.Machine

/-- Every well-formed berth word is of one of the forms above. -/
theorem roundTrips_of_wf {i : Instr} {h : Hd} (hw : wordHead i = some h) (hwf : i.wf = true) : RoundTrips i := by
  cases i with
  | nop => exact roundTrips_nop hwf
  | add | sub | and | or | xor | andn | shl | shr | sar | rol | min | max | minu | maxu =>
    exact roundTrips_alu rfl (by decide) rfl hwf
  | clz | popc | mov => exact roundTrips_alu rfl (by decide) rfl ((Bool.and_true _).trans hwf)
  | mul | mulh | mulhu | div | divu | rem | remu => exact roundTrips_mul rfl (by decide) rfl hwf
  | addi | movh | lds | sts => exact roundTrips_imm rfl (by decide) (fun _ => rfl) hwf
  | movi => exact roundTrips_movi hwf
  | shli | shri | sari | setb | clrb => exact roundTrips_bitNo rfl (by decide) (fun _ => rfl) hwf
  | bext | bins => exact roundTrips_field rfl (by decide) (fun _ => rfl) hwf
  | cmpeq | cmpne | cmplt | cmpltu | cmple | cmpleu => exact roundTrips_cmp rfl (by decide) (fun _ => rfl) hwf
  | sel => exact roundTrips_sel hwf
  | br => exact roundTrips_br hwf
  | call => exact roundTrips_call hwf
  | jmp => exact roundTrips_jmp hwf
  | ret => exact roundTrips_ret hwf
  | loop => exact roundTrips_loop hwf
  | loopi => exact roundTrips_loopi hwf
  | mtl => exact roundTrips_mtl hwf
  | mfl => exact roundTrips_mfl hwf
  | trap | bkpt => exact roundTrips_trap rfl (by decide) (fun _ => rfl) hwf
  | rett | exit | mboxack => exact roundTrips_bareSystem rfl (by decide) (fun _ => rfl) hwf
  | mfsys => exact roundTrips_mfsys hwf
  | mtsys => exact roundTrips_mtsys hwf
  | phase => exact roundTrips_phase hwf
  | fence => exact roundTrips_fence hwf
  | pfence => exact roundTrips_pfence hwf
  | time => exact roundTrips_time hwf
  | id => exact roundTrips_id hwf
  | launch => exact roundTrips_launch hwf
  | mboxreg => exact roundTrips_mboxreg hwf
  | tkret | tksplit | tkjoin | tkunshare | tkclaim => exact roundTrips_region rfl (by decide) (fun _ _ => rfl) hwf
  | tklend => exact roundTrips_tklend hwf
  | tkshare => exact roundTrips_tkshare hwf
  | tkatom => exact roundTrips_tkatom hwf
  | tkquery => exact roundTrips_tkquery hwf
  | vadd | vsub | vmul | vfma | vfms => exact roundTrips_float rfl (by decide) (fun _ => rfl) hwf
  | vmin | vmax => exact roundTrips_minMax rfl (by decide) (fun _ => rfl) hwf
  | vabs h d a f16 | vneg h d a f16 | vexp2 h d a f16 | vlog2 h d a f16 | vrsq h d a f16 | vrcp h d a f16 =>
    refine roundTrips_unary rfl (by decide) ?_ ?_ hwf
    · cases f16 <;> decide
    · cases f16 <;> intro x hx <;> simp only [decVV, hx] <;> rfl
  | viadd | visub => exact roundTrips_int rfl (by decide) (fun _ => rfl) hwf
  | vimul => exact roundTrips_vimul hwf
  | vand | vor | vxor | vsel => exact roundTrips_anyWidth rfl (by decide) (by decide) (fun _ _ _ _ _ => by simp [decVV, fld]) hwf
  | vshl | vshr | vsar => exact roundTrips_shift rfl (by decide) (by decide) (fun _ _ _ _ _ => by simp [decVV, fld]) hwf
  | vcmp => exact roundTrips_vcmp hwf
  | vcvt => exact roundTrips_vcvt hwf
  | vkey => exact roundTrips_vkey hwf
  | vhist => exact roundTrips_vhist hwf
  | vscan => exact roundTrips_vscan hwf
  | vred => exact roundTrips_vred hwf
  | vcomp | vexpd => exact roundTrips_compress rfl (by decide) (by decide) (fun _ _ _ _ => by simp [decVV, fld]) hwf
  | vperm => exact roundTrips_vperm hwf
  | vbcast => exact roundTrips_vbcast hwf
  | vmovs => exact roundTrips_vmovs hwf
  | vrot | vmconf => exact roundTrips_vectorConfig rfl (by decide) (fun _ _ => by simp [decVS, fld]) hwf
  | kand | kor => exact roundTrips_maskPair rfl (by decide) (fun _ _ _ => by simp [decVV, fld]) hwf
  | knot => exact roundTrips_knot hwf
  | kpopc => exact roundTrips_kpopc hwf
  | vld | vst => exact roundTrips_vectorMem rfl (by decide) (fun _ => rfl) hwf
  | vldx => exact roundTrips_vldx hwf
  | vstx => exact roundTrips_vstx hwf
  | cp => exact roundTrips_cp hwf
  | cpw | cps => exact roundTrips_cpPlain rfl (by decide) (fun _ _ => rfl) hwf
  | cpg => exact roundTrips_cpg hwf
  | lwait => exact roundTrips_lwait hwf
  | stbind => exact roundTrips_stbind hwf
  | strel => exact roundTrips_strel hwf
  | rconf => exact roundTrips_rconf hwf
  | racq | rpub | rtake => exact roundTrips_ring rfl (by decide) (fun _ _ => rfl) hwf
  | rrel => exact roundTrips_rrel hwf
  | probe => exact roundTrips_probe hwf
  | pwait => exact roundTrips_pwait hwf
  | pinv => exact roundTrips_pinv hwf
  | atom => exact roundTrips_atom hwf
  | atomnr => exact roundTrips_atomnr hwf
  | atomfence => exact roundTrips_atomfence hwf
  | semwait => exact roundTrips_semwait hwf
  | sempost => exact roundTrips_sempost hwf
  | whpush => exact roundTrips_gln rfl (by decide) (by decide) rfl hwf
  | imload => exact roundTrips_imload hwf
  | layset => exact roundTrips_layset hwf
  | wconf => exact roundTrips_wconf hwf
  | mmul => exact roundTrips_mmul hwf
  | wload => exact roundTrips_wload hwf
  | wswap => exact roundTrips_wswap hwf
  | fmtclr | mpbclr => exact roundTrips_bareMatrix rfl (by decide) (by decide) rfl hwf
  | fmtpush | accconf | mpbld => exact roundTrips_matrixReg rfl (by decide) (by decide) (fun _ => rfl) hwf
  | sqbind => exact roundTrips_sqbind hwf
  | acczero | accfree => exact roundTrips_accumulator rfl (by decide) (fun _ _ => rfl) hwf
  | accdrain => exact roundTrips_accdrain hwf
  | accread => exact roundTrips_accMove rfl (by decide) (fun _ => rfl) hwf
  | accwrite h c m x => exact roundTrips_accMove (f := fun x c m => .accwrite h c m x) rfl (by decide) (fun _ => rfl) hwf
  | _ => cases hw

/-- Settles O57: form by form, the encoder's word has in each field what the decoder reads back. -/
theorem berthEncoding : Obligations.BerthEncoding := fun _ _ => roundTrips_of_wf

end Sys2Proof
end

section
/-! PROOF. Scalar arithmetic (spec/11 R155, R156): the values, and the words that put them in flight. -/

namespace Sys2Proof.Machine
open Sys2Proof

-- shifts as multiplication and division ---------------------------------------------------------------------------------

theorem shiftLeft_eq_ofNat (x : W64) (n : Nat) : x <<< n = BitVec.ofNat 64 (x.toNat * 2 ^ n) := by
  refine BitVec.eq_of_toNat_eq ?_
  rw [BitVec.toNat_shiftLeft, BitVec.toNat_ofNat, Nat.shiftLeft_eq]

theorem ushiftRight_eq_ofNat (x : W64) (n : Nat) : x >>> n = BitVec.ofNat 64 (x.toNat / 2 ^ n) := by
  refine BitVec.eq_of_toNat_eq ?_
  rw [BitVec.toNat_ushiftRight, BitVec.toNat_ofNat, Nat.shiftRight_eq_div_pow,
    Nat.mod_eq_of_lt (Nat.lt_of_le_of_lt (Nat.div_le_self _ _) x.isLt)]

theorem sshiftRight_eq_ofInt (x : W64) (n : Nat) : x.sshiftRight n = BitVec.ofInt 64 (x.toInt / 2 ^ n) := by
  rw [BitVec.sshiftRight, Int.shiftRight_eq_div_pow]
  norm_cast

theorem rotateLeft_eq (x : W64) {n : Nat} (hn : n < 64) : x.rotateLeft n = (x <<< n) ||| (x >>> (64 - n)) := by
  rw [BitVec.rotateLeft, Nat.mod_eq_of_lt hn, BitVec.rotateLeftAux]

-- minimum and maximum ---------------------------------------------------------------------------------------------------

theorem slt_iff (x y : W64) : x.slt y = true ↔ ¬ y.toInt ≤ x.toInt := by rw [BitVec.slt_iff_toInt_lt, not_le]
theorem ult_iff (x y : W64) : x.ult y = true ↔ ¬ y.toNat ≤ x.toNat := by rw [BitVec.ult_iff_lt, BitVec.lt_def, not_le]

/-- The smaller of two values: which of two equal ones is taken does not matter. -/
theorem minS_eq (x y : W64) : (if y.slt x then y else x) = if x.toInt ≤ y.toInt then x else y := by
  simp only [slt_iff, ite_not]

theorem maxS_eq (x y : W64) : (if x.slt y then y else x) = if x.toInt ≤ y.toInt then y else x := by
  simp only [slt_iff, ite_not]
  rcases lt_trichotomy x.toInt y.toInt with h | h | h
  · rw [if_neg (not_le.2 h), if_pos h.le]
  · rw [BitVec.toInt_inj.1 h, ite_self]
  · rw [if_pos h.le, if_neg (not_le.2 h)]

theorem minU_eq (x y : W64) : (if y.ult x then y else x) = if x.toNat ≤ y.toNat then x else y := by
  simp only [ult_iff, ite_not]

theorem maxU_eq (x y : W64) : (if x.ult y then y else x) = if x.toNat ≤ y.toNat then y else x := by
  simp only [ult_iff, ite_not]
  rcases lt_trichotomy x.toNat y.toNat with h | h | h
  · rw [if_neg (not_le.2 h), if_pos h.le]
  · rw [BitVec.toNat_inj.1 h, ite_self]
  · rw [if_pos h.le, if_neg (not_le.2 h)]

-- counts of bits --------------------------------------------------------------------------------------------------------

theorem lt_two_pow_bitLen (m : Nat) : m < 2 ^ bitLen m := by
  rw [bitLen]
  split
  · next h => simp [h]
  · exact Nat.lt_log2_self

theorem bitLen_le {m n : Nat} (h : m < 2 ^ n) : bitLen m ≤ n := by
  rw [bitLen]
  split
  · exact Nat.zero_le n
  · next hm => exact (Nat.log2_lt hm).2 h

/-- The highest bit that is set is the one that bitLen counts last. -/
theorem testBit_bitLen {m : Nat} (h : bitLen m ≠ 0) : m.testBit (bitLen m - 1) = true := by
  rw [bitLen] at *
  split at h
  · exact absurd rfl h
  · next hm => rw [if_neg hm, Nat.add_sub_cancel, Nat.testBit_log2 hm]

/-- CLZ counts the zeros above the highest bit that is set. -/
theorem clz64_spec (x : W64) : (clz64 x).toNat ≤ 64 ∧ (∀ k, k < (clz64 x).toNat → x.getLsbD (63 - k) = false) ∧
    ((clz64 x).toNat < 64 → x.getLsbD (63 - (clz64 x).toNat) = true) := by
  have hle : bitLen x.toNat ≤ 64 := bitLen_le x.isLt
  have hval : (clz64 x).toNat = 64 - bitLen x.toNat := by
    rw [clz64, BitVec.toNat_ofNat, Nat.mod_eq_of_lt (by omega)]
  rw [hval]
  refine ⟨by omega, fun k hk => ?_, fun hlt => ?_⟩
  · exact Nat.testBit_lt_two_pow (Nat.lt_of_lt_of_le (lt_two_pow_bitLen _) (Nat.pow_le_pow_right (by decide) (by omega)))
  · have h := testBit_bitLen (m := x.toNat) (by omega)
    rwa [show bitLen x.toNat - 1 = 63 - (64 - bitLen x.toNat) by omega] at h

theorem popcount_eq (n v : Nat) : popcount n v = ((List.range n).filter fun k => v.testBit k).length := by
  induction n generalizing v with
  | zero => rfl
  | succ n ih =>
    have hshift : ((List.range n).map Nat.succ).filter (fun k => v.testBit k) =
        ((List.range n).filter fun k => (v / 2).testBit k).map Nat.succ := by
      rw [List.filter_map]
      exact congrArg _ (List.filter_congr fun k _ => Nat.testBit_succ v k)
    rw [popcount, ih, List.range_succ_eq_map, List.filter_cons, hshift, Nat.testBit_zero]
    rcases Nat.mod_two_eq_zero_or_one v with h | h <;> simp [h, Nat.add_comm]

theorem popc_toNat (x : W64) : (w64 (popcount 64 x.toNat)).toNat = ((List.range 64).filter fun k => x.getLsbD k).length := by
  have hle : popcount 64 x.toNat ≤ 64 := by
    rw [popcount_eq]
    exact (List.length_filter_le _ _).trans (List.length_range).le
  rw [BitVec.toNat_ofNat, Nat.mod_eq_of_lt (by omega), popcount_eq]
  rfl

-- products --------------------------------------------------------------------------------------------------------------

/-- Bits 127:64 of a number. -/
theorem highHalf_ofInt (p : Int) : ((BitVec.ofInt 128 p) >>> 64).truncate 64 = BitVec.ofInt 64 (p / 2 ^ 64) := by
  refine BitVec.eq_of_toNat_eq ?_
  simp only [BitVec.truncate_eq_setWidth, BitVec.toNat_setWidth, BitVec.toNat_ushiftRight, BitVec.toNat_ofInt, Nat.shiftRight_eq_div_pow]
  omega

theorem highHalf_ofNat (p : Nat) : ((BitVec.ofNat 128 p) >>> 64).truncate 64 = BitVec.ofNat 64 (p / 2 ^ 64) := by
  refine BitVec.eq_of_toNat_eq ?_
  simp only [BitVec.truncate_eq_setWidth, BitVec.toNat_setWidth, BitVec.toNat_ushiftRight, BitVec.toNat_ofNat, Nat.shiftRight_eq_div_pow]
  omega

theorem mulHigh_eq (x y : W64) : mulHigh x y = BitVec.ofInt 64 (x.toInt * y.toInt / 2 ^ 64) := by
  rw [mulHigh, BitVec.signExtend, BitVec.signExtend, ← BitVec.ofInt_mul, highHalf_ofInt]

theorem mulHighU_eq (x y : W64) : mulHighU x y = BitVec.ofNat 64 (x.toNat * y.toNat / 2 ^ 64) := by
  have hzero : ∀ z : W64, z.zeroExtend 128 = BitVec.ofNat 128 z.toNat := fun z => (BitVec.ofNat_toNat 128 z).symm
  rw [mulHighU, hzero, hzero, ← BitVec.ofNat_mul, highHalf_ofNat]

theorem mul_eq_ofNat (x y : W64) : x * y = BitVec.ofNat 64 (x.toNat * y.toNat) := by
  rw [BitVec.ofNat_mul, BitVec.ofNat_toNat, BitVec.ofNat_toNat, BitVec.setWidth_eq, BitVec.setWidth_eq]

theorem exec_nop (h : Hd) (s : State) : exec (.nop h) s = execNop h s := rfl

/-- A NOP issues, and does nothing else. -/
theorem execNop_go {h : Hd} {s : State} (hg : s.ctx.guard h = true) : execNop h s = .next { s with iss := .issued } := issue_go hg rfl

/-- Settles O2: each word issues, and the value that it puts in flight is the one that R155 or R156 gives. -/
theorem scalarArithmeticForms : Obligations.ScalarArithmeticForms := by
  refine ⟨fun s h d a b hg => ?arith, fun s h d a b hg => ?product⟩
  case arith =>
    intro x y n out
    have hn : n < 64 := Nat.mod_lt _ (by decide)
    have hgo : ∀ f : Ctx → W64, scalar h 1 d f s = out (f s.ctx) := fun f => scalar_go hg
    have heq : ∀ (f : Ctx → W64) (v : W64), f s.ctx = v → scalar h 1 d f s = out v := fun f v hv => hv ▸ scalar_go hg
    have hcount : bf y 0 6 = n := bf_zero y 6
    refine ⟨(exec_nop h s).trans (execNop_go hg), hgo _, hgo _, hgo _, hgo _, hgo _, hgo _, ?shl, ?shr, ?sar, ?rol,
      heq _ _ (minS_eq x y), heq _ _ (maxS_eq x y), heq _ _ (minU_eq x y), heq _ _ (maxU_eq x y),
      ⟨clz64 x, hgo _, clz64_spec x⟩, ⟨_, hgo _, popc_toNat x⟩, hgo _⟩
    case shl => exact heq _ _ (by rw [← shiftLeft_eq_ofNat, ← hcount])
    case shr => exact heq _ _ (by rw [← ushiftRight_eq_ofNat, ← hcount])
    case sar => exact heq _ _ (by rw [← sshiftRight_eq_ofInt, ← hcount])
    case rol => exact heq _ _ (by rw [← rotateLeft_eq x hn, ← hcount])
  case product =>
    intro x y out
    have heq : ∀ (l : Nat) (f : Ctx → W64) (v : W64), f s.ctx = v → scalar h l d f s = out l v := fun l f v hv => hv ▸ scalar_go hg
    exact ⟨heq 3 _ _ (mul_eq_ofNat x y), heq 3 _ _ (mulHigh_eq x y), heq 3 _ _ (mulHighU_eq x y), heq 20 _ _ rfl, heq 20 _ _ rfl,
      heq 20 _ _ rfl, heq 20 _ _ rfl⟩

end Sys2Proof.Machine
end

section
/-! PROOF. System registers, ID and TIME (spec/11 R168, R169, R175, R176). -/

namespace Sys2Proof.Machine
open Sys2Proof

theorem exec_mfsys (h : Hd) (d n : Nat) (s : State) : exec (.mfsys h d n) s = execMfsys h d n s := rfl
theorem exec_mtsys (h : Hd) (a n : Nat) (s : State) : exec (.mtsys h a n) s = execMtsys h a n s := rfl
theorem exec_id (h : Hd) (d key : Nat) (s : State) : exec (.id h d key) s = execId h d key s := rfl
theorem exec_time (h : Hd) (d : Nat) (fabric : Bool) (s : State) : exec (.time h d fabric) s = execTime h d fabric s := rfl

section
variable {h : Hd} {s : State} {a n : Nat} (hg : s.ctx.guard h = true)
include hg

/-- MTSYS of a register whose checks pass puts its write in flight. -/
theorem exec_mtsys_writes (hw : sysWritable s.ctx.hs n = true)
    (hexp : n = 0x40 → spexpBad (s.ctx.reg a) = false ∧ s.exportFree s.ctx.self = true)
    (hpt : 0x70 ≤ n → n < 0x74 → s.ctx.ptBad (n - 0x70) (s.ctx.reg a) = false ∧ s.ctx.ptFilling (n - 0x70) = false) :
    exec (.mtsys h a n) s = .next (s.flown 2 (.sysreg n (s.ctx.reg a)) false) := by
  rw [exec_mtsys, execMtsys]
  refine issue_go hg (verdict_of_none ?_)
  have hspexp : (n == 0x40 && spexpBad (s.ctx.reg a)) = false ∧ (n == 0x40 && !s.exportFree s.ctx.self) = false := by
    by_cases hn : n = 0x40
    · simp [hexp hn]
    · simp [hn]
  have htable : (decide (0x70 ≤ n ∧ n < 0x74) && s.ctx.ptBad (n - 0x70) (s.ctx.reg a)) = false ∧
      (decide (0x70 ≤ n ∧ n < 0x74) && s.ctx.ptFilling (n - 0x70)) = false := by
    by_cases hn : 0x70 ≤ n ∧ n < 0x74
    · simp [hpt hn.1 hn.2]
    · simp [hn]
  simp only [hw, hspexp, htable, Bool.not_true, chk_false]
  rfl

/-- MTSYS of a register that it may not write. -/
theorem exec_mtsys_privilege (hw : sysWritable s.ctx.hs n = false) : exec (.mtsys h a n) s = .next (s.trapped 0x63 (w64 n)) := by
  rw [exec_mtsys, execMtsys]
  refine issue_flt hg (verdict_of_some ?_)
  simp only [hw, Bool.not_false, chk_true]
  rfl

/-- MTSYS of a SPEXP that R121 does not admit. -/
theorem exec_mtsys_spexpBound (hbad : spexpBad (s.ctx.reg a) = true) :
    exec (.mtsys h a 0x40) s = .next (s.trapped 0x02 (s.ctx.reg a)) := by
  have hw : sysWritable s.ctx.hs 0x40 = true := by simp [sysWritable]
  rw [exec_mtsys, execMtsys]
  refine issue_flt hg (verdict_of_some ?_)
  simp only [hw, hbad, Bool.not_true, chk_false]
  rfl

/-- MTSYS of SPEXP while a region that it gave is lent or shared. -/
theorem exec_mtsys_spexpBusy (hok : spexpBad (s.ctx.reg a) = false) (hbusy : s.exportFree s.ctx.self = false) :
    exec (.mtsys h a 0x40) s = .next (s.trapped 0x06 (s.ctx.reg a)) := by
  have hw : sysWritable s.ctx.hs 0x40 = true := by simp [sysWritable]
  rw [exec_mtsys, execMtsys]
  refine issue_flt hg (verdict_of_some ?_)
  simp only [hw, hok, hbusy, Bool.not_true, Bool.and_false, chk_false]
  rfl

/-- MFSYS puts the register's value in flight. -/
theorem exec_mfsys_go (d : Nat) : exec (.mfsys h d n) s = .next (s.flown 2 (.sreg d (s.sysreg s.ctx n)) false) := by
  rw [exec_mfsys, execMfsys]
  exact issue_go hg rfl

/-- TIME puts the device's or the fabric's time in flight. -/
theorem exec_time_go (d : Nat) (fabric : Bool) :
    exec (.time h d fabric) s = .next (s.flown 1 (.sreg d (w64 (if fabric then s.fabtime else s.time))) false) := by
  rw [exec_time, execTime]
  exact issue_go hg rfl

variable {d key : Nat} {m : Man} (hm : s.man s.ctx.team = some m)
include hm

/-- ID of a key that names no level, or a level of the team. -/
theorem exec_id_value {v : W64} (hkey : 16 ≤ key ∨ key % 8 < m.nlev) (hv : s.idValue key = v) :
    exec (.id h d key) s = .next (s.flown 1 (.sreg d v) false) := by
  subst hv
  rw [exec_id, execId]
  refine issue_go hg (verdict_of_none ?_)
  rw [nlev_eq hm, decide_eq_false (by omega)]
  rfl

/-- ID of a level that the team does not have. -/
theorem exec_id_bound (hkey : key < 16) (hl : m.nlev ≤ key % 8) : exec (.id h d key) s = .next (s.trapped 0x02 (w64 (key % 8))) := by
  rw [exec_id, execId]
  refine issue_flt hg (verdict_of_some ?_)
  rw [nlev_eq hm, decide_eq_true ⟨hkey, hl⟩]
  rfl

end

/-- What ID reads of a team's manifest. -/
theorem idValue_eq {s : State} {m : Man} (hm : s.man s.ctx.team = some m) (key : Nat) : s.idValue key =
    if key < 8 then w64 (m.index key s.ctx.rank)
    else if key < 16 then w64 (m.size (key - 8))
    else if key = 0x10 then w64 s.ctx.rank
    else if key = 0x11 then w64 s.label
    else if key = 0x12 then w64 m.job
    else if key = 0x13 then w64 m.nlev
    else if key = 0x14 then w64 s.cur
    else match m.mbox with
      | some x => w64 x.2
      | none => BitVec.allOnes 64 := by
  have hteam : s.teamOf s.ctx = some m := hm
  rw [State.idValue]
  simp only [hteam]
  cases m.mbox <;> rfl

/-- Settles O10: the registers that MTSYS may write and the checks of each, and the keys of ID. -/
theorem systemRegistersAndIdentity : Obligations.SystemRegistersAndIdentity := by
  refine ⟨fun s h d a n hg => ?sysregs, fun s h d key l m hg hm => ?identity⟩
  case sysregs =>
    refine ⟨exec_mfsys_go hg d, fun hn hs => ?_, fun hn hs => ?_, fun hn => ?_, fun hn hbad => ?_, fun hn hok hbusy => ?_,
      fun hn hok hfree => ?_, fun hlo hhi hok hfill => ?_, fun h5 hexp hpt => ?_⟩
    · exact exec_mtsys_writes hg (by simp [sysWritable, hs]; omega) (by omega) (by omega)
    · exact exec_mtsys_privilege hg (by simp [sysWritable, hs]; omega)
    · exact exec_mtsys_writes hg (by simp [sysWritable]; omega) (by omega) (by omega)
    · exact hn ▸ exec_mtsys_spexpBound hg hbad
    · exact hn ▸ exec_mtsys_spexpBusy hg hok hbusy
    · exact exec_mtsys_writes hg (by simp [sysWritable, hn]) (fun _ => ⟨hok, hfree⟩) (by omega)
    · exact exec_mtsys_writes hg (by simp [sysWritable, hlo, hhi]) (by omega) (fun _ _ => ⟨hok, hfill⟩)
    · exact exec_mtsys_privilege hg (by simp [sysWritable]; omega)
  case identity =>
    refine ⟨exec_time_go hg d false, exec_time_go hg d true, fun hl hlev => ⟨?index, ?size⟩, exec_id_bound hg hm, ?keys⟩
    case index =>
      exact exec_id_value hg hm (.inr (by omega)) (by rw [idValue_eq hm, if_pos hl]; rfl)
    case size =>
      exact exec_id_value hg hm (.inr (by omega)) (by
        rw [idValue_eq hm, if_neg (by omega), if_pos (by omega), Nat.add_sub_cancel_left]
        rfl)
    case keys =>
      have hid : ∀ k v, 16 ≤ k → s.idValue k = v → exec (.id h d k) s = .next (s.flown 1 (.sreg d v) false) :=
        fun k v hk hv => exec_id_value hg hm (.inl hk) hv
      exact ⟨hid 0x10 _ (by decide) (idValue_eq hm 0x10), hid 0x11 _ (by decide) (idValue_eq hm 0x11),
        hid 0x12 _ (by decide) (idValue_eq hm 0x12), hid 0x13 _ (by decide) (idValue_eq hm 0x13),
        hid 0x14 _ (by decide) (idValue_eq hm 0x14), hid 0x15 _ (by decide) (idValue_eq hm 0x15)⟩

end Sys2Proof.Machine
end

section
/-! SUPPORT. One turn of a wharf unit whose wait is satisfied and whose checks pass, and the loops over rows (spec/21 R309, R315). -/

namespace Sys2Proof.Machine
open Sys2Proof

-- parts of a command ----------------------------------------------------------------------------------------------------

theorem WR.andThen_eq {α β : Type} {r : WR α} {s : State} {a : α} {f : State → α → WR β} {q : WR β} (h : r = .ok s a) (hf : f s a = q) :
    r.andThen f = q := by rw [h]; exact hf

/-- What was computed is written. -/
theorem WR.put_eq {r : WR (List Byte)} {s : State} {bs : List Byte} {c : WC} {d : DV} {i off n : Nat} {q : WR Unit} (h : r = .ok s bs)
    (hput : s.putAt c d i off bs = q) : r.put c d i off n = q := by rw [h]; exact hput

-- checks ----------------------------------------------------------------------------------------------------------------

theorem wchecks_cons_eq_none (b : Bool) (code : Nat) (l : List (Bool × Nat)) :
    wchecks ((b, code) :: l) = none ↔ b = false ∧ wchecks l = none := by cases b <;> simp [wchecks]

theorem wchecks_append_eq_none (l m : List (Bool × Nat)) : wchecks (l ++ m) = none ↔ wchecks l = none ∧ wchecks m = none := by
  induction l with
  | nil => simp [wchecks]
  | cons x l ih => obtain ⟨b, code⟩ := x; rw [List.cons_append, wchecks_cons_eq_none, wchecks_cons_eq_none, ih, and_assoc]

/-- A form's own checks come after those of its descriptors. -/
theorem wchecks_append_desc {l : List (Bool × Nat)} {b : Bool} (hl : wchecks l = none) (hb : b = false) :
    wchecks (l ++ [(b, fcWharfDesc)]) = none := (wchecks_append_eq_none _ _).2 ⟨hl, (wchecks_cons_eq_none _ _ _).2 ⟨hb, rfl⟩⟩

theorem wchecks_append_desc_bound {l : List (Bool × Nat)} {b b' : Bool} (hl : wchecks l = none) (hb : b = false) (hb' : b' = false) :
    wchecks (l ++ [(b, fcWharfDesc), (b', fcWharfBound)]) = none :=
  (wchecks_append_eq_none _ _).2 ⟨hl, (wchecks_cons_eq_none _ _ _).2 ⟨hb, (wchecks_cons_eq_none _ _ _).2 ⟨hb', rfl⟩⟩⟩

-- what the checks of the forms ask of descriptors, as they write it

theorem DV.not_matches_eq_false {a b : DV} (hlen : a.len = b.len) (hety : a.ety = b.ety) : (!a.matches b) = false := by
  simp [DV.matches, hlen, hety]
theorem DV.not_flt_eq_false {d : DV} (h : d.ety < 3) : (!d.flt) = false := by simp [DV.flt, h]
theorem DV.not_flt_or_int_eq_false {d : DV} (h : d.ety < 5) : (!(d.flt || d.int)) = false := by
  simp only [DV.flt, DV.int, Bool.not_eq_false', Bool.or_eq_true, decide_eq_true_eq, beq_iff_eq]
  omega
theorem DV.not_list_or_not_matches_eq_false {a b d : DV} (hlist : b.list = true) (hlen : d.len = a.len) (hety : d.ety = a.ety) :
    (!b.list || !d.matches a) = false := by rw [hlist, DV.not_matches_eq_false hlen hety]; rfl
theorem decide_lt_eq_false {m n : Nat} (h : n ≤ m) : decide (m < n) = false := decide_eq_false (Nat.not_lt.2 h)

-- the start of a command ------------------------------------------------------------------------------------------------

theorem units_modWharfSlot (s : State) (c : WC) (d : DV) (f : Nat → Slot → Slot) : (s.modWharfSlot c d f).units = s.units := by
  unfold State.modWharfSlot
  split <;> rfl

theorem units_foldl_modWharfSlot (c : WC) (f : Nat → Slot → Slot) (ds : List DV) (s : State) :
    (ds.foldl (fun s d => s.modWharfSlot c d f) s).units = s.units := by
  induction ds generalizing s with
  | nil => rfl
  | cons d ds ih => rw [List.foldl_cons, ih, units_modWharfSlot]

/-- The claims that a command lays on ring slots do not stop its unit. -/
theorem stop_wharfStart (s : State) (c : WC) (dst : List Nat) (u : Nat) : ((s.wharfStart c dst).unit u).stop = (s.unit u).stop := by
  simp only [State.wharfStart, State.unit, State.modUnit, units_foldl_modWharfSlot, Tab.get_upd]
  split
  · next h => rw [h]
  · rfl

/-- The command at the head of the unit's ring has its wait satisfied in s0, and its SIGNAL, if it has one, names a semaphore. -/
def State.wharfStarts (s : State) (x : WX) (dst : List Nat) (e : Entry) (l : List Entry) (s0 : State) : Prop :=
  (s.unit s.wcur).ring = e :: l ∧ (s.unit s.wcur).stop = false ∧
  (s.wharfStart ⟨s.wcur, e.job, e.by_, e.man⟩ dst).wordWait s.wcur e.job x = .ok s0 ∧
  (x.post = true → ((s0.unit s.wcur).sem x.sdesc e.job).isSome = true)

/-- A command that starts, passes its checks and is performed ends with status 0. -/
theorem wharf_done {s s0 t : State} {x : WX} {dst : List Nat} {e : Entry} {l : List Entry} {chks : State → WC → List (Bool × Nat)}
    {form : WC → State → WRes} (h : s.wharfStarts x dst e l s0) (hc : wchecks (chks s0 ⟨s.wcur, e.job, e.by_, e.man⟩) = none)
    (hf : form ⟨s.wcur, e.job, e.by_, e.man⟩ s0 = .done t) :
    wharf x dst chks form s = .next (t.wharfFinish s.wcur e (if x.post then some x.sdesc else none) 0 0).wharfNext := by
  obtain ⟨hring, hstop, hwait, hpost⟩ := h
  have hsignal : (x.post && ((s0.unit s.wcur).sem x.sdesc e.job).isNone) = false := by
    cases hp : x.post
    · rfl
    · simpa using hpost hp
  have hchecks := (wchecks_cons_eq_none _ ((s0.unit s.wcur).semCode x.sdesc e.job) _).2 ⟨hsignal, hc⟩
  have hrun : ¬ ((s.wharfStart ⟨s.wcur, e.job, e.by_, e.man⟩ dst).unit s.wcur).stop = true := by simp [stop_wharfStart, hstop]
  simp only [wharf, hring, if_neg hrun, hwait, hchecks, hf]

-- loops over rows -------------------------------------------------------------------------------------------------------

/-- A loop whose every turn succeeds. -/
theorem forIdx_done {f : Nat → State → WR Unit} {σ : Nat → State} {n i : Nat}
    (h : ∀ j, i ≤ j → j < i + n → f j (σ j) = .ok (σ (j + 1)) ()) : forIdx f n i (σ i) = .done (σ (i + n)) := by
  induction n generalizing i with
  | zero => rfl
  | succ n ih =>
    rw [forIdx, h i (Nat.le_refl i) (by omega)]
    simp only [ih (i := i + 1) fun j hj hn => h j (by omega) (by omega)]
    rw [Nat.add_right_comm, Nat.add_assoc]

theorem forIdx_zero_done {f : Nat → State → WR Unit} {σ : Nat → State} {n : Nat}
    (h : ∀ i, i < n → f i (σ i) = .ok (σ (i + 1)) ()) : forIdx f n 0 (σ 0) = .done (σ n) := by
  have := forIdx_done (f := f) (σ := σ) (n := n) (i := 0) fun j _ hj => h j (by omega)
  rwa [Nat.zero_add] at this

/-- The destination rows of the first i rows that a command moves, the last one first. -/
def rowsBefore (dr : Nat → Nat) (i : Nat) : List Nat := (List.range i).reverse.map dr

theorem rowsBefore_succ (dr : Nat → Nat) (i : Nat) : rowsBefore dr (i + 1) = dr i :: rowsBefore dr i := by
  simp [rowsBefore, List.range_succ]

/-- Row i is moved: its destination is row dr i, its bytes are read and written, and the granules now covered are whole. -/
def movesRow (c : WC) (d : DV) (dest : Nat → State → WR Nat) (src : Nat → State → WR (List Byte)) (dr : Nat → Nat) (i : Nat)
    (s t : State) : Prop :=
  ∃ s1 s2 s3 bs, dest i s = .ok s1 (dr i) ∧ src i s1 = .ok s2 bs ∧ s2.putRow c d (dr i) 0 bs = .ok s3 () ∧
    t = s3.rowWhole c d (rowsBefore dr (i + 1)) (dr i)

theorem moveRows_done {c : WC} {d : DV} {dest : Nat → State → WR Nat} {src : Nat → State → WR (List Byte)} {dr : Nat → Nat}
    {σ : Nat → State} {n i : Nat} (h : ∀ j, i ≤ j → j < i + n → movesRow c d dest src dr j (σ j) (σ (j + 1))) :
    moveRows c d dest src n i (rowsBefore dr i) (σ i) = .done ((σ (i + n)).rowsCame c d (rowsBefore dr (i + n))) := by
  induction n generalizing i with
  | zero => rfl
  | succ n ih =>
    obtain ⟨s1, s2, s3, bs, hdest, hsrc, hput, hnext⟩ := h i (Nat.le_refl i) (by omega)
    have hrest := ih (i := i + 1) fun j hj hn => h j (by omega) (by omega)
    rw [Nat.add_right_comm, Nat.add_assoc] at hrest
    simp only [moveRows, hdest, hsrc, hput, ← rowsBefore_succ, ← hnext, hrest]

theorem moveRows_zero_done {c : WC} {d : DV} {dest : Nat → State → WR Nat} {src : Nat → State → WR (List Byte)} {dr : Nat → Nat}
    {σ : Nat → State} {n : Nat} (h : ∀ i, i < n → movesRow c d dest src dr i (σ i) (σ (i + 1))) :
    moveRows c d dest src n 0 [] (σ 0) = .done ((σ n).rowsCame c d (rowsBefore dr n)) := by
  have := moveRows_done (i := 0) (n := n) fun j _ hj => h j (by omega)
  rwa [Nat.zero_add] at this

end Sys2Proof.Machine
end

section
/-! PROOF. The wharf commands that go row by row (spec/21 R314, R315, R318). -/

namespace Sys2Proof.Machine
open Sys2Proof

theorem exec_fill (x : WX) (da db : Nat) (s : State) : exec (.fill x da db) s = execFill x da db s := rfl
theorem exec_copyc (x : WX) (da db : Nat) (s : State) : exec (.copyc x da db) s = execCopyc x da db s := rfl
theorem exec_convert (x : WX) (da db : Nat) (rm : RM) (sat : Bool) (s : State) :
    exec (.convert x da db rm sat) s = execConvert x da db rm sat s := rfl
theorem exec_gather (x : WX) (da db dc : Nat) (pad : Bool) (s : State) : exec (.gather x da db dc pad) s = execGather x da db dc pad s := rfl
theorem exec_scatter (x : WX) (da db dc : Nat) (s : State) : exec (.scatter x da db dc) s = execScatter x da db dc s := rfl
theorem exec_axpy (x : WX) (da db dc : Nat) (s : State) : exec (.axpy x da db dc) s = execAxpy x da db dc s := rfl
theorem exec_scale (x : WX) (da db : Nat) (s : State) : exec (.scale x da db) s = execScale x da db s := rfl
theorem exec_clamp (x : WX) (da db dc : Nat) (s : State) : exec (.clamp x da db dc) s = execClamp x da db dc s := rfl
theorem exec_gemv (x : WX) (da db dc : Nat) (acc : Bool) (s : State) : exec (.gemv x da db dc acc) s = execGemv x da db dc acc s := rfl

/-- Settles O29: the descriptors fit the form, and each row is read and written as the state before it allows. -/
theorem wharfRowForms : Obligations.WharfRowForms := by
  intro s x da db dc rm sat pad acc e l σ ρ τ bs cs raw k u c post starts desc a b d fits ends row puts upTo moves moved m codes
  refine ⟨fun hs hfit hrow => ?fill, fun hs hfit hlen hety hcount hrow => ?copyc, fun hs hfit ha hb helems hrow => ?convert,
    fun hs hfit hlist hlen hety hcount hrow => ?gather, fun hs hfit hlist hlen hety hcount hrow => ?scatter,
    fun hs hfit hflt hlen hety hcount hrow => ?axpy, fun hs hfit hflt hrow => ?scale, fun hs hfit hnum hbounds hrow => ?clamp,
    fun hs hfit ha hb hd hx hroom hrow => ?gemv⟩
  case fill => exact (exec_fill x da db s).trans (wharf_done hs hfit (forIdx_zero_done hrow))
  case copyc =>
    have hc := wchecks_append_desc_bound hfit (DV.not_matches_eq_false hlen hety) (decide_lt_eq_false hcount)
    refine (exec_copyc x da db s).trans (wharf_done hs hc (moveRows_zero_done fun i hi => ?_))
    obtain ⟨hread, s3, hput, hnext⟩ := hrow i hi
    exact ⟨_, _, s3, _, rfl, hread, hput, hnext⟩
  case convert =>
    have hc := wchecks_append_desc_bound hfit (decide_eq_false (p := 4 < a.ety ∨ 4 < b.ety) (by omega)) (bne_eq_false_iff_eq.2 helems)
    refine (exec_convert x da db rm sat s).trans (wharf_done hs hc (moveRows_zero_done fun i hi => ?_))
    obtain ⟨hread, s3, hput, hnext⟩ := hrow i hi
    exact ⟨_, _, s3, _, rfl, WR.andThen_eq hread rfl, hput, hnext⟩
  case gather =>
    have hc := wchecks_append_desc_bound hfit (DV.not_list_or_not_matches_eq_false hlist hlen hety) (decide_lt_eq_false hcount)
    refine (exec_gather x da db dc pad s).trans (wharf_done hs hc (moveRows_zero_done fun i hi => ?_))
    obtain ⟨hidx, hread⟩ := hrow i hi
    split at hread
    · next hp =>
      obtain ⟨s3, hput, hnext⟩ := hread
      exact ⟨_, _, s3, _, rfl, WR.andThen_eq hidx (if_pos hp), hput, hnext⟩
    · next hp =>
      obtain ⟨hk, hread, s3, hput, hnext⟩ := hread
      exact ⟨_, _, s3, _, rfl, WR.andThen_eq hidx ((if_neg hp).trans ((if_neg (Nat.not_le.2 hk)).trans hread)), hput, hnext⟩
  case scatter =>
    have hc := wchecks_append_desc_bound hfit (DV.not_list_or_not_matches_eq_false hlist hlen hety) (decide_lt_eq_false hcount)
    refine (exec_scatter x da db dc s).trans (wharf_done hs hc (moveRows_zero_done fun i hi => ?_))
    obtain ⟨hidx, hk, hread, s3, hput, hnext⟩ := hrow i hi
    exact ⟨_, _, s3, _, WR.andThen_eq hidx (if_neg (Nat.not_le.2 hk)), hread, hput, hnext⟩
  case axpy =>
    have hc := wchecks_append_desc_bound hfit (Bool.or_eq_false_iff.2 ⟨DV.not_flt_eq_false hflt, DV.not_matches_eq_false hlen hety⟩)
      (decide_lt_eq_false hcount)
    refine (exec_axpy x da db dc s).trans (wharf_done hs hc (forIdx_zero_done fun i hi => ?_))
    obtain ⟨hx, hy, hput⟩ := hrow i hi
    exact WR.put_eq (WR.andThen_eq hx (WR.andThen_eq hy rfl)) hput
  case scale =>
    have hc := wchecks_append_desc hfit (DV.not_flt_eq_false hflt)
    refine (exec_scale x da db s).trans (wharf_done hs hc (forIdx_zero_done fun i hi => ?_))
    obtain ⟨hx, hput⟩ := hrow i hi
    exact WR.put_eq (WR.andThen_eq hx rfl) hput
  case clamp =>
    have hc := wchecks_append_desc_bound hfit (DV.not_flt_or_int_eq_false hnum) hbounds
    refine (exec_clamp x da db dc s).trans (wharf_done hs hc (forIdx_zero_done fun i hi => ?_))
    obtain ⟨hx, hput⟩ := hrow i hi
    exact WR.put_eq (WR.andThen_eq hx rfl) hput
  case gemv =>
    have hc := wchecks_append_desc_bound hfit
      (Bool.or_eq_false_iff.2 ⟨Bool.or_eq_false_iff.2 ⟨DV.not_flt_eq_false ha, DV.not_flt_eq_false hb⟩, DV.not_flt_eq_false hd⟩)
      (decide_eq_false (p := b.elems ≠ a.len ∨ d.elems < a.count) (by omega))
    refine (exec_gemv x da db dc acc s).trans (wharf_done hs hc (forIdx_zero_done fun i hi => ?_))
    obtain ⟨hx, hy, hput⟩ := hrow i hi
    cases acc with
    | false => exact WR.put_eq (WR.andThen_eq hx (WR.andThen_eq hy rfl)) hput
    | true =>
      obtain ⟨s', o, hold, hput⟩ := hput
      exact WR.put_eq (WR.andThen_eq hx (WR.andThen_eq hy (WR.andThen_eq hold rfl))) hput

end Sys2Proof.Machine
end

section
/-! SUPPORT. The steps that act on one operation of a berth: which operation it is, and what its stage, its outcome and the moves of its
bytes leave (spec/09 R140, spec/15 R213-R218). -/

namespace Sys2Proof.Machine
open Sys2Proof

/-- The state in which a berth is the running one. -/
abbrev State.running (s : State) (b : Nat) : State := { s with cur := b }

/-- A step about an operation that is there acts on it with its berth as the running one. -/
theorem withOp_eq {s : State} {o : Op} (f : Op → State → State) (hid : s.subj.op = o.id)
    (ho : (s.ctxAt s.subj.berth).op o.id = some o) : withOp s f = .next (f o (s.running s.subj.berth)) := by
  have hop : (s.running s.subj.berth).ctx.op s.subj.op = some o := hid ▸ ho
  unfold withOp
  dsimp only
  rw [hop]

-- the list of operations ------------------------------------------------------------------------------------------------

theorem op_id {c : Ctx} {id : Nat} {o : Op} (h : c.op id = some o) : o.id = id := by
  simpa using List.find?_some h

theorem op_dropOp (c : Ctx) (id : Nat) : (c.dropOp id).op id = none := by
  simp [Ctx.op, Ctx.dropOp, List.find?_filter]

/-- The operation of a number after a change of it that keeps its number. -/
theorem op_modOp (c : Ctx) (id : Nat) {f : Op → Op} (hf : ∀ o, (f o).id = o.id) : (c.modOp id f).op id = (c.op id).map f := by
  have hid : (fun o : Op => o.id == id) ∘ (fun o => if o.id = id then f o else o) = fun o => o.id == id := by
    funext o
    rw [Function.comp]
    split <;> simp [hf]
  rw [Ctx.op, Ctx.modOp, List.find?_map, hid]
  refine Option.map_congr fun o ho => ?_
  rw [if_pos (op_id ho)]

@[simp] theorem id_at (o : Op) (g : Stage) : (o.at_ g).id = o.id := by unfold Op.at_; split <;> rfl
@[simp] theorem stage_at (o : Op) (g : Stage) : (o.at_ g).stage = g := by unfold Op.at_; split <;> rfl

theorem ctxAt_setStage (s : State) (b id : Nat) (g : Stage) : (s.setStage b id g).ctxAt b = (s.ctxAt b).modOp id fun o => o.at_ g := by
  rw [State.setStage, ctxAt_modCtxAt, if_pos rfl]

/-- The operation whose stage is set is still there, at that stage. -/
theorem stage_setStage {s : State} {b id : Nat} {o : Op} (g : Stage) (ho : (s.ctxAt b).op id = some o) :
    (((s.setStage b id g).ctxAt b).op id).map Op.stage = some g := by
  rw [ctxAt_setStage, op_modOp _ _ fun o => id_at o g, ho]
  exact congrArg some (stage_at o g)

/-- An operation of which one more byte has moved is at the stage it was at (R140). -/
theorem op_byteMoved {c : Ctx} {o : Op} (x : Host.Cell) (ho : c.op o.id = some o) :
    let c' := c.modOp o.id fun p => { p with moved := p.moved ++ [x] }
    (c'.op o.id).map Op.moved = some (o.moved ++ [x]) ∧ (c'.op o.id).map Op.stage = some o.stage := by
  dsimp only
  rw [op_modOp _ _ (f := fun p => { p with moved := p.moved ++ [x] }) fun _ => rfl, ho]
  exact ⟨rfl, rfl⟩

-- outcomes that are kept ------------------------------------------------------------------------------------------------

/-- An outcome that is kept stands in the shadow of its berth alone. -/
theorem keep_frame (s : State) (b : Nat) (o : Op) (r : Reply) : s.keep b o r = { s with berths := (s.keep b o r).berths } := by
  unfold State.keep
  split <;> rfl

@[simp] theorem ctxAt_keep (s : State) (b k : Nat) (o : Op) (r : Reply) : (s.keep b o r).ctxAt k = s.ctxAt k := by
  unfold State.keep
  split
  · by_cases hk : k = b
    · simp [State.ctxAt, hk]
    · simp [State.ctxAt, hk]
  · rfl

-- bytes that move ahead of the rest ---------------------------------------------------------------------------------------

theorem length_mixed (o : Op) (now : List Byte) : (o.mixed now).length = now.length :=
  foldl_keeps List.length _ (fun _ _ => List.length_set) _ _

theorem length_landing (o : Op) (now d : List Byte) : (o.landing now d).length = d.length :=
  foldl_keeps List.length _ (fun _ _ => List.length_set) _ _

theorem length_read (u : Nat → Byte) (m : Memory) (a n : Nat) : (Memory.read u m a n).length = n := by
  induction n generalizing a with
  | zero => rfl
  | succ n ih => rw [Memory.read, List.length_cons, ih]

/-- What was written is read back, by its length. -/
theorem read_write_of_length (u : Nat → Byte) {bs : List Byte} {n : Nat} (m : Memory) (a : Nat) (h : bs.length = n) :
    Memory.read u (Memory.write u m a bs) a n = bs := h ▸ Memory.read_write u bs m a

end Sys2Proof.Machine
end

section
/-! SUPPORT. The arrival of an operation with one piece in HBM at its homes: translation, tokens, and the bytes (spec/09 R133, R152, spec/15
R213, R217, R239). -/

namespace Sys2Proof.Machine
open Sys2Proof

-- the berth that runs has no part in a translation ----------------------------------------------------------------------

theorem walkGo_cur (s : State) (b va at_ e lg : Nat) (ls : List (Nat × Nat)) :
    (s.running b).walkGo va at_ e lg ls = s.walkGo va at_ e lg ls := by
  induction ls generalizing at_ e lg with
  | nil => rfl
  | cons x ls ih =>
    unfold State.walkGo
    rw [ih]
    rfl

theorem translate_cur (s : State) (b job va : Nat) (a : Option Acc) :
    (s.running b).translate job va a = s.translate job va a := by
  unfold State.translate State.walk
  simp only [walkGo_cur]
  rfl

theorem plan_cur (s : State) (b job : Nat) (a : Option Acc) (ps : List (Nat × Nat)) :
    (s.running b).plan job a ps = s.plan job a ps := by
  induction ps with
  | nil => rfl
  | cons p ps ih => rw [State.plan, State.plan, translate_cur, ih]

-- what arrivals of writes keep --------------------------------------------------------------------------------------------

@[simp] theorem berths_arriveAll (s : State) (job : Nat) (l : List (Nat × Nat)) : (s.arriveAll job l).berths = s.berths :=
  foldl_keeps State.berths (fun (s : State) (x : Nat × Nat) => s.arrive job none x.1 x.2) (fun _ _ => berths_arrive ..) _ _
@[simp] theorem hbm_arriveAll (s : State) (job : Nat) (l : List (Nat × Nat)) : (s.arriveAll job l).hbm = s.hbm :=
  foldl_keeps State.hbm (fun (s : State) (x : Nat × Nat) => s.arrive job none x.1 x.2) (fun _ _ => hbm_arrive ..) _ _
@[simp] theorem losses_arriveAll (s : State) (job : Nat) (l : List (Nat × Nat)) : (s.arriveAll job l).losses = s.losses :=
  foldl_keeps State.losses (fun (s : State) (x : Nat × Nat) => s.arrive job none x.1 x.2) (fun _ _ => losses_arrive ..) _ _

-- one piece in HBM ---------------------------------------------------------------------------------------------------------

/-- The first address of a page that a single piece touches is the piece's. -/
theorem firstInPage_one (s : State) (job va n : Nat) : s.firstInPage job va [(va, n)] = va := by simp [State.firstInPage]

section
variable {s : State} {b va n pa : Nat} {ch : Option Nat} {o : Op}

/-- The bytes of a piece that can be read go on, with nothing asked of another home. -/
theorem fetchData_one {d : List Byte} (hn : o.total = n) (hd : s.hbmRead pa n = some d) :
    s.fetchData b o [(va, n, .hbm pa ch)] = s.haveData b o d := by
  have hlen : d.length = n := by
    obtain ⟨-, hraw⟩ := Option.ite_none_left_eq_some.1 hd
    rw [← Option.some.inj hraw]
    exact length_read ..
  have hg : s.gatherHbm 0 [(va, n, .hbm pa ch)] [] = .ok (Memory.write zeroByte [] 0 d) := by simp only [State.gatherHbm, hd]
  unfold State.fetchData
  rw [hg, hn]
  dsimp only
  rw [read_write_of_length _ _ _ hlen]
  rfl

/-- A piece with a granule that cannot be read fails the operation at its first byte (R217). -/
theorem fetchData_poisoned (hd : s.hbmRead pa n = none) : s.fetchData b o [(va, n, .hbm pa ch)] = s.failOp b o 0x33 va := by
  have hg : s.gatherHbm 0 [(va, n, .hbm pa ch)] [] = .error va := by simp only [State.gatherHbm, hd]
  unfold State.fetchData
  rw [hg]
  exact congrArg (s.failOp b o fcLighterPoison) (firstInPage_one ..)

end

/-- Bytes for one piece in HBM are written at once, and no other byte changes. -/
theorem putData_performed {s : State} {b va n pa : Nat} {ch : Option Nat} {o : Op} {d : List Byte} (hd : d.length = n)
    (ho : (s.ctxAt b).op o.id = some o)
    (hplan : s.plan (s.jobAt b) (some .write) (segPieces (o.dest (s.ctxAt b))) = .ok [(va, n, .hbm pa ch)]) :
    let t := s.putData b o d
    t.hbmRaw pa n = d ∧ ((t.ctxAt b).op o.id).map Op.stage = some (.replied []) ∧
      ∀ a, a < pa ∨ pa + n ≤ a → Memory.get t.hbmByte t.hbm a = Memory.get s.hbmByte s.hbm a := by
  have hwrite : s.writeHbm d 0 [(va, n, .hbm pa ch)] = s.hbmWrite pa d :=
    congrArg (s.hbmWrite pa) (show (d.drop 0).take n = d from List.take_of_length_le hd.le)
  have hput : s.putData b o d =
      ((s.hbmWrite pa d).arriveAll (s.jobAt b) (o.dest (s.ctxAt b))).setStage b o.id (.replied []) := by
    unfold State.putData
    dsimp only
    rw [hplan]
    dsimp only
    rw [hwrite]
    rfl
  dsimp only
  rw [hput]
  obtain ⟨u, hu⟩ : ∃ u, u = (s.hbmWrite pa d).arriveAll (s.jobAt b) (o.dest (s.ctxAt b)) := ⟨_, rfl⟩
  have hhbm : u.hbm = Memory.write s.hbmByte s.hbm pa d := by rw [hu, hbm_arriveAll]; rfl
  have hbyte : u.hbmByte = s.hbmByte := by rw [State.hbmByte, hu, losses_arriveAll]; rfl
  have hop : (u.ctxAt b).op o.id = some o := by rw [hu, State.ctxAt, State.berth, berths_arriveAll]; exact ho
  rw [← hu]
  refine ⟨?_, stage_setStage _ hop, fun a ha => ?_⟩
  · change Memory.read u.hbmByte u.hbm pa n = d
    rw [hhbm, hbyte]
    exact read_write_of_length _ _ _ hd
  · change Memory.get u.hbmByte u.hbm a = _
    rw [hhbm, hbyte]
    exact Memory.get_write_outside _ _ _ _ _ (by rwa [hd])

section
variable {s : State} {b va n pa : Nat} {ch : Option Nat} {o : Op}

/-- An operation that reads one piece in HBM and writes no global memory: a refused token fails it; else it has read its own side, and
the bytes of the piece are fetched. -/
theorem globalArrive_reads {segs : List (Nat × Nat)} {acc : Acc} (hsrc : o.source (s.ctxAt b) = some (segs, acc))
    (hdst : o.dest (s.ctxAt b) = []) (hplan : s.plan (s.jobAt b) (some acc) (segPieces segs) = .ok [(va, n, .hbm pa ch)]) :
    let asked := (s.healWalk (s.jobAt b) va).tokens ((s.ctxAt b).copyParties b (o.tag == stagingTag))
      (s.chkRange (s.jobAt b) none acc va n ++ s.ownChecks b o)
    (∀ s2 code a, asked = (s2, some (code, a)) → s.globalArrive b o = s2.failOp b o code a) ∧
    (∀ s2, asked = (s2, none) → s.globalArrive b o =
      (((s2.healWalk (s.jobAt b) va).heal pa n).modCtxAt b fun c => c.hasRead o.id).fetchData b o [(va, n, .hbm pa ch)]) := by
  have hchk : s.planChecks (s.jobAt b) acc [(va, n, .hbm pa ch)] ++ s.planChecks (s.jobAt b) .write [] ++ s.ownChecks b o =
      s.chkRange (s.jobAt b) none acc va n ++ s.ownChecks b o := by simp [State.planChecks]
  have hwalk : s.walkHeal (s.jobAt b) ([(va, n, .hbm pa ch)] ++ []) = s.healWalk (s.jobAt b) va := rfl
  have hnil : s.plan (s.jobAt b) (some .write) (segPieces []) = .ok [] := rfl
  unfold State.globalArrive
  dsimp only
  rw [hsrc, hdst]
  dsimp only
  rw [hplan, hnil]
  dsimp only
  rw [hchk, hwalk]
  refine ⟨fun s2 code a htok => ?_, fun s2 htok => ?_⟩
  · rw [htok]
    rfl
  · rw [htok]
    rfl

/-- An outbound copy of one piece in HBM that no token refuses has read its source, and its bytes are written. -/
theorem globalArrive_writes {r : CopyReq} {s2 : State} (hk : o.kind = .copy r) (hform : r.form = .cp) (hout : r.out = true)
    (hq : r.q ≠ .zero) (hdst : o.globalWrites (s.ctxAt b) = [(va, n)])
    (hplan : s.plan (s.jobAt b) (some .write) (segPieces [(va, n)]) = .ok [(va, n, .hbm pa ch)])
    (htok : (s.healWalk (s.jobAt b) va).tokens ((s.ctxAt b).copyParties b (o.tag == stagingTag))
      (s.chkRange (s.jobAt b) none .write va n ++ s.ownChecks b o) = (s2, none)) :
    s.globalArrive b o = (s2.modCtxAt b fun c => c.hasRead o.id).putData b o (o.mixed ((s.ctxAt b).spadRead r.l r.bytes)) := by
  have hsrc : o.source (s.ctxAt b) = none := by simp [Op.source, hk, hform, hout]
  have hdest : o.dest (s.ctxAt b) = [(va, n)] := by simp only [Op.dest, hk, hdst]
  have hchk : s.planChecks (s.jobAt b) .read [] ++ s.planChecks (s.jobAt b) .write [(va, n, .hbm pa ch)] ++ s.ownChecks b o =
      s.chkRange (s.jobAt b) none .write va n ++ s.ownChecks b o := by simp [State.planChecks]
  have hwalk : s.walkHeal (s.jobAt b) ([] ++ [(va, n, .hbm pa ch)]) = s.healWalk (s.jobAt b) va := rfl
  have hnil : s.plan (s.jobAt b) (some .read) [] = .ok [] := rfl
  unfold State.globalArrive
  dsimp only
  rw [hsrc, hdest]
  dsimp only
  rw [hplan, hnil]
  dsimp only
  rw [hchk, hwalk, htok, hk]
  dsimp only
  rw [if_neg hq, if_pos hout, if_pos (Or.inl hout)]
  rfl

end

end Sys2Proof.Machine
end

section
/-! SUPPORT. COPY_HOME_ARRIVAL by what arrives (spec/09 R140, spec/11 R177, R179, spec/15 R213, R217, R239, spec/21 R323). -/

namespace Sys2Proof.Machine
open Sys2Proof

/-- The walk and the token checks of a piece change no berth. -/
theorem berths_asked {s s2 : State} {job va : Nat} {ps : List Party} {l : List TokChk} {bad : Option (Nat × Nat)}
    (h : (s.healWalk job va).tokens ps l = (s2, bad)) : s2.berths = s.berths := by
  have hr := roster_tokens (s.healWalk job va) ps l
  rw [h] at hr
  exact (roster_fields (hr.trans (roster_healWalk s job va))).1

theorem exec_copyHomeArrival (s : State) : exec .copyHomeArrival s = execCopyHomeArrival s := rfl

section
variable {s : State} {o : Op} (hid : s.subj.op = o.id) (ho : (s.ctxAt s.subj.berth).op o.id = some o) (hst : o.stage = .sent)
  (hready : (s.running s.subj.berth).ready o = true)

include hst hready in
theorem mayGo : ¬(o.stage ≠ .sent ∨ (!(s.running s.subj.berth).ready o) = true) := by simp [hst, hready]

include hid ho hst hready

/-- A byte of an outbound copy's source is read ahead of the rest (R140). -/
theorem exec_copyHomeArrival_early {r : CopyReq} {k : Nat} (hitem : s.subj.item = k + 1) (hk : o.kind = .copy r) (hout : r.out = true)
    (hq : r.q ≠ .zero) (hlt : k < r.bytes) (hmoved : o.hasMoved k = false) : exec .copyHomeArrival s =
      .next ((s.running s.subj.berth).modCtxAt s.subj.berth fun c => c.modOp o.id fun o =>
        { o with moved := o.moved ++ [(k, Memory.get zeroByte c.spad (r.l + k))] }) := by
  have hpad : o.padSource = (r.l, r.bytes) := by simp [Op.padSource, hk, hout, hq]
  rw [exec_copyHomeArrival, execCopyHomeArrival, withOp_eq _ hid ho]
  dsimp only
  rw [if_neg (mayGo hst hready), if_pos (by omega), hitem, State.readEarly, hpad]
  dsimp only
  rw [if_neg (by simp [hmoved, hlt])]
  rfl

section
variable (hitem : s.subj.item = 0)
include hitem

/-- A copy of the plain form, a fill or an IMLOAD arrives at the homes of its global side. -/
theorem exec_copyHomeArrival_global (hk : (∃ r, o.kind = .copy r ∧ r.form = .cp) ∨ (∃ t e va n slot, o.kind = .fill t e va n slot) ∨
    ∃ va l n, o.kind = .imload va l n) :
    exec .copyHomeArrival s = .next ((s.running s.subj.berth).globalArrive s.subj.berth o) := by
  rw [exec_copyHomeArrival, execCopyHomeArrival, withOp_eq _ hid ho]
  dsimp only
  rw [if_neg (mayGo hst hready), if_neg (not_not.2 hitem)]
  obtain ⟨r, hk, hform⟩ | ⟨t, e, va, n, slot, hk⟩ | ⟨va, l, n, hk⟩ := hk
  · rw [hk]
    dsimp only
    rw [if_neg (by simp [hform])]
  · rw [hk]
  · rw [hk]

/-- An operation that reads one piece in HBM: a refused token fails it, and so does a granule that cannot be read; else its bytes are
there. -/
theorem exec_copyHomeArrival_reads {segs : List (Nat × Nat)} {acc : Acc} {va n pa : Nat} {ch : Option Nat}
    (hk : (∃ r, o.kind = .copy r ∧ r.form = .cp) ∨ (∃ t e va n slot, o.kind = .fill t e va n slot) ∨ ∃ va l n, o.kind = .imload va l n)
    (hsrc : o.source (s.ctxAt s.subj.berth) = some (segs, acc)) (hdst : o.dest (s.ctxAt s.subj.berth) = []) 
    (hplan : s.plan (s.jobAt s.subj.berth) (some acc) (segPieces segs) = .ok [(va, n, .hbm pa ch)]) :
    let b := s.subj.berth
    let job := s.jobAt b
    let asked := ((s.running b).healWalk job va).tokens ((s.ctxAt b).copyParties b (o.tag == stagingTag))
      (s.chkRange job none acc va n ++ s.ownChecks b o)
    let seen := fun t : State => ((t.healWalk job va).heal pa n).modCtxAt b fun c => c.hasRead o.id
    (∀ s2 code a, asked = (s2, some (code, a)) → exec .copyHomeArrival s = .next (s2.failOp b o code a)) ∧
    (∀ s2, asked = (s2, none) → (seen s2).hbmRead pa n = none → exec .copyHomeArrival s = .next ((seen s2).failOp b o 0x33 va)) ∧
    (∀ s2 d, asked = (s2, none) → o.total = n → (seen s2).hbmRead pa n = some d →
      exec .copyHomeArrival s = .next ((seen s2).haveData b o d)) := by
  have hgo := exec_copyHomeArrival_global hid ho hst hready hitem hk
  obtain ⟨hrefused, hpassed⟩ := globalArrive_reads (s := s.running s.subj.berth) hsrc hdst ((plan_cur ..).trans hplan)
  refine ⟨fun s2 code a hask => hgo.trans (congrArg _ (hrefused s2 code a hask)), fun s2 hask hd => ?_, fun s2 d hask hn hd => ?_⟩
  · exact hgo.trans (congrArg _ ((hpassed s2 hask).trans (fetchData_poisoned hd)))
  · exact hgo.trans (congrArg _ ((hpassed s2 hask).trans (fetchData_one hn hd)))

/-- An outbound copy of one piece in HBM that no token refuses: it is performed, its bytes stand there, and no other byte has changed. -/
theorem exec_copyHomeArrival_writes {r : CopyReq} {va n pa : Nat} {ch : Option Nat} {s2 : State} (hk : o.kind = .copy r)
    (hform : r.form = .cp) (hout : r.out = true) (hq : r.q ≠ .zero) (hn : n = r.bytes)
    (hdst : o.globalWrites (s.ctxAt s.subj.berth) = [(va, n)])
    (hplan : s.plan (s.jobAt s.subj.berth) (some .write) (segPieces [(va, n)]) = .ok [(va, n, .hbm pa ch)])
    (hask : ((s.running s.subj.berth).healWalk (s.jobAt s.subj.berth) va).tokens
      ((s.ctxAt s.subj.berth).copyParties s.subj.berth (o.tag == stagingTag))
      (s.chkRange (s.jobAt s.subj.berth) none .write va n ++ s.ownChecks s.subj.berth o) = (s2, none))
    (hplan3 : let s3 := s2.modCtxAt s.subj.berth fun c => c.hasRead o.id
      s3.plan (s3.jobAt s.subj.berth) (some .write) (segPieces (o.globalWrites (s3.ctxAt s.subj.berth))) = .ok [(va, n, .hbm pa ch)]) :
    ∃ t, exec .copyHomeArrival s = .next t ∧ t.hbmRaw pa n = o.mixed ((s.ctxAt s.subj.berth).spadRead r.l n) ∧
      ((t.ctxAt s.subj.berth).op o.id).map Op.stage = some (.replied []) ∧
      (∀ a, a < pa ∨ pa + n ≤ a → Memory.get t.hbmByte t.hbm a = Memory.get s2.hbmByte s2.hbm a) := by
  have hgo := exec_copyHomeArrival_global hid ho hst hready hitem (.inl ⟨r, hk, hform⟩)
  rw [globalArrive_writes (s := s.running s.subj.berth) hk hform hout hq hdst ((plan_cur ..).trans hplan) hask, ← hn] at hgo
  have hop : ((s2.modCtxAt s.subj.berth fun c => c.hasRead o.id).ctxAt s.subj.berth).op o.id = some o := by
    rw [ctxAt_modCtxAt, if_pos rfl, State.ctxAt, State.berth, berths_asked (s := s.running s.subj.berth) hask]
    exact ho
  have hdest : ∀ c, o.dest c = o.globalWrites c := fun c => by simp only [Op.dest, hk]
  have hlen : (o.mixed ((s.ctxAt s.subj.berth).spadRead r.l n)).length = n := by rw [length_mixed, Ctx.spadRead, length_read]
  exact ⟨_, hgo, putData_performed hlen hop (by rw [hdest]; exact hplan3)⟩

end
end

end Sys2Proof.Machine
end

section
/-! SUPPORT. Pushes, launches and acknowledgements, which the step of COPY_HOME_ARRIVAL performs too (spec/11 R177, R179, spec/21 R323). -/

namespace Sys2Proof.Machine
open Sys2Proof

section
variable (s : State) (b : Nat) (o : Op) (r : Reply)

@[simp] theorem cur_keep : (s.keep b o r).cur = s.cur := by rw [keep_frame]
@[simp] theorem hbm_keep : (s.keep b o r).hbm = s.hbm := by rw [keep_frame]
@[simp] theorem units_keep : (s.keep b o r).units = s.units := by rw [keep_frame]
@[simp] theorem lqs_keep : (s.keep b o r).lqs = s.lqs := by rw [keep_frame]
@[simp] theorem evtail_keep : (s.keep b o r).evtail = s.evtail := by rw [keep_frame]
@[simp] theorem mans_keep : (s.keep b o r).mans = s.mans := by rw [keep_frame]
@[simp] theorem mboxes_keep : (s.keep b o r).mboxes = s.mboxes := by rw [keep_frame]

end

/-- An operation that is performed and leaves, with its outcome kept: its berth lists it no longer, and the scratchpad is as the change of
the context leaves it. -/
theorem ctxAt_keep_dropOp (s : State) (b : Nat) (o : Op) (r : Reply) (f : Ctx → Ctx) :
    let t := (s.keep b o r).modCtxAt b fun c => (f c).dropOp o.id
    (t.ctxAt b).op o.id = none ∧ (t.ctxAt b).spad = (f (s.ctxAt b)).spad := by
  dsimp only
  rw [ctxAt_modCtxAt, if_pos rfl, ctxAt_keep]
  exact ⟨op_dropOp .., rfl⟩

theorem man_keep (s : State) (b : Nat) (o : Op) (r : Reply) (i : Nat) : (s.keep b o r).man i = s.man i := by
  rw [State.man, mans_keep]
  rfl
theorem man_modCtxAt (s : State) (b : Nat) (f : Ctx → Ctx) (i : Nat) : (s.modCtxAt b f).man i = s.man i := rfl

theorem unit_modUnit (s : State) (u v : Nat) (f : WUnit → WUnit) : (s.modUnit u f).unit v = if v = u then f (s.unit u) else s.unit v :=
  Tab.get_upd ..

theorem cur_enqueue (s : State) (q : Nat) (m : List Byte) (p : Party) : (s.enqueue q m p).cur = s.cur := by
  unfold State.enqueue
  dsimp only
  split
  · exact cur_event ..
  · split
    · exact cur_event ..
    · rename_i t ht
      exact congrArg (fun r => r.2.2.2.1) (roster_hmWrite ht)

/-- Which case a mailbox and an origin choose. It is said for any outcome of the cases: a reduction of the real ones would evaluate the
request of one of them. -/
theorem eq_of_mailboxOrigin {t k : State} {x : Option (Nat × Nat)} {y : Option Nat} {id slot root : Nat} {f : Nat → Nat → State}
    {g : Nat → Nat → Nat → State}
    (ht : t = match x, y with | some (i, j), none => f i j | some (i, j), some r => g i j r | none, _ => k)
    (hx : x = some (id, slot)) (hy : y = some root) : t = g id slot root := by
  subst hx hy
  exact ht

section
variable {s : State} {b id slot : Nat} {o : Op} {m : Man} (hm : s.man (s.ctxAt b).team = some m) (hbox : m.mbox = some (id, slot))

include hm in
/-- The handler of a berth-thread that acknowledges counts as acknowledged. -/
theorem man_acked : ((s.modMan m.id fun m => { m with acked := true }).man (s.ctxAt b).team).map Man.acked = some true := by
  rw [man_id hm, man_modMan_same (fun m : Man => { m with acked := true }) (fun _ => rfl) hm]
  rfl

include hm hbox

/-- The acknowledgement of a handler whose mailbox is of this device: the slot stops pending. -/
theorem ackMailbox_own (horigin : m.origin = none) : let t := s.ackMailbox b o
    (t.man (s.ctxAt b).team).map Man.acked = some true ∧ (t.ctxAt b).op o.id = none ∧
    t.mboxes = s.mboxes.map fun x => if x.id = id then { x with pend := x.pend.filter (· != slot) } else x := by
  simp only [State.ackMailbox, hm, hbox, horigin]
  obtain ⟨u, hu⟩ : ∃ u, u = (s.modMan m.id fun m => { m with acked := true }).clearSlot id slot := ⟨_, rfl⟩
  have hman : (u.man (s.ctxAt b).team).map Man.acked = some true := by rw [hu]; exact man_acked hm
  have hmbox : u.mboxes = s.mboxes.map fun x => if x.id = id then { x with pend := x.pend.filter (· != slot) } else x := by rw [hu]; rfl
  rw [← hu, man_modCtxAt, man_keep, mboxes_modCtxAt, mboxes_keep]
  exact ⟨hman, (ctxAt_keep_dropOp u b o (.done []) fun c => c).1, hmbox⟩

/-- The acknowledgement of a subcube handler's copy asks the origin, where a way leads there. -/
theorem ackMailbox_asks {root : Nat} (horigin : m.origin = some root) : let u := s.modMan m.id fun m => { m with acked := true }
    (∃ n v h d, u.request (.op b o.id) 0 0 h d = some (n, v) ∧ s.ackMailbox b o = v.setStage b o.id (.remote [(n, 0, 0)] [])) ∨
    s.ackMailbox b o = u := by
  obtain ⟨t, ht⟩ : ∃ t, t = s.ackMailbox b o := ⟨_, rfl⟩
  dsimp only
  rw [← ht]
  unfold State.ackMailbox at ht
  split at ht
  case h_1 h => cases hm.symm.trans h
  case h_2 k h =>
    obtain rfl : m = k := Option.some.inj (hm.symm.trans h)
    extract_lets at ht
    replace ht := eq_of_mailboxOrigin ht hbox horigin
    extract_lets at ht
    split at ht
    · rename_i n v hreq
      exact .inl ⟨n, v, _, _, hreq, ht⟩
    · exact .inr ht

/-- Either way the acknowledgement stays among the operations, and the mailboxes here are as they were. -/
theorem ackMailbox_origin {root : Nat} (ho : (s.ctxAt b).op o.id = some o) (horigin : m.origin = some root) : let t := s.ackMailbox b o
    (t.man (s.ctxAt b).team).map Man.acked = some true ∧ ((t.ctxAt b).op o.id).isSome = true ∧ t.mboxes = s.mboxes := by
  obtain ⟨u, hu⟩ : ∃ u, u = s.modMan m.id fun m => { m with acked := true } := ⟨_, rfl⟩
  have hman : (u.man (s.ctxAt b).team).map Man.acked = some true := by rw [hu]; exact man_acked hm
  have hop : (u.ctxAt b).op o.id = some o := by rw [hu]; exact ho
  have hmbox : u.mboxes = s.mboxes := by rw [hu]; rfl
  obtain ⟨n, v, h, d, hreq, hack⟩ | hack := ackMailbox_asks (o := o) hm hbox horigin
  · rw [← hu] at hreq
    have hv := request_frame hreq
    have hop' : (v.ctxAt b).op o.id = some o := by rw [hv]; exact hop
    dsimp only
    rw [hack, ctxAt_setStage, op_modOp _ _ fun o => id_at o _, hop', State.setStage, man_modCtxAt, mboxes_modCtxAt, hv]
    exact ⟨hman, rfl, hmbox⟩
  · dsimp only
    rw [hack, ← hu]
    exact ⟨hman, congrArg Option.isSome hop, hmbox⟩

end

section
variable {s : State} {o : Op} (hid : s.subj.op = o.id) (ho : (s.ctxAt s.subj.berth).op o.id = some o) (hst : o.stage = .sent)
  (hready : (s.running s.subj.berth).ready o = true) (hitem : s.subj.item = 0)
include hid ho hst hready hitem

/-- A WHPUSH whose unit is open and has room puts its words in the ring (R323). -/
theorem exec_copyHomeArrival_whpush {u l n : Nat} (hk : o.kind = .whpush u l n) (hopen : s.unitOpen u = true)
    (hroom : (s.unit u).room n = true) : ∃ t, exec .copyHomeArrival s = .next t ∧
      (t.unit u).ring = (s.unit u).ring ++ (bytesWords (8 * n) (o.mixed ((s.ctxAt s.subj.berth).spadRead l (8 * n)))).map
        (fun w => ⟨w, s.jobAt s.subj.berth, (s.ctxAt s.subj.berth).self, none, false, o.id⟩) ∧
      (∀ v, v ≠ u → t.unit v = s.unit v) ∧ (t.ctxAt s.subj.berth).op o.id = none ∧
      (t.ctxAt s.subj.berth).spad = (s.ctxAt s.subj.berth).spad := by
  have hwait : ¬((!(s.running s.subj.berth).unitOpen u || !((s.running s.subj.berth).unit u).room n) = true) := by
    rw [show (s.running s.subj.berth).unitOpen u = true from hopen, show ((s.running s.subj.berth).unit u).room n = true from hroom]
    decide
  rw [exec_copyHomeArrival, execCopyHomeArrival, withOp_eq _ hid ho]
  dsimp only
  rw [if_neg (mayGo hst hready), if_neg (not_not.2 hitem), hk]
  dsimp only
  rw [if_neg hwait]
  obtain ⟨p, hp⟩ : ∃ p, p = (s.running s.subj.berth).modUnit u fun x => { x with ring := x.ring ++
    (bytesWords (8 * n) (o.mixed ((s.running s.subj.berth).ctx.spadRead l (8 * n)))).map fun w =>
      ⟨w, (s.running s.subj.berth).job, (s.running s.subj.berth).ctx.self, none, false, o.id⟩ } := ⟨_, rfl⟩
  have hcur : (p.keep s.subj.berth o (.done [])).cur = s.subj.berth := by rw [cur_keep, hp]; rfl
  have hctx : p.ctxAt s.subj.berth = s.ctxAt s.subj.berth := by rw [hp]; rfl
  have hunit : ∀ v, ((p.keep s.subj.berth o (.done [])).modCtxAt s.subj.berth fun c => (c.hasRead o.id).dropOp o.id).unit v = p.unit v :=
    fun v => congrArg (fun l => Tab.get WUnit.reset l v) (units_keep ..)
  obtain ⟨hop, hspad⟩ := ctxAt_keep_dropOp p s.subj.berth o (.done []) fun c => c.hasRead o.id
  rw [← hp, State.modCtx, hcur]
  refine ⟨_, rfl, ?_, fun v hv => (hunit v).trans ?_, hop, hspad.trans (by rw [hctx]; rfl)⟩
  · rw [hunit, hp, unit_modUnit, if_pos rfl]
    rfl
  · rw [hp, unit_modUnit, if_neg hv]
    rfl

/-- A WHPUSH waits at a unit that is closed or has no room (log entry 119). -/
theorem exec_copyHomeArrival_whpushWaits {u l n : Nat} (hk : o.kind = .whpush u l n)
    (hfull : s.unitOpen u = false ∨ (s.unit u).room n = false) : exec .copyHomeArrival s = .next (s.running s.subj.berth) := by
  have hwait : (!(s.running s.subj.berth).unitOpen u || !((s.running s.subj.berth).unit u).room n) = true := by
    rw [Bool.or_eq_true, Bool.not_eq_true', Bool.not_eq_true']
    exact hfull
  rw [exec_copyHomeArrival, execCopyHomeArrival, withOp_eq _ hid ho]
  dsimp only
  rw [if_neg (mayGo hst hready), if_neg (not_not.2 hitem), hk]
  exact congrArg _ (if_pos hwait)

/-- A LAUNCH enqueues its manifest and is performed (R177). -/
theorem exec_copyHomeArrival_launch {q : Nat} {m : List Byte} (hk : o.kind = .launch q m) : ∃ t, exec .copyHomeArrival s = .next t ∧
    (t.ctxAt s.subj.berth).op o.id = none ∧
    let s2 := (s.running s.subj.berth).enqueue q m (s.ctxAt s.subj.berth).self
    t.lqs = s2.lqs ∧ t.hbm = s2.hbm ∧ t.evtail = s2.evtail := by
  rw [exec_copyHomeArrival, execCopyHomeArrival, withOp_eq _ hid ho]
  dsimp only
  rw [if_neg (mayGo hst hready), if_neg (not_not.2 hitem), hk]
  dsimp only
  rw [State.modCtx, cur_keep, cur_enqueue]
  refine ⟨_, rfl, (ctxAt_keep_dropOp _ _ o _ id).1, lqs_keep .., hbm_keep .., evtail_keep ..⟩

/-- A MBOXACK goes to its mailbox (R179). -/
theorem exec_copyHomeArrival_mboxack (hk : o.kind = .mboxack) :
    exec .copyHomeArrival s = .next ((s.running s.subj.berth).ackMailbox s.subj.berth o) := by
  rw [exec_copyHomeArrival, execCopyHomeArrival, withOp_eq _ hid ho]
  dsimp only
  rw [if_neg (mayGo hst hready), if_neg (not_not.2 hitem), hk]

end

end Sys2Proof.Machine
end

section
/-! The obligation on arrivals (spec/09 R140, R152, spec/11 R177, R179, spec/15 R213, R217, R239, spec/21 R323). -/

namespace Sys2Proof.Machine
open Sys2Proof

section
variable {o : Op} {r : CopyReq} (hk : o.kind = .copy r) (hform : r.form = .cp) (hout : r.out = false)
include hk hform hout

theorem source_inbound (hq : r.q ≠ .zero) (c : Ctx) : o.source c = some (r.segments c, .read) := by simp [Op.source, hk, hform, hout, hq]

theorem dest_inbound (c : Ctx) : o.dest c = [] := by simp [Op.dest, Op.globalWrites, hk, hform, hout]

end

/-- Bytes for a plain copy go on as they are. -/
theorem haveData_copy (s : State) (b : Nat) {o : Op} {r : CopyReq} (d : List Byte) (hk : o.kind = .copy r) (hform : r.form = .cp) :
    s.haveData b o d = s.setStage b o.id (.passed d) := by
  rw [State.haveData, hk]
  exact if_neg (by simp [hform])

/-- Settles O34: each arrival is the case of COPY_HOME_ARRIVAL that its kind names. -/
theorem arrivalAtTheHome : Obligations.ArrivalAtTheHome := by
  intro s o hid ho hst
  dsimp only
  intro hready
  refine ⟨fun r k hitem hk hout hq hlt hmoved => ?early, fun hitem => ?now⟩
  case early =>
    obtain ⟨hmove, hstage⟩ := op_byteMoved (k, Memory.get zeroByte (s.ctxAt s.subj.berth).spad (r.l + k)) ho
    refine ⟨_, exec_copyHomeArrival_early hid ho hst hready hitem hk hout hq hlt hmoved, ?_⟩
    rw [ctxAt_modCtxAt, if_pos rfl]
    exact ⟨hmove, hstage.trans (congrArg some hst), rfl, rfl⟩
  have hinbound := fun r (hk : o.kind = .copy r) (hform : r.form = .cp) (hout : r.out = false) (hq : r.q ≠ .zero) va n pa ch =>
    exec_copyHomeArrival_reads (va := va) (n := n) (pa := pa) (ch := ch) hid ho hst hready hitem (.inl ⟨r, hk, hform⟩)
      (source_inbound hk hform hout hq _) (dest_inbound hk hform hout _)
  refine ⟨fun r va n pa ch s2 d hk hform hout hq hn => ?copied,
    fun r va n pa ch s2 hk hform hout hq _ => ?poisoned, fun r va n pa ch s2 code a hk hform hout hq => ?refused,
    fun t e n slot va pa ch s2 d hk => ?fill, fun va l n pa ch s2 d hk => ?imload, fun r va n pa ch s2 hk hform hout hq hn hdst => ?written,
    fun u l n hk hopen hroom => exec_copyHomeArrival_whpush hid ho hst hready hitem hk hopen hroom,
    fun u l n hk hfull => exec_copyHomeArrival_whpushWaits hid ho hst hready hitem hk hfull,
    fun q m s2 hk hs2 => hs2 ▸ exec_copyHomeArrival_launch hid ho hst hready hitem hk, fun m id slot hk hm hbox => ?mboxack⟩
  case copied =>
    rintro ⟨hplan, hask⟩ hd
    obtain ⟨-, -, hread⟩ := hinbound r hk hform hout hq va n pa ch hplan
    rw [hread s2 d hask (by simp [Op.total, hk, hn]) hd, haveData_copy _ _ _ hk hform]
  case poisoned =>
    rintro ⟨hplan, hask⟩ hd
    obtain ⟨-, hdead, -⟩ := hinbound r hk hform hout hq va n pa ch hplan
    exact hdead s2 hask hd
  case refused =>
    rintro ⟨hplan, hask⟩
    obtain ⟨hno, -, -⟩ := hinbound r hk hform hout hq va n pa ch hplan
    exact hno s2 code a hask
  case fill =>
    rintro ⟨hplan, hask⟩ hd
    obtain ⟨-, -, hread⟩ := exec_copyHomeArrival_reads hid ho hst hready hitem (.inr (.inl ⟨t, e, va, n, slot, hk⟩))
      (by simp only [Op.source, hk]) (by simp only [Op.dest, hk]) hplan
    rw [hread s2 d hask (by simp only [Op.total, hk]) hd, State.haveData, hk]
  case imload =>
    rintro ⟨hplan, hask⟩ hd
    obtain ⟨-, -, hread⟩ := exec_copyHomeArrival_reads hid ho hst hready hitem (.inr (.inr ⟨va, l, n, hk⟩))
      (by simp only [Op.source, hk]) (by simp only [Op.dest, hk]) hplan
    rw [hread s2 d hask (by simp only [Op.total, hk]) hd, State.haveData, hk]
    exact ⟨fun hstop => congrArg _ (if_neg (Nat.not_lt.2 hstop)), fun hstop => congrArg _ (if_pos hstop)⟩
  case written =>
    rintro ⟨hplan, hask⟩ hplan3
    exact exec_copyHomeArrival_writes hid ho hst hready hitem hk hform hout hq hn hdst hplan hask hplan3
  case mboxack =>
    refine ⟨_, exec_copyHomeArrival_mboxack hid ho hst hready hitem hk, ?_⟩
    cases horigin : m.origin with
    | none =>
      obtain ⟨hack, hop, hbox⟩ := ackMailbox_own (s := s.running s.subj.berth) (o := o) hm hbox horigin
      exact ⟨hack, fun _ => ⟨hop, hbox⟩, fun h => absurd rfl h⟩
    | some root =>
      obtain ⟨hack, hop⟩ := ackMailbox_origin (s := s.running s.subj.berth) hm hbox ho horigin
      exact ⟨hack, (nomatch ·), fun _ => hop⟩

end Sys2Proof.Machine
end

section
/-! SUPPORT. What atomics, semaphores, pushes, code loads, layouts and windows do at issue (spec/15 R228-R230, R233, R234, R238-R241). -/

namespace Sys2Proof.Machine
open Sys2Proof

/-- A word that changes its own context after it has issued its operations. -/
theorem issuedAs_modCtx {s u : State} {c : Ctx} {n : Nat} {want : Bool} (f : Ctx → Ctx) (hcur : u.cur = s.cur)
    (hu : s.issuedAs { u with iss := .issued } c n want) : s.issuedAs { u.modCtx f with iss := .issued } (f c) n want := by
  obtain ⟨hframe, hother, hown⟩ := hu
  have hb : ∀ b, State.berth { u.modCtx f with iss := .issued } b =
      if b = s.cur then { u.berth s.cur with ctx := f (u.berth s.cur).ctx } else u.berth b := fun b => by
    rw [berth_iss, State.modCtx, State.modCtxAt, berth_modBerth, hcur]
  rw [berth_iss] at hown
  refine ⟨?_, fun b hne => ?_, ?_⟩
  · exact congrArg (fun t : State => { t with berths := (u.modCtx f).berths }) hframe
  · rw [hb b, if_neg hne]
    exact hother b hne
  · rw [hb s.cur, if_pos rfl, hown]

/-- An operation that is a persist point: the boundary after its group wants a persist (R150). -/
theorem issuedAs_pushPersist (s : State) (path : Nat) (kind : OpKind) (route : Route) (tag rel : Nat) :
    s.issuedAs { s.pushPersist path kind route tag rel with iss := .issued }
      { s.ctx with ops := s.ctx.ops ++ [s.newOp path kind route tag rel] } 1 true := by
  have hnew := pushOp_eq s path kind route tag rel
  generalize s.newOp path kind route tag rel = o at hnew ⊢
  have hown : (s.pushOp path kind route tag rel).berth s.cur = { s.berth s.cur with ctx := { s.ctx with ops := s.ctx.ops ++ [o] } } := by
    rw [hnew]
    exact berth_modCtxAt_same s s.cur fun c => { c with ops := c.ops ++ [o] }
  have hother : ∀ b, b ≠ s.cur → (s.pushOp path kind route tag rel).berth b = s.berth b := fun b hne => by
    rw [hnew]
    exact (sameBut_modCtxAt s s.cur fun c => { c with ops := c.ops ++ [o] }).2 b hne
  have hframe : s.pushOp path kind route tag rel =
      { s with berths := (s.pushOp path kind route tag rel).berths, nextId := s.nextId + 1 } := by rw [hnew]; rfl
  rw [State.pushPersist]
  generalize s.pushOp path kind route tag rel = u at hown hother hframe
  have hcur : u.cur = s.cur := by rw [hframe]
  have hb : ∀ b, State.berth { u.wantPersist with iss := .issued } b =
      if b = s.cur then { u.berth s.cur with shadow := { (u.berth s.cur).shadow with want := true } } else u.berth b := fun b => by
    rw [berth_iss, State.wantPersist, berth_modBerth, hcur]
  refine ⟨?_, fun b hne => ?_, ?_⟩
  · exact congrArg (fun t : State => { t with berths := u.wantPersist.berths, iss := .issued }) hframe
  · rw [hb b, if_neg hne]
    exact hother b hne
  · rw [hb s.cur, if_pos rfl, hown, Bool.or_true]

theorem cur_pushPersist (s : State) (path : Nat) (kind : OpKind) (route : Route) (tag rel : Nat) :
    (s.pushPersist path kind route tag rel).cur = s.cur := rfl

/-- A word that issues one operation and changes nothing else. -/
theorem issuedAs_pushOp_only (s : State) (path : Nat) (kind : OpKind) (route : Route) (tag rel : Nat) :
    s.issuedAs { s.pushOp path kind route tag rel with iss := .issued }
      { s.ctx with ops := s.ctx.ops ++ [s.newOp path kind route tag rel] } 1 false := by
  rw [pushOp_eq]
  generalize s.newOp path kind route tag rel = o
  refine ⟨rfl, fun b hne => ?_, ?_⟩
  · exact (sameBut_modCtxAt s s.cur fun c => { c with ops := c.ops ++ [o] }).2 b hne
  · rw [Bool.or_false]
    exact berth_modCtxAt_same s s.cur fun c => { c with ops := c.ops ++ [o] }

theorem ctx_pushOp (s : State) (path : Nat) (kind : OpKind) (route : Route) (tag rel : Nat) :
    (s.pushOp path kind route tag rel).ctx = { s.ctx with ops := s.ctx.ops ++ [s.newOp path kind route tag rel] } := by
  rw [pushOp_eq]
  generalize s.newOp path kind route tag rel = o
  exact congrArg Berth.ctx (berth_modCtxAt_same s s.cur fun c => { c with ops := c.ops ++ [o] })

/-- The verdict of a word whose checks pass and whose queue has room. -/
theorem freezeIf_free {s : State} {k : Verdict} (hh : s.ctx.holding = false) : freezeIf s false k = k := by
  rw [freezeIf, hh]
  rfl

/-- The verdict of a word that finds no room. -/
theorem freezeIf_full {s : State} {k : Verdict} (hh : s.ctx.holding = false) : freezeIf s true k = .freeze s := by
  rw [freezeIf, hh]
  rfl

/-- A check of a bound or of an alignment passes where its condition is false. -/
theorem chk_none {b : Bool} {code : Nat} {addr : W64} (hb : b = false) : chk b code addr = none := by rw [hb, chk_false]

/-- The low 63 bits of an operand that has no 64th. -/
theorem bf_63_of_lt {v : W64} (hv : v.toNat < 2 ^ 63) : bf v 0 63 = v.toNat := by rw [bf_zero, Nat.mod_eq_of_lt hv]

theorem bt_63_of_lt {v : W64} (hv : v.toNat < 2 ^ 63) : bt v 63 = false := by
  rw [bt_eq, Nat.div_eq_of_lt hv]
  rfl

theorem atomArg_eq (wide : Bool) (v : W64) : atomArg wide v = if wide then v else w64 (v.toNat % 2 ^ 32) := by
  rw [atomArg, bf_zero]

section
variable {s : State} {h : Hd} (hg : s.ctx.guard h = true) (hh : s.ctx.holding = false)
include hg hh

/-- ATOM: one operation, its place in its stream, and a persist point (R228-R230). -/
theorem exec_atom (g l n x ord scope : Nat) (op : AtomOp) (wide : Bool) (hq : s.ctx.queueFull = false)
    (hal : (s.ctx.reg g).toNat % (if wide then 8 else 4) = 0) (hs : s.scopeBad scope = false) (he : (s.ctx.stream x).es = 8) :
    ∃ t, exec (.atom h g l n x op ord wide scope) s = .next t ∧ s.issuedAs t (Ctx.queueItem { s.ctx with
      ops := s.ctx.ops ++ [s.newOp (s.atomPath (s.ctx.reg g).toNat)
        (.atom ⟨(s.ctx.reg g).toNat, op, wide, atomArg wide (s.ctx.reg n), atomArg wide (s.ctx.reg l), ord, scope⟩)
        (.stream x) 0 (relWait s.ctx ord)] } x s.nextId) 1 true := by
  have hv : checks [chk ((s.ctx.reg g).toNat % atomBytes wide != 0) fcAlign (s.ctx.reg g), chk (s.scopeBad scope) fcBound (w64 scope),
      chk ((s.ctx.stream x).es != 8) fcStreamUnbound (w64 x)] = none :=
    checks_cons_none (chk_none (bne_eq_false_iff_eq.2 hal)) (checks_cons_none (chk_none hs)
      (checks_cons_none (chk_none (bne_eq_false_iff_eq.2 he)) checks_nil))
  rw [show exec (.atom h g l n x op ord wide scope) s = execAtom h g l n x op ord wide scope s from rfl, execAtom,
    issue_go hg ((verdict_of_none hv).trans (by rw [hq]; exact freezeIf_free hh))]
  exact ⟨_, rfl, issuedAs_modCtx (fun c => c.queueItem x s.nextId) (cur_pushPersist _ _ _ _ _ _) (issuedAs_pushPersist s _ _ _ _ _)⟩

/-- ATOMNR: one operation that only counts, and a persist point. -/
theorem exec_atomnr (g l n ord scope : Nat) (op : AtomOp) (wide : Bool) (hq : s.ctx.queueFull = false)
    (hal : (s.ctx.reg g).toNat % (if wide then 8 else 4) = 0) (hs : s.scopeBad scope = false) :
    ∃ t, exec (.atomnr h g l n op ord wide scope) s = .next t ∧ s.issuedAs t { s.ctx with
      ops := s.ctx.ops ++ [s.newOp (s.atomPath (s.ctx.reg g).toNat)
        (.atomnr ⟨(s.ctx.reg g).toNat, op, wide, atomArg wide (s.ctx.reg n), atomArg wide (s.ctx.reg l), ord, scope⟩)
        .count 0 (relWait s.ctx ord)] } 1 true := by
  have hv : checks [chk ((s.ctx.reg g).toNat % atomBytes wide != 0) fcAlign (s.ctx.reg g), chk (s.scopeBad scope) fcBound (w64 scope)] =
      none := checks_cons_none (chk_none (bne_eq_false_iff_eq.2 hal)) (checks_cons_none (chk_none hs) checks_nil)
  rw [show exec (.atomnr h g l n op ord wide scope) s = execAtomnr h g l n op ord wide scope s from rfl, execAtomnr,
    issue_go hg ((verdict_of_none hv).trans (by rw [hq]; exact freezeIf_free hh))]
  exact ⟨_, rfl, issuedAs_pushPersist s _ _ _ _ _⟩

omit hg hh in
/-- The checks of SEMPOST and SEMWAIT: an aligned word, and an operand below 2^63. -/
theorem semChecks_none {g n : Nat} (hal : (s.ctx.reg g).toNat % 8 = 0) (hv : (s.ctx.reg n).toNat < 2 ^ 63) :
    checks [chk ((s.ctx.reg g).toNat % 8 != 0) fcAlign (s.ctx.reg g), chk (bt (s.ctx.reg n) 63) fcBound (s.ctx.reg n)] = none :=
  checks_cons_none (chk_none (bne_eq_false_iff_eq.2 hal)) (checks_cons_none (chk_none (bt_63_of_lt hv)) checks_nil)

/-- SEMPOST (R234). -/
theorem exec_sempost (g n : Nat) (hq : s.ctx.queueFull = false) (hal : (s.ctx.reg g).toNat % 8 = 0)
    (hv : (s.ctx.reg n).toNat < 2 ^ 63) : ∃ t, exec (.sempost h g n) s = .next t ∧ s.issuedAs t { s.ctx with
      ops := s.ctx.ops ++ [s.newOp 8 (.sempost (s.ctx.reg g).toNat (s.ctx.reg n).toNat) .count 0 (s.ctx.drainTime 7)] } 1 true := by
  rw [← bf_63_of_lt hv, show exec (.sempost h g n) s = execSempost h g n s from rfl, execSempost,
    issue_go hg ((verdict_of_none (semChecks_none hal hv)).trans (by rw [hq]; exact freezeIf_free hh))]
  exact ⟨_, rfl, issuedAs_pushPersist s _ _ _ _ _⟩

theorem exec_sempost_full (g n : Nat) (hq : s.ctx.queueFull = true) (hal : (s.ctx.reg g).toNat % 8 = 0)
    (hv : (s.ctx.reg n).toNat < 2 ^ 63) : exec (.sempost h g n) s = .next s.frozen := by
  rw [show exec (.sempost h g n) s = execSempost h g n s from rfl, execSempost,
    issue_freeze hg ((verdict_of_none (semChecks_none hal hv)).trans (by rw [hq]; exact freezeIf_full hh))]
  rfl

/-- IMLOAD: no persist point (R239). -/
theorem exec_imload (g l n tag : Nat) (hq : s.ctx.queueFull = false) (hk : (s.ctx.reg n).toNat ≠ 0)
    (hr : (s.ctx.reg l).toNat + (s.ctx.reg n).toNat ≤ 32768)
    (hp : (s.ctx.reg l).toNat = 0 ∨ bt ((s.berth s.cur).word ((s.ctx.reg l).toNat - 1)) 63 = true)
    (hal : (s.ctx.reg g).toNat % 8 = 0) : ∃ t, exec (.imload h g l n tag) s = .next t ∧ s.issuedAs t { s.ctx with
      ops := s.ctx.ops ++
        [s.newOp 8 (.imload (s.ctx.reg g).toNat (s.ctx.reg l).toNat (s.ctx.reg n).toNat) .count tag 0] } 1 false := by
  have hcut : (decide (0 < (s.ctx.reg l).toNat) && !bt ((s.berth s.cur).word ((s.ctx.reg l).toNat - 1)) 63) = false := by
    rcases hp with hz | hw
    · rw [hz]; rfl
    · rw [hw, Bool.not_true, Bool.and_false]
  have hv : checks [chk ((s.ctx.reg n).toNat == 0) fcBound (s.ctx.reg n),
      chk (decide (32768 < (s.ctx.reg l).toNat + (s.ctx.reg n).toNat)) fcBound (s.ctx.reg l),
      chk (decide (0 < (s.ctx.reg l).toNat) && !bt ((s.berth s.cur).word ((s.ctx.reg l).toNat - 1)) 63) fcBound (s.ctx.reg l),
      chk ((s.ctx.reg g).toNat % 8 != 0) fcAlign (s.ctx.reg g)] = none :=
    checks_cons_none (chk_none (beq_eq_false_iff_ne.2 hk)) (checks_cons_none (chk_none (decide_eq_false (Nat.not_lt.2 hr)))
      (checks_cons_none (chk_none hcut) (checks_cons_none (chk_none (bne_eq_false_iff_eq.2 hal)) checks_nil)))
  rw [show exec (.imload h g l n tag) s = execImload h g l n tag s from rfl, execImload,
    issue_go hg ((verdict_of_none hv).trans (by rw [hq]; exact freezeIf_free hh))]
  exact ⟨_, rfl, issuedAs_pushOp_only s _ _ _ _ _⟩

omit hg hh in
/-- The checks of a WHPUSH: a unit in service, 1 to 64 words, an aligned range of the scratchpad (R238). -/
theorem whpushChecks_none {g l n : Nat} (hu : (s.ctx.reg g).toNat ≤ 255) (hlo : 1 ≤ (s.ctx.reg n).toNat)
    (hhi : (s.ctx.reg n).toNat ≤ 64) (hr : (s.ctx.reg l).toNat + 8 * (s.ctx.reg n).toNat ≤ 0x100000)
    (hal : (s.ctx.reg l).toNat % 8 = 0) (ho : s.unitOpen (s.ctx.reg g).toNat = true)
    (hs : (s.unit (s.ctx.reg g).toNat).stop = false) :
    checks [chk (decide (255 < (s.ctx.reg g).toNat)) fcBound (s.ctx.reg g),
      chk (decide ((s.ctx.reg n).toNat < 1 ∨ 64 < (s.ctx.reg n).toNat)) fcBound (s.ctx.reg n),
      chk (decide (0x100000 < (s.ctx.reg l).toNat + 8 * (s.ctx.reg n).toNat)) fcBound (s.ctx.reg l),
      chk ((s.ctx.reg l).toNat % 8 != 0) fcAlign (s.ctx.reg l),
      chk (!s.unitOpen (s.ctx.reg g).toNat || (s.unit (s.ctx.reg g).toNat).stop) fcWharfChannel (s.ctx.reg g)] = none :=
  checks_cons_none (chk_none (decide_eq_false (Nat.not_lt.2 hu)))
    (checks_cons_none (chk_none (decide_eq_false fun hor => hor.elim (Nat.not_lt.2 hlo) (Nat.not_lt.2 hhi)))
      (checks_cons_none (chk_none (decide_eq_false (Nat.not_lt.2 hr)))
        (checks_cons_none (chk_none (bne_eq_false_iff_eq.2 hal))
          (checks_cons_none (chk_none (by rw [ho, hs]; rfl)) checks_nil))))

/-- WHPUSH: one operation where the ring has room, else the line is frozen (R238). -/
theorem exec_whpush {g l n : Nat} (hu : (s.ctx.reg g).toNat ≤ 255) (hlo : 1 ≤ (s.ctx.reg n).toNat)
    (hhi : (s.ctx.reg n).toNat ≤ 64) (hr : (s.ctx.reg l).toNat + 8 * (s.ctx.reg n).toNat ≤ 0x100000)
    (hal : (s.ctx.reg l).toNat % 8 = 0) (ho : s.unitOpen (s.ctx.reg g).toNat = true)
    (hs : (s.unit (s.ctx.reg g).toNat).stop = false) :
    ((s.unit (s.ctx.reg g).toNat).room (s.ctx.reg n).toNat = true →
      ∃ t, exec (.whpush h g l n) s = .next t ∧ s.issuedAs t { s.ctx with
        ops := s.ctx.ops ++
          [s.newOp 24 (.whpush (s.ctx.reg g).toNat (s.ctx.reg l).toNat (s.ctx.reg n).toNat) .count 0 0] } 1 true) ∧
    ((s.unit (s.ctx.reg g).toNat).room (s.ctx.reg n).toNat = false → exec (.whpush h g l n) s = .next s.frozen) := by
  have hv := whpushChecks_none hu hlo hhi hr hal ho hs
  rw [show exec (.whpush h g l n) s = execWhpush h g l n s from rfl, execWhpush]
  refine ⟨fun hroom => ?_, fun hroom => ?_⟩
  · rw [issue_go hg ((verdict_of_none hv).trans (by rw [hroom]; exact freezeIf_free hh))]
    exact ⟨_, rfl, issuedAs_pushPersist s _ _ _ _ _⟩
  · rw [issue_freeze hg ((verdict_of_none hv).trans (by rw [hroom]; exact freezeIf_full hh))]
    rfl

/-- SEMWAIT first sends its poll and holds the line (R233). -/
theorem exec_semwait_sends (g n : Nat) (cd : SCond) (hal : (s.ctx.reg g).toNat % 8 = 0) (hv : (s.ctx.reg n).toNat < 2 ^ 63)
    (hp : s.ctx.poll ⟨(s.ctx.reg g).toNat, (s.ctx.reg n).toNat, cd, false⟩ = none) :
    exec (.semwait h g n cd false) s =
      .next { s.pushOp 8 (.semwait ⟨(s.ctx.reg g).toNat, (s.ctx.reg n).toNat, cd, false⟩) .count 0 0 with iss := .frozen } := by
  rw [← bf_63_of_lt hv] at hp ⊢
  rw [show exec (.semwait h g n cd false) s = execSemwait h g n cd false s from rfl, execSemwait]
  refine issue_freeze hg ((verdict_of_none (semChecks_none hal hv)).trans ?_)
  dsimp only
  rw [hh, hp]
  rfl

/-- SEMWAIT issues once its poll is answered, and the poll goes. -/
theorem exec_semwait_holds (g n : Nat) (cd : SCond) (sub : Bool) (hal : (s.ctx.reg g).toNat % 8 = 0)
    (hv : (s.ctx.reg n).toNat < 2 ^ 63) {o : Op} {ws : List W64}
    (hp : s.ctx.poll ⟨(s.ctx.reg g).toNat, (s.ctx.reg n).toNat, cd, sub⟩ = some o) (ho : o.stage = .replied ws) :
    exec (.semwait h g n cd sub) s = .next (s.withCtx (s.ctx.dropOp o.id)) := by
  rw [← bf_63_of_lt hv] at hp
  rw [show exec (.semwait h g n cd sub) s = execSemwait h g n cd sub s from rfl, execSemwait]
  refine (issue_ctx hg ((verdict_of_none (semChecks_none hal hv)).trans ?_)).trans ?_
  · dsimp only
    rw [hh, hp]
    dsimp only
    rw [ho]
    rfl
  · rw [hp]
end

/-- LAYSET (R240). -/
theorem exec_layset {s : State} {h : Hd} (hg : s.ctx.guard h = true) (l n : Nat) (hlo : 1 ≤ (s.ctx.reg n).toNat)
    (hhi : (s.ctx.reg n).toNat ≤ 0xFFFF) (hal : (s.ctx.reg l).toNat % 64 = 0) (hr : (s.ctx.reg l).toNat + 64 ≤ 0x100000)
    (hb : layoutBad (s.ctx.spadRead (s.ctx.reg l).toNat 64) = false) :
    exec (.layset h l n) s = .next { s with
      layouts := Tab.set Layout.invalid s.layouts (s.job * 65536 + (s.ctx.reg n).toNat)
        (if (layoutOf s.job (s.ctx.spadRead (s.ctx.reg l).toNat 64)).valid then layoutOf s.job (s.ctx.spadRead (s.ctx.reg l).toNat 64)
        else Layout.invalid), iss := .issued } := by
  have hv : checks [chk (decide ((s.ctx.reg n).toNat = 0 ∨ 0xFFFF < (s.ctx.reg n).toNat)) fcBound (s.ctx.reg n),
      chk ((s.ctx.reg l).toNat % 64 != 0) fcAlign (s.ctx.reg l), chk (decide (0xFFFC0 < (s.ctx.reg l).toNat)) fcBound (s.ctx.reg l),
      chk (layoutBad (s.ctx.spadRead (s.ctx.reg l).toNat 64)) fcBound (s.ctx.reg l)] = none :=
    checks_cons_none (chk_none (decide_eq_false (by omega))) (checks_cons_none (chk_none (bne_eq_false_iff_eq.2 hal))
      (checks_cons_none (chk_none (decide_eq_false (by omega))) (checks_cons_none (chk_none hb) checks_nil)))
  rw [show exec (.layset h l n) s = execLayset h l n s from rfl, execLayset, issue_go hg (verdict_of_none hv)]

section
variable {s : State} {h : Hd} (hg : s.ctx.guard h = true) (w g l n : Nat)
include hg

/-- WCONF of a window that no access uses (R241). -/
theorem exec_wconf (ho : (Tab.get Window.none s.ctx.windows w).out = 0) (hp : (s.ctx.reg g).toNat < 2 ^ 26)
    (hz : (s.ctx.reg g).toNat / 2 ^ 7 % 2 ^ 9 = 0) (ha : (s.ctx.reg l).toNat < 0x100000) (hal : (s.ctx.reg l).toNat % 512 = 0)
    (hk : (s.ctx.reg n).toNat ≤ 255) : exec (.wconf h w g l n) s = .next (s.withCtx { s.ctx with
      windows := Tab.set Window.none s.ctx.windows w (if (s.ctx.reg n).toNat = 0 then Window.none else
        ⟨true, (s.ctx.reg g).toNat / 2 ^ 16, (s.ctx.reg g).toNat % 2 ^ 7, (s.ctx.reg l).toNat, 0, (s.ctx.reg n).toNat, none⟩) }) := by
  have hbits : (bf (s.ctx.reg g) 26 38 != 0 || bf (s.ctx.reg g) 7 9 != 0) = false := by
    rw [bf_eq, bf_eq, hz, Nat.div_eq_of_lt hp]
    rfl
  have hdev : bf (s.ctx.reg g) 16 10 = (s.ctx.reg g).toNat / 2 ^ 16 := by
    rw [bf_eq]
    exact Nat.mod_eq_of_lt (by omega)
  have hv : checks [chk ((Tab.get Window.none s.ctx.windows w).out != 0) fcConfBusy (w64 w),
      chk (bf (s.ctx.reg g) 26 38 != 0 || bf (s.ctx.reg g) 7 9 != 0) fcBound (s.ctx.reg g),
      chk (decide (0x100000 ≤ (s.ctx.reg l).toNat)) fcBound (s.ctx.reg l), chk (decide (255 < (s.ctx.reg n).toNat)) fcBound (s.ctx.reg n),
      chk ((s.ctx.reg l).toNat % 512 != 0) fcAlign (s.ctx.reg l)] = none :=
    checks_cons_none (chk_none (bne_eq_false_iff_eq.2 ho)) (checks_cons_none (chk_none hbits)
      (checks_cons_none (chk_none (decide_eq_false (Nat.not_le.2 ha))) (checks_cons_none (chk_none (decide_eq_false (Nat.not_lt.2 hk)))
        (checks_cons_none (chk_none (bne_eq_false_iff_eq.2 hal)) checks_nil))))
  rw [show exec (.wconf h w g l n) s = execWconf h w g l n s from rfl, execWconf, issue_ctx hg (verdict_of_none hv), hdev, bf_zero]

/-- WCONF of a window that an access still uses. -/
theorem exec_wconf_busy (ho : (Tab.get Window.none s.ctx.windows w).out ≠ 0) :
    exec (.wconf h w g l n) s = .next (s.trapped 0x06 (w64 w)) := by
  rw [show exec (.wconf h w g l n) s = execWconf h w g l n s from rfl, execWconf]
  refine issue_flt hg (verdict_of_some ?_)
  rw [bne_iff_ne.2 ho, chk_true, checks_cons_some]
  rfl
end

/-- Settles O22: each word's checks pass, so it issues its one operation (and is a persist point), or changes its record. -/
theorem atomicsLayoutsAndWindows : Obligations.AtomicsLayoutsAndWindows := by
  unfold Obligations.AtomicsLayoutsAndWindows
  refine ⟨fun s h g l n x ord scope tag op wide sub cd hg hh =>
      ⟨fun hq => ⟨fun hal hs => ⟨fun he => ?_, ?_⟩, ?_, ?_⟩, ?_, ?_, ?_⟩,
    fun s h w g l n hg => ⟨?_, ?_, ?_⟩⟩
  · have hi := exec_atom hg hh g l n x ord scope op wide hq hal hs he
    rw [atomArg_eq, atomArg_eq] at hi
    exact hi
  · have hi := exec_atomnr hg hh g l n ord scope op wide hq hal hs
    rw [atomArg_eq, atomArg_eq] at hi
    exact hi
  · exact exec_sempost hg hh g n hq
  · exact exec_imload hg hh g l n tag hq
  · exact exec_sempost_full hg hh g n
  · intro hu hlo hhi hr hal ho hs
    obtain ⟨hfits, hfull⟩ := exec_whpush hg hh hu hlo hhi hr hal ho hs
    exact ⟨fun hle => hfits (decide_eq_true hle), fun hlt => hfull (decide_eq_false (Nat.not_le.2 hlt))⟩
  · intro hal hv
    refine ⟨fun hp hsub => ?_, fun o ws hp ho => exec_semwait_holds hg hh g n cd sub hal hv hp ho⟩
    subst hsub
    refine ⟨_, exec_semwait_sends hg hh g n cd hal hv hp, rfl, ctx_pushOp s _ _ _ _ _⟩
  · exact exec_layset hg l n
  · exact exec_wconf hg w g l n
  · exact exec_wconf_busy hg w g l n

end Sys2Proof.Machine
end

section
/-! SUPPORT. A persist of a berth: the record copy that it writes, and its commit (spec/09 R149, R150, spec/23 R344-R346). -/

namespace Sys2Proof.Machine
open Sys2Proof

/-- The record that a persist of v writes. -/
def Shadow.record (h : Shadow) (v : Saved) : Record := ⟨{ v with mark := 0 }, h.seq + 1, true⟩

/-- The shadow copy once the persist of v, the oldest of its queue, is committed, before kept outcomes lapse. -/
def Shadow.committed (h : Shadow) (v : Saved) (q : List Saved) : Shadow :=
  { h with
    copyA := if h.next = 0 then some (h.record v) else h.copyA
    copyB := if h.next = 0 then h.copyB else some (h.record v)
    words := [(h.next, h.seq + 1), (h.next, h.seq + 1), (h.next, h.seq + 1)]
    entries := h.entries - v.mark
    flagged := h.flagged - v.mark
    last := if h.entries ≤ v.mark then some v else h.last
    queue := q.map fun w : Saved => { w with mark := w.mark - v.mark } }

/-- An operation that the persist of v holds is journalled as issued. -/
def Saved.logs (v : Saved) (o : Op) : Op := if v.ctx.ops.any fun p => p.id == o.id then { o with logged := true } else o

/-- The context after the persist of v, q being what is left of the queue. -/
def Ctx.logged (c : Ctx) (v : Saved) (q : List Saved) : Ctx :=
  { c with ops := c.ops.map v.logs, persisted := c.persisted || (c.persisting && q.isEmpty) }

/-- The berth after the persist of v; k holds the outcomes that are still kept. -/
def Berth.persists (x : Berth) (v : Saved) (q : List Saved) (k : List (Nat × Reply)) : Berth :=
  { x with shadow := { x.shadow.committed v q with kept := k }, ctx := x.ctx.logged v q }

theorem next_cases (h : Shadow) : h.next = 0 ∨ h.next = 1 := by
  unfold Shadow.next
  omega

/-- The committed record is the one from which the berth would resume. -/
theorem pick_committed (h : Shadow) (v : Saved) (q : List Saved) (k : List (Nat × Reply)) :
    Shadow.pick { h.committed v q with kept := k } = some (h.next, h.record v) := by
  have hn : namedCopy [(h.next, h.seq + 1), (h.next, h.seq + 1), (h.next, h.seq + 1)] = some h.next := if_pos (.inl rfl)
  have hi : Shadow.intact { h.committed v q with kept := k } h.next = some (h.record v) := by
    rcases next_cases h with hz | ho
    · simp [Shadow.intact, Shadow.committed, Shadow.record, hz]
    · simp [Shadow.intact, Shadow.committed, Shadow.record, ho]
  rw [Shadow.pick, show Shadow.words { h.committed v q with kept := k } =
    [(h.next, h.seq + 1), (h.next, h.seq + 1), (h.next, h.seq + 1)] from rfl, hn]
  dsimp only
  rw [hi]
  rfl

theorem logged_logs {v : Saved} {o : Op} (h : ∃ p ∈ v.ctx.ops, p.id = (v.logs o).id) : (v.logs o).logged = true := by
  have hid : (v.logs o).id = o.id := by
    unfold Saved.logs
    split <;> rfl
  rw [hid] at h
  obtain ⟨p, hp, he⟩ := h
  rw [Saved.logs, if_pos (List.any_eq_true (p := fun p : Op => p.id == o.id).2 ⟨p, hp, beq_iff_eq.2 he⟩)]

theorem logged_of_mem_logged {c : Ctx} {v : Saved} {q : List Saved} {o : Op} (ho : o ∈ (c.logged v q).ops)
    (h : ∃ p ∈ v.ctx.ops, p.id = o.id) : o.logged = true := by
  obtain ⟨p, -, rfl⟩ := List.mem_map.1 ho
  exact logged_logs h

/-- A persist whose blocks are free commits the oldest state of the queue (R345). -/
theorem exec_persistComplete {s : State} {v : Saved} {q : List Saved} (hq : (s.berth s.subj.berth).shadow.queue = v :: q)
    (hfit : (s.berth s.subj.berth).shadow.dirty v ≤ (s.berth s.subj.berth).freeBlocks ∨ (s.berth s.subj.berth).pool = []) :
    ∃ k, exec .persistComplete s = .next (s.modBerth s.subj.berth fun x => x.persists v q k) := by
  have hfits : ¬(!(s.berth s.subj.berth).persistFits) ∨ (s.berth s.subj.berth).pool = [] := hfit.imp_left fun hle => by
    rw [Berth.persistFits, hq]
    simpa using hle
  rw [show exec .persistComplete s = execPersistComplete s from rfl, execPersistComplete]
  dsimp only
  rw [hq]
  dsimp only
  rw [if_neg fun hn => hfits.elim (absurd hn.1) hn.2]
  exact ⟨_, rfl⟩

theorem exec_persistComplete_none {s : State} (hq : (s.berth s.subj.berth).shadow.queue = []) :
    exec .persistComplete s = .next s := by
  rw [show exec .persistComplete s = execPersistComplete s from rfl, execPersistComplete]
  dsimp only
  rw [hq]

theorem exec_journalForcedPersist_due {s : State} (he : 1024 ≤ (s.berth s.subj.berth).shadow.entries)
    (hp : (s.berth s.subj.berth).persistBusy = false) : exec .journalForcedPersist s = .next (s.modBerth s.subj.berth fun y =>
      { y with shadow := { y.shadow with queue := [s.saved s.subj.berth] } }) := by
  have hnil : (s.berth s.subj.berth).shadow.queue = [] := by
    obtain ⟨-, hempty⟩ := Bool.or_eq_false_iff.1 hp
    simpa using hempty
  rw [show exec .journalForcedPersist s = execJournalForcedPersist s from rfl, execJournalForcedPersist]
  rw [hp, if_pos ⟨he, rfl⟩, State.beginPersist, State.modBerth, State.modBerth, hnil]
  rfl

theorem exec_journalForcedPersist_early {s : State} (he : (s.berth s.subj.berth).shadow.entries < 1024) :
    exec .journalForcedPersist s = .next s := by
  rw [show exec .journalForcedPersist s = execJournalForcedPersist s from rfl, execJournalForcedPersist]
  rw [if_neg fun hc => Nat.not_le.2 he hc.1]

/-- Settles O33: the committed record is the one written, and the forced persist begins at 1,024 entries. -/
theorem persistsComplete : Obligations.PersistsComplete := by
  unfold Obligations.PersistsComplete
  rintro s b rfl
  refine ⟨fun v q hq hfit => ?_, exec_persistComplete_none, exec_journalForcedPersist_due, exec_journalForcedPersist_early⟩
  obtain ⟨k, he⟩ := exec_persistComplete hq hfit
  have hb : (s.modBerth s.subj.berth fun x => x.persists v q k).berth s.subj.berth = (s.berth s.subj.berth).persists v q k := by
    rw [berth_modBerth, if_pos rfl]
  refine ⟨_, he, rfl, fun j hj => by rw [berth_modBerth, if_neg hj], ?_⟩
  rw [State.ctxAt, hb]
  refine ⟨List.length_map _, rfl, ⟨_, pick_committed _ v q k, rfl, rfl, rfl, rfl⟩, fun hz => if_pos hz, fun hn => if_neg hn,
    fun o ho hp => logged_of_mem_logged ho hp, rfl⟩

end Sys2Proof.Machine
end

section
/-! SUPPORT. What completes at the berth: the bytes of copies and probe fills land, or the failure goes by the operation's route (spec/09
R140, spec/15 R214, R217, R218, R226, R239). -/

namespace Sys2Proof.Machine
open Sys2Proof

-- arrivals of writes ------------------------------------------------------------------------------------------------------

/-- What a slot's arrival keeps, the arrival of a write keeps. -/
theorem arrive_keeps {γ : Type} (g : State → γ) (hg : ∀ (s : State) (i k : Nat), g (s.arriveSlot i k) = g s) (s : State) (j : Nat)
    (e : Option Party) (a n : Nat) : g (s.arrive j e a n) = g s := by
  refine foldl_keeps g _ (fun s m => ?_) _ _
  split
  · exact foldl_keeps g _ (fun s i => hg s m.id i) _ _
  · rfl

@[simp] theorem regions_arrive (s : State) (j : Nat) (e : Option Party) (a n : Nat) : (s.arrive j e a n).regions = s.regions :=
  arrive_keeps State.regions (fun s i k => by
    unfold State.arriveSlot
    split
    · rfl
    · split
      · exact regions_event s _ _ _ _
      · rfl) s j e a n

@[simp] theorem cur_arrive (s : State) (j : Nat) (e : Option Party) (a n : Nat) : (s.arrive j e a n).cur = s.cur :=
  arrive_keeps State.cur (fun s i k => by
    unfold State.arriveSlot
    split
    · rfl
    · split
      · exact cur_event s _ _ _ _
      · rfl) s j e a n

-- bytes that land ----------------------------------------------------------------------------------------------------------

section
variable (u : State) (b : Nat) (o : Op) (a : Nat) (d : List Byte)

@[simp] theorem cur_landRest : (u.landRest b o a d).cur = u.cur := cur_arrive ..
@[simp] theorem hbm_landRest : (u.landRest b o a d).hbm = u.hbm := hbm_arrive ..
@[simp] theorem regions_landRest : (u.landRest b o a d).regions = u.regions := regions_arrive ..

theorem ctxAt_landRest : (u.landRest b o a d).ctxAt b = (u.ctxAt b).spadWrite a (o.landing ((u.ctxAt b).spadRead a d.length) d) := by
  rw [State.landRest, State.ctxAt, State.berth, berths_arrive]
  exact (ctxAt_modCtxAt u b b _).trans (if_pos rfl)
end

/-- A scratchpad after the landing: the data but for what has landed before, and no other byte. -/
theorem spad_landed (c : Ctx) (o : Op) (l : Nat) (d : List Byte) :
    let c' := c.spadWrite l (o.landing (c.spadRead l d.length) d)
    c'.spadRead l d.length = o.landing (c.spadRead l d.length) d ∧
    ∀ a, a < l ∨ l + d.length ≤ a → Memory.get zeroByte c'.spad a = Memory.get zeroByte c.spad a :=
  ⟨read_write_of_length _ _ _ (length_landing ..), fun a ha => Memory.get_write_outside _ _ _ _ _ (by rwa [length_landing])⟩

/-- A byte that lands ahead of the rest changes its address and is noted (R140). -/
theorem landEarly_lands {u : State} {b : Nat} {o : Op} {l k : Nat} {d : List Byte} {v : Byte} (ho : (u.ctxAt b).op o.id = some o)
    (hd : d[k]? = some v) (hm : o.hasMoved k = false) :
    let t := u.landEarly b o l k d
    (∀ a, Memory.get zeroByte (t.ctxAt b).spad a = if a = l + k then v else Memory.get zeroByte (u.ctxAt b).spad a) ∧
      ((t.ctxAt b).op o.id).map Op.moved = some (o.moved ++ [(k, v)]) ∧ ((t.ctxAt b).op o.id).map Op.stage = some o.stage ∧
      t.hbm = u.hbm := by
  have ht : u.landEarly b o l k d =
      u.modCtxAt b fun c => (c.spadWrite (l + k) [v]).modOp o.id fun o => { o with moved := o.moved ++ [(k, v)] } := by
    unfold State.landEarly
    rw [hd]
    dsimp only
    rw [hm]
    rfl
  dsimp only
  rw [ht, ctxAt_modCtxAt, if_pos rfl]
  obtain ⟨hmoved, hstage⟩ := op_byteMoved (c := (u.ctxAt b).spadWrite (l + k) [v]) (k, v) ho
  exact ⟨fun a => Memory.get_set _ _ _ _ _, hmoved, hstage, rfl⟩

-- completion by a route --------------------------------------------------------------------------------------------------------

/-- What completes gives a window's unit back only where it is an outbound CPW. -/
def Op.plain (o : Op) : Prop := ∀ r, o.kind = .copy r → r.out = true → r.form = .cp

/-- Where an operation that delivers nothing ends by its route. -/
def Ctx.routed (c : Ctx) (o : Op) (f : Option Fail) : Ctx :=
  match o.route with
  | .count => { c.dropOp o.id with cfails := c.cfails ++ f.toList }
  | .ring q i => (c.dropOp o.id).modRing q fun r => r.modSlot i fun x => { x with st := .full, pub := false, fail := f }
  | .stream x => (c.dropOp o.id).deliver x o.id [] f

/-- An operation that is no copy through a window completes by its route alone. -/
theorem complete_plain {c : Ctx} {o : Op} (f : Option Fail) (hp : o.plain) : c.complete o f [] = c.routed o f := by
  have hwin : ∀ r, o.kind = .copy r → ¬(r.form == CopyForm.cpw && r.out) = true := fun r hk hc => by
    obtain ⟨hcpw, hout⟩ := Bool.and_eq_true_iff.1 hc
    rw [hp r hk hout] at hcpw
    exact absurd hcpw (by decide)
  have hcount : { c.dropOp o.id with cfails := c.cfails ++ f.toList } = match f with
      | some f => { c.dropOp o.id with cfails := c.cfails ++ [f] }
      | none => c.dropOp o.id := by
    cases f with
    | none => simp [Ctx.dropOp]
    | some f => rfl
  unfold Ctx.complete Ctx.routed
  rw [hcount]
  dsimp only
  cases hk : o.kind with
  | copy r =>
    dsimp only
    rw [if_neg (hwin r hk)]
    rfl
  | _ => rfl

theorem plain_of_inbound {o : Op} {r : CopyReq} (hk : o.kind = .copy r) (hout : r.out = false) : o.plain := fun r' hk' hout' => by
  rw [OpKind.copy.inj (hk.symm.trans hk')] at hout
  exact absurd (hout.symm.trans hout') (by decide)

theorem plain_of_cp {o : Op} {r : CopyReq} (hk : o.kind = .copy r) (hcp : r.form = .cp) : o.plain := fun r' hk' _ => by
  rwa [OpKind.copy.inj (hk.symm.trans hk')] at hcp

theorem plain_of_imload {o : Op} {va l n : Nat} (hk : o.kind = .imload va l n) : o.plain := fun _ hk' _ =>
  absurd (hk.symm.trans hk') OpKind.noConfusion

theorem routed_count {c : Ctx} {o : Op} (f : Option Fail) (hr : o.route = .count) :
    c.routed o f = { c.dropOp o.id with cfails := c.cfails ++ f.toList } := by
  unfold Ctx.routed
  rw [hr]

end Sys2Proof.Machine
end

section
/-! SUPPORT. COPY_COMPLETE and PROBE_FILL_COMPLETE, by the kind, the stage and the route of their operation (spec/15 R214, R218, R226,
R239). -/

namespace Sys2Proof.Machine
open Sys2Proof

theorem ctxAt_modCtx_cur {u : State} {b : Nat} (f : Ctx → Ctx) (hc : u.cur = b) : (u.modCtx f).ctxAt b = f (u.ctxAt b) := by
  rw [State.modCtx, hc, ctxAt_modCtxAt, if_pos rfl]

/-- A change of a context that takes an operation out of the queue and leaves the registers, the scratchpad and the failures. -/
def Ctx.retires (c c' : Ctx) (id : Nat) : Prop :=
  c'.ops = c.ops.filter (fun p => p.id != id) ∧ c'.sregs = c.sregs ∧ c'.spad = c.spad ∧ c'.cfails = c.cfails

theorem retires_routed {c : Ctx} {o : Op} (hr : o.route = .count) : c.retires (c.routed o none) o.id := by
  rw [routed_count none hr]
  exact ⟨rfl, rfl, rfl, List.append_nil _⟩

/-- What is left once the rest of the data has landed and the operation is gone. -/
theorem landRest_retires {s : State} {b : Nat} {o : Op} {l : Nat} {d : List Byte} {f : Ctx → Ctx}
    (hf : ∀ c : Ctx, c.retires (f c) o.id) :
    let c := s.ctxAt b
    let t := ((s.running b).landRest b o l d).modCtx f
    (t.ctxAt b).spadRead l d.length = o.landing (c.spadRead l d.length) d ∧
      (∀ a, a < l ∨ l + d.length ≤ a → Memory.get zeroByte (t.ctxAt b).spad a = Memory.get zeroByte c.spad a) ∧
      (t.ctxAt b).ops = c.ops.filter (fun p => p.id != o.id) ∧ (t.ctxAt b).sregs = c.sregs ∧ (t.ctxAt b).cfails = c.cfails ∧
      t.hbm = s.hbm ∧ t.regions = s.regions := by
  dsimp only
  rw [ctxAt_modCtx_cur f (cur_landRest ..), ctxAt_landRest]
  obtain ⟨hops, hregs, hspad, hfails⟩ :=
    hf ((s.ctxAt b).spadWrite l (o.landing ((s.ctxAt b).spadRead l d.length) d))
  obtain ⟨hread, hrest⟩ := spad_landed (s.ctxAt b) o l d
  refine ⟨?_, fun a ha => ?_, hops, hregs, hfails, hbm_landRest .., regions_landRest ..⟩
  · refine Eq.trans ?_ hread
    exact congrArg (fun m => Memory.read zeroByte m l d.length) hspad
  · refine Eq.trans ?_ (hrest a ha)
    exact congrArg (fun m => Memory.get zeroByte m a) hspad

section
variable {s : State} {o : Op} (hid : s.subj.op = o.id) (ho : (s.ctxAt s.subj.berth).op o.id = some o)
include hid ho

/-- The data of an inbound copy land, and the copy completes by its route. -/
theorem exec_copyComplete_passed {r : CopyReq} {d : List Byte} (hk : o.kind = .copy r) (hs : o.stage = .passed d)
    (hq : transposeBits r.q = none) (hi : s.subj.item = 0) (hr : ∀ x, o.route ≠ .stream x) :
    exec .copyComplete s =
      .next (((s.running s.subj.berth).landRest s.subj.berth o r.l d).modCtx fun c => c.complete o none []) := by
  have he : exec .copyComplete s = execCopyComplete s := rfl
  rw [he, execCopyComplete, withOp_eq _ hid ho]
  simp only [hk, hs, hq, hi, ne_eq, not_true_eq_false, if_false]

theorem exec_copyComplete_early {r : CopyReq} {d : List Byte} {k : Nat} (hk : o.kind = .copy r) (hs : o.stage = .passed d)
    (hq : transposeBits r.q = none) (hi : s.subj.item = k + 1) (hr : ∀ x, o.route ≠ .stream x) :
    exec .copyComplete s = .next ((s.running s.subj.berth).landEarly s.subj.berth o r.l k d) := by
  have he : exec .copyComplete s = execCopyComplete s := rfl
  rw [he, execCopyComplete, withOp_eq _ hid ho]
  simp only [hk, hs, hq, hi, ne_eq, Nat.succ_ne_zero, not_false_eq_true, if_true, Nat.add_sub_cancel]

/-- An outbound copy that is performed at its homes. -/
theorem exec_copyComplete_replied {r : CopyReq} {ws : List W64} (hk : o.kind = .copy r) (hs : o.stage = .replied ws)
    (hout : r.out = true) (hr : ∀ x, o.route ≠ .stream x) :
    exec .copyComplete s = .next ((s.running s.subj.berth).modCtx fun c => c.complete o none []) := by
  have he : exec .copyComplete s = execCopyComplete s := rfl
  rw [he, execCopyComplete, withOp_eq _ hid ho]
  simp only [hk, hs, hout, true_or, if_true]

theorem exec_copyComplete_failed {f : Fail} (hk : (∃ r, o.kind = .copy r) ∨ ∃ va l n, o.kind = .imload va l n)
    (hs : o.stage = .failed f) :
    exec .copyComplete s = .next ((s.running s.subj.berth).modCtx fun c => c.complete o (some f) []) := by
  have he : exec .copyComplete s = execCopyComplete s := rfl
  rw [he, execCopyComplete, withOp_eq _ hid ho]
  rcases hk with ⟨r, hk⟩ | ⟨va, l, n, hk⟩
  · simp only [hk, hs]
  · simp only [hk, hs]

/-- The words of an IMLOAD. -/
theorem exec_copyComplete_imload {va l n : Nat} {d : List Byte} (hk : o.kind = .imload va l n) (hs : o.stage = .passed d) :
    exec .copyComplete s =
      .next (((s.running s.subj.berth).loadWords s.subj.berth l (bytesWords (8 * n) d)).modCtx fun c => c.complete o none []) := by
  have he : exec .copyComplete s = execCopyComplete s := rfl
  rw [he, execCopyComplete, withOp_eq _ hid ho]
  simp only [hk, hs]

/-- The data of a probe's fill land in its slot. -/
theorem exec_probeFillComplete_passed {t e blk n l : Nat} {d : List Byte} (hk : o.kind = .fill t e blk n l) (hs : o.stage = .passed d)
    (hi : s.subj.item = 0) : exec .probeFillComplete s =
      .next (((s.running s.subj.berth).landRest s.subj.berth o l d).modCtx fun c =>
        (c.dropOp o.id).modWay t e fun y => { y with fills := y.fills.filter (· != o.id) }) := by
  have he : exec .probeFillComplete s = execProbeFillComplete s := rfl
  have hop : ((s.running s.subj.berth).ctx.op o.id).map Op.stage = some (.passed d) := by
    rw [show (s.running s.subj.berth).ctx.op o.id = some o from ho, ← hs]
    rfl
  rw [he, execProbeFillComplete, withOp_eq _ hid ho]
  simp only [hk, hs, reduceCtorEq, false_and, if_false, hop, hi, ne_eq, not_true_eq_false]

theorem exec_probeFillComplete_early {t e blk n l k : Nat} {d : List Byte} (hk : o.kind = .fill t e blk n l) (hs : o.stage = .passed d)
    (hi : s.subj.item = k + 1) : exec .probeFillComplete s = .next ((s.running s.subj.berth).landEarly s.subj.berth o l k d) := by
  have he : exec .probeFillComplete s = execProbeFillComplete s := rfl
  have hop : ((s.running s.subj.berth).ctx.op o.id).map Op.stage = some (.passed d) := by
    rw [show (s.running s.subj.berth).ctx.op o.id = some o from ho, ← hs]
    rfl
  rw [he, execProbeFillComplete, withOp_eq _ hid ho]
  simp only [hk, hs, reduceCtorEq, false_and, if_false, hop, hi, ne_eq, Nat.succ_ne_zero, not_false_eq_true, if_true,
    Nat.add_sub_cancel]

/-- A fill that fails leaves its failure in its way. -/
theorem exec_probeFillComplete_failed {t e blk n l : Nat} {f : Fail} (hk : o.kind = .fill t e blk n l) (hs : o.stage = .failed f) :
    exec .probeFillComplete s = .next ((s.running s.subj.berth).modCtx fun c => (c.dropOp o.id).modWay t e fun y =>
      if y.valid ∧ y.fills.contains o.id then { y with fail := earlier y.fail f, fills := y.fills.filter (· != o.id) } else y) := by
  have he : exec .probeFillComplete s = execProbeFillComplete s := rfl
  have hop : ((s.running s.subj.berth).ctx.op o.id).map Op.stage = some (.failed f) := by
    rw [show (s.running s.subj.berth).ctx.op o.id = some o from ho, ← hs]
    rfl
  rw [he, execProbeFillComplete, withOp_eq _ hid ho]
  simp only [hk, hs, reduceCtorEq, false_and, if_false, hop]
end

-- instruction memory (R239) ----------------------------------------------------------------------------------------------------

/-- Words put into a table from l on. -/
theorem get_putWords (ws : List W64) (l : Nat) (m : Tab W64) (i : Nat) :
    Tab.get stopNop (((List.range ws.length).zip ws).foldl (fun m x => Tab.set stopNop m (l + x.1) x.2) m) i =
      if l ≤ i then ws.getD (i - l) (Tab.get stopNop m i) else Tab.get stopNop m i := by
  have hshift : (List.range' l ws.length).zip ws = ((List.range ws.length).zip ws).map fun x => (l + x.1, x.2) := by
    rw [List.range'_eq_map_range, List.zip_map_left]
    rfl
  have hget := get_foldl_set stopNop ws l m i
  rwa [hshift, List.foldl_map] at hget

theorem getElem?_chunks {α : Type} (n k : Nat) (l : List α) (i : Nat) (hi : i < k) :
    (chunks n k l)[i]? = some ((l.drop (n * i)).take n) := by
  induction k generalizing l i with
  | zero => exact absurd hi (Nat.not_lt_zero i)
  | succ k ih =>
    cases i with
    | zero => rfl
    | succ i => rw [chunks, List.getElem?_cons_succ, ih _ i (Nat.lt_of_succ_lt_succ hi), List.drop_drop, Nat.mul_succ, Nat.add_comm]

theorem length_bytesWords (n : Nat) (d : List Byte) : (bytesWords (8 * n) d).length = n := by
  rw [bytesWords, List.length_map, chunks_length]
  omega

/-- A word of bytes that are its own. -/
theorem getElem?_bytesWords {n k : Nat} {d : List Byte} {w : W64} (hk : k < n) (hw : leBytes 8 w.toNat = (d.drop (8 * k)).take 8) :
    (bytesWords (8 * n) d)[k]? = some w := by
  rw [bytesWords, List.getElem?_map, getElem?_chunks 8 _ d k (by omega), ← hw]
  have hlt := w.isLt
  refine congrArg some (BitVec.eq_of_toNat_eq ?_)
  dsimp only
  rw [leValue_leBytes, Nat.mod_eq_of_lt hlt, toNat_w64, Nat.mod_eq_of_lt hlt]

/-- What an IMLOAD leaves of its berth: the words, the length of the code, and the context. -/
theorem berth_loadWords (s : State) (b l : Nat) (ws : List W64) :
    (s.loadWords b l ws).berth b = { s.berth b with
      im := ((List.range ws.length).zip ws).foldl (fun m x => Tab.set stopNop m (l + x.1) x.2) (s.berth b).im
      codelen := Nat.max (s.berth b).codelen (l + ws.length) } := by
  unfold State.loadWords
  dsimp only
  refine (berth_modBerth s b b fun x => { x with
    im := ((List.range ws.length).zip ws).foldl (fun m x => Tab.set stopNop m (l + x.1) x.2) x.im
    codelen := Nat.max x.codelen (l + ws.length) }).trans (if_pos rfl)

/-- The slot of the ring that a publishing copy filled (R214). -/
theorem slot_routed {c : Ctx} {o : Op} {q i : Nat} (hr : o.route = .ring q i) :
    (((c.routed o none).ring q).slot i).st = .full ∧ (((c.routed o none).ring q).slot i).fail = none ∧
      (c.routed o none).spad = c.spad := by
  have hslot : ((c.routed o none).ring q).slot i = { (c.ring q).slot i with st := .full, pub := false, fail := none } := by
    unfold Ctx.routed
    rw [hr]
    dsimp only
    rw [Ctx.modRing, Ctx.ring, Tab.get_upd, if_pos rfl, Ring.modSlot, Ring.slot, Tab.get_upd, if_pos rfl]
    rfl
  rw [hslot]
  refine ⟨rfl, rfl, ?_⟩
  unfold Ctx.routed
  rw [hr]
  rfl

/-- A failure that an operation leaves where it counts: the failure is listed, and the operation gone (R218). -/
theorem copyComplete_counts {s : State} {o : Op} {f : Option Fail} (hp : o.plain) (hr : o.route = .count) :
    let b := s.subj.berth
    let t := (s.running b).modCtx fun c => c.complete o f []
    t.ctxAt b = { (s.ctxAt b).dropOp o.id with cfails := (s.ctxAt b).cfails ++ f.toList } ∧
      (∀ k, k ≠ b → t.berth k = s.berth k) ∧ t.hbm = s.hbm := by
  refine ⟨?_, fun k hk => ?_, rfl⟩
  · exact (ctxAt_modCtx_cur _ rfl).trans ((complete_plain f hp).trans (routed_count f hr))
  · exact (sameBut_modCtxAt (s.running s.subj.berth) s.subj.berth fun c => c.complete o f []).2 k hk

/-- Words loaded: each stands at its offset from l, and what is not among them is as it was (R239). -/
theorem imload_lands {s : State} {o : Op} {va l n : Nat} {d : List Byte} (hk : o.kind = .imload va l n) (hr : o.route = .count) :
    let b := s.subj.berth
    let t := ((s.running b).loadWords b l (bytesWords (8 * n) d)).modCtx fun c => c.complete o none []
    (∀ k w, k < n → leBytes 8 (w : W64).toNat = (d.drop (8 * k)).take 8 → Tab.get stopNop (t.berth b).im (l + k) = w) ∧
      (∀ k, k < l ∨ l + n ≤ k → Tab.get stopNop (t.berth b).im k = Tab.get stopNop (s.berth b).im k) ∧
      (t.berth b).codelen = Nat.max (s.berth b).codelen (l + n) ∧
      (t.ctxAt b).ops = (s.ctxAt b).ops.filter fun p => p.id != o.id := by
  have hlen := length_bytesWords n d
  have hload := berth_loadWords (s.running s.subj.berth) s.subj.berth l (bytesWords (8 * n) d)
  have hcur : ((s.running s.subj.berth).loadWords s.subj.berth l (bytesWords (8 * n) d)).cur = s.subj.berth := rfl
  obtain ⟨u, hu⟩ : ∃ u, u = (s.running s.subj.berth).loadWords s.subj.berth l (bytesWords (8 * n) d) := ⟨_, rfl⟩
  rw [← hu] at hload hcur
  have hctx : u.ctxAt s.subj.berth = s.ctxAt s.subj.berth := by rw [State.ctxAt, hload]; rfl
  have hb : (u.modCtx fun c => c.complete o none []).berth s.subj.berth =
      { u.berth s.subj.berth with ctx := (s.ctxAt s.subj.berth).complete o none [] } := by
    rw [State.modCtx, hcur, berth_modCtxAt_same, hctx]
  dsimp only
  rw [← hu, State.ctxAt, hb, hload, complete_plain none (plain_of_imload hk), routed_count none hr]
  dsimp only
  refine ⟨fun k w hlt hw => ?_, fun k hout => ?_, by rw [hlen]; rfl, rfl⟩
  · rw [get_putWords, if_pos (Nat.le_add_right l k), Nat.add_sub_cancel_left, List.getD_eq_getElem?_getD,
      getElem?_bytesWords hlt hw]
    rfl
  · rw [get_putWords]
    split
    · next hle => exact List.getD_eq_default _ _ (by omega)
    · rfl

/-- A way whose fill fails keeps the earliest failure (R226). -/
theorem fill_fails {s : State} {o : Op} {t e : Nat} (f : Fail) (hv : ((s.ctxAt s.subj.berth).way t e).valid = true)
    (hm : o.id ∈ ((s.ctxAt s.subj.berth).way t e).fills) :
    let b := s.subj.berth
    let u := (s.running b).modCtx fun c => (c.dropOp o.id).modWay t e fun y =>
      if y.valid ∧ y.fills.contains o.id then { y with fail := earlier y.fail f, fills := y.fills.filter (· != o.id) } else y
    ((u.ctxAt b).way t e).fail = earlier ((s.ctxAt b).way t e).fail f ∧
      (u.ctxAt b).ops = (s.ctxAt b).ops.filter (fun p => p.id != o.id) ∧ (u.ctxAt b).spad = (s.ctxAt b).spad := by
  dsimp only
  rw [ctxAt_modCtx_cur _ rfl]
  refine ⟨?_, rfl, rfl⟩
  rw [Ctx.modWay, Ctx.way, Tab.get_upd, if_pos rfl]
  refine congrArg Way.fail (if_pos ⟨hv, ?_⟩)
  exact List.contains_iff_mem.2 hm

/-- Settles O35: what has landed and what is left of the operation, by its kind and its outcome. -/
theorem copiesAndFillsComplete : Obligations.CopiesAndFillsComplete := by
  unfold Obligations.CopiesAndFillsComplete
  intro s o hid ho
  refine ⟨?_, ?_, ?_, ?_, ?_, ?_, ?_, ?_⟩
  · intro r d hk hs hr hout hq
    have hbits : transposeBits r.q = none := by rcases hq with hq | hq <;> rw [hq] <;> rfl
    have hcount : ∀ x, o.route ≠ .stream x := fun x h => Route.noConfusion (hr.symm.trans h)
    refine ⟨fun hi => ⟨_, exec_copyComplete_passed hid ho hk hs hbits hi hcount, landRest_retires fun c => ?_⟩,
      fun k v hi hd hm => ⟨_, exec_copyComplete_early hid ho hk hs hbits hi hcount, landEarly_lands ho hd hm⟩⟩
    rw [complete_plain none (plain_of_inbound hk hout)]
    exact retires_routed hr
  · intro r d q i hk hs hr hout hq hi
    have hring : ∀ x, o.route ≠ .stream x := fun x h => Route.noConfusion (hr.symm.trans h)
    refine ⟨_, exec_copyComplete_passed hid ho hk hs (by rw [hq]; rfl) hi hring, ?_⟩
    rw [ctxAt_modCtx_cur _ (cur_landRest ..), ctxAt_landRest, complete_plain none (plain_of_inbound hk hout)]
    obtain ⟨hfull, hfail, hspad⟩ := slot_routed (c := (s.ctxAt s.subj.berth).spadWrite r.l
      (o.landing ((s.ctxAt s.subj.berth).spadRead r.l d.length) d)) hr
    refine ⟨?_, hfull, hfail⟩
    refine Eq.trans ?_ (spad_landed (s.ctxAt s.subj.berth) o r.l d).1
    exact congrArg (fun m => Memory.read zeroByte m r.l d.length) hspad
  · intro r hk hout hcp hs hr
    have hcount : ∀ x, o.route ≠ .stream x := fun x h => Route.noConfusion (hr.symm.trans h)
    obtain ⟨hctx, hother, hhbm⟩ := copyComplete_counts (s := s) (f := none) (plain_of_cp hk hcp) hr
    exact ⟨_, exec_copyComplete_replied hid ho hk hs hout hcount, hctx.trans (by simp [Ctx.dropOp]), hother, hhbm⟩
  · intro r f hk hcp hs hr
    obtain ⟨hctx, hother, hhbm⟩ := copyComplete_counts (s := s) (f := some f) (plain_of_cp hk hcp) hr
    refine ⟨_, exec_copyComplete_failed hid ho (.inl ⟨r, hk⟩) hs, ?_, ?_, ?_, hother, hhbm⟩ <;> rw [hctx] <;> rfl
  · intro va l n f hk hs hr
    obtain ⟨hctx, hother, hhbm⟩ := copyComplete_counts (s := s) (f := some f) (plain_of_imload hk) hr
    refine ⟨_, exec_copyComplete_failed hid ho (.inr ⟨va, l, n, hk⟩) hs, ?_, ?_, ?_, hother, hhbm⟩ <;> rw [hctx] <;> rfl
  · intro va l n d hk hs hr _
    exact ⟨_, exec_copyComplete_imload hid ho hk hs, imload_lands hk hr⟩
  · intro t e blk n l d hk hs
    exact ⟨fun hi => ⟨_, exec_probeFillComplete_passed hid ho hk hs hi, landRest_retires fun c => ⟨rfl, rfl, rfl, rfl⟩⟩,
      fun k v hi hd hm => ⟨_, exec_probeFillComplete_early hid ho hk hs hi, landEarly_lands ho hd hm⟩⟩
  · intro t e blk n l f hk hs hv hm
    exact ⟨_, exec_probeFillComplete_failed hid ho hk hs, fill_fails f hv hm⟩

end Sys2Proof.Machine
end

section
/-! SUPPORT. A completion of the pool for a number that two operations of a berth bear (spec/25 R375): the step adds its failure to what
each of them has gathered, so the other operation does not end with that failure alone. -/

namespace Sys2Proof.Machine
open Sys2Proof

/-- A copy of 8 bytes in from the pool. -/
def poolCopy : CopyReq := ⟨.cp, 2 ^ 36 + 0x2000, 0xFFFF8, 8, none, 0, 0, 0, .none, false, none⟩

/-- Its operation, whose one UIO request is out, with the failures that it has gathered. -/
def poolOp (errs : List (Nat × Nat × Nat)) : Op :=
  ⟨1, .copy poolCopy, .count, 0, .remote [(keyUio, 0, 8)] [], 0, 0, false, Window.none, false, errs, [], 0⟩

/-- Berth 0 holds two operations of the same number; the second has gathered a failure. Window 1 of the pool is mapped at 2^36. -/
def twoOfOneNumber : State :=
  { State.reset with
    roots := [0x1000], jobpt := [(0, w64 (2 ^ 63 + 0x1001))], hbm := [(0x1008, 0xBB)], poolwin := [(1, w64 (2 ^ 63 + 36 * 2 ^ 48))]
    berths := [(0, { Berth.idle with ctx := { Ctx.start with ops := [poolOp [], poolOp [(1, 1, 1)]] } })] }

/-- The failures that the operations of berth 0 have gathered. -/
def gathered : Out → List (List (Nat × Nat × Nat))
  | .next t => (t.ctxAt 0).ops.map Op.errs
  | _ => []

theorem translate_twoOfOneNumber :
    (match twoOfOneNumber.translate (twoOfOneNumber.jobAt 0) (2 ^ 36 + 0x2000) none with
      | .ok (.pool pa) => pa == 0x2000
      | _ => false) = true := by decide +kernel

/-- Refutes O36: nothing keeps two operations of a berth from bearing one number. A poisoned completion adds its failure to what each of
them has gathered, where the statement has it replace that: the second operation of `twoOfOneNumber` keeps its earlier failure. -/
theorem not_windowAndPoolTraffic : ¬ Obligations.WindowAndPoolTraffic := by
  unfold Obligations.WindowAndPoolTraffic
  intro h
  have htr : twoOfOneNumber.translate (twoOfOneNumber.jobAt 0) (2 ^ 36 + 0x2000) none = .ok (.pool 0x2000) := by
    have ht := translate_twoOfOneNumber
    split at ht
    · next pa heq => rw [heq, beq_iff_eq.1 ht]
    · exact absurd ht Bool.false_ne_true
  obtain ⟨-, -, hfails⟩ := h.2 twoOfOneNumber 0 (poolOp []) poolCopy keyUio (2 ^ 36 + 0x2000) 8 0x2000 [] [] (by decide +kernel) rfl rfl rfl
    (by decide +kernel) (by decide +kernel) rfl rfl htr
  obtain ⟨hpoison, -, -⟩ := hfails (.inl (by decide +kernel))
  exact absurd (congrArg gathered hpoison) (by decide +kernel)

end Sys2Proof.Machine
end

section
/-! PROOF. TRAP, BKPT and RETT, and the return from a trap (spec/11 R170, R171, spec/23 R337). -/

namespace Sys2Proof.Machine
open Sys2Proof

theorem exec_trap (h : Hd) (imm : Nat) (s : State) : exec (.trap h imm) s = execTrap h imm s := rfl
theorem exec_bkpt (h : Hd) (imm : Nat) (s : State) : exec (.bkpt h imm) s = execBkpt h imm s := rfl
theorem exec_rett (h : Hd) (s : State) : exec (.rett h) s = execRett h s := rfl
theorem exec_handlerResume (s : State) : exec .handlerResume s = execHandlerResume s := rfl

-- the words --------------------------------------------------------------------------------------------------------------

section
variable {s : State} {h : Hd} (hg : s.ctx.guard h = true)
include hg

/-- TRAP leaves its trap to take at the boundary. -/
theorem exec_trap_go (imm : Nat) :
    exec (.trap h imm) s = .next (s.withCtx { s.ctx with pending := some ⟨0x60, sx31 imm, 0, 0⟩ }) := by
  rw [exec_trap, execTrap]
  exact issue_ctx hg rfl

/-- BKPT leaves its breakpoint to take at the boundary. -/
theorem exec_bkpt_go (imm : Nat) :
    exec (.bkpt h imm) s = .next (s.withCtx { s.ctx with pending := some ⟨0x61, w64 imm, 0, 0⟩ }) := by
  rw [exec_bkpt, execBkpt]
  exact issue_ctx hg rfl

variable (hb : s.ctx.branch = none) (hq : s.ctx.quiet = 0)
include hb hq

/-- RETT in handler state: the pilot waits for the handler's results. -/
theorem exec_rett_go (hs : s.ctx.hs = true) : exec (.rett h) s = .next (s.withCtx { s.ctx with pilot := .rett }) := by
  rw [exec_rett, execRett]
  refine issueTransfer_go hg hb hq (verdict_of_none ?_)
  rw [hs]
  rfl

/-- RETT outside handler state. -/
theorem exec_rett_privilege (hs : s.ctx.hs = false) : exec (.rett h) s = .next (s.trapped 0x63 0) := by
  rw [exec_rett, execRett]
  refine issueTransfer_flt hg hb hq (verdict_of_some ?_)
  rw [hs]
  rfl

end

-- the return -------------------------------------------------------------------------------------------------------------

/-- What every return leaves of a context, before its held-aside work is replayed or discarded. -/
def Ctx.returned (c : Ctx) (a : Snap) : Ctx :=
  { c with hs := false, aside := none, pilot := .run, pc := bf c.tpc 0 15, mboxReq := a.mbox.1, mboxAns := a.mbox.2 }

/-- Whether an operation had not been sent when its context was interrupted: it was held, or is a remote load to be issued again. -/
def Snap.unsent (a : Snap) (o : Op) : Bool :=
  a.held.any (fun h => h.1 == o.id && h.2 != 0) || a.flights.any fun f =>
    match f.eff with
    | .rload i _ _ => i == o.id
    | _ => false

theorem Snap.unsent_eq_false_iff {a : Snap} {o : Op} : a.unsent o = false ↔
    (∀ h ∈ a.held, h.1 = o.id → h.2 = 0) ∧ ∀ f ∈ a.flights, ∀ d y, f.eff ≠ .rload o.id d y := by
  have hload : ∀ f : Flight, (match f.eff with | .rload i _ _ => i == o.id | _ => false) = false ↔ ∀ d y, f.eff ≠ .rload o.id d y := by
    intro f
    cases hf : f.eff with
    | rload i d x => simp
    | _ => simp
  rw [Snap.unsent, Bool.or_eq_false_iff, List.any_eq_false, List.any_eq_false]
  refine and_congr (forall₂_congr fun h _ => ?_) (forall₂_congr fun f _ => ?_)
  · simp
  · rw [Bool.not_eq_true]
    exact hload f

/-- A context whose unsent operations are discarded, and whose handler's own publications count on (R337, DROP 1). -/
def Ctx.dropAside (c : Ctx) (a : Snap) : Ctx :=
  (a.pubs.filter fun p => p.2.2.2).foldl (fun c p => c.fillOn (p.1, p.2.1, 1, true))
    ((c.ops.filter a.unsent).foldl Ctx.discardOp { c.returned a with fences := [] })

section
variable {c : Ctx} {a : Snap} (ha : c.aside = some a)
include ha

/-- With DROP 0 the held-aside work is in force again. -/
theorem leaveTrap_replays (hd : c.drop = false) : c.leaveTrap = a.pubs.foldl Ctx.fillOn
    { c.returned a with flights := a.flights, branch := a.branch, quiet := a.quiet, fences := a.fences ++ c.fences } := by
  have ha' : c.aside.getD Snap.empty = a := by rw [ha, Option.getD_some]
  subst ha'
  exact if_neg (Bool.eq_false_iff.1 hd)

/-- With DROP 1 it is discarded. -/
theorem leaveTrap_drops (hd : c.drop = true) : c.leaveTrap =
    { c.dropAside a with ops := (c.dropAside a).ops.map fun o => { o with rel := 0 } } := by
  have ha' : c.aside.getD Snap.empty = a := by rw [ha, Option.getD_some]
  subst ha'
  exact if_pos hd

end

/-- c' is c but for its operations, and for the rings, streams and windows in which operations have a part. -/
def Ctx.sameButOps (c c' : Ctx) : Prop :=
  c' = { c with ops := c'.ops, rings := c'.rings, streams := c'.streams, windows := c'.windows }

theorem sameButOps_trans {c c' c'' : Ctx} (h : c.sameButOps c') (k : c'.sameButOps c'') : c.sameButOps c'' := by
  unfold Ctx.sameButOps at *
  rw [k, h]

theorem sameButOps_discardOp (c : Ctx) (o : Op) : c.sameButOps (c.discardOp o) := rfl

theorem sameButOps_fillOn (c : Ctx) (p : Nat × Nat × Nat × Bool) : c.sameButOps (c.fillOn p) := rfl

/-- The discarding of held-aside work touches the operations, and what they have a part in, alone. -/
theorem sameButOps_dropAside (c : Ctx) (a : Snap) : ({ c.returned a with fences := [] } : Ctx).sameButOps (c.dropAside a) := by
  have hrefl : ({ c.returned a with fences := [] } : Ctx).sameButOps { c.returned a with fences := [] } := rfl
  refine foldl_inv (Ctx.sameButOps _) _ (fun x p h => sameButOps_trans h (sameButOps_fillOn x _)) _ _ ?_
  exact foldl_inv (Ctx.sameButOps _) _ (fun x o h => sameButOps_trans h (sameButOps_discardOp x o)) _ _ hrefl

/-- Of the operations, those that bear none of the discarded ones' numbers stay. -/
theorem mem_ops_foldl_discardOp {l : List Op} {c : Ctx} {o : Op} :
    o ∈ (l.foldl Ctx.discardOp c).ops ↔ o ∈ c.ops ∧ ∀ g ∈ l, o.id ≠ g.id := by
  induction l generalizing c with
  | nil => simp
  | cons g l ih =>
    have hone : o ∈ (c.discardOp g).ops ↔ o ∈ c.ops ∧ o.id ≠ g.id := by simp [Ctx.discardOp]
    rw [List.foldl_cons, ih, hone, and_assoc, List.forall_mem_cons]

/-- With DROP 1, those that had been sent stay. -/
theorem mem_ops_dropAside {c : Ctx} {a : Snap} {o : Op} : o ∈ (c.dropAside a).ops ↔ o ∈ c.ops ∧ a.unsent o = false := by
  have hfill : (c.dropAside a).ops = ((c.ops.filter a.unsent).foldl Ctx.discardOp { c.returned a with fences := [] }).ops :=
    foldl_keeps Ctx.ops (fun (c : Ctx) (p : Nat × Nat × Nat × Bool) => c.fillOn (p.1, p.2.1, 1, true)) (fun _ _ => rfl) _ _
  rw [hfill, mem_ops_foldl_discardOp]
  refine and_congr_right fun ho => ⟨fun hall => ?_, fun hs g hmem hid => ?_⟩
  · by_contra hu
    exact hall o (List.mem_filter.2 ⟨ho, Bool.eq_true_of_not_eq_false hu⟩) rfl
  · -- whether an operation had been sent is read from its number alone
    have hg : a.unsent g = a.unsent o := by rw [Snap.unsent, Snap.unsent, hid]
    exact Bool.false_ne_true ((hs.symm.trans hg.symm).trans (List.mem_filter.1 hmem).2)

/-- Once the handler's results have landed, its return is taken. -/
theorem exec_handlerResume_returns {s : State} (hp : (s.ctxAt s.subj.berth).pilot = .rett) (hf : (s.ctxAt s.subj.berth).flights = []) :
    exec .handlerResume s = .next (s.modCtxAt s.subj.berth Ctx.leaveTrap) := by
  rw [exec_handlerResume]
  exact if_pos ⟨hp, hf⟩

/-- Settles O9: the words by their checks, and the return by DROP, which replays or discards what is held aside. -/
theorem trapFormsAndReturn : Obligations.TrapFormsAndReturn := by
  refine ⟨fun s h imm hg => ⟨exec_trap_go hg imm, exec_bkpt_go hg imm, exec_rett_go hg, exec_rett_privilege hg⟩, fun s a => ?returns⟩
  dsimp only
  intro hp hf ha
  obtain ⟨hframe, hother⟩ := sameBut_modCtxAt s s.subj.berth Ctx.leaveTrap
  have hown : (s.modCtxAt s.subj.berth Ctx.leaveTrap).ctxAt s.subj.berth = (s.ctxAt s.subj.berth).leaveTrap := by
    rw [ctxAt_modCtxAt, if_pos rfl]
  have hpc : bf (s.ctxAt s.subj.berth).tpc 0 15 = (s.ctxAt s.subj.berth).tpc.toNat % 32768 := bf_zero _ 15
  refine ⟨_, exec_handlerResume_returns hp hf, hframe, hother, fun hd => ?_, fun hd => ?_⟩
  · rw [← hpc]
    exact hown.trans (leaveTrap_replays ha hd)
  · rw [hown, leaveTrap_drops ha hd, ← hpc]
    refine ⟨?_, fun o => ?_⟩
    · have hsame := sameButOps_dropAside (s.ctxAt s.subj.berth) a
      generalize (s.ctxAt s.subj.berth).dropAside a = x at hsame ⊢
      rw [hsame, ← hf]
      rfl
    · refine List.mem_map.trans (exists_congr fun p => ?_)
      rw [mem_ops_dropAside, Snap.unsent_eq_false_iff, and_assoc, eq_comm (b := o)]

end Sys2Proof.Machine
end

section
/-! PROOF. Immediates, shifts by a constant, bit fields, compares and SEL (spec/11 R157-R161). -/

namespace Sys2Proof.Machine
open Sys2Proof

-- immediates -------------------------------------------------------------------------------------------------------------

/-- An imm31 stands for a number of 31 bits in two's complement (spec/05 R71). -/
theorem sx31_eq_ofInt {imm : Nat} (h : imm < 2 ^ 31) :
    sx31 imm = BitVec.ofInt 64 (if imm < 2 ^ 30 then (imm : Int) else (imm : Int) - 2 ^ 31) := by
  have hval : (BitVec.ofNat 31 imm).toNat = imm := by rw [BitVec.toNat_ofNat, Nat.mod_eq_of_lt h]
  have hint : (BitVec.ofNat 31 imm).toInt = if imm < 2 ^ 30 then (imm : Int) else (imm : Int) - 2 ^ 31 := by
    rw [BitVec.toInt_eq_toNat_cond, hval]
    exact if_congr (by omega) rfl rfl
  rw [sx31, BitVec.signExtend, hint]

/-- MOVH puts 31 bits below the 33 low bits of its operand. -/
theorem shiftLeft_or_ofNat (x : W64) {imm : Nat} (h : imm < 2 ^ 31) :
    x <<< 31 ||| w64 imm = BitVec.ofNat 64 (x.toNat % 2 ^ 33 * 2 ^ 31 + imm) := by
  have hhigh : x.toNat * 2 ^ 31 % 2 ^ 64 = (x.toNat % 2 ^ 33) <<< 31 := by
    rw [Nat.shiftLeft_eq, show (2 : Nat) ^ 64 = 2 ^ 33 * 2 ^ 31 from rfl, Nat.mul_mod_mul_right]
  refine BitVec.eq_of_toNat_eq ?_
  rw [BitVec.toNat_or, BitVec.toNat_shiftLeft, BitVec.toNat_ofNat, BitVec.toNat_ofNat, Nat.shiftLeft_eq, hhigh,
    Nat.mod_eq_of_lt (show imm < 2 ^ 64 by omega), ← Nat.shiftLeft_add_eq_or_of_lt h, Nat.shiftLeft_eq,
    Nat.mod_eq_of_lt (show x.toNat % 2 ^ 33 * 2 ^ 31 + imm < 2 ^ 64 by omega)]

-- bit fields ---------------------------------------------------------------------------------------------------------------

/-- A mask of w ones at the low end. -/
theorem getLsbD_ones (w : Nat) {i : Nat} (hi : i < 64) : (w64 (2 ^ w - 1)).getLsbD i = decide (i < w) := by
  rw [BitVec.getLsbD_ofNat, Nat.testBit_two_pow_sub_one, decide_eq_true hi, Bool.true_and]

theorem getLsbD_bext64 (x : W64) (lo w : Nat) {i : Nat} (hi : i < 64) :
    (bext64 x lo w).getLsbD i = (decide (i < w) && x.getLsbD (lo + i)) := by
  rw [bext64, BitVec.getLsbD_and, BitVec.getLsbD_ushiftRight, getLsbD_ones w hi, Bool.and_comm]

theorem getLsbD_bins64 (z x : W64) (lo w : Nat) {i : Nat} (hi : i < 64) :
    (bins64 z x lo w).getLsbD i = if lo ≤ i ∧ i < lo + w then x.getLsbD (i - lo) else z.getLsbD i := by
  have hmask : (w64 (2 ^ w - 1) <<< lo).getLsbD i = decide (lo ≤ i ∧ i < lo + w) := by
    rw [BitVec.getLsbD_shiftLeft, getLsbD_ones w (by omega), decide_eq_true hi, ← decide_not, Bool.true_and, ← Bool.decide_and]
    exact decide_eq_decide.2 (by omega)
  have hvalue : (x <<< lo).getLsbD i = (decide (lo ≤ i) && x.getLsbD (i - lo)) := by
    rw [BitVec.getLsbD_shiftLeft, decide_eq_true hi, ← decide_not, Bool.true_and]
    exact congrArg (· && _) (decide_eq_decide.2 Nat.not_lt)
  rw [bins64, BitVec.getLsbD_or, BitVec.getLsbD_and, BitVec.getLsbD_and, BitVec.getLsbD_not, hmask, hvalue]
  by_cases hin : lo ≤ i ∧ i < lo + w
  · simp [hin]
  · simp [hin, hi]

-- the words ----------------------------------------------------------------------------------------------------------------

/-- A compare puts its one bit in flight. -/
theorem cmpForm_go {h : Hd} {s : State} (hg : s.ctx.guard h = true) (d p a b : Nat) (f : W64 → W64 → Bool) :
    cmpForm h d p a b f s = .next (s.flown 1 (.sbit d p (f (s.ctx.reg a) (s.ctx.reg b))) false) := issueFly_go hg

/-- SEL executes whatever its guard field says (R161). -/
theorem exec_sel_go (h : Hd) (d a b : Nat) (s : State) : exec (.sel h d a b) s =
    .next (s.flown 1 (.sreg d (if s.ctx.guard h then s.ctx.reg a else s.ctx.reg b)) false) :=
  issueFly_go (h := Hd.plain) rfl

/-- Settles O3: each word issues, and puts in flight the value, or the one bit, that R157 to R161 give. -/
theorem scalarFieldsCompareAndSelect : Obligations.ScalarFieldsCompareAndSelect := by
  refine ⟨fun s h d a imm n lo wm1 hg himm hn hlo hwm1 => ?fields, fun s h d p a b => ?compares⟩
  case fields =>
    intro x z k out
    have hgo : ∀ f : Ctx → W64, scalar h 1 d f s = out (f s.ctx) := fun f => scalar_go hg
    have heq : ∀ (f : Ctx → W64) (v : W64), f s.ctx = v → scalar h 1 d f s = out v := fun f v hv => hv ▸ scalar_go hg
    refine ⟨heq _ _ (congrArg (x + ·) (sx31_eq_ofInt himm)), heq _ _ (sx31_eq_ofInt himm), heq _ _ (shiftLeft_or_ofNat x himm),
      heq _ _ (shiftLeft_eq_ofNat x n), heq _ _ (ushiftRight_eq_ofNat x n), heq _ _ (sshiftRight_eq_ofInt x n),
      ⟨bext64 x lo (wm1 + 1), hgo _, fun i hi => ?bext⟩, ⟨bins64 z x lo (wm1 + 1), hgo _, fun i hi => ?bins⟩,
      ⟨putBit x n true, hgo _, fun i hi => ?setb⟩, ⟨putBit x n false, hgo _, fun i hi => ?clrb⟩⟩
    case bext => rw [getLsbD_bext64 x lo _ hi, decide_eq_decide.2 Nat.lt_succ_iff]
    case bins =>
      rw [getLsbD_bins64 z x lo _ hi]
      exact if_congr (and_congr_right fun _ => Nat.lt_succ_iff) rfl rfl
    case setb =>
      rw [getLsbD_putBit x n true hi]
      by_cases hin : i = n <;> simp [hin]
    case clrb =>
      rw [getLsbD_putBit x n false hi]
      by_cases hin : i = n <;> simp [hin]
  case compares =>
    intro x y out
    refine ⟨exec_sel_go h d a b s, fun hg => ?_⟩
    have heq : ∀ (f : W64 → W64 → Bool) (v : Bool), f x y = v → cmpForm h d p a b f s = out v :=
      fun f v hv => hv ▸ cmpForm_go hg d p a b f
    exact ⟨heq _ _ rfl, heq _ _ decide_not.symm, heq _ _ rfl, heq _ _ rfl, heq _ _ rfl, heq _ _ rfl⟩

end Sys2Proof.Machine
end

section
/-! PROOF. Local loads and stores of the own scratchpad, plain and indexed (spec/11 R162, R163, spec/13 R205, R206). -/

namespace Sys2Proof.Machine
open Sys2Proof

theorem names3_one (m : MName) : names3 [m] = (m.plane == 3) := Bool.or_false _
theorem names3_two (a b : MName) : names3 [a, b] = (a.plane == 3 || b.plane == 3) := congrArg _ (Bool.or_false _)

-- plain accesses ---------------------------------------------------------------------------------------------------------

section
variable {s : State} {v : W64} {n al : Nat} (hn : 0 < n) (hin : v.toNat + n ≤ 0x100000)

include hn hin in
theorem isWin_inside : isWin v.toNat = false := decide_eq_false (by omega)

variable (hal : v.toNat % al = 0)
include hn hin hal

/-- An aligned access within the scratchpad, which its tokens allow, raises nothing. -/
theorem localChecks_inside {acc : Acc} (hown : s.ownFault v.toNat n acc = none) : checks (s.localChecks v n al acc) = none := by
  have hodd : (v.toNat % al != 0) = false := bne_eq_false_iff_eq.2 hal
  rw [State.localChecks, localBad_inside hn hin, hodd, if_pos (by omega), hown]
  rfl

theorem storeVerdict_inside (hown : s.ownFault v.toNat n .write = none) : storeVerdict v n al s = .go := by
  rw [storeVerdict, verdict_of_none (localChecks_inside hn hin hal hown), isWin_inside hn hin]
  rfl

end

section
variable {s : State} {h : Hd} (hg : s.ctx.guard h = true)
include hg

section
variable {a imm : Nat} (hal : (memAddr s.ctx a imm).toNat % 8 = 0) (hin : (memAddr s.ctx a imm).toNat + 8 ≤ 0x100000)
include hal hin

/-- A load of the scratchpad takes its value at issue (R162). -/
theorem exec_lds_inside (d : Nat) (hown : s.ownFault (memAddr s.ctx a imm).toNat 8 .read = none) :
    exec (.lds h d a imm) s =
      .next (s.flown 4 (.sreg d (w64 (leValue (Memory.read zeroByte s.ctx.spad (memAddr s.ctx a imm).toNat 8)))) false) := by
  rw [exec_lds, execLds, issue_go hg (verdict_of_none (localChecks_inside (by decide) hin hal hown))]
  dsimp only
  rw [isWin_inside (by decide) hin]
  rfl

/-- A store to the scratchpad puts its bytes in flight (R163). -/
theorem exec_sts_inside (d : Nat) (hown : s.ownFault (memAddr s.ctx a imm).toNat 8 .write = none) : exec (.sts h d a imm) s =
    .next (s.flown 2 (.store 0 (cellsFrom (memAddr s.ctx a imm).toNat (leBytes 8 (s.ctx.reg d).toNat))) false) := by
  rw [exec_sts, execSts]
  refine (issue_go hg ?_).trans ?_
  · exact storeVerdict_inside (by decide) hin hal hown
  dsimp only
  rw [State.localStore, isWin_inside (by decide) hin]
  rfl

end

section
variable {a imm : Nat} (hal : (vmemAddr s.ctx a imm).toNat % 64 = 0) (hin : (vmemAddr s.ctx a imm).toNat + 512 ≤ 0x100000)
include hal hin

/-- A vector load (R205). -/
theorem exec_vld_inside (m : MName) (k : Nat) (w : Width) (hown : s.ownFault (vmemAddr s.ctx a imm).toNat 512 .read = none) :
    exec (.vld h m a k w imm) s = .next (s.flown 6 (.cells (s.ctx.cellsOf m (lanesMask w (s.ctx.writeMask k w))
      (bytesLanes (Memory.read zeroByte s.ctx.spad (vmemAddr s.ctx a imm).toNat 512)))) (m.plane == 3)) := by
  rw [exec_vld, execVld, issue_go hg (verdict_of_none (localChecks_inside (by decide) hin hal hown))]
  dsimp only
  rw [isWin_inside (by decide) hin, ← names3_one m]
  rfl

/-- A vector store (R205). -/
theorem exec_vst_inside (m : MName) (k : Nat) (w : Width) (hown : s.ownFault (vmemAddr s.ctx a imm).toNat 512 .write = none) :
    exec (.vst h m a k w imm) s =
      .next (s.flown 2 (.store 1 (s.ctx.maskedBytes m w k (vmemAddr s.ctx a imm).toNat)) (m.plane == 3)) := by
  rw [exec_vst, execVst]
  refine (issue_go hg ?_).trans ?_
  · exact storeVerdict_inside (by decide) hin hal hown
  dsimp only
  rw [isWin_inside (by decide) hin, ← names3_one m]
  rfl

end

end

-- indexed accesses -------------------------------------------------------------------------------------------------------

theorem exec_vldx (h : Hd) (d a : MName) (p : Nat) (w : Width) (k : Nat) (s : State) :
    exec (.vldx h d a p w k) s = execVldx h d a p w k s := rfl
theorem exec_vstx (h : Hd) (a b : MName) (p : Nat) (w : Width) (k : Nat) (s : State) :
    exec (.vstx h a b p w k) s = execVstx h a b p w k s := rfl

/-- An element within the scratchpad, aligned, and allowed by its tokens raises nothing. -/
theorem indexFault_none {s : State} {n x : Nat} {acc : Acc} (hin : x < 0x100000) (hal : x % n = 0) (hown : s.ownFault x n acc = none) :
    s.indexFault n acc x = none := by
  rw [State.indexFault, decide_eq_false (Nat.not_le.2 hin), bne_eq_false_iff_eq.2 hal, hown]
  rfl

/-- The elements that a predicate selects are checked, and all of them pass. -/
theorem indexChecks_none {s : State} {n : Nat} {acc : Acc} {l : List (Nat × Nat × Bool)} {sel : Nat × Nat × Bool → Bool}
    (hok : ∀ e ∈ l, sel e = true → e.2.1 < 0x100000 ∧ e.2.1 % n = 0 ∧ s.ownFault e.2.1 n acc = none) :
    checks (l.map fun e => if sel e then s.indexFault n acc e.2.1 else none) = none := by
  rw [checks_eq_none]
  intro o ho
  obtain ⟨e, he, rfl⟩ := List.mem_map.1 ho
  by_cases hs : sel e = true
  · obtain ⟨hin, hal, hown⟩ := hok e he hs
    rw [if_pos hs, indexFault_none hin hal hown]
  · rw [if_neg hs]

/-- Settles O5: the checks of each access pass, so what R162, R163, R205 and R206 give is put in flight. -/
theorem localLoadsAndStores : Obligations.LocalLoadsAndStores := by
  refine ⟨fun s h d a imm k m w hg => ?plain, fun s h d a b p k w hg => ?indexed⟩
  case plain =>
    exact ⟨fun hal hin hown => exec_lds_inside hg hal hin d hown, fun hal hin hown => exec_sts_inside hg hal hin d hown,
      fun hal hin hown => exec_vld_inside hg hal hin m k w hown, fun hal hin hown => exec_vst_inside hg hal hin m k w hown⟩
  case indexed =>
    refine ⟨fun hok => ?load, fun hok => ?store⟩
    case load =>
      rw [exec_vldx, execVldx, ← names3_two]
      refine issue_ctx hg (verdict_of_none ?_)
      exact indexChecks_none (sel := fun e => e.2.2) fun e he hm => hok e he (.inl hm)
    case store =>
      rw [exec_vstx, execVstx, ← names3_two]
      refine issue_ctx hg (verdict_of_none ?_)
      refine indexChecks_none (l := s.ctx.indexed a p w k)
        (sel := fun e => e.2.2 || ((s.ctx.indexed a p w k).all fun e => !e.2.2) && e.1 == 0) fun e he hm => hok e he ?_
      simpa [and_comm] using hm

end Sys2Proof.Machine
end

section
/-! PROOF. LAUNCH, MBOXREG and MBOXACK (spec/11 R177-R179). -/

namespace Sys2Proof.Machine
open Sys2Proof

theorem exec_launch (h : Hd) (a q : Nat) (s : State) : exec (.launch h a q) s = execLaunch h a q s := rfl
theorem exec_mboxreg (h : Hd) (d a nm1 sm6 : Nat) (loc : Bool) (s : State) :
    exec (.mboxreg h d a nm1 sm6 loc) s = execMboxreg h d a nm1 sm6 loc s := rfl
theorem exec_mboxack (h : Hd) (s : State) : exec (.mboxack h) s = execMboxack h s := rfl

theorem job_eq {s : State} {m : Man} (hm : s.man s.ctx.team = some m) : s.job = m.job := by
  rw [State.job, State.jobAt, show s.man (s.ctxAt s.cur).team = some m from hm]
  rfl

/-- The start of a persist leaves every context. -/
theorem ctx_beginPersist (s : State) (b : Nat) : (s.beginPersist b).ctx = s.ctx := by
  rw [State.beginPersist, State.ctx, State.ctxAt, berth_modBerth]
  split
  · next h => rw [← h]; rfl
  · rfl

section
variable {s : State} {h : Hd} (hg : s.ctx.guard h = true)
include hg

-- LAUNCH -----------------------------------------------------------------------------------------------------------------

/-- LAUNCH to a queue that is not enabled. -/
theorem exec_launch_privilege {a q : Nat} (hin : (s.ctx.reg a).toNat + 256 ≤ 0x100000) (hal : (s.ctx.reg a).toNat % 256 = 0)
    (hen : (s.lq q).ctl.getLsbD 63 = false) : exec (.launch h a q) s = .next (s.trapped 0x63 (w64 q)) := by
  rw [exec_launch, execLaunch]
  refine issue_flt hg (verdict_of_some ?_)
  rw [bt, hen, bne_eq_false_iff_eq.2 hal, decide_eq_false (by omega)]
  rfl

variable {m : Man} (hm : s.man s.ctx.team = some m)
include hm

/-- LAUNCH of a manifest that it may read, to a queue of its own job (R177). -/
theorem exec_launch_go {a q : Nat} (hin : (s.ctx.reg a).toNat + 256 ≤ 0x100000) (hal : (s.ctx.reg a).toNat % 256 = 0)
    (hen : (s.lq q).ctl.getLsbD 63 = true) (hjob : bf (s.lq q).ctl 32 6 = m.job)
    (hown : s.ownFault (s.ctx.reg a).toNat 256 .read = none) :
    ∃ t, exec (.launch h a q) s = .next t ∧ s.issuedAs t { s.ctx with ops := s.ctx.ops ++
      [s.newOp 0 (.launch q (Memory.read zeroByte s.ctx.spad (s.ctx.reg a).toNat 256)) .count 0 (s.ctx.drainTime 7)] } 1 true := by
  rw [exec_launch, execLaunch]
  refine ⟨_, issue_go hg (verdict_of_none ?_), issuedAs_pushPersist s _ _ _ _ _⟩
  rw [bt, hen, hjob, job_eq hm, hown, bne_self_eq_false, bne_eq_false_iff_eq.2 hal, decide_eq_false (by omega)]
  rfl

-- MBOXACK ----------------------------------------------------------------------------------------------------------------

/-- MBOXACK in a mailbox's handler team issues its acknowledgement (R179). -/
theorem exec_mboxack_go (hb : m.mbox.isSome = true) : ∃ t, exec (.mboxack h) s = .next t ∧
    s.issuedAs t { s.ctx with ops := s.ctx.ops ++ [s.newOp 0 .mboxack .count 0 0] } 1 true := by
  rw [exec_mboxack, execMboxack]
  refine ⟨_, issue_go hg (verdict_of_none ?_), issuedAs_pushPersist s _ _ _ _ _⟩
  rw [State.teamOf, hm, Option.bind_some, Option.isNone_eq_false_iff.2 hb]
  rfl

/-- MBOXACK elsewhere. -/
theorem exec_mboxack_privilege (hb : m.mbox = none) : exec (.mboxack h) s = .next (s.trapped 0x63 0) := by
  rw [exec_mboxack, execMboxack]
  refine issue_flt hg (verdict_of_some ?_)
  rw [State.teamOf, hm, Option.bind_some, hb]
  rfl

end

-- MBOXREG ----------------------------------------------------------------------------------------------------------------

section
variable {s : State} {h : Hd} {a nm1 sm6 : Nat} {loc : Bool} (hg : s.ctx.guard h = true)
  (hal : (s.ctx.reg a).toNat % 2 ^ (sm6 + 6) = 0)
  (hloc : loc = true → s.ctx.export_.1 ≤ (s.ctx.reg a).toNat ∧
    (s.ctx.reg a).toNat + (nm1 + 1) * 2 ^ (sm6 + 6) ≤ s.ctx.export_.1 + s.ctx.export_.2)
  (hglob : loc = false → s.mboxPages s.job (s.ctx.reg a).toNat ((nm1 + 1) * 2 ^ (sm6 + 6)) = none)
  (hh : s.ctx.holding = false)

include hal hloc hglob

/-- The checks of MBOXREG that do not ask whether its request has been sent pass: alignment, pages and export (R178). -/
theorem mboxregChecks_none {overlap : Bool} (hover : overlap = false) :
    checks [chk ((s.ctx.reg a).toNat % 2 ^ (sm6 + 6) != 0) fcAlign (s.ctx.reg a),
      if loc then none else s.mboxPages s.job (s.ctx.reg a).toNat ((nm1 + 1) * 2 ^ (sm6 + 6)),
      chk (loc && decide ((s.ctx.reg a).toNat < s.ctx.export_.1 ∨
        s.ctx.export_.1 + s.ctx.export_.2 < (s.ctx.reg a).toNat + (nm1 + 1) * 2 ^ (sm6 + 6))) fcBound (s.ctx.reg a),
      chk overlap fcBound (s.ctx.reg a)] = none := by
  subst hover
  rw [bne_eq_false_iff_eq.2 hal]
  cases loc with
  | false =>
    rw [hglob rfl]
    rfl
  | true =>
    obtain ⟨hlo, hhi⟩ := hloc rfl
    rw [decide_eq_false (by omega)]
    rfl

include hg hh

/-- MBOXREG whose request has been answered completes with the answer. -/
theorem exec_mboxreg_answered (d : Nat) {v : W64} (hr : s.ctx.mboxReq = some ((s.ctx.reg a).toNat, nm1 + 1, sm6 + 6, loc))
    (hans : s.ctx.mboxAns = some v) : exec (.mboxreg h d a nm1 sm6 loc) s = .next (s.withCtx { s.ctx with
      mboxReq := none, mboxAns := none, flights := s.ctx.flights ++ [⟨1, .sreg d v, false⟩] }) := by
  rw [exec_mboxreg, execMboxreg]
  refine (issue_ctx hg ?_).trans ?_
  · refine (verdict_of_none (mboxregChecks_none hal hloc hglob ?_)).trans ?_
    · rw [hr, bne_self_eq_false, Bool.false_and]
    · rw [hh, if_neg Bool.false_ne_true, if_pos hr, hans]
      rfl
  · rw [hans]
    rfl

/-- MBOXREG whose request has not been sent freezes with it sent. -/
theorem exec_mboxreg_sends (d : Nat) (hr : s.ctx.mboxReq ≠ some ((s.ctx.reg a).toNat, nm1 + 1, sm6 + 6, loc))
    (hp : (s.berth s.cur).persistBusy = false)
    (hover : s.mboxOverlap s.job (if loc then some s.ctx.self else none) (s.ctx.reg a).toNat ((nm1 + 1) * 2 ^ (sm6 + 6)) = false) :
    exec (.mboxreg h d a nm1 sm6 loc) s = .next { (s.modCtx fun c => { c with
      mboxReq := some ((s.ctx.reg a).toNat, nm1 + 1, sm6 + 6, loc), mboxAns := none }).beginPersist s.cur with iss := .frozen } := by
  rw [exec_mboxreg, execMboxreg]
  refine issue_freeze hg ((verdict_of_none (mboxregChecks_none hal hloc hglob ?_)).trans ?_)
  · rw [hover, Bool.and_false]
  · rw [hh, if_neg Bool.false_ne_true, if_neg hr, hp, if_neg Bool.false_ne_true]

end

/-- Settles O12: LAUNCH and MBOXACK issue their operation where their checks pass, and MBOXREG its request, then its answer. -/
theorem launchAndMailboxForms : Obligations.LaunchAndMailboxForms := by
  intro s h d a q nm1 sm6 loc m hg hm
  refine ⟨fun hin hal hen hjob hown => exec_launch_go hg hm hin hal hen hjob hown, exec_launch_privilege hg,
    fun hal hloc hglob hh => ⟨fun v hr hans => ?_, fun hr hp hover => ?_⟩, exec_mboxack_go hg hm, exec_mboxack_privilege hg hm⟩
  · exact exec_mboxreg_answered hg hal hloc hglob hh d hr hans
  · refine ⟨_, exec_mboxreg_sends hg hal hloc hglob hh d hr hp hover, rfl, ?_⟩
    rw [ctx_iss, ctx_beginPersist, ctx_modCtx]

end Sys2Proof.Machine
end

section
/-! PROOF. The debugger: halts, steps and transfers of images (spec/11 R170, spec/23 R356-R359, spec/24 R360). -/

namespace Sys2Proof.Machine
open Sys2Proof

theorem exec_debugHalt (s : State) : exec .debugHalt s = execDebugHalt s := rfl
theorem exec_debugResume (s : State) : exec .debugResume s = execDebugResume s := rfl
theorem exec_step (s : State) : exec .step s = execStep s := rfl
theorem exec_imgin (s : State) : exec .imgin s = execImgin s := rfl
theorem exec_imgout (s : State) : exec .imgout s = execImgout s := rfl
theorem exec_imageTransferDone (s : State) : exec .imageTransferDone s = execImageTransferDone s := rfl

-- what is heeded of the debugger ---------------------------------------------------------------------------------------------

/-- A debugger is heeded while the berth is halted, not asked to drain, and transfers no image. -/
theorem debugReady_halted {s : State} {b : Nat} (hst : (s.berth b).st = .halted) (hdrain : bt (s.berth b).dbgctl 62 = false)
    (himg : (s.berth b).imgbusy = none) : s.debugReady b = true := by
  rw [State.debugReady, State.haltedBit, hst, hdrain, himg]
  rfl

/-- It is not heeded while the berth runs, or while an image is under way. -/
theorem debugReady_busy {s : State} {b : Nat} (h : (s.berth b).st ≠ .halted ∨ (s.berth b).imgbusy ≠ none) : s.debugReady b = false := by
  rw [State.debugReady, State.haltedBit]
  obtain hst | himg := h
  · rw [beq_eq_false_iff_ne.2 hst]
    rfl
  · rw [Option.isNone_eq_false_iff.2 (Option.isSome_iff_ne_none.2 himg), Bool.and_false]

section
variable {s : State}

theorem exec_step_heeded (h : s.debugReady s.subj.berth = true) : exec .step s =
    .next (s.modBerth s.subj.berth fun y => { y with st := .run, stepping := some 0, bpSkip := true }) := by
  rw [exec_step, execStep, State.stepBerth, if_pos h]

theorem exec_imgin_heeded (h : s.debugReady s.subj.berth = true) : exec .imgin s =
    .next (s.modBerth s.subj.berth fun y => { y with imgbusy := some (bf (s.berth s.subj.berth).dbgimg 12 45 * 4096, false) }) := by
  rw [exec_imgin, execImgin, State.imginBerth, if_pos h, State.modBerth, State.modBerth]
  rfl

theorem exec_debugger_ignored (h : s.debugReady s.subj.berth = false) :
    exec .step s = .next s ∧ exec .imgin s = .next s ∧ exec .imgout s = .next s := by
  rw [exec_step, execStep, State.stepBerth, exec_imgin, execImgin, State.imginBerth, exec_imgout, execImgout, State.imgoutBerth, h]
  exact ⟨rfl, rfl, rfl⟩

end

-- what host accesses leave ---------------------------------------------------------------------------------------------------

@[simp] theorem roster_hostRefused (s : State) (port code : Nat) (job : Option Nat) (pa : Nat) :
    (s.hostRefused port code job pa).roster = s.roster := roster_event s _ _ _ _

@[simp] theorem roster_hostCheck (s : State) (job va n : Nat) (acc : Acc) : (s.hostCheck job va n acc).1.roster = s.roster := by
  have h := roster_tokens s [.host] (s.chkRange job none acc va n)
  unfold State.hostCheck
  split
  · rfl
  · split
    next heq => rw [heq] at h; exact h
    next heq => rw [heq] at h; exact h

/-- A write of the host touches memory, its tokens and mailboxes, and the log. -/
@[simp] theorem roster_hostPut (s : State) (job va : Nat) (bs : List Byte) : (s.hostPut job va bs).roster = s.roster := by
  unfold State.hostPut
  split
  · rfl
  · rfl
  · have h := roster_hostCheck (s.healWalk job va) job va bs.length .write
    rw [roster_healWalk] at h
    split
    next heq =>
      rw [heq] at h
      exact (roster_hostRefused _ _ _ _ _).trans h
    next heq =>
      rw [heq] at h
      exact (roster_arrive _ _ _ _ _).trans ((roster_locWrite _ _ _).trans h)

theorem berths_imageNo (s : State) (c : Ctx) : (s.imageNo c).1.berths = s.berths := by
  unfold State.imageNo
  split <;> rfl

/-- IMGOUT, heeded, writes the image to the buffer and has its transfer under way; the berth is else as it was. -/
theorem exec_imgout_heeded {s : State} (h : s.debugReady s.subj.berth = true) : ∃ t, exec .imgout s = .next t ∧
    t.berth s.subj.berth = { s.berth s.subj.berth with imgbusy := some (bf (s.berth s.subj.berth).dbgimg 12 45 * 4096, true) } := by
  have hno : (!s.debugReady s.subj.berth) = false := by rw [h]; rfl
  rw [exec_imgout, execImgout, State.imgoutBerth, hno]
  dsimp only
  refine ⟨_, rfl, ?_⟩
  rw [if_neg Bool.false_ne_true, berth_modBerth, if_pos rfl]
  have hber := berths_imageNo s ((s.berth s.subj.berth).ctx.rebase fun k => k + 128 - s.subj.berth)
  generalize s.imageNo _ = p at hber ⊢
  have hput : ∀ (l : List (Nat × List Byte)) (job va : Nat),
      (l.foldl (fun s k => s.hostPut job (va + 4096 * k.1) k.2) p.1).berths = s.berths := fun l job va =>
    (roster_fields (foldl_keeps State.roster (fun (s : State) (k : Nat × List Byte) => s.hostPut job (va + 4096 * k.1) k.2)
      (fun _ _ => roster_hostPut ..) l p.1)).1.trans hber
  rw [State.berth, hput]
  rfl

-- the end of a transfer ------------------------------------------------------------------------------------------------------

section
variable {s : State}

theorem exec_imageTransferDone_idle (h : (s.berth s.subj.berth).imgbusy = none) : exec .imageTransferDone s = .next s := by
  rw [exec_imageTransferDone, execImageTransferDone, h]

theorem exec_imageTransferDone_out {va : Nat} (h : (s.berth s.subj.berth).imgbusy = some (va, true)) :
    exec .imageTransferDone s = .next (s.modBerth s.subj.berth fun y => { y with imgbusy := none }) := by
  rw [exec_imageTransferDone, execImageTransferDone, h]
  exact if_pos (.inl rfl)

theorem ctxAt_eventOpen (s : State) (src code : Nat) (job : Option Nat) (b : Nat) : (s.eventOpen src code job).ctxAt b = s.ctxAt b := by
  rw [State.eventOpen, State.ctxAt, berth_event]
  rfl

/-- What an IMGIN makes of the image that was read: nothing where it was not read or its CRC fails, the berth's state where every check
holds, and an event where another check fails (R342, R359). -/
theorem exec_imageTransferDone_in {va : Nat} (h : (s.berth s.subj.berth).imgbusy = some (va, false))
    (hst : (s.berth s.subj.berth).st = .halted) : let b := s.subj.berth
    let u := s.modBerth b fun y => { y with imgbusy := none }
    let r := u.imageRead (u.jobAt b) va 512
    (r.2 = none ∧ exec .imageTransferDone s = .next r.1) ∨ ∃ img, r.2 = some img ∧
      ((imageCrc img = false ∧ exec .imageTransferDone s = .next r.1) ∨
       (imageCrc img = true ∧ ∃ c, r.1.imageCtx b img = some c ∧
         exec .imageTransferDone s = .next ({ r.1 with nextId := r.1.nextId + c.ops.length }.imageIn b c)) ∨
       (imageCrc img = true ∧ r.1.imageCtx b img = none ∧ ∃ t, exec .imageTransferDone s = .next t ∧ t.ctxAt b = r.1.ctxAt b)) := by
  dsimp only
  rw [exec_imageTransferDone, execImageTransferDone, h]
  dsimp only
  have hgo : ¬ (false = true ∨ ((s.modBerth s.subj.berth fun y => { y with imgbusy := none }).berth s.subj.berth).st ≠ .halted) := by
    rw [berth_modBerth, if_pos rfl]
    simp [hst]
  rw [if_neg hgo]
  generalize State.imageRead _ _ va 512 = r
  obtain ⟨u, _ | img⟩ := r
  case none => exact .inl ⟨rfl, rfl⟩
  case some =>
    refine .inr ⟨img, rfl, ?_⟩
    dsimp only
    cases hcrc : imageCrc img with
    | false => exact .inl ⟨rfl, rfl⟩
    | true =>
      cases hctx : u.imageCtx s.subj.berth img with
      | some c => exact .inr (.inl ⟨rfl, c, rfl, rfl⟩)
      | none => exact .inr (.inr ⟨rfl, rfl, _, rfl, ctxAt_eventOpen u _ _ _ _⟩)

end

-- halts at a boundary (R357, R358) ---------------------------------------------------------------------------------------------

section
variable {s : State}

/-- The halt of the berth whose turn it is. -/
theorem debugHalt_running (s : State) (b reason : Nat) : ({ s with cur := b } : State).debugHalt reason =
    { s.setBerth b { s.berth b with
        st := .halted, reason := reason, stepping := none, bpSkip := decide (reason = 3)
        ctx := { (s.berth b).ctx.atBoundary with pending := none } } with agent := .land b, cur := b, woff := 0, skip := none } := rfl

/-- BKPT halts where BKEN is set (R170). -/
theorem boundary_haltsBkpt {k : TrapInfo} (hpend : (s.berth s.cur).ctx.pending = some k) (hcode : k.code = 0x61)
    (hen : bt (s.berth s.cur).dbgctl 59 = true) : s.boundary = .next (s.debugHalt 2) := by
  rw [State.boundary, hpend]
  exact if_pos ⟨hcode, hen⟩

variable (hpend : (s.berth s.cur).ctx.pending = none) (hteam : (s.teamOf (s.berth s.cur).ctx).map Man.ended = some false)
include hpend hteam

/-- HALT halts at the next boundary, but not before the group of a step has issued. -/
theorem boundary_haltsHalt (hhalt : bt (s.berth s.cur).dbgctl 63 = true) (hstep : (s.berth s.cur).stepping = none) :
    s.boundary = .next (s.debugHalt 0) := by
  rw [State.boundary]
  simp [hpend, hteam, hhalt, hstep]

/-- A step that is over halts. -/
theorem boundary_haltsStep (hdone : (s.berth s.cur).stepDone = true) : s.boundary = .next (s.debugHalt 1) := by
  have hstep : (s.berth s.cur).stepping.isNone = false := by
    rw [Option.isNone_eq_false_iff, Option.isSome_iff_ne_none]
    intro hnone
    rw [Berth.stepDone, hnone] at hdone
    exact Bool.false_ne_true hdone
  rw [State.boundary]
  simp [hpend, hteam, hdone, hstep]

/-- An address breakpoint of the group about to issue halts, unless it was just taken. -/
theorem boundary_haltsBreak (hhalt : bt (s.berth s.cur).dbgctl 63 = false) (hstep : (s.berth s.cur).stepping = none)
    (hbreaks : (s.berth s.cur).breaks = true) : s.boundary = .next (s.debugHalt 3) := by
  have hdone : (s.berth s.cur).stepDone = false := by rw [Berth.stepDone, hstep]
  rw [State.boundary]
  simp [hpend, hteam, hhalt, hdone, hbreaks]

end

theorem stepDone_group {x : Berth} (h : x.stepping = some 1) : x.stepDone = true := by
  rw [Berth.stepDone, h]
  rfl

theorem stepDone_call {x : Berth} (h : x.stepping = some 2) (hb : x.ctx.branch = none) : x.stepDone = true := by
  rw [Berth.stepDone, h, hb]
  rfl

theorem breaks_of_mem {x : Berth} (hskip : x.bpSkip = false) (h : ∃ e ∈ x.bps, bt e.2 63 = true ∧ x.ctx.pc ≤ bf e.2 0 15 ∧
    bf e.2 0 15 < x.groupEnd groupFuel x.ctx.pc) : x.breaks = true := by
  obtain ⟨e, he, hen, hin⟩ := h
  rw [Berth.breaks, hskip]
  exact List.any_eq_true.2 ⟨e, he, by rw [hen, decide_eq_true hin]; rfl⟩

/-- Settles O49: what the debugger asks for is heeded or ignored, a transfer ends as its image says, and each halt is the first item of the
boundary that applies. -/
theorem debuggingABerth : Obligations.DebuggingABerth := by
  intro s b hb
  subst hb
  refine ⟨rfl, rfl, fun hst hdrain himg => ?heeded, fun h => exec_debugger_ignored (debugReady_busy h),
    fun va h => exec_imageTransferDone_out h, fun va h hst => exec_imageTransferDone_in h hst, exec_imageTransferDone_idle,
    fun ha hst ht hp => ?halts⟩
  case heeded =>
    have hready := debugReady_halted hst hdrain himg
    obtain ⟨t, hex, hown⟩ := exec_imgout_heeded hready
    exact ⟨exec_step_heeded hready, exec_imgin_heeded hready, t, hex, by rw [hown], by rw [hown]; exact hst⟩
  case halts =>
    dsimp only
    simp only [exec_groupIssue_running rfl ha hst ht hp, ← debugHalt_running]
    refine ⟨fun k hk hcode hen => boundary_haltsBkpt hk hcode hen, fun hpend hteam => ⟨fun hh hs => boundary_haltsHalt hpend hteam hh hs,
      fun hs => boundary_haltsStep hpend hteam ?_, fun hs hbr => boundary_haltsStep hpend hteam ?_,
      fun hs hh hskip hbp => boundary_haltsBreak hpend hteam hh hs (breaks_of_mem hskip hbp)⟩⟩
    · exact stepDone_group hs
    · exact stepDone_call hs hbr

end Sys2Proof.Machine
end

section
/-! PROOF. Vector words (spec/13 R182-R204): what the model computes on integers and lane masks, and what each word puts in flight. -/

namespace Sys2Proof.Machine
open Sys2Proof

-- integers (R188, R190) --------------------------------------------------------------------------------------------------

theorem clampI_eq {lo hi : Int} (h : lo ≤ hi) (v : Int) : clampI lo hi v = max lo (min hi v) := by
  unfold clampI
  split_ifs <;> omega

/-- The least and the greatest integer of n bits. -/
theorem intRange_nonempty (n : Nat) (u : Bool) :
    (if u then 0 else -(2 ^ (n - 1)) : Int) ≤ if u then 2 ^ n - 1 else 2 ^ (n - 1) - 1 := by
  have hpos : ∀ k : Nat, (0 : Int) < 2 ^ k := fun k => Int.pow_pos (by decide)
  have hn := hpos n
  have hm := hpos (n - 1)
  split_ifs <;> omega

/-- The low half of an exact result: wrapped, or brought into the range of its width. -/
theorem intResult_low (w : Width) (u sat : Bool) (v : Int) : intResult w false u sat v = ofSigned w.bits
    (if sat then max (if u then 0 else -(2 ^ (w.bits - 1))) (min (if u then 2 ^ w.bits - 1 else 2 ^ (w.bits - 1) - 1) v) else v) := by
  cases sat with
  | false => rfl
  | true =>
    rw [if_pos rfl, ← clampI_eq (intRange_nonempty w.bits u)]
    cases u <;> rfl

/-- The high half of an exact result. -/
theorem intResult_high (w : Width) (u sat : Bool) (v : Int) : intResult w true u sat v = ofSigned w.bits (v / 2 ^ w.bits) := by
  rw [intResult, Int.natCast_pow]
  rfl

-- lane masks (R191, R204) ------------------------------------------------------------------------------------------------

theorem length_elems (c : Ctx) (m : MName) (w : Width) : (c.elems m w).length = widthCount w := by
  rw [Ctx.elems, elemsOf, List.length_flatMap]
  simp only [laneElems_length]
  rw [List.map_const', List.sum_replicate_nat, Ctx.lanes, List.length_map, List.length_range, widthCount_eq, Nat.mul_comm]

theorem length_writeMask (c : Ctx) (k : Nat) (w : Width) : (c.writeMask k w).length = widthCount w := by
  rw [Ctx.writeMask, maskElems, List.length_map, List.length_range]

theorem getLsbD_maskOf (bs : List Bool) {i : Nat} (hi : i < 512) : (maskOf bs).getLsbD i = bs.getD i false := by
  have hbit : (packElems 1 (bs.map bit)).testBit i = ((bs.map bit).getD i (bit false)).testBit 0 := by
    simpa using testBit_packElems 1 (bs.map bit) i Nat.zero_lt_one
  rw [maskOf, BitVec.getLsbD_ofNat, decide_eq_true hi, Bool.true_and, hbit, List.getD_map]
  cases bs.getD i false <;> rfl

/-- An element that the write mask selects is compared, and any other bit is 0. -/
theorem getD_cmpMask {n : Nat} {ms : List Bool} {xs ys : List Nat} (hm : ms.length = n) (hx : xs.length = n) (hy : ys.length = n)
    (f : Nat → Nat → Bool) (i : Nat) : ((ms.zip (xs.zip ys)).map fun e => e.1 && f e.2.1 e.2.2).getD i false =
      (decide (i < n) && ms.getD i false && f (xs.getD i 0) (ys.getD i 0)) := by
  by_cases hi : i < n <;> simp [hm, hx, hy, hi]

/-- A count of bits fits a scalar register. -/
theorem popcount_toNat {n : Nat} (hn : n < 2 ^ 64) (x : BitVec n) :
    (w64 (popcount n x.toNat)).toNat = ((List.range n).filter fun i => x.getLsbD i).length := by
  have hle : popcount n x.toNat ≤ n := by
    rw [popcount_eq]
    exact (List.length_filter_le _ _).trans (List.length_range).le
  rw [BitVec.toNat_ofNat, Nat.mod_eq_of_lt (lt_of_le_of_lt hle hn), popcount_eq]
  rfl

-- the words ----------------------------------------------------------------------------------------------------------------

theorem exec_vmconf (h : Hd) (r imm : Nat) (s : State) : exec (.vmconf h r imm) s = execVmconf h r imm s := rfl

section
variable {h : Hd} {s : State} (hg : s.ctx.guard h = true)
include hg

/-- An elementwise word of two operands and the old destination (R182-R184): f and g give the same of any three elements. -/
theorem elementwise_go (l : Nat) (d a b : MName) (w : Width) (k : Nat) {f : Nat → Nat → Nat → Nat} (g : Nat → Nat → Nat → Nat)
    (hfg : ∀ x y z, f x y z = g x y z) :
    elementwise h l d a b w k f s = .next (s.flown l (s.ctx.vecEff d w (s.ctx.writeMask k w)
      (((s.ctx.elems a w).zip ((s.ctx.elems b w).zip (s.ctx.elems d w))).map fun x => g x.1 x.2.1 x.2.2)) (names3 [d, a, b])) := by
  obtain rfl : f = g := funext fun x => funext fun y => funext fun z => hfg x y z
  exact vector_go hg

/-- An elementwise word of one operand. -/
theorem elementwise1_go (l : Nat) (d a : MName) (w : Width) (k : Nat) (f : Nat → Nat) : elementwise1 h l d a w k f s =
    .next (s.flown l (s.ctx.vecEff d w (s.ctx.writeMask k w) ((s.ctx.elems a w).map f)) (names3 [d, a])) := vector_go hg

/-- VCMP writes one bit for each element, and 0 in the rest of its mask (R191). -/
theorem exec_vcmp_go (kd : Nat) (a b : MName) (t : CmpType) (cd : VCond) (w : Width) (k : Nat) :
    exec (.vcmp h kd a b t cd w k) s = .next (s.flown 3 (.kmask kd (maskOf
      (((s.ctx.writeMask k w).zip ((s.ctx.elems a w).zip (s.ctx.elems b w))).map fun e => e.1 && cmpElems t cd w e.2.1 e.2.2)))
      (names3 [a, b])) := vector_go hg

/-- VMCONF puts a depth from 1 to 128 in flight while nothing in flight or held aside uses the rotating plane (R203). -/
theorem exec_vmconf_go {r imm : Nat} (hlo : 1 ≤ (rotValue s.ctx r imm).toNat) (hhi : (rotValue s.ctx r imm).toNat ≤ 128)
    (hfree : s.ctx.m3Busy = false) : exec (.vmconf h r imm) s = .next (s.flown 1 (.depth (rotValue s.ctx r imm).toNat) false) := by
  rw [exec_vmconf, execVmconf]
  refine issue_go hg (verdict_of_none ?_)
  rw [decide_eq_false (by omega), hfree]
  rfl

/-- VMCONF of a depth that the plane cannot have. -/
theorem exec_vmconf_bound {r imm : Nat} (hout : (rotValue s.ctx r imm).toNat < 1 ∨ 128 < (rotValue s.ctx r imm).toNat) :
    exec (.vmconf h r imm) s = .next (s.trapped 0x02 (rotValue s.ctx r imm)) := by
  rw [exec_vmconf, execVmconf]
  refine issue_flt hg (verdict_of_some ?_)
  rw [decide_eq_true hout]
  rfl

/-- VMCONF while something in flight, or held aside, uses the rotating plane. -/
theorem exec_vmconf_busy {r imm : Nat} (hlo : 1 ≤ (rotValue s.ctx r imm).toNat) (hhi : (rotValue s.ctx r imm).toNat ≤ 128)
    (hbusy : s.ctx.m3Busy = true) : exec (.vmconf h r imm) s = .next (s.trapped 0x06 0) := by
  rw [exec_vmconf, execVmconf]
  refine issue_flt hg (verdict_of_some ?_)
  rw [decide_eq_false (by omega), hbusy]
  rfl

end

/-- Settles O14: each word is an elementwise one, of the operation that R185, R186 or R187 names. -/
theorem vectorFloatForms : Obligations.VectorFloatForms := by
  intro s h d a b f16 rm w k hg c F three pick one
  have hthree : ∀ l f, elementwise h l d a b w k (fop w f16 rm f) s = three l f :=
    fun l f => elementwise_go hg l d a b w k (fop w f16 rm f) fun _ _ _ => rfl
  have hpick : ∀ f, elementwise h 3 d a b w k (fun x y _ => fsel w f16 f x y) s = pick f :=
    fun f => elementwise_go hg 3 d a b w k (fun x y _ => fsel w f16 f x y) fun _ _ _ => rfl
  have hone : ∀ l f, elementwise1 h l d a w k f s = one l f := fun l => elementwise1_go hg l d a w k
  exact ⟨hthree 3 _, hthree 3 _, hthree 5 _, hthree 5 _, hthree 5 _, hpick _, hpick _, hone 3 _, hone 3 _, hone 9 _, hone 9 _,
    hone 9 _, hone 9 _⟩

/-- Settles O15: each word is an elementwise one, whose exact result is wrapped, saturated or shifted as R188 and R190 say. -/
theorem vectorIntegerForms : Obligations.VectorIntegerForms := by
  intro s h d a b hi u sat w k hg c n out sgn lo top fit
  have hout : ∀ l (f g : Nat → Nat → Nat), (∀ x y, f x y = g x y) → elementwise h l d a b w k (fun x y _ => f x y) s = out l g :=
    fun l f g hfg => elementwise_go hg l d a b w k (fun x y _ => g x y) fun x y _ => hfg x y
  have hfit : ∀ v, intResult w false u sat v = fit v := intResult_low w u sat
  clear_value out
  refine ⟨hout 3 (fun x y => intResult w false u sat (extElem w u x + extElem w u y)) _ fun _ _ => hfit _,
    hout 3 (fun x y => intResult w false u sat (extElem w u x - extElem w u y)) _ fun _ _ => hfit _,
    hout 5 (fun x y => intResult w hi u sat (extElem w u x * extElem w u y)) _ fun x y => ?product,
    hout 3 (fun x y => x &&& y) _ fun _ _ => rfl, hout 3 (fun x y => x ||| y) _ fun _ _ => rfl,
    hout 3 (fun x y => x ^^^ y) _ fun _ _ => rfl,
    hout 3 (fun x y => x * 2 ^ (y % n) % 2 ^ n) _ fun _ _ => rfl, hout 3 (fun x y => x / 2 ^ (y % n)) _ fun _ _ => rfl,
    hout 3 (fun x y => ofSigned n (toSigned n x / ((2 ^ (y % n) : Nat) : Int))) _ fun x y => ?arithmeticShift⟩
  case product =>
    cases hi with
    | false => exact hfit _
    | true => exact intResult_high w u sat _
  case arithmeticShift => rw [Int.natCast_pow]; rfl

/-- Settles O16: the two masks bit by bit, and every other word by the value that it puts in flight. -/
theorem vectorMaskAndMoveForms : Obligations.VectorMaskAndMoveForms := by
  intro s h d a b kd ka kb r j imm t cd z hi sx w k hg c mk n out kept
  have hgo : ∀ l ns e, vector h l ns e s = out l (e c) ns := fun _ _ _ => vector_go hg
  refine ⟨⟨_, exec_vcmp_go hg kd a b t cd w k, fun i hi => ?compare⟩, hgo 3 _ _, hgo 4 _ _, hgo 4 _ _, hgo 4 _ _, hgo 3 _ _,
    hgo 4 _ _, hgo 4 _ _, hgo 1 _ _, hgo 1 _ _, hgo 1 _ _, _, hgo 2 _ _, popcount_toNat (by decide) _⟩
  case compare =>
    rw [getLsbD_maskOf _ hi]
    exact getD_cmpMask (length_writeMask c k w) (length_elems c a w) (length_elems c b w) (cmpElems t cd w) i

/-- Settles O17: each reshaping word by the value that it puts in flight, and VMCONF by its checks. -/
theorem vectorReshapingForms : Obligations.VectorReshapingForms := by
  intro s h d a src dst rm sat desc half acc rev int u f16 nm1 p lo dbm1 r imm t kind w k hg c mk es out y add live v
  have hgo : ∀ l e, vector h l [d, a] e s = out l (e c) := fun _ _ => vector_go hg
  exact ⟨hgo 3 _, hgo 3 _, hgo 8 _, hgo 6 _, hgo 7 _, vector_go hg, exec_vmconf_go hg, exec_vmconf_bound hg, exec_vmconf_busy hg⟩

end Sys2Proof.Machine
end

section
/-! SUPPORT. Token words at issue: the flush, the probe entries that go, and the operation sent to the home (spec/15 R235, R236). -/

namespace Sys2Proof.Machine
open Sys2Proof

/-- A change of the running context before a word issues its operations is part of what the word does. -/
theorem issuedAs_of_modCtx {s t : State} {c : Ctx} {n : Nat} {want : Bool} (f : Ctx → Ctx) (h : (s.modCtx f).issuedAs t c n want) :
    s.issuedAs t c n want := by
  obtain ⟨hframe, hother, hown⟩ := h
  have hsame := sameBut_modCtxAt s s.cur f
  refine ⟨hframe, fun b hb => (hother b hb).trans (hsame.2 b hb), ?_⟩
  have hberth : (s.modCtx f).berth s.cur = { s.berth s.cur with ctx := f s.ctx } := berth_modCtxAt_same s s.cur f
  rw [show (s.modCtx f).cur = s.cur from rfl, hberth] at hown
  exact hown

/-- The operation that a word issues depends on the windows and the FENCEs of its context alone. -/
theorem newOp_modCtx (s : State) {f : Ctx → Ctx} (hw : (f s.ctx).windows = s.ctx.windows) (hf : (f s.ctx).fences = s.ctx.fences)
    (path : Nat) (kind : OpKind) (route : Route) (tag rel : Nat) :
    (s.modCtx f).newOp path kind route tag rel = s.newOp path kind route tag rel := by
  unfold State.newOp Ctx.fenceHold
  rw [ctx_modCtx, hw, hf]
  rfl

/-- The probe entries that a token form on the region of a global address leaves: those outside the region, the size of a region of
another device being a free value (spec/09 R131, log entry 100). -/
def State.probesKept (s : State) (a : Nat) : Tab Way :=
  let block := fun y : Nat × Way => (y.2.tag, ptBlk (Tab.get 0 s.ctx.ptconf (y.1 / 4096)))
  match s.region s.job none a, s.translate s.job a none with
  | some r, _ => s.ctx.ways.filter fun y => !overlaps (block y) r.base (2 ^ r.log2)
  | none, .ok (.peer _) => s.ctx.ways.filter fun y => !overlaps (block y) (s.farRegion 12 25 a).1 (s.farRegion 12 25 a).2
  | none, _ => s.ctx.ways

theorem dropProbes_eq (s : State) (a : Nat) : s.dropProbes a = s.modCtx fun c => { c with ways := s.probesKept a } := by
  unfold State.dropProbes
  refine modCtxAt_congr (congrArg (fun w => ({ s.ctx with ways := w } : Ctx)) ?_)
  unfold State.probesKept
  cases s.region s.job none a with
  | some r => rfl
  | none =>
    cases s.translate s.job a none with
    | error e => exact List.filter_true _
    | ok l =>
      cases l with
      | peer k => rfl
      | hbm pa ch => exact List.filter_true _
      | pool pa => exact List.filter_true _

/-- The probe entries after a token form at v: a form on a scratchpad region takes none. -/
def State.waysKept (s : State) (v : W64) (sp : Bool) : Tab Way := if sp then s.ctx.ways else s.probesKept v.toNat

/-- Whom a token form names: the other members of its level's team, or one party (log entry 39). -/
def State.tokenTargets (s : State) (form : TokForm) (v : W64) (lvl : Bool) : List Nat :=
  if lvl then s.levelParties v.toNat else if form == .lend || form == .share then [bf v 0 26] else []

/-- The context once a token form has issued. -/
def State.tokenIssued (s : State) (form : TokForm) (g n : Nat) (lvl sp : Bool) (x : Nat) : Ctx :=
  let c := s.ctx
  { c with
    ways := if form.invalidates then s.waysKept (c.reg g) sp else c.ways
    ops := c.ops ++ [s.newOp 8 (.token ⟨form, c.reg g, sp, s.tokenTargets form (c.reg n) lvl⟩)
      (if form = .query then .stream x else .count) 0 (if form.flushes then c.drainTime 7 else 0)]
    streams := if form = .query then Tab.set Stream.unbound c.streams x
      { c.stream x with items := (c.stream x).items ++ [⟨s.nextId, [], false, none⟩] } else c.streams }

/-- The state after a token form has sent its operation, for TKQUERY with its place in the stream. -/
def State.tokenSent (s : State) (form : TokForm) (kind : OpKind) (rel x id : Nat) : State :=
  let u := s.pushPersist pathL kind (if form = .query then .stream x else .count) 0 rel
  if form = .query then u.modCtx fun c => c.queueItem x id else u

theorem issuedAs_tokenSent (s : State) (form : TokForm) (kind : OpKind) (rel x : Nat) :
    s.issuedAs { s.tokenSent form kind rel x s.nextId with iss := .issued }
      { s.ctx with
        ops := s.ctx.ops ++ [s.newOp 8 kind (if form = .query then .stream x else .count) 0 rel]
        streams := if form = .query then Tab.set Stream.unbound s.ctx.streams x
          { s.ctx.stream x with items := (s.ctx.stream x).items ++ [⟨s.nextId, [], false, none⟩] } else s.ctx.streams } 1 true := by
  unfold State.tokenSent
  dsimp only
  by_cases hq : form = .query
  · simp only [if_pos hq]
    exact issuedAs_modCtx (fun c => c.queueItem x s.nextId) (cur_pushPersist _ _ _ _ _ _) (issuedAs_pushPersist s _ _ _ _ _)
  · simp only [if_neg hq]
    exact issuedAs_pushPersist s _ _ _ _ _

section
variable {s : State} {h : Hd} {form : TokForm} {g n x : Nat} {lvl sp : Bool} (hg : s.ctx.guard h = true)
  (hsp : sp = true → s.ctx.spBad (s.ctx.reg g) = false) (hlvl : lvl = true → (s.ctx.reg n).toNat < s.nlev)

include hsp hlvl in
/-- The checks of a token word: its scratchpad region, its level, its stream register. -/
theorem tokenChecks_none (hx : form = .query → (s.ctx.stream x).es = 8) :
    checks [chk (sp && s.ctx.spBad (s.ctx.reg g)) fcBound (s.ctx.reg g),
      chk (lvl && decide (s.nlev ≤ (s.ctx.reg n).toNat)) fcBound (s.ctx.reg n),
      chk (form == .query && (s.ctx.stream x).es != 8) fcStreamUnbound (w64 x)] = none := by
  have hregion : (sp && s.ctx.spBad (s.ctx.reg g)) = false := by cases sp <;> simp [hsp]
  have hlevel : (lvl && decide (s.nlev ≤ (s.ctx.reg n).toNat)) = false := by cases lvl <;> simp [hlvl]
  have hstream : (form == .query && (s.ctx.stream x).es != 8) = false := by
    by_cases hq : form = .query
    · rw [hx hq, bne_self_eq_false, Bool.and_false]
    · rw [beq_eq_false_iff_ne.2 hq, Bool.false_and]
  exact checks_cons_none (chk_none hregion) (checks_cons_none (chk_none hlevel) (checks_cons_none (chk_none hstream) checks_nil))

include hg hsp hlvl

/-- A token form whose checks pass and whose flush has nothing to wait for issues its operation. -/
theorem tokenForm_issues (hx : form = .query → (s.ctx.stream x).es = 8)
    (hf : form.flushes = true → s.ctx.holding = false ∧ s.flushWaits (s.ctx.reg g) sp = false) :
    ∃ t, tokenForm h form g n lvl sp x s = .next t ∧ s.issuedAs t (s.tokenIssued form g n lvl sp x) 1 true := by
  have hgo : (if form.flushes then freezeIf s (s.flushWaits (s.ctx.reg g) sp) .go else .go) = Verdict.go := by
    split
    · next hfl =>
      obtain ⟨hh, hw⟩ := hf hfl
      rw [hw, freezeIf_free hh]
    · rfl
  rw [tokenForm, issue_go hg ((verdict_of_none (tokenChecks_none hsp hlvl hx)).trans hgo)]
  refine ⟨_, rfl, ?_⟩
  change s.issuedAs { (if form.invalidates && !sp then s.dropProbes (s.ctx.reg g).toNat else s).tokenSent form
    (.token ⟨form, s.ctx.reg g, sp, s.tokenTargets form (s.ctx.reg n) lvl⟩) (if form.flushes then s.ctx.drainTime 7 else 0) x s.nextId
    with iss := .issued } _ 1 true
  cases hinv : form.invalidates && !sp with
  | false =>
    have hways : (if form.invalidates then s.waysKept (s.ctx.reg g) sp else s.ctx.ways) = s.ctx.ways := by
      cases sp with
      | true => exact ite_self _
      | false =>
        rw [Bool.not_false, Bool.and_true] at hinv
        rw [hinv]
        rfl
    rw [State.tokenIssued, hways]
    exact issuedAs_tokenSent s _ _ _ _
  | true =>
    obtain ⟨hi, hs⟩ := Bool.and_eq_true_iff.1 hinv
    have hways : (if form.invalidates then s.waysKept (s.ctx.reg g) sp else s.ctx.ways) = s.probesKept (s.ctx.reg g).toNat := by
      rw [if_pos hi, State.waysKept, if_neg (by simpa using hs)]
    rw [if_pos rfl, dropProbes_eq, State.tokenIssued, hways]
    refine issuedAs_of_modCtx (fun c => { c with ways := s.probesKept (s.ctx.reg g).toNat }) ?_
    have hsent := issuedAs_tokenSent (s.modCtx fun c => { c with ways := s.probesKept (s.ctx.reg g).toNat }) form
      (.token ⟨form, s.ctx.reg g, sp, s.tokenTargets form (s.ctx.reg n) lvl⟩) (if form.flushes then s.ctx.drainTime 7 else 0) x
    rw [newOp_modCtx s rfl rfl, ctx_modCtx] at hsent
    exact hsent

/-- A token form whose flush waits for an earlier write holds the freeze line. -/
theorem tokenForm_freezes (hx : form = .query → (s.ctx.stream x).es = 8) (hf : form.flushes = true) (hh : s.ctx.holding = false)
    (hw : s.flushWaits (s.ctx.reg g) sp = true) : tokenForm h form g n lvl sp x s = .next s.frozen := by
  have hfreeze : (if form.flushes then freezeIf s (s.flushWaits (s.ctx.reg g) sp) .go else .go) = Verdict.freeze s := by
    rw [if_pos hf, hw, freezeIf_full hh]
  rw [tokenForm, issue_freeze hg ((verdict_of_none (tokenChecks_none hsp hlvl hx)).trans hfreeze)]
  rfl

omit hlvl in
/-- TKQUERY on a stream register that is not bound to elements of 8 bytes. -/
theorem exec_tkquery_unbound (hx : (s.ctx.stream x).es ≠ 8) : exec (.tkquery h g x sp) s = .next (s.trapped 0x07 (w64 x)) := by
  have hregion : (sp && s.ctx.spBad (s.ctx.reg g)) = false := by cases sp <;> simp [hsp]
  rw [show exec (.tkquery h g x sp) s = tokenForm h .query g 0 false sp x s from rfl, tokenForm]
  refine issue_flt hg (verdict_of_some ?_)
  rw [hregion, bne_iff_ne.2 hx]
  rfl
end

/-- Settles O13: each word is the token form that it names, whose checks pass. -/
theorem tokenFormsIssue : Obligations.TokenFormsIssue := by
  intro s h g n x back lvl sp hg c v hsp block kept op sent
  have hone : bf (c.reg n) 0 26 = (c.reg n).toNat % 2 ^ 26 := bf_zero _ _
  refine ⟨tokenForm_issues hg hsp nofun nofun nofun, tokenForm_issues hg hsp nofun nofun nofun,
    tokenForm_issues hg hsp nofun nofun nofun, tokenForm_issues hg hsp nofun nofun nofun, tokenForm_issues hg hsp nofun nofun nofun,
    fun hx => tokenForm_issues hg hsp nofun (fun _ => hx) nofun, exec_tkquery_unbound hg hsp, fun hh hw => ?flushed,
    fun hh hw => ?waits⟩
  case flushed =>
    rw [← hone]
    refine ⟨tokenForm_issues hg hsp nofun nofun fun _ => ⟨hh, hw⟩, tokenForm_issues hg hsp nofun nofun fun _ => ⟨hh, hw⟩, fun hl => ?_,
      fun hl hn => ?_⟩
    · subst hl
      exact tokenForm_issues hg hsp nofun nofun fun _ => ⟨hh, hw⟩
    · subst hl
      exact tokenForm_issues hg hsp (fun _ => hn) nofun fun _ => ⟨hh, hw⟩
  case waits =>
    exact ⟨tokenForm_freezes hg hsp nofun nofun rfl hh hw, tokenForm_freezes hg hsp nofun nofun rfl hh hw,
      tokenForm_freezes hg hsp nofun nofun rfl hh hw⟩

end Sys2Proof.Machine
end

section
/-! SUPPORT. Copies at issue: their checks, the operation, and its place in a stream register or a ring slot (spec/15 R211-R215). -/

namespace Sys2Proof.Machine
open Sys2Proof

/-- The context of the running berth once a word has issued. -/
theorem ctx_of_issuedAs {s t : State} {c : Ctx} {n : Nat} {want : Bool} (h : s.issuedAs t c n want) : t.ctx = c := by
  obtain ⟨hframe, -, hown⟩ := h
  have hcur : t.cur = s.cur := by rw [hframe]
  rw [State.ctx, State.ctxAt, hcur, hown]

/-- The copy that a word asks for, with the layout record that its handle names (R212). -/
def State.copyOf (s : State) (form : CopyForm) (g l n : Nat) (q : CopyQ) (out : Bool) : CopyReq :=
  let hd := if form = .cps then 0 else bf (s.ctx.reg n) 48 16
  copyReq form s.ctx (if hd = 0 then none else some (s.layout s.job hd)) g l n q out

/-- What the issue of a copy changes of the context beside its operation: the window's allowance, and the place where it delivers. -/
def Ctx.copyPlaced (c : Ctx) (form : CopyForm) (r : CopyReq) (route : Route) (id : Nat) : Ctx :=
  let c := if form = .cpw ∧ r.out then c.takeUnit r.g else c
  match route with
  | .stream x => c.queueItem x id
  | .ring k i => c.modRing k fun y => y.modSlot i fun z => { z with pub := true }
  | .count => c

section
variable {s : State} {h : Hd} (form : CopyForm) {g l n x tag : Nat} {q : CopyQ} {out st : Bool} (hg : s.ctx.guard h = true)
  (hh : s.ctx.holding = false) (hok : checks (s.copyChecks (s.copyOf form g l n q out) (s.ctx.reg n) x st) = none)
include hg hh hok

/-- A copy whose checks pass issues where the queue has room and, outbound through a window, the allowance a unit. -/
theorem execCopy_issues (hq : s.ctx.queueFull = false) (ha : form = .cpw → out = true → s.ctx.allowed (s.ctx.reg g).toNat = true) :
    ∃ t, execCopy form h g l n x q out st tag s = .next t ∧
      s.issuedAs t (Ctx.copyPlaced { s.ctx with ops := s.ctx.ops ++ [s.newOp (if form = .cpw then 32 else 8)
        (.copy (s.copyOf form g l n q out)) (copyRoute s.ctx (s.copyOf form g l n q out) x st) tag 0] } form
        (s.copyOf form g l n q out) (copyRoute s.ctx (s.copyOf form g l n q out) x st) s.nextId) 1 false := by
  have hroom : ((form == .cpw && out && !s.ctx.allowed (s.copyOf form g l n q out).g) || s.ctx.queueFull) = false := by
    rw [hq, Bool.or_false]
    by_cases hf : form = .cpw
    · cases ho : out
      · rw [Bool.and_false, Bool.false_and]
      · rw [show (s.copyOf form g l n q true).g = (s.ctx.reg g).toNat from rfl, ha hf ho, Bool.not_true, Bool.and_false]
    · rw [beq_eq_false_iff_ne.2 hf, Bool.false_and, Bool.false_and]
  have hv : Verdict.of (s.copyChecks (s.copyOf form g l n q out) (s.ctx.reg n) x st)
      (freezeIf s ((form == .cpw && out && !s.ctx.allowed (s.copyOf form g l n q out).g) || s.ctx.queueFull) .go) = .go := by
    rw [verdict_of_none hok, hroom, freezeIf_free hh]
  rw [execCopy]
  exact ⟨_, issue_go hg hv, issuedAs_pushOp s _ _ _ _ _ fun c => c.copyPlaced form (s.copyOf form g l n q out)
    (copyRoute s.ctx (s.copyOf form g l n q out) x st) s.nextId⟩

/-- A copy that finds the queue full holds the freeze line (R211). -/
theorem execCopy_freezes (hq : s.ctx.queueFull = true) : execCopy form h g l n x q out st tag s = .next s.frozen := by
  have hv : Verdict.of (s.copyChecks (s.copyOf form g l n q out) (s.ctx.reg n) x st)
      (freezeIf s ((form == .cpw && out && !s.ctx.allowed (s.copyOf form g l n q out).g) || s.ctx.queueFull) .go) = .freeze s := by
    rw [verdict_of_none hok, hq, Bool.or_true, freezeIf_full hh]
  rw [execCopy]
  exact issue_freeze hg hv
end

/-- A copy that fails a check raises the fault of the first one that it fails (R215). -/
theorem execCopy_traps {s : State} {h : Hd} (form : CopyForm) {g l n x tag : Nat} {q : CopyQ} {out st : Bool} (hg : s.ctx.guard h = true)
    {code : Nat} {addr : W64} (hbad : checks (s.copyChecks (s.copyOf form g l n q out) (s.ctx.reg n) x st) = some (code, addr)) :
    execCopy form h g l n x q out st tag s = .next (s.trapped code addr) := by
  rw [execCopy]
  exact issue_flt hg (verdict_of_some hbad)

/-- Where a copy is placed: a stream register has it at the end of its queue, a publishing one claims its ring's slot, and an outbound
one through a window takes a unit. -/
theorem copyPlaced_eq (c : Ctx) (form : CopyForm) (r : CopyReq) (x : Nat) (st : Bool) (o : Op) (id : Nat) :
    Ctx.copyPlaced { c with ops := c.ops ++ [o] } form r (copyRoute c r x st) id = { c with
      ops := c.ops ++ [o],
      windows := if form = .cpw ∧ r.out then Tab.set Window.none c.windows (winOf r.g)
        { Tab.get Window.none c.windows (winOf r.g) with out := (Tab.get Window.none c.windows (winOf r.g)).out + 1 } else c.windows,
      streams := if st then Tab.set Stream.unbound c.streams x
        { c.stream x with items := (c.stream x).items ++ [⟨id, [], false, none⟩] } else c.streams,
      rings := match copyRoute c r x st with
        | .ring k i => Tab.set Ring.none c.rings k ((c.ring k).modSlot i fun z => { z with pub := true })
        | _ => c.rings } := by
  have hunit : (if form = .cpw ∧ r.out then Ctx.takeUnit { c with ops := c.ops ++ [o] } r.g else { c with ops := c.ops ++ [o] }) =
      { c with
        ops := c.ops ++ [o]
        windows := if form = .cpw ∧ r.out then Tab.set Window.none c.windows (winOf r.g)
          { Tab.get Window.none c.windows (winOf r.g) with out := (Tab.get Window.none c.windows (winOf r.g)).out + 1 } else c.windows } := by
    split <;> rfl
  unfold Ctx.copyPlaced copyRoute
  rw [hunit]
  cases st with
  | true => rfl
  | false =>
    by_cases hp : r.q = .publish
    · simp only [if_pos hp]
      rfl
    · simp only [if_neg hp]
      rfl

/-- The handle of a copy's operand is its top 16 bits. -/
theorem bf_48_16 (v : W64) : bf v 48 16 = v.toNat / 2 ^ 48 := by
  rw [bf_eq]
  exact Nat.mod_eq_of_lt (by omega)

theorem copyOf_of_ne_cps {s : State} {form : CopyForm} {g l n : Nat} {q : CopyQ} {out : Bool} (hf : form ≠ .cps) :
    s.copyOf form g l n q out = copyReq form s.ctx
      (if (s.ctx.reg n).toNat / 2 ^ 48 = 0 then none else some (s.layout s.job ((s.ctx.reg n).toNat / 2 ^ 48))) g l n q out := by
  rw [State.copyOf, if_neg hf, bf_48_16]

/-- The checks of a plain CP without a layout record are those of its COUNT, of its scratchpad range, and of its own tokens, in that
order (R215). -/
theorem plainCopyChecks {s : State} {g l n : Nat} {out : Bool} (hv : (s.ctx.reg n).toNat < 2 ^ 32) :
    checks (s.copyChecks (s.copyOf .cp g l n .none out) (s.ctx.reg n) 0 false) =
      checks [chk (decide (0x100000 < (s.ctx.reg n).toNat)) 0x02 (s.ctx.reg n),
        chk (decide (0x100000 < (s.ctx.reg l).toNat + (s.ctx.reg n).toNat)) 0x02 (s.ctx.reg l),
        (s.ownFault (s.ctx.reg l).toNat (s.ctx.reg n).toNat (if out then .read else .write)).map fun e => (e.1, w64 e.2)] := by
  have hhandle : bf (s.ctx.reg n) 48 16 = 0 := by rw [bf_48_16]; omega
  have hhigh : bf (s.ctx.reg n) 32 16 = 0 := by rw [bf_eq]; omega
  have hcount : bf (s.ctx.reg n) 0 32 = (s.ctx.reg n).toNat := by rw [bf_zero, Nat.mod_eq_of_lt hv]
  have hreq : s.copyOf .cp g l n .none out = copyReq .cp s.ctx none g l n .none out := by
    rw [copyOf_of_ne_cps (form := .cp) nofun, if_pos (by omega)]
  rw [hreq, State.copyChecks]
  -- the two range tests decide; every other check of a plain copy is false as it stands
  simp only [copyReq, CopyReq.bytes, hhandle, hhigh, hcount, BitVec.ofNat_toNat, BitVec.setWidth_eq, reduceCtorEq, if_false,
    show (CopyForm.cp == CopyForm.cps) = false from rfl, show (CopyQ.none == CopyQ.zero) = false from rfl, Bool.and_false, Bool.false_eq_true, bne_self_eq_false, Bool.or_false, Bool.false_and]
  cases decide (0x100000 < (s.ctx.reg n).toNat)
  · cases decide (0x100000 < (s.ctx.reg l).toNat + (s.ctx.reg n).toNat) <;> rfl
  · rfl

/-- Settles O18: each word is the copy that its operands ask for; of a plain CP the checks are counted out. -/
theorem copiesIssue : Obligations.CopiesIssue := by
  refine ⟨fun s h g l n x tag q out st zero hg hh => ?_, fun s h g l n tag out hg hh hq => ?_⟩
  · intro c hd lay issued ok cp cpw cpg cps i w
    have hissue : ∀ (form : CopyForm) (r : CopyReq) (out st : Bool) (x : Nat) (q : CopyQ), s.copyOf form g l n q out = r →
        c.queueFull = false → ok r x st → (form = .cpw → out = true → c.allowed (c.reg g).toNat = true) →
        ∃ t, execCopy form h g l n x q out st tag s = .next t ∧ s.issuedAs t { c with
          ops := c.ops ++ [s.newOp (if form = .cpw then 32 else 8) (.copy r) (copyRoute c r x st) tag 0],
          windows := if form = .cpw ∧ out then Tab.set Window.none c.windows i { w with out := w.out + 1 } else c.windows,
          streams := if st then Tab.set Stream.unbound c.streams x
            { c.stream x with items := (c.stream x).items ++ [⟨s.nextId, [], false, none⟩] } else c.streams,
          rings := match copyRoute c r x st with
            | .ring k i => Tab.set Ring.none c.rings k ((c.ring k).modSlot i fun z => { z with pub := true })
            | _ => c.rings } 1 false := by
      intro form r out st x q hr hq hok ha
      subst hr
      have hi := execCopy_issues form (tag := tag) hg hh hok hq ha
      rw [copyPlaced_eq] at hi
      exact hi
    refine ⟨fun hq => ⟨?cp, ?cps, ?cpg, ?inward, ?outward⟩, fun hq hok => ?full⟩
    case cp => exact fun hok => hissue .cp cp out st x q (copyOf_of_ne_cps nofun) hq hok nofun
    case cps => exact fun hok => hissue .cps cps out st x q rfl hq hok nofun
    case cpg => exact fun hok => hissue .cpg cpg false false 0 _ (copyOf_of_ne_cps nofun) hq hok nofun
    case inward =>
      intro hok ho
      subst ho
      exact hissue .cpw cpw false st x q (copyOf_of_ne_cps nofun) hq hok nofun
    case outward =>
      intro hok ho hw
      subst ho
      exact hissue .cpw cpw true st x q (copyOf_of_ne_cps nofun) hq hok fun _ _ => decide_eq_true hw
    case full =>
      have hcp : s.copyOf .cp g l n q out = cp := copyOf_of_ne_cps nofun
      rw [← hcp] at hok
      exact execCopy_freezes .cp hg hh hok hq
  · intro c v p i hv
    have hchecks := plainCopyChecks (s := s) (g := g) (l := l) (out := out) hv
    have hcount : v.toNat ≤ 0x100000 → decide (0x100000 < v.toNat) = false := fun hle => decide_eq_false (Nat.not_lt.2 hle)
    have hrange : p + v.toNat ≤ 0x100000 → decide (0x100000 < p + v.toNat) = false := fun hle => decide_eq_false (Nat.not_lt.2 hle)
    refine ⟨fun hlt => ?count, fun hle hlt => ?range, fun hle hr hown => ?issues, fun code a hle hr hown => ?token⟩
    case count =>
      rw [decide_eq_true hlt] at hchecks
      exact execCopy_traps .cp hg hchecks
    case range =>
      rw [hcount hle, decide_eq_true hlt] at hchecks
      exact execCopy_traps .cp hg hchecks
    case issues =>
      rw [hcount hle, hrange hr, hown] at hchecks
      obtain ⟨t, ht, hissued⟩ := execCopy_issues .cp (tag := tag) hg hh hchecks hq nofun
      have hctx := ctx_of_issuedAs hissued
      have hroute : copyRoute c (s.copyOf .cp g l n .none out) 0 false = .count := rfl
      rw [hroute] at hctx
      exact ⟨t, _, ht, congrArg Ctx.ops hctx, rfl, rfl, rfl⟩
    case token =>
      rw [hcount hle, hrange hr, hown] at hchecks
      exact execCopy_traps .cp hg hchecks

end Sys2Proof.Machine
end

section
/-! SUPPORT. The words that wait for operations, and the failures that they raise (spec/15 R218, R219, R227, R231). -/

namespace Sys2Proof.Machine
open Sys2Proof

-- the earliest failure ------------------------------------------------------------------------------------------------------

theorem earlier_of_lt {b : Option Fail} {f : Fail} (hb : ∀ g, b = some g → g ≠ f → f.op < g.op) : earlier b f = some f := by
  cases b with
  | none => rfl
  | some g =>
    by_cases hg : g = f
    · rw [hg, earlier, ite_self]
    · rw [earlier, if_pos (hb g rfl hg)]

/-- Of two failures the earlier one is one of them. -/
theorem earlier_eq (b : Option Fail) (f : Fail) : earlier b f = some f ∨ earlier b f = b := by
  cases b with
  | none => exact .inl rfl
  | some g =>
    rw [earlier]
    split
    · exact .inl rfl
    · exact .inr rfl

/-- A failure issued before every other of a list is its first. -/
theorem foldl_earlier_eq {l : List Fail} {f : Fail} (hlt : ∀ g ∈ l, g ≠ f → f.op < g.op) {b : Option Fail}
    (hb : ∀ g, b = some g → g ≠ f → f.op < g.op) (hf : b = some f ∨ f ∈ l) : l.foldl earlier b = some f := by
  induction l generalizing b with
  | nil => exact hf.resolve_right List.not_mem_nil
  | cons a l ih =>
    have hrest : ∀ g ∈ l, g ≠ f → f.op < g.op := fun g hg => hlt g (List.mem_cons_of_mem _ hg)
    have hnext : ∀ g, earlier b a = some g → g ≠ f → f.op < g.op := fun g hg => by
      rcases earlier_eq b a with h | h
      · exact Option.some.inj (h.symm.trans hg) ▸ hlt a List.mem_cons_self
      · exact hb g (h.symm.trans hg)
    refine ih hrest hnext ?_
    rcases hf with rfl | hf
    · by_cases ha : a = f
      · exact .inl (by rw [ha, earlier, ite_self])
      · exact .inl (if_neg (Nat.lt_asymm (hlt a List.mem_cons_self ha)))
    · rcases List.mem_cons.1 hf with rfl | hf
      · exact .inl (earlier_of_lt hb)
      · exact .inr hf

theorem firstFail_eq {l : List Fail} {f : Fail} (hf : f ∈ l) (hlt : ∀ g ∈ l, g ≠ f → f.op < g.op) : firstFail l = some f :=
  foldl_earlier_eq hlt nofun (.inr hf)

-- the words -------------------------------------------------------------------------------------------------------------------

section
variable {s : State} {h : Hd} (hg : s.ctx.guard h = true) (hh : s.ctx.holding = false)
include hg hh

/-- LWAIT with no failure to raise: it looks at how many copies are outstanding. -/
theorem exec_lwait_counts {n : Nat} (hf : s.ctx.cfails = []) : exec (.lwait h n) s =
    if n < (s.ctx.ops.filter Op.counts).length then .next s.frozen else .next { s with iss := .issued } := by
  rw [show exec (.lwait h n) s = execLwait h n s from rfl, execLwait]
  split
  · next hlt =>
    refine issue_freeze hg ?_
    dsimp only
    rw [hf, decide_eq_true hlt]
    exact freezeIf_full hh
  · next hle =>
    refine issue_go hg ?_
    dsimp only
    rw [hf, decide_eq_false hle]
    exact freezeIf_free hh

/-- LWAIT raises the earliest failure of a copy that counts for it. -/
theorem exec_lwait_raises {n : Nat} {f : Fail} (hf : f ∈ s.ctx.cfails) (hlt : ∀ g ∈ s.ctx.cfails, g ≠ f → f.op < g.op) :
    exec (.lwait h n) s = .next { (s.modCtx fun _ => { s.ctx with cfails := s.ctx.cfails.filter (· != f) }).takeTrap
      ⟨f.code, f.addr, 1, f.tag⟩ with iss := .trapped (some f.op) } := by
  have hsome : s.ctx.cfails.isEmpty = false := List.isEmpty_eq_false_iff.2 (List.ne_nil_of_mem hf)
  rw [show exec (.lwait h n) s = execLwait h n s from rfl, execLwait]
  refine issue_raise hg ?_
  dsimp only
  rw [hsome, Bool.false_and, freezeIf_free hh, firstFail_eq hf hlt]
  rfl

omit hh in
/-- PWAIT on a slot of no enabled table. -/
theorem exec_pwait_outside {l : Nat} (hs : s.ctx.slotAt (s.ctx.reg l) = none) :
    exec (.pwait h l) s = .next (s.trapped 0x02 (s.ctx.reg l)) := by
  rw [show exec (.pwait h l) s = execPwait h l s from rfl, execPwait]
  refine issue_flt hg ?_
  dsimp only
  rw [hs]
  rfl

/-- PWAIT of an entry without a failure: it waits while a fill of the entry is outstanding. -/
theorem exec_pwait_entry {l t e : Nat} (hs : s.ctx.slotAt (s.ctx.reg l) = some (t, e)) (hf : (s.ctx.way t e).fail = none) :
    exec (.pwait h l) s = .next (if (s.ctx.way t e).valid && s.ctx.wayFilling t e then s.frozen else { s with iss := .issued }) := by
  rw [show exec (.pwait h l) s = execPwait h l s from rfl, execPwait]
  cases hw : (s.ctx.way t e).valid && s.ctx.wayFilling t e with
  | true =>
    refine issue_freeze hg ?_
    dsimp only
    rw [hs]
    dsimp only
    rw [hw, freezeIf_full hh]
  | false =>
    refine issue_go hg ?_
    dsimp only
    rw [hs]
    dsimp only
    rw [hw, freezeIf_free hh, hf]

omit hh in
/-- ATOMFENCE of a level that the team has not. -/
theorem exec_atomfence_bound {scope : Nat} (hb : s.scopeBad scope = true) :
    exec (.atomfence h scope) s = .next (s.trapped 0x02 (w64 scope)) := by
  rw [show exec (.atomfence h scope) s = execAtomfence h scope s from rfl, execAtomfence]
  exact issue_flt hg (verdict_of_some (by rw [hb]; rfl))

omit hg hh in
theorem scopeChecks_none {scope : Nat} (hb : s.scopeBad scope = false) : checks [chk (s.scopeBad scope) fcBound (w64 scope)] = none :=
  checks_cons_none (chk_none hb) checks_nil

theorem exec_atomfence_waits {scope : Nat} (hb : s.scopeBad scope = false) (hw : s.atomfenceWaits scope = true) :
    exec (.atomfence h scope) s = .next s.frozen := by
  rw [show exec (.atomfence h scope) s = execAtomfence h scope s from rfl, execAtomfence]
  exact issue_freeze hg ((verdict_of_none (scopeChecks_none hb)).trans (by rw [hw]; exact freezeIf_full hh))

theorem exec_atomfence_done {scope : Nat} (hb : s.scopeBad scope = false) (hw : s.atomfenceWaits scope = false)
    (hf : s.ctx.nfails = []) : exec (.atomfence h scope) s = .next { s with iss := .issued } := by
  rw [show exec (.atomfence h scope) s = execAtomfence h scope s from rfl, execAtomfence]
  refine issue_go hg ((verdict_of_none (scopeChecks_none hb)).trans ?_)
  rw [hw, freezeIf_free hh, hf]
  rfl

/-- ATOMFENCE raises the earliest failure of an operation without a return. -/
theorem exec_atomfence_raises {scope : Nat} {f : Fail} (hb : s.scopeBad scope = false) (hw : s.atomfenceWaits scope = false)
    (hf : f ∈ s.ctx.nfails) (hlt : ∀ g ∈ s.ctx.nfails, g ≠ f → f.op < g.op) :
    exec (.atomfence h scope) s = .next { (s.modCtx fun _ => { s.ctx with nfails := s.ctx.nfails.filter (· != f) }).takeTrap
      ⟨f.code, f.addr, 5, f.tag⟩ with iss := .trapped (some f.op) } := by
  rw [show exec (.atomfence h scope) s = execAtomfence h scope s from rfl, execAtomfence]
  refine issue_raise hg ((verdict_of_none (scopeChecks_none hb)).trans ?_)
  rw [hw, freezeIf_free hh, firstFail_eq hf hlt]
  rfl
end

/-- Settles O19: each word waits for its own operations, and raises the first failure among them. -/
theorem waitsAndTheirFailures : Obligations.WaitsAndTheirFailures := by
  refine ⟨fun s h n l scope hg hh => ?waits, fun s h n scope f hg hh => ⟨?_, ?_⟩⟩
  case waits =>
    refine ⟨fun hf hle => ?_, fun hf hlt => ?_, fun t e => exec_pwait_entry hg hh, exec_pwait_outside hg, exec_atomfence_waits hg hh,
      exec_atomfence_done hg hh, exec_atomfence_bound hg⟩
    · rw [exec_lwait_counts hg hh hf, if_neg (Nat.not_lt.2 hle)]
    · rw [exec_lwait_counts hg hh hf, if_pos hlt]
  · exact fun hf hlt => exec_lwait_raises hg hh hf hlt
  · exact fun hf hlt hb hw => exec_atomfence_raises hg hh hb hw hf hlt

end Sys2Proof.Machine
end

section
/-! SUPPORT. The ring and stream words (spec/09 R129, R130, spec/15 R220-R225). -/

namespace Sys2Proof.Machine
open Sys2Proof

section
variable {s : State} {h : Hd} (hg : s.ctx.guard h = true)
include hg

/-- RCONF of a ring without a slot in use (R222). -/
theorem exec_rconf {q l n : Nat} (hal : (s.ctx.reg l).toNat % 512 = 0) (hv : (s.ctx.reg n).toNat < 2 ^ 20)
    (hz : (s.ctx.reg n).toNat / 2 ^ 8 ≤ 2048)
    (hr : (s.ctx.reg l).toNat + ((s.ctx.reg n).toNat % 2 ^ 8 + 1) * ((s.ctx.reg n).toNat / 2 ^ 8 * 512) ≤ 0x100000)
    (hb : (s.ctx.ring q).busy = false) : exec (.rconf h q l n) s = .next (s.withCtx { s.ctx with
      rings := Tab.set Ring.none s.ctx.rings q (if (s.ctx.reg n).toNat / 2 ^ 8 = 0 then Ring.none else
        ⟨(s.ctx.reg l).toNat, (s.ctx.reg n).toNat / 2 ^ 8 * 512, (s.ctx.reg n).toNat % 2 ^ 8 + 1, 0, 0, []⟩) }) := by
  have hsize : bf (s.ctx.reg n) 8 12 = (s.ctx.reg n).toNat / 2 ^ 8 := by
    rw [bf_eq]
    exact Nat.mod_eq_of_lt (by omega)
  have hslots : bf (s.ctx.reg n) 0 8 = (s.ctx.reg n).toNat % 2 ^ 8 := bf_zero _ _
  have hv : checks [chk ((s.ctx.reg l).toNat % 512 != 0) fcAlign (s.ctx.reg l),
      chk (decide (2 ^ 20 ≤ (s.ctx.reg n).toNat ∨ 2048 < bf (s.ctx.reg n) 8 12 ∨
        0x100000 < (s.ctx.reg l).toNat + (bf (s.ctx.reg n) 0 8 + 1) * (bf (s.ctx.reg n) 8 12 * 512))) fcBound (s.ctx.reg l),
      chk (s.ctx.ring q).busy fcConfBusy (w64 (16 + q))] = none := by
    rw [hsize, hslots]
    exact checks_cons_none (chk_none (bne_eq_false_iff_eq.2 hal)) (checks_cons_none
      (chk_none (decide_eq_false (not_or.2 ⟨Nat.not_le.2 hv, not_or.2 ⟨Nat.not_lt.2 hz, Nat.not_lt.2 hr⟩⟩)))
      (checks_cons_none (chk_none hb) checks_nil))
  rw [show exec (.rconf h q l n) s = execRconf h q l n s from rfl, execRconf, issue_ctx hg (verdict_of_none hv)]
  dsimp only
  rw [hsize, hslots]
  rfl

/-- A word on a ring that is not configured (R223). -/
theorem exec_racq_unconfigured {q l : Nat} (hn : (s.ctx.ring q).n = 0) :
    exec (.racq h q l) s = .next (s.trapped 0x05 (w64 (16 + q))) := by
  rw [show exec (.racq h q l) s = execRacq h q l s from rfl, execRacq]
  exact issue_flt hg (verdict_of_some (by rw [hn]; rfl))

theorem exec_rtake_unconfigured {q l : Nat} (hn : (s.ctx.ring q).n = 0) :
    exec (.rtake h q l) s = .next (s.trapped 0x05 (w64 (16 + q))) := by
  rw [show exec (.rtake h q l) s = execRtake h q l s from rfl, execRtake]
  exact issue_flt hg (verdict_of_some (by rw [hn]; rfl))

omit hg in
theorem ringChecks_none {q : Nat} (hn : (s.ctx.ring q).n ≠ 0) : checks [chk ((s.ctx.ring q).n == 0) fcRingMisuse (w64 (16 + q))] = none :=
  checks_cons_none (chk_none (beq_eq_false_iff_ne.2 hn)) checks_nil

section
variable (hh : s.ctx.holding = false)
include hh

/-- RACQ of an empty slot: it is filling from now on, and its address is the result. -/
theorem exec_racq_empty {q l : Nat} (hn : (s.ctx.ring q).n ≠ 0) (hs : ((s.ctx.ring q).slot (s.ctx.ring q).acq).st = .empty) :
    exec (.racq h q l) s = .next (s.withCtx { s.ctx with
      rings := Tab.set Ring.none s.ctx.rings q { (s.ctx.ring q).modSlot (s.ctx.ring q).acq (fun _ => { Slot.empty with st := .filling }) with
        acq := ((s.ctx.ring q).acq + 1) % (s.ctx.ring q).n }
      flights := s.ctx.flights ++
        [⟨1, .sreg l (w64 ((s.ctx.ring q).base + (s.ctx.ring q).acq * (s.ctx.ring q).z)), false⟩] }) := by
  rw [show exec (.racq h q l) s = execRacq h q l s from rfl, execRacq]
  exact issue_ctx hg ((verdict_of_none (ringChecks_none hn)).trans (by rw [hs]; exact freezeIf_free hh))

theorem exec_racq_waits {q l : Nat} (hn : (s.ctx.ring q).n ≠ 0) (hs : ((s.ctx.ring q).slot (s.ctx.ring q).acq).st ≠ .empty) :
    exec (.racq h q l) s = .next s.frozen := by
  rw [show exec (.racq h q l) s = execRacq h q l s from rfl, execRacq]
  exact issue_freeze hg ((verdict_of_none (ringChecks_none hn)).trans (by rw [bne_iff_ne.2 hs]; exact freezeIf_full hh))

/-- RTAKE of a full slot without a failure: it is draining from now on. -/
theorem exec_rtake_full {q l : Nat} (hn : (s.ctx.ring q).n ≠ 0) (hs : ((s.ctx.ring q).slot (s.ctx.ring q).take).st = .full)
    (hf : ((s.ctx.ring q).slot (s.ctx.ring q).take).fail = none) : exec (.rtake h q l) s = .next (s.withCtx { s.ctx with
      rings := Tab.set Ring.none s.ctx.rings q { (s.ctx.ring q).modSlot (s.ctx.ring q).take (fun y => { y with st := .draining }) with
        take := ((s.ctx.ring q).take + 1) % (s.ctx.ring q).n }
      flights := s.ctx.flights ++
        [⟨1, .sreg l (w64 ((s.ctx.ring q).base + (s.ctx.ring q).take * (s.ctx.ring q).z)), false⟩] }) := by
  have hgo : takeVerdict s q = .go := by
    unfold takeVerdict
    dsimp only
    rw [hs, hf]
    exact freezeIf_free hh
  rw [show exec (.rtake h q l) s = execRtake h q l s from rfl, execRtake]
  exact issue_ctx hg ((verdict_of_none (ringChecks_none hn)).trans hgo)

theorem exec_rtake_waits {q l : Nat} (hn : (s.ctx.ring q).n ≠ 0) (hs : ((s.ctx.ring q).slot (s.ctx.ring q).take).st ≠ .full) :
    exec (.rtake h q l) s = .next s.frozen := by
  have hfreeze : takeVerdict s q = .freeze s := by
    unfold takeVerdict
    dsimp only
    rw [bne_iff_ne.2 hs]
    exact freezeIf_full hh
  rw [show exec (.rtake h q l) s = execRtake h q l s from rfl, execRtake]
  exact issue_freeze hg ((verdict_of_none (ringChecks_none hn)).trans hfreeze)
end

omit hg in
theorem modSlot_congr {r : Ring} {i : Nat} {f g : Slot → Slot} (hfg : f (r.slot i) = g (r.slot i)) : r.modSlot i f = r.modSlot i g :=
  congrArg (fun y => { r with slots := Tab.set Slot.empty r.slots i y }) hfg

omit hg in
/-- The slot that an address publishes is the one that holds the address. -/
theorem holding_of_publishable {r : Ring} {a i : Nat} (hp : r.publishable a = some i) : r.holding a = some i := by
  unfold Ring.publishable at hp
  split at hp
  · next k hk =>
    split at hp
    · rw [hk, hp]
    · exact absurd hp nofun
  · exact absurd hp nofun

/-- RPUB of a slot that nothing publishes yet: it counts until the stores in flight to the slot are visible; where an interrupted
context holds one aside, the publication goes with that context (R224, spec/03 R63). -/
theorem exec_rpub {q l i : Nat} (hp : (s.ctx.ring q).publishable (s.ctx.reg l).toNat = some i)
    (hf : ((s.ctx.ring q).slot i).filling = none) : exec (.rpub h q l) s =
    .next (s.withCtx (if storesIn ((s.ctx.ring q).base + i * (s.ctx.ring q).z) (s.ctx.ring q).z
        ((s.ctx.aside.map Snap.flights).getD []) = 0 then
      { s.ctx with rings := Tab.set Ring.none s.ctx.rings q ((s.ctx.ring q).modSlot i fun y => { y with
        filling := some (Nat.max 1 (s.ctx.storesDue ((s.ctx.ring q).base + i * (s.ctx.ring q).z) (s.ctx.ring q).z)) }) }
      else { s.ctx with aside := s.ctx.aside.map fun y => { y with pubs := y.pubs ++
        [(q, i, storesIn ((s.ctx.ring q).base + i * (s.ctx.ring q).z) (s.ctx.ring q).z ((s.ctx.aside.map Snap.flights).getD []), true)] } })) := by
  have hv : checks [chk ((s.ctx.ring q).publishable (s.ctx.reg l).toNat).isNone fcRingMisuse (s.ctx.reg l)] = none := by
    rw [hp]
    rfl
  rw [show exec (.rpub h q l) s = execRpub h q l s from rfl, execRpub, issue_ctx hg (verdict_of_none hv)]
  dsimp only
  rw [holding_of_publishable hp]
  refine congrArg (fun c => Host.Outcome.next (s.withCtx c)) ?_
  refine if_congr Iff.rfl (congrArg (fun r => ({ s.ctx with rings := Tab.set Ring.none s.ctx.rings q r } : Ctx)) ?_) rfl
  refine modSlot_congr (congrArg (fun k => { (s.ctx.ring q).slot i with filling := some k }) ?_)
  change ((s.ctx.ring q).slot i).filling.getD _ = _
  rw [hf]
  rfl

theorem exec_rpub_misuse {q l : Nat} (hp : (s.ctx.ring q).publishable (s.ctx.reg l).toNat = none) :
    exec (.rpub h q l) s = .next (s.trapped 0x05 (s.ctx.reg l)) := by
  rw [show exec (.rpub h q l) s = execRpub h q l s from rfl, execRpub]
  exact issue_flt hg (verdict_of_some (by rw [hp]; rfl))

/-- RREL of a slot that no operation has still to read (R225). -/
theorem exec_rrel {q i : Nat} (ho : (s.ctx.ring q).oldest = some i)
    (hr : ∀ o ∈ s.ctx.ops, o.reads ((s.ctx.ring q).base + i * (s.ctx.ring q).z) (s.ctx.ring q).z = false) :
    exec (.rrel h q) s = .next (s.withCtx { s.ctx with
      rings := Tab.set Ring.none s.ctx.rings q ((s.ctx.ring q).modSlot i fun _ => Slot.empty) }) := by
  have hreaders : s.ctx.ops.filter (fun o => o.reads ((s.ctx.ring q).addr i) (s.ctx.ring q).z) = [] :=
    List.filter_eq_nil_iff.2 fun o hm => Bool.not_eq_true _ ▸ hr o hm
  have hrelease : s.ctx.releaseOldest q = { s.ctx with
      rings := Tab.set Ring.none s.ctx.rings q ((s.ctx.ring q).modSlot i fun _ => Slot.empty) } := by
    unfold Ctx.releaseOldest
    dsimp only
    rw [ho]
    dsimp only
    rw [hreaders]
    rfl
  have hv : checks [chk (s.ctx.ring q).oldest.isNone fcRingMisuse (w64 (16 + q))] = none := by
    rw [ho]
    rfl
  rw [show exec (.rrel h q) s = execRrel h q s from rfl, execRrel, issue_ctx hg (verdict_of_none hv), hrelease]

/-- STBIND of a register with nothing in it (R220). -/
theorem exec_stbind {x es : Nat} (ha : (s.ctx.stream x).arrived = []) (hi : (s.ctx.stream x).items = []) :
    exec (.stbind h x es) s = .next (s.withCtx { s.ctx with
      streams := Tab.set Stream.unbound s.ctx.streams x
        { s.ctx.stream x with es := if es = 0 then 0 else if es = 1 then 8 else 512 } }) := by
  have hv : checks [chk (!(s.ctx.stream x).arrived.isEmpty || !(s.ctx.stream x).items.isEmpty) fcConfBusy (w64 x)] = none := by
    rw [ha, hi]
    rfl
  rw [show exec (.stbind h x es) s = execStbind h x es s from rfl, execStbind]
  exact issue_ctx hg (verdict_of_none hv)

theorem exec_stbind_busy {x es : Nat} (hb : (s.ctx.stream x).arrived ≠ [] ∨ (s.ctx.stream x).items ≠ []) :
    exec (.stbind h x es) s = .next (s.trapped 0x06 (w64 x)) := by
  have hbusy : (!(s.ctx.stream x).arrived.isEmpty || !(s.ctx.stream x).items.isEmpty) = true := by simpa using hb
  rw [show exec (.stbind h x es) s = execStbind h x es s from rfl, execStbind]
  exact issue_flt hg (verdict_of_some (by rw [hbusy]; rfl))
end

/-- The first element leaves a stream register. -/
theorem modStream_arrived {c : Ctx} {x : Nat} {e : List Byte} {rest : List (List Byte)} (ha : (c.stream x).arrived = e :: rest) :
    (c.modStream x fun t => { t with arrived := t.arrived.tail }) =
      { c with streams := Tab.set Stream.unbound c.streams x { c.stream x with arrived := rest } } := by
  have htail : (c.stream x).arrived.tail = rest := by rw [ha]; rfl
  exact congrArg (fun l => ({ c with streams := Tab.set Stream.unbound c.streams x { c.stream x with arrived := l } } : Ctx)) htail

theorem headFail_of_arrived {t : Stream} {e : List Byte} {rest : List (List Byte)} (ha : t.arrived = e :: rest) : t.headFail = none := by
  rw [Stream.headFail, ha]
  rfl

/-- A stream register with nothing in it has no failure at its head. -/
theorem headFail_of_empty {t : Stream} (ha : t.arrived = []) (hi : t.items = []) : t.headFail = none := by
  rw [Stream.headFail, ha, hi]
  rfl

/-- STREL of a register with elements of 8 bytes has nothing to check but that it is bound. -/
theorem strelChecks_narrow {s : State} {l x : Nat} (he : (s.ctx.stream x).es = 8) :
    checks [chk ((s.ctx.stream x).es == 0) fcStreamUnbound (w64 x),
      chk ((s.ctx.stream x).es == 512 && decide (0xFFE00 < (s.ctx.reg l).toNat)) fcBound (s.ctx.reg l),
      chk ((s.ctx.stream x).es == 512 && (s.ctx.reg l).toNat % 512 != 0) fcAlign (s.ctx.reg l),
      if (s.ctx.stream x).es == 512 then (s.ownFault (s.ctx.reg l).toNat 512 .write).map fun e => (e.1, w64 e.2) else none] = none := by
  rw [he]
  rfl

/-- One with elements of 512 bytes checks where the element goes. -/
theorem strelChecks_wide {s : State} {l x : Nat} (he : (s.ctx.stream x).es = 512) (hr : (s.ctx.reg l).toNat + 512 ≤ 0x100000)
    (hal : (s.ctx.reg l).toNat % 512 = 0) (hown : s.ownFault (s.ctx.reg l).toNat 512 .write = none) :
    checks [chk ((s.ctx.stream x).es == 0) fcStreamUnbound (w64 x),
      chk ((s.ctx.stream x).es == 512 && decide (0xFFE00 < (s.ctx.reg l).toNat)) fcBound (s.ctx.reg l),
      chk ((s.ctx.stream x).es == 512 && (s.ctx.reg l).toNat % 512 != 0) fcAlign (s.ctx.reg l),
      if (s.ctx.stream x).es == 512 then (s.ownFault (s.ctx.reg l).toNat 512 .write).map fun e => (e.1, w64 e.2) else none] = none := by
  rw [he, hal, decide_eq_false (by omega), hown]
  rfl

section
variable {s : State} {h : Hd} (hg : s.ctx.guard h = true) (hh : s.ctx.holding = false)
include hg hh

/-- STREL into a scalar register (R221). -/
theorem exec_strel_narrow {g l x : Nat} {e : List Byte} {rest : List (List Byte)} (he : (s.ctx.stream x).es = 8)
    (ha : (s.ctx.stream x).arrived = e :: rest) : exec (.strel h g l x) s = .next (s.withCtx { s.ctx with
      streams := Tab.set Stream.unbound s.ctx.streams x { s.ctx.stream x with arrived := rest }
      flights := s.ctx.flights ++ [⟨1, .sreg g (w64 (leValue e)), false⟩] }) := by
  rw [show exec (.strel h g l x) s = execStrel h g l x s from rfl, execStrel]
  refine (issue_ctx hg ((verdict_of_none (strelChecks_narrow he)).trans ?_)).trans ?_
  · rw [headFail_of_arrived ha, ha]
    exact freezeIf_free hh
  · dsimp only
    rw [modStream_arrived ha, ha, if_neg (by rw [he]; decide)]
    rfl

/-- STREL into the scratchpad. -/
theorem exec_strel_wide {g l x : Nat} {e : List Byte} {rest : List (List Byte)} (he : (s.ctx.stream x).es = 512)
    (ha : (s.ctx.stream x).arrived = e :: rest) (hr : (s.ctx.reg l).toNat + 512 ≤ 0x100000) (hal : (s.ctx.reg l).toNat % 512 = 0)
    (hown : s.ownFault (s.ctx.reg l).toNat 512 .write = none) : exec (.strel h g l x) s = .next (s.withCtx { s.ctx with
      streams := Tab.set Stream.unbound s.ctx.streams x { s.ctx.stream x with arrived := rest }
      flights := s.ctx.flights ++ [⟨2, .store 1 (cellsFrom (s.ctx.reg l).toNat e), false⟩] }) := by
  rw [show exec (.strel h g l x) s = execStrel h g l x s from rfl, execStrel]
  refine (issue_ctx hg ((verdict_of_none (strelChecks_wide he hr hal hown)).trans ?_)).trans ?_
  · rw [headFail_of_arrived ha, ha]
    exact freezeIf_free hh
  · dsimp only
    rw [modStream_arrived ha, ha, if_pos he]
    rfl

/-- STREL of a register into which nothing has come and nothing is to come yet. -/
theorem exec_strel_waits {g l x : Nat} (he : (s.ctx.stream x).es = 8) (ha : (s.ctx.stream x).arrived = [])
    (hi : (s.ctx.stream x).items = []) : exec (.strel h g l x) s = .next s.frozen := by
  rw [show exec (.strel h g l x) s = execStrel h g l x s from rfl, execStrel]
  refine issue_freeze hg ((verdict_of_none (strelChecks_narrow he)).trans ?_)
  rw [headFail_of_empty ha hi, ha]
  exact freezeIf_full hh
end

/-- Settles O20: each word by the state of its ring's slot or of its stream register. -/
theorem streamAndRingForms : Obligations.StreamAndRingForms := by
  intro s h q l n x es g hg hh c r a v set t strm
  exact ⟨exec_rconf hg, exec_racq_empty hg hh, exec_racq_waits hg hh, exec_rtake_full hg hh, exec_rtake_waits hg hh,
    fun hn => ⟨exec_racq_unconfigured hg hn, exec_rtake_unconfigured hg hn⟩, fun i => exec_rpub hg, exec_rpub_misuse hg,
    fun i => exec_rrel hg, exec_stbind hg, exec_stbind_busy hg, fun e rest => exec_strel_narrow hg hh,
    fun e rest => exec_strel_wide hg hh, exec_strel_waits hg hh⟩

end Sys2Proof.Machine
end

section
/-! SUPPORT. PROBE and PINV at issue (spec/15 R226, R227). -/

namespace Sys2Proof.Machine
open Sys2Proof

/-- A table with a size is enabled. -/
theorem ptEntries_ne_zero {v : W64} (hv : v.toNat / 2 ^ 20 % 16 ≠ 0) : ptEntries v ≠ 0 := by
  rw [ptEntries, if_neg (show bf v 20 4 ≠ 0 from hv)]
  exact Nat.two_pow_pos _ |>.ne'

/-- The block that a PROBE or PINV of table pt names. -/
def Ctx.ptBlock (c : Ctx) (pt g : Nat) : Nat := (c.reg g).toNat - (c.reg g).toNat % ptBlk (Tab.get 0 c.ptconf pt)

theorem block_eq (c : Ctx) (pt g : Nat) :
    (c.reg g).toNat - (c.reg g).toNat % ptBlk (Tab.get 0 c.ptconf pt) = c.ptBlock pt g := rfl

/-- What a PROBE puts in flight: the scratchpad address at which entry e holds the byte that it names. -/
def Ctx.probeResult (c : Ctx) (pt g l e : Nat) : Flight :=
  ⟨2, .sreg l (w64 (ptSlot (Tab.get 0 c.ptconf pt) e + ((c.reg g).toNat - c.ptBlock pt g))), false⟩

theorem probeResult_eq (c : Ctx) (pt g l e : Nat) : c.probeResult pt g l e =
    ⟨2, .sreg l (w64 (ptSlot (Tab.get 0 c.ptconf pt) e + (c.reg g).toNat % ptBlk (Tab.get 0 c.ptconf pt))), false⟩ := by
  rw [Ctx.probeResult, Ctx.ptBlock, Nat.sub_sub_self (Nat.mod_le _ _)]

section
variable {s : State} {h : Hd} {g l pt off : Nat} (hg : s.ctx.guard h = true)
include hg

theorem exec_pinv_all : exec (.pinv h g pt true) s =
    .next (s.withCtx { s.ctx with ways := s.ctx.ways.filter fun y => y.1 / 4096 != pt }) := by
  rw [show exec (.pinv h g pt true) s = execPinv h g pt true s from rfl, execPinv]
  exact issue_ctx hg rfl

theorem exec_pinv_one {e : Nat} (he : s.ctx.ptHit pt (s.ctx.ptBlock pt g) = some e) :
    exec (.pinv h g pt false) s = .next (s.withCtx (s.ctx.modWay pt e fun _ => Way.invalid)) := by
  rw [show exec (.pinv h g pt false) s = execPinv h g pt false s from rfl, execPinv]
  refine (issue_ctx hg rfl).trans ?_
  dsimp only
  rw [if_neg Bool.false_ne_true, block_eq, he]

variable (hb : s.ctx.branch = none) (hq : s.ctx.quiet = 0) (hn : ptEntries (Tab.get 0 s.ctx.ptconf pt) ≠ 0)
include hb hq hn

omit hg hb hq in
theorem probeChecks_none : checks [chk (ptEntries (Tab.get 0 s.ctx.ptconf pt) == 0) fcBound (w64 pt)] = none :=
  checks_cons_none (chk_none (beq_eq_false_iff_ne.2 hn)) checks_nil

/-- A PROBE that hits (R226): the entry is the last used of its set, and no transfer follows in the two delay groups. -/
theorem exec_probe_hit {e : Nat} (he : s.ctx.ptHit pt (s.ctx.ptBlock pt g) = some e) :
    exec (.probe h g l pt off) s = .next (s.withCtx { s.ctx with
      ways := Tab.set Way.invalid s.ctx.ways (wayKey pt e) { s.ctx.way pt e with used := s.ctx.ptUse pt (s.ctx.ptBlock pt g) }
      flights := s.ctx.flights ++ [s.ctx.probeResult pt g l e]
      quiet := 2 }) := by
  rw [show exec (.probe h g l pt off) s = execProbe h g l pt off s from rfl, execProbe, issueTransfer_free hb hq]
  refine (issue_go hg ((verdict_of_none (probeChecks_none hn)).trans ?_)).trans ?_
  · exact if_pos (congrArg Option.isSome he)
  · dsimp only
    rw [block_eq, he]
    rfl

omit hg hb hq hn in
theorem isSome_ptHit_of_miss (hm : s.ctx.ptHit pt (s.ctx.ptBlock pt g) = none) :
    (s.ctx.ptHit pt ((s.ctx.reg g).toNat - (s.ctx.reg g).toNat % ptBlk (Tab.get 0 s.ctx.ptconf pt))).isSome = false :=
  congrArg Option.isSome hm

variable (hm : s.ctx.ptHit pt (s.ctx.ptBlock pt g) = none) (hh : s.ctx.holding = false)
include hm hh

/-- A PROBE that misses issues the fill of its victim, and branches (R226). -/
theorem exec_probe_miss (hf : s.ctx.queueFull = false) : ∃ t, exec (.probe h g l pt off) s = .next t ∧
    s.issuedAs t { s.ctx with
      ops := s.ctx.ops ++ [s.newOp 8 (.fill pt (s.ctx.ptVictim pt (s.ctx.ptBlock pt g)) (s.ctx.ptBlock pt g)
        (ptBlk (Tab.get 0 s.ctx.ptconf pt)) (ptSlot (Tab.get 0 s.ctx.ptconf pt) (s.ctx.ptVictim pt (s.ctx.ptBlock pt g)))) .count 0 0]
      ways := Tab.set Way.invalid s.ctx.ways (wayKey pt (s.ctx.ptVictim pt (s.ctx.ptBlock pt g)))
        ⟨true, s.ctx.ptBlock pt g, (s.ctx.way pt (s.ctx.ptVictim pt (s.ctx.ptBlock pt g))).fills ++ [s.nextId],
          (s.ctx.way pt (s.ctx.ptVictim pt (s.ctx.ptBlock pt g))).fail, s.ctx.ptUse pt (s.ctx.ptBlock pt g)⟩
      flights := s.ctx.flights ++ [s.ctx.probeResult pt g l (s.ctx.ptVictim pt (s.ctx.ptBlock pt g))]
      branch := some ⟨w64 s.woff + (BitVec.ofNat 10 off).signExtend 64, 2⟩ } 1 false := by
  rw [show exec (.probe h g l pt off) s = execProbe h g l pt off s from rfl, execProbe, issueTransfer_free hb hq]
  refine ⟨_, issue_go hg ((verdict_of_none (probeChecks_none hn)).trans ?_), ?_⟩
  · exact (if_neg (by rw [isSome_ptHit_of_miss hm]; exact Bool.false_ne_true)).trans (by rw [hf, freezeIf_free hh])
  · dsimp only
    rw [block_eq, hm]
    exact issuedAs_pushOp s _ _ _ _ _ _

theorem exec_probe_full (hf : s.ctx.queueFull = true) : exec (.probe h g l pt off) s = .next s.frozen := by
  rw [show exec (.probe h g l pt off) s = execProbe h g l pt off s from rfl, execProbe, issueTransfer_free hb hq]
  refine issue_freeze hg ((verdict_of_none (probeChecks_none hn)).trans ?_)
  exact (if_neg (by rw [isSome_ptHit_of_miss hm]; exact Bool.false_ne_true)).trans (by rw [hf, freezeIf_full hh])
end

/-- Settles O21: a hit and a miss of PROBE, with the slot's address as the offset in its block; and PINV. -/
theorem probeForms : Obligations.ProbeForms := by
  intro s h g l pt off hg hb hq c v k p b slot res
  have hslot : ∀ e, ptSlot v e = slot e := fun e => by rw [ptSlot, bf_zero]; rfl
  have hres : ∀ e, c.probeResult pt g l e = res e := fun e => by
    rw [probeResult_eq, hslot]
    rfl
  refine ⟨exec_pinv_all hg, fun e => exec_pinv_one hg, fun hv => ⟨fun e he => ?hit, fun hm hh hf => ?miss,
    exec_probe_full hg hb hq (ptEntries_ne_zero hv)⟩⟩
  case hit =>
    rw [← hres]
    exact exec_probe_hit hg hb hq (ptEntries_ne_zero hv) he
  case miss =>
    rw [← hres, ← hslot]
    exact exec_probe_miss hg hb hq (ptEntries_ne_zero hv) hm hh hf

end Sys2Proof.Machine
end

section
/-! SUPPORT. The end of a wharf command, and the commands that wait, post and set (spec/21 R299, R307, R309, spec/15 R232-R234). -/

namespace Sys2Proof.Machine
open Sys2Proof

-- the end of a command --------------------------------------------------------------------------------------------------

/-- WUSTAT once a command of a job has ended with a nonzero status: the first status is kept with its JOB, and each is counted (R299). -/
def WUnit.failStat (x : WUnit) (code job : Nat) : W64 :=
  w64 (2 ^ 63 + (if bt x.stat 63 then bf x.stat 42 14 * 2 ^ 42 else code % 256 * 2 ^ 48 + job % 64 * 2 ^ 42) +
    (bf x.stat 0 32 + 1) % 2 ^ 32)

theorem failStat_first {x : WUnit} {code job : Nat} (hs : x.stat.getLsbD 63 = false) (hc : code < 256) (hj : job < 64) :
    (x.failStat code job).toNat = 2 ^ 63 + (code * 2 ^ 48 + job * 2 ^ 42) + (x.stat.toNat + 1) % 2 ^ 32 := by
  rw [WUnit.failStat, show bt x.stat 63 = false from hs, bf_zero, toNat_w64, if_neg Bool.false_ne_true]
  omega

theorem failStat_later {x : WUnit} {code job : Nat} (hs : x.stat.getLsbD 63 = true) :
    (x.failStat code job).toNat = 2 ^ 63 + x.stat.toNat / 2 ^ 42 % 2 ^ 14 * 2 ^ 42 + (x.stat.toNat + 1) % 2 ^ 32 := by
  rw [WUnit.failStat, show bt x.stat 63 = true from hs, bf_zero, bf_eq, toNat_w64, if_pos rfl]
  omega

theorem unit_wharfError (s : State) (u code : Nat) (e : Entry) (idx v : Nat) : (s.wharfError u code e idx).unit v =
    if v = u then { s.unit u with stat := (s.unit u).failStat code e.job } else s.unit v := by
  unfold State.wharfError
  rw [State.unit, units_event]
  exact unit_modUnit s u v _

/-- An error of a command changes WUSTAT and the log alone. -/
theorem wharfError_keeps (s : State) (u code : Nat) (e : Entry) (idx : Nat) :
    (s.wharfError u code e idx).berths = s.berths ∧ (s.wharfError u code e idx).hbm = s.hbm ∧
    (s.wharfError u code e idx).regions = s.regions := by
  unfold State.wharfError
  exact ⟨berths_event .., hbm_event .., regions_event ..⟩

theorem wharfSlots_of_unclaimed {s : State} {c : WC} (code : Nat) (h : (s.unit c.u).claims.getD [] = []) : s.wharfSlots c code = s := by
  unfold State.wharfSlots
  dsimp only
  rw [h]
  rfl

/-- The command at the head of a unit's ring leaves it, and one more is done. -/
def WUnit.finished (x : WUnit) : WUnit :=
  { x with ring := x.ring.tail, done := (x.done + 1) % 65536, phase := .fresh, since := none, claims := none }

section
variable {s : State} {u code idx : Nat} {e : Entry} (hc : (s.unit u).claims.getD [] = []) (hm : e.man = none)
include hc hm

theorem wharfFinish_ok : s.wharfFinish u e none 0 idx = s.modUnit u WUnit.finished := by
  unfold State.wharfFinish
  dsimp only
  rw [if_pos rfl, wharfSlots_of_unclaimed (c := ⟨u, e.job, e.by_, e.man⟩) 0 hc, hm]
  rfl

theorem wharfFinish_error (h0 : code ≠ 0) (hp : (s.unit u).phase ≠ .split) :
    s.wharfFinish u e none code idx = (s.wharfError u code e idx).modUnit u WUnit.finished := by
  have hclaims : ((s.wharfError u code e idx).unit u).claims.getD [] = [] := by
    rw [unit_wharfError, if_pos rfl]
    exact hc
  unfold State.wharfFinish
  dsimp only
  rw [if_neg h0, if_neg hp, wharfSlots_of_unclaimed (c := ⟨u, e.job, e.by_, e.man⟩) code hclaims, hm]
  rfl
end

/-- What the end of a command leaves: its unit, the others, the berths, HBM and the regions. -/
theorem finished_frame {s t : State} {u : Nat} {stat : W64} (hu : ∀ v, t.unit v = if v = u then { s.unit u with stat := stat } else s.unit v)
    (hk : t.berths = s.berths ∧ t.hbm = s.hbm ∧ t.regions = s.regions) :
    let t' := t.modUnit u WUnit.finished
    t'.unit u = { (s.unit u).finished with stat := stat } ∧ (∀ v, v ≠ u → t'.unit v = s.unit v) ∧ (∀ b, t'.berth b = s.berth b) ∧
    t'.hbm = s.hbm ∧ t'.regions = s.regions := by
  obtain ⟨hberths, hhbm, hregions⟩ := hk
  refine ⟨?_, fun v hv => ?_, fun b => ?_, hhbm, hregions⟩
  · rw [unit_modUnit, if_pos rfl, hu, if_pos rfl]
    rfl
  · rw [unit_modUnit, if_neg hv, hu, if_neg hv]
  · exact congrArg (Tab.get Berth.idle · b) hberths

-- commands that do not end at once, or end with a status -------------------------------------------------------------------------

section
variable {s s0 t : State} {x : WX} {dst : List Nat} {e : Entry} {l : List Entry} {chks : State → WC → List (Bool × Nat)}
  {form : WC → State → WRes} (h : s.wharfStarts x dst e l s0)
include h

/-- The SIGNAL of a command that starts names a semaphore, if the command has one, so that its form's own checks decide. -/
theorem wchecks_of_wharfStarts (k : Nat) (m : List (Bool × Nat)) :
    wchecks ((x.post && ((s0.unit s.wcur).sem x.sdesc e.job).isNone, k) :: m) = wchecks m := by
  obtain ⟨-, -, -, hpost⟩ := h
  cases hp : x.post with
  | false => rfl
  | true => rw [Option.isNone_eq_false_iff.2 (hpost hp)]; rfl

/-- The unit of a command that starts is not stopped. -/
theorem runs_of_wharfStarts : ¬ ((s.wharfStart ⟨s.wcur, e.job, e.by_, e.man⟩ dst).unit s.wcur).stop = true := by
  obtain ⟨-, hstop, -, -⟩ := h
  rw [stop_wharfStart, hstop]
  exact Bool.false_ne_true

/-- A command that starts and fails a check ends with that check's status. -/
theorem wharf_refused {code : Nat} (hc : wchecks (chks s0 ⟨s.wcur, e.job, e.by_, e.man⟩) = some code) :
    wharf x dst chks form s = .next (s0.wharfFinish s.wcur e (if x.post then some x.sdesc else none) code 0).wharfNext := by
  have ⟨hring, _, hwait, _⟩ := h
  simp only [wharf, hring, if_neg (runs_of_wharfStarts h), hwait, wchecks_of_wharfStarts h, hc]

/-- A command that starts, passes its checks and has to wait stays at the head of its ring. -/
theorem wharf_waits (hc : wchecks (chks s0 ⟨s.wcur, e.job, e.by_, e.man⟩) = none) (hf : form ⟨s.wcur, e.job, e.by_, e.man⟩ s0 = .wait t) :
    wharf x dst chks form s = .next t.wharfNext := by
  have ⟨hring, _, hwait, _⟩ := h
  simp only [wharf, hring, if_neg (runs_of_wharfStarts h), hwait, wchecks_of_wharfStarts h, hc, hf]
end

/-- The check of a semaphore descriptor, and its status: LOCAL for a well-formed LOCAL descriptor, else DESC (log entry 133). -/
theorem semCheck_none {s : State} {c : WC} {da : Nat} {v : Nat × Nat} (hv : (s.unit c.u).sem da c.job = some v) :
    wchecks (semCheck da s c) = none := by
  rw [semCheck, hv]
  rfl

theorem semCheck_some {s : State} {c : WC} {da : Nat} (hv : (s.unit c.u).sem da c.job = none) :
    wchecks (semCheck da s c) = some ((s.unit c.u).semCode da c.job) := by
  rw [semCheck, hv]
  rfl

theorem semCode_eq (x : WUnit) (n job : Nat) : x.semCode n job =
    if (x.desc n).loc = true ∧ (x.desc n).job = job ∧ (x.desc n).bad = false then 0x49 else 0x43 := by
  rw [WUnit.semCode]
  simp only [Bool.not_eq_true']
  rfl

theorem formWait_ok {c : WC} {da va k : Nat} {cd : SCond} {sub : Bool} {s t : State} (hs : (s.unit c.u).sem da c.job = some (va, k))
    (hw : s.wharfWait c.u c.job va k cd sub = .ok t) : formWait c da cd sub s = .done t := by
  rw [formWait, hs]
  dsimp only
  rw [hw]

theorem formWait_wait {c : WC} {da va k : Nat} {cd : SCond} {sub : Bool} {s t : State} (hs : (s.unit c.u).sem da c.job = some (va, k))
    (hw : s.wharfWait c.u c.job va k cd sub = .wait t) :
    formWait c da cd sub s = .wait (t.modUnit c.u fun y => if y.phase = .fresh then { y with phase := .waited } else y) := by
  rw [formWait, hs]
  dsimp only
  rw [hw]

theorem exec_nopw (x : WX) (s : State) : exec (.nopw x) s = execNopw x s := rfl
theorem exec_setd (x : WX) (d w v : Nat) (s : State) : exec (.setd x d w v) s = execSetd x d w v s := rfl
theorem exec_wharfSemwait (x : WX) (da : Nat) (cd : SCond) (sub : Bool) (s : State) :
    exec (.wharfSemwait x da cd sub) s = execWharfSemwait x da cd sub s := rfl

/-- What a SEMPOST of a wharf unit does (R309). -/
def sempostForm (da : Nat) (err : Bool) (c : WC) (s : State) : WRes :=
  match (s.unit c.u).sem da c.job with
  | none => .fail s fcWharfDesc 0
  | some (va, v) => match s.postHome [.unit c.u] c.job va v err with
    | (s, .ok _) => .done s
    | (s, .error e) => .fail s (wharfCode e) 0

theorem exec_wharfSempost_eq (x : WX) (da : Nat) (err : Bool) (s : State) :
    exec (.wharfSempost x da err) s = wharf x [] (semCheck da) (sempostForm da err) s := rfl

theorem sempostForm_done {da va k : Nat} {err : Bool} {c : WC} {s t : State} {old : W64}
    (hs : (s.unit c.u).sem da c.job = some (va, k)) (hpost : s.postHome [.unit c.u] c.job va k err = (t, .ok old)) :
    sempostForm da err c s = .done t := by
  rw [sempostForm, hs]
  dsimp only
  rw [hpost]

/-- What a BARRIER does: COUNT + 1 once, and then its wait (R309). -/
def barrierForm (da : Nat) (c : WC) (s : State) : WRes :=
  if (s.unit c.u).phase = .added then formWait c da .geu false s
  else match (s.unit c.u).sem da c.job with
    | none => .fail s fcWharfDesc 0
    | some (va, _) => match s.postHome [.unit c.u] c.job va 1 false with
      | (s, .error e) => .fail s (wharfCode e) 0
      | (s, .ok _) => formWait c da .geu false (s.modUnit c.u fun y => { y with phase := .added, since := none })

theorem exec_barrier_eq (x : WX) (da : Nat) (s : State) : exec (.barrier x da) s = wharf x [] (semCheck da) (barrierForm da) s := rfl

theorem barrierForm_added {da : Nat} {c : WC} {s : State} (hp : (s.unit c.u).phase = .added) :
    barrierForm da c s = formWait c da .geu false s := if_pos hp

theorem barrierForm_adds {da va k : Nat} {c : WC} {s t : State} {old : W64} (hp : (s.unit c.u).phase ≠ .added)
    (hs : (s.unit c.u).sem da c.job = some (va, k)) (hpost : s.postHome [.unit c.u] c.job va 1 false = (t, .ok old)) :
    barrierForm da c s = formWait c da .geu false (t.modUnit c.u fun y => { y with phase := .added, since := none }) := by
  rw [barrierForm, if_neg hp, hs]
  dsimp only
  rw [hpost]

/-- Settles O28: the end of a command field by field, and each control command by its check and its semaphore. -/
theorem wharfEndsAndControlForms : Obligations.WharfEndsAndControlForms := by
  refine ⟨fun s u code idx e l => ?ends, fun s s1 x d w v da cd sub err e l => ?forms⟩
  case ends =>
    intro x t hring hclaims hman hcode hjob hsplit first
    by_cases h0 : code = 0
    · subst h0
      have ht : t = s.modUnit u WUnit.finished := wharfFinish_ok hclaims hman
      obtain ⟨hown, hothers, hberths, hhbm, hregions⟩ := finished_frame (s := s) (t := s) (u := u) (stat := x.stat)
        (fun v => by
          split
          · next hv => exact congrArg s.unit hv
          · rfl) ⟨rfl, rfl, rfl⟩
      rw [← ht] at hown hothers hberths hhbm hregions
      rw [hown, WUnit.finished]
      refine ⟨by rw [hring]; rfl, rfl, rfl, rfl, hothers, hberths, hhbm, hregions, fun _ => ⟨?_, rfl⟩, fun h => absurd rfl h⟩
      rw [ht]
      rfl
    · have ht : t = (s.wharfError u code e idx).modUnit u WUnit.finished :=
        wharfFinish_error hclaims hman h0 (hsplit.resolve_left h0)
      obtain ⟨hown, hothers, hberths, hhbm, hregions⟩ := finished_frame (unit_wharfError s u code e idx) (wharfError_keeps s u code e idx)
      rw [← ht] at hown hothers hberths hhbm hregions
      rw [hown]
      refine ⟨by rw [WUnit.finished, hring]; rfl, rfl, rfl, rfl, hothers, hberths, hhbm, hregions, fun h => absurd h h0, fun _ => ?_⟩
      dsimp only
      cases hf : x.stat.getLsbD 63 with
      | false =>
        rw [failStat_first hf hcode hjob]
        refine ⟨by omega, by omega, fun _ => ⟨by omega, by omega⟩, fun h => absurd hf h⟩
      | true =>
        rw [failStat_later hf]
        refine ⟨by omega, by omega, fun h => absurd (hf.symm.trans h) nofun, fun _ => by omega⟩
  case forms =>
    intro u c post hring hstop hwait hpost ends stays setd fresh
    have hs : s.wharfStarts x [] e l s1 := ⟨hring, hstop, hwait, hpost⟩
    refine ⟨(exec_nopw x s).trans (wharf_done hs rfl rfl), (exec_setd x d w v s).trans (wharf_done hs rfl rfl), fun hsem => ?nosem, fun va k hsem => ⟨?semwait, ?semwaits, ?sempost, ?adds, ?added⟩⟩
    case nosem =>
      rw [← semCode_eq]
      have hc := semCheck_some (s := s1) (c := c) hsem
      exact ⟨(exec_wharfSemwait x da cd sub s).trans (wharf_refused hs hc), (exec_wharfSempost_eq x da err s).trans (wharf_refused hs hc),
        (exec_barrier_eq x da s).trans (wharf_refused hs hc)⟩
    case semwait =>
      exact fun s2 hw => (exec_wharfSemwait x da cd sub s).trans
        (wharf_done hs (semCheck_none (c := c) hsem) (formWait_ok (c := c) hsem hw))
    case semwaits =>
      exact fun s2 hw => (exec_wharfSemwait x da cd sub s).trans
        (wharf_waits hs (semCheck_none (c := c) hsem) (formWait_wait (c := c) hsem hw))
    case sempost =>
      intro s2 old hp
      exact (exec_wharfSempost_eq x da err s).trans (wharf_done hs (semCheck_none (c := c) hsem) (sempostForm_done (c := c) hsem hp))
    case adds =>
      intro hp s2 old s3 hpost s2' hsem'
      have hform := barrierForm_adds (c := c) hp hsem hpost
      refine ⟨fun hw => ?_, fun hw => ?_⟩
      · exact (exec_barrier_eq x da s).trans <| wharf_done hs (semCheck_none (c := c) hsem) (hform.trans (formWait_ok (c := c) hsem' hw))
      · exact (exec_barrier_eq x da s).trans <| wharf_waits hs (semCheck_none (c := c) hsem) (hform.trans (formWait_wait (c := c) hsem' hw))
    case added =>
      intro hp s3
      have hform := barrierForm_added (da := da) (c := c) hp
      refine ⟨fun hw => ?_, fun hw => ?_⟩
      · exact (exec_barrier_eq x da s).trans <| wharf_done hs (semCheck_none (c := c) hsem) (hform.trans (formWait_ok (c := c) hsem hw))
      · exact (exec_barrier_eq x da s).trans <| wharf_waits hs (semCheck_none (c := c) hsem) (hform.trans (formWait_wait (c := c) hsem hw))

end Sys2Proof.Machine
end

section
/-! SUPPORT. TOKEN requests of the host (spec/25 R370, R373, spec/26 R385). -/

namespace Sys2Proof.Machine
open Sys2Proof

-- what a table walk and a token form leave ----------------------------------------------------------------------------------

theorem hrqhead_event (s : State) (src code : Nat) (job : Option Nat) (d : W64) : (s.event src code job d).hrqhead = s.hrqhead := by
  rw [event_frame]

theorem hrqhead_healOne (s : State) (g : Nat) : (s.healOne g).hrqhead = s.hrqhead := by
  unfold State.healOne
  split
  · exact hrqhead_event _ _ _ _ _
  · rfl

theorem hrqhead_heal (s : State) (a n : Nat) : (s.heal a n).hrqhead = s.hrqhead := by
  refine foldl_keeps State.hrqhead _ (fun s g => ?_) _ _
  dsimp only
  split
  · exact hrqhead_healOne s g
  · exact hrqhead_healOne s g

theorem hrqhead_healWalk (s : State) (job va : Nat) : (s.healWalk job va).hrqhead = s.hrqhead := by
  unfold State.healWalk
  dsimp only
  split
  · exact foldl_keeps State.hrqhead _ (fun s a => hrqhead_heal s a 8) _ _
  · rfl

/-- Whom a number names depends on the berths and on the own label. -/
theorem party_congr {s t : State} (hb : t.berths = s.berths) (hl : t.label = s.label) (n : Nat) : t.party n = s.party n := by
  have hberth : ∀ b, t.berth b = s.berth b := fun b => congrArg (Tab.get Berth.idle · b) hb
  simp only [State.party, hberth, hl]

theorem party_healWalk (s : State) (job va n : Nat) : (s.healWalk job va).party n = s.party n := by
  have hr := roster_healWalk s job va
  simp only [State.roster, Prod.mk.injEq] at hr
  obtain ⟨⟨hberths, -⟩, -, -, -, -, hlabel, -⟩ := hr
  exact party_congr hberths hlabel n

theorem hrqhead_tokens (s : State) (ps : List Party) (l : List TokChk) : (s.tokens ps l).1.hrqhead = s.hrqhead := by
  rw [tokens_frame]

/-- TKQUERY, where it is not refused, leaves the state. -/
theorem tokenForm_query {s t : State} {caller : Party} {job a : Nat} {ex : Option Party} {ps : List Party}
    (h : s.tokenForm caller job ex a .query ps = .ok t) : t = s := by
  unfold State.tokenForm at h
  split at h
  · cases h
  · dsimp only at h
    split at h
    · cases h
    · cases h
      rfl

/-- TKQUERY changes nothing that a request shows. -/
theorem hrqhead_tokenHome_query {s s2 : State} {caller : Party} {job a : Nat} {ex : Option Party} {ps : List Party} {es : List W64}
    (h : s.tokenHome caller job ex a .query ps = (s2, .ok es)) : s2.hrqhead = s.hrqhead := by
  unfold State.tokenHome at h
  split at h
  next t code _ _ =>
    cases h
  next t htok =>
    have ht : t.hrqhead = s.hrqhead := congrArg (State.hrqhead ·.1) htok ▸ hrqhead_tokens ..
    dsimp only at h
    split at h
    · cases h
    · split at h
      · cases h
      next u hform =>
        cases h
        rw [tokenForm_query hform, ht]

-- writes one after the other -----------------------------------------------------------------------------------------------

theorem Memory.write_append (u : Nat → Byte) (bs cs : List Byte) (m : Memory) (a : Nat) :
    Memory.write u m a (bs ++ cs) = Memory.write u (Memory.write u m a bs) (a + bs.length) cs := by
  induction bs generalizing m a with
  | nil => rfl
  | cons b bs ih => rw [List.cons_append, Memory.write, ih, Memory.write, List.length_cons, Nat.add_assoc, Nat.add_comm 1]

/-- A write above what is read. -/
theorem Memory.read_write_above (u : Nat → Byte) (bs : List Byte) (m : Memory) (a : Nat) {b n : Nat} (h : b + n ≤ a) :
    Memory.read u (Memory.write u m a bs) b n = Memory.read u m b n := by
  induction n generalizing b with
  | zero => rfl
  | succ n ih => rw [Memory.read, Memory.read, Memory.get_write_outside u bs m a b (.inl (by omega)), ih (by omega)]

-- requests ------------------------------------------------------------------------------------------------------------------

/-- The state in which a request that is done leaves its elements in A4 and A5 (R373). -/
def State.answered (s : State) (r : HReq) (els : List W64) : State :=
  { s with hmem := ((List.range els.length).zip els).foldl (fun m e =>
    Memory.write zeroByte m (r.addr + 0x28 + 8 * e.1) (leBytes 8 e.2.toNat)) s.hmem }

/-- TKQUERY's two elements stand in A4 and A5 when its RESULT is written. -/
theorem read_finish_answered (s : State) (r : HReq) {els : List W64} (hlen : els.length = 2) (code fault data : Nat) :
    Memory.read zeroByte ((s.answered r els).finish r code fault data).hmem (r.addr + 0x28) 16 = els.flatMap fun v => leBytes 8 v.toNat := by
  obtain ⟨x, y, rfl⟩ := List.length_eq_two.1 hlen
  have hbytes : [x, y].flatMap (fun v => leBytes 8 v.toNat) = leBytes 8 x.toNat ++ leBytes 8 y.toNat := by
    rw [List.flatMap_cons, List.flatMap_singleton]
  have hmem : (s.answered r [x, y]).hmem =
      Memory.write zeroByte s.hmem (r.addr + 0x28) (leBytes 8 x.toNat ++ leBytes 8 y.toNat) := by
    rw [Memory.write_append, leBytes_length]
    rfl
  rw [hbytes]
  calc
    _ = Memory.read zeroByte (s.answered r [x, y]).hmem (r.addr + 0x28) 16 := Memory.read_write_above _ _ _ _ (Nat.le_refl _)
    _ = leBytes 8 x.toNat ++ leBytes 8 y.toNat := by
      rw [hmem]
      exact read_write_of_length _ _ _ (by rw [List.length_append, leBytes_length, leBytes_length])

/-- What the step of a request makes of its result. -/
def HRes.out (r : HReq) (s : State) : HRes → Out
  | .wait t => .next t
  | .fail code fault data => .next (s.finish r code fault data)
  | .failOn t code fault data => .next (t.finish r code fault data)
  | .done t els => .next ((t.answered r els).finish r hrOk 0 0)

/-- A known request of the step's own, well formed, in full or low-water service, comes to what the step makes of it. -/
theorem hostStep_performs {s : State} {r : HReq} {mine : HReq → Bool} {perform : HReq → State → HRes} (hr : s.headReq = some r)
    (hl : s.level = 1 ∨ s.level = 2) (hraise : s.raising = false) (hctl : r.ctl / 2 ^ 24 = 0) (hbit : r.ctl.testBit 15 = false)
    (hknown : r.unknown = false) (hmine : mine r = true) : s.hostStep mine perform = (perform r s).out r s := by
  have hup : ¬(s.level = 0 ∨ s.raising = true) := fun hor => by
    rcases hor with h0 | hr
    · omega
    · exact Bool.false_ne_true (hraise.symm.trans hr)
  have hform : ¬(r.unknown = true ∨ (mine r = true ∧ (r.ctl / 2 ^ 24 ≠ 0 ∨ r.ctl.testBit 15 = true))) := fun hor => by
    rcases hor with hu | ⟨-, hc | hb⟩
    · exact Bool.false_ne_true (hknown.symm.trans hu)
    · exact hc hctl
    · exact Bool.false_ne_true (hbit.symm.trans hb)
  have hserved : ¬(s.level = 3 ∧ r.op ≠ 8 ∧ r.op ≠ 9) := by omega
  unfold State.hostStep
  rw [hr]
  dsimp only
  rw [if_neg hup, if_neg hform, hmine, if_neg (by decide), if_neg hserved]
  cases perform r s <;> rfl

-- TOKEN requests ----------------------------------------------------------------------------------------------------------

/-- The form that a TOKEN request of a selector asks for: TKATOM takes BACK from bit 32 of A1. -/
def TokForm.asked (form : TokForm) (p : Nat) : TokForm :=
  match form with
  | .atom _ => .atom (p.testBit 32)
  | f => f

/-- What a TOKEN request's form has of A1; the rest must be zero. -/
def TokForm.operand (form : TokForm) (p : Nat) : Nat :=
  match form with
  | .lend | .share => p % 2 ^ 26
  | .atom _ => fld p 32 1 * 2 ^ 32
  | _ => 0

/-- The parties that it names. -/
def TokForm.parties (form : TokForm) (s : State) (p : Nat) : List Party :=
  match form with
  | .lend | .share => [s.party p]
  | _ => []

/-- What a token form of the host comes to at the home h of its region: a wait for the host's lines, a refusal, or its elements. -/
def State.tokenResult (h : State) (r : HReq) (a : Nat) (f : TokForm) (ps : List Party) : HRes :=
  match h.hostFlush r.job a f with
  | some t => .wait t
  | none => match (h.tokenHome .host r.job none a f ps).2 with
    | .error e => if e = arenaErr then .failOn (h.tokenHome .host r.job none a f ps).1 hrArena 0 0
        else .failOn (h.tokenHome .host r.job none a f ps).1 hrToken e 0
    | .ok els => .done (h.tokenHome .host r.job none a f ps).1 els

section
variable {s : State} {r : HReq} {l : Loc} (hr : s.headReq = some r) (hl : s.level = 1 ∨ s.level = 2) (hraise : s.raising = false)
  (hctl : r.ctl / 2 ^ 24 = 0) (hbit : r.ctl.testBit 15 = false) (hop : r.op = 4) (hzero : r.zeroFrom 2 = true)
  (hjob : s.noJob r.job = false) (ht : (s.healWalk r.job (r.a 0).toNat).translate r.job (r.a 0).toNat none = .ok l)
  (hhome : ∀ k, l ≠ .peer k)
include hr hl hraise hctl hbit hop hzero hjob ht hhome

/-- A TOKEN request on a region homed here whose operands have no bit that is not used. -/
theorem hostToken_home (form : TokForm) (hsub : r.sub = form.sel) (hp : form.operand (r.a 1).toNat = (r.a 1).toNat) : s.hostToken form =
    ((s.healWalk r.job (r.a 0).toNat).tokenResult r (r.a 0).toNat (form.asked (r.a 1).toNat)
      (form.parties (s.healWalk r.job (r.a 0).toNat) (r.a 1).toNat)).out r s := by
  have hknown : r.unknown = false := by
    have hsel : form.sel ≤ 8 := by unfold TokForm.sel; split <;> decide
    rw [HReq.unknown, hop, hsub, decide_eq_false (Nat.not_lt.2 hsel)]
    rfl
  have hmine : (r.op == 4 && r.sub == form.sel) = true := by rw [hop, hsub, beq_self_eq_true, beq_self_eq_true]; rfl
  unfold State.hostToken
  rw [hostStep_performs hr hl hraise hctl hbit hknown hmine]
  refine congrArg (HRes.out r s) ?_
  have hc : firstCode [(!r.zeroFrom 2 || (r.a 1).toNat != form.operand (r.a 1).toNat, hrMalformed), (s.noJob r.job, hrNojob)] = none := by
    rw [hp, hzero, hjob, bne_self_eq_false]
    rfl
  cases form
  all_goals
    dsimp only [TokForm.operand] at hc
    simp only [reduceCtorEq, true_or, or_true, or_self, if_true, if_false, Bool.false_eq_true, hc, ht]
    rfl

/-- What the step of a TOKEN request at the home of its region comes to (R373). -/
theorem hostToken_cases (form : TokForm) (hsub : r.sub = form.sel) (hp : form.operand (r.a 1).toNat = (r.a 1).toNat) {f : TokForm}
    (hf : form.asked (r.a 1).toNat = f) {ps : List Party}
    (hps : form.parties (s.healWalk r.job (r.a 0).toNat) (r.a 1).toNat = ps) :
    (∀ t, (s.healWalk r.job (r.a 0).toNat).hostFlush r.job (r.a 0).toNat f = some t → s.hostToken form = .next t) ∧
    ((s.healWalk r.job (r.a 0).toNat).hostFlush r.job (r.a 0).toNat f = none →
      (∀ s2 els, (s.healWalk r.job (r.a 0).toNat).tokenHome .host r.job none (r.a 0).toNat f ps = (s2, .ok els) →
        s.hostToken form = .next ((s2.answered r els).finish r 0 0 0)) ∧
      ∀ s2 e, (s.healWalk r.job (r.a 0).toNat).tokenHome .host r.job none (r.a 0).toNat f ps = (s2, .error e) →
        s.hostToken form = .next (if e = 256 then s2.finish r 4 0 0 else s2.finish r 5 e 0)) := by
  rw [hostToken_home hr hl hraise hctl hbit hop hzero hjob ht hhome form hsub hp, hf, hps, State.tokenResult]
  refine ⟨fun t hflush => by rw [hflush]; rfl, fun hflush => ⟨fun s2 els hhome => by rw [hflush, hhome]; rfl, fun s2 e hhome => ?_⟩⟩
  rw [hflush, hhome]
  dsimp only
  rw [show arenaErr = 256 from rfl]
  split <;> rfl
end

-- the harbourmaster's regions ---------------------------------------------------------------------------------------------

section
variable {s s2 : State} {job a : Nat} {x : Region} (hx : s.region job none a = some x) (hlost : x.lost = false) (ho : x.owner = .hm)
include hx hlost ho

/-- TKRET of a region that the host lent the harbourmaster is the harbourmaster's own (R385). -/
theorem tokenHome_lent (hlent : x.stack.head? = some .host ∧ x.shares = []) (hf : s.tokenForm .hm job none a .ret [] = .ok s2) :
    s.tokenHome .host job none a .ret [] = (s2, .ok []) := by
  obtain ⟨hhead, hshares⟩ := hlent
  unfold State.tokenHome
  rw [hx, Option.any_some, hlost, if_neg Bool.false_ne_true]
  simp [State.tokens, hx, ho, hhead, hshares, hf]

/-- Any other region of the harbourmaster's is refused. -/
theorem tokenHome_not_lent (hlent : ¬(x.stack.head? = some .host ∧ x.shares = [])) :
    s.tokenHome .host job none a .ret [] = (s, .error fcTokenNone) := by
  have hhm : (Party.host == Party.host && TokForm.ret == TokForm.ret && x.owner == Party.hm) = true := by rw [ho]; rfl
  have hnot : (!(x.stack.head? == some .host && x.shares.isEmpty)) = true := by simpa [imp_iff_not_or] using hlent
  unfold State.tokenHome
  rw [hx, Option.any_some, hlost, if_neg Bool.false_ne_true]
  dsimp only [State.tokens]
  rw [hx, Option.filter_some, if_pos hhm, Option.any_some, if_pos hnot]
end

/-- Settles O51: each selector by its form, its operand and its parties; TKQUERY's elements as they stand in A4 and A5. -/
theorem hostTokenRequests : Obligations.HostTokenRequests := by
  intro s s2 r l es e hr hl hraise hctl hbit hop hzero hjob a p h ht hhome form
  have hform : ∀ (i : Instr) (tf : TokForm) (f : TokForm) (ps : List Party), (exec i s = s.hostToken tf) → tf.operand p = p →
      tf.asked p = f → tf.parties h p = ps → form i tf.sel f ps := by
    intro i tf f ps hi hp hf hps hsub
    obtain ⟨hwait, hgo⟩ := hostToken_cases hr hl hraise hctl hbit hop hzero hjob ht hhome tf hsub hp hf hps
    rw [hi]
    refine ⟨hwait, fun hn hh => ?_, fun hn hh => (hgo hn).2 s2 e hh⟩
    exact (hgo hn).1 s2 [] hh
  refine ⟨fun hp => ?lend, fun hp => ?plain, fun hp => ?back, fun hp hsub hh hlen => ?query, fun x hp hsub hn hx hlost ho => ?harbour⟩
  case lend =>
    have hparty : [h.party p] = [s.party p] := congrArg (fun x => [x]) (party_healWalk ..)
    exact ⟨hform .hostTklend .lend .lend _ rfl (Nat.mod_eq_of_lt hp) rfl hparty,
      hform .hostTkshare .share .share _ rfl (Nat.mod_eq_of_lt hp) rfl hparty⟩
  case plain =>
    have hnone : ∀ tf : TokForm, tf.operand p = p := fun tf => by rw [hp]; cases tf <;> rfl
    have hback : TokForm.asked (.atom false) p = .atom false := by rw [hp]; rfl
    exact ⟨hform .hostTkret .ret .ret _ rfl (hnone _) rfl rfl, hform .hostTksplit .split .split _ rfl (hnone _) rfl rfl,
      hform .hostTkjoin .join .join _ rfl (hnone _) rfl rfl, hform .hostTkunshare .unshare .unshare _ rfl (hnone _) rfl rfl,
      hform .hostTkclaim .claim .claim _ rfl (hnone _) rfl rfl, hform .hostTkatom (.atom false) _ _ rfl (hnone _) hback rfl⟩
  case back =>
    exact hform .hostTkatom (.atom false) (.atom true) _ rfl (by rw [hp]; rfl) (by rw [hp]; rfl) rfl
  case query =>
    have hflush : h.hostFlush r.job a .query = none := by
      unfold State.hostFlush
      split
      · rw [if_neg (fun hn => absurd hn.1 (by decide))]
      · rfl
    obtain ⟨-, hgo⟩ := hostToken_cases hr hl hraise hctl hbit hop hzero hjob ht hhome .query hsub (f := .query) (ps := []) hp.symm rfl rfl
    refine ⟨_, (hgo hflush).1 s2 es hh, read_finish_answered _ _ hlen _ _ _, ?_, rfl⟩
    have hhead : s2.hrqhead = s.hrqhead := (hrqhead_tokenHome_query hh).trans (hrqhead_healWalk ..)
    exact congrArg (fun n => (n + 1) % 2 ^ 32) hhead
  case harbour =>
    obtain ⟨-, hgo⟩ := hostToken_cases hr hl hraise hctl hbit hop hzero hjob ht hhome .ret hsub (f := .ret) (ps := []) hp.symm rfl rfl
    obtain ⟨hdone, hrefused⟩ := hgo hn
    exact ⟨fun hlent hf => hdone s2 [] (tokenHome_lent hx hlost ho hlent hf),
      fun hlent => hrefused h fcTokenNone (tokenHome_not_lent hx hlost ho hlent)⟩
end Sys2Proof.Machine
end

section
/-! SUPPORT. Matrix words at issue: lists of checks, and what the members of a gang do, each in its own berth (spec/17 R245, R261). -/

namespace Sys2Proof.Machine
open Sys2Proof

/-- Checks that pass leave the rest to decide. -/
theorem checks_append {l m : List (Option (Nat × W64))} (hl : checks l = none) : checks (l ++ m) = checks m := by
  induction l with
  | nil => rfl
  | cons o l ih =>
    cases o with
    | none => exact ih hl
    | some _ => exact absurd hl nofun

theorem portChk_free {c : Ctx} {p : Nat} (hp : c.portHeld p = 0) : c.portChk p = none :=
  chk_none (bne_eq_false_iff_eq.2 hp)

/-- A change of the contexts of several berths, one after the other: each of them once, and no other berth. -/
theorem foldl_modCtxAt (g : Nat → Ctx → Ctx) {l : List Nat} (hnd : l.Nodup) (s : State) :
    let t := l.foldl (fun u b => u.modCtxAt b (g b)) s
    t = { s with berths := t.berths } ∧
      ∀ b, t.berth b = if b ∈ l then { s.berth b with ctx := g b (s.ctxAt b) } else s.berth b := by
  induction l generalizing s with
  | nil => exact ⟨rfl, fun b => (if_neg List.not_mem_nil).symm⟩
  | cons x l ih =>
    obtain ⟨hx, hl⟩ := List.nodup_cons.1 hnd
    obtain ⟨hfirst, hother⟩ := sameBut_modCtxAt s x (g x)
    obtain ⟨hframe, hberth⟩ := ih hl (s.modCtxAt x (g x))
    rw [List.foldl_cons]
    refine ⟨by rw [hframe, hfirst], fun b => ?_⟩
    rw [hberth b]
    by_cases hb : b = x
    · rw [hb, if_neg hx, if_pos List.mem_cons_self, berth_modCtxAt_same]
    · rw [State.ctxAt, hother b hb]
      simp only [List.mem_cons, hb, false_or]
      rfl

theorem mem_gangOf {s : State} {gang : Gang} {b : Nat} : b ∈ s.gangOf gang ↔ s.cur ≤ b ∧ b < s.cur + gang.size := by
  simp only [State.gangOf, List.mem_map, List.mem_range]
  exact ⟨fun ⟨j, hj, hb⟩ => by omega, fun h => ⟨b - s.cur, by omega, by omega⟩⟩

theorem nodup_gangOf (s : State) (gang : Gang) : (s.gangOf gang).Nodup :=
  List.nodup_range.map fun _ _ => Nat.add_left_cancel

/-- What the members of a gang do, each in its own berth. -/
theorem foldl_gangOf (s : State) (gang : Gang) (g : Nat → Ctx → Ctx) :
    let t := (s.gangOf gang).foldl (fun u b => u.modCtxAt b (g b)) s
    t = { s with berths := t.berths } ∧ ∀ b, t.berth b = if s.cur ≤ b ∧ b < s.cur + gang.size then
      { s.berth b with ctx := g b (s.ctxAt b) } else s.berth b := by
  obtain ⟨hframe, hberth⟩ := foldl_modCtxAt g (nodup_gangOf s gang) s
  exact ⟨hframe, fun b => (hberth b).trans (if_congr mem_gangOf rfl rfl)⟩

end Sys2Proof.Machine
end

section
/-! PROOF. The matrix words that set up the engine or move rows (spec/17 R246, R248, R250, R255-R257, R259, R260). -/

namespace Sys2Proof.Machine
open Sys2Proof

-- the engine's own state ----------------------------------------------------------------------------------------------------

section
variable {s : State} {h : Hd} {x : MName} {m k qb : Nat} {unb : Bool} {gang : Gang} (hg : s.ctx.guard h = true)
include hg

section
variable (ha : checks (s.matrixChecks .single) = none)
include ha

/-- FMTPUSH of a format word in form: what is left to check is the room in the queue (R246). -/
theorem exec_fmtpush {f : Fmt} (hv : (s.ctx.reg m).toNat < 2 ^ 24) (hz : (s.ctx.reg m).toNat / 16 % 16 = 0)
    (hf : afmtOf (s.ctx.reg m) = some f) (hlow : s.lowWater = true → lowWaterFmt f = true) : exec (.fmtpush h m) s =
    if s.ctx.fq.length < 16 then .next (s.withCtx { s.ctx with fq := s.ctx.fq ++ [s.ctx.reg m] }) else .next (s.trapped 0x02 16) := by
  have hform : chk (bf (s.ctx.reg m) 24 40 != 0 || bf (s.ctx.reg m) 4 4 != 0 || (afmtOf (s.ctx.reg m)).isNone ||
      (s.lowWater && !lowWaterFmt ((afmtOf (s.ctx.reg m)).getD .bf16))) fcBound (s.ctx.reg m) = none := by
    have hhigh : bf (s.ctx.reg m) 24 40 = 0 := by rw [bf_eq, Nat.div_eq_of_lt hv, Nat.zero_mod]
    have hmid : bf (s.ctx.reg m) 4 4 = 0 := hz
    refine chk_none ?_
    rw [hhigh, hmid, hf]
    simpa using hlow
  rw [show exec (.fmtpush h m) s = execFmtpush h m s from rfl, execFmtpush]
  split
  · next hroom =>
    exact issue_ctx hg (verdict_of_none (checks_append_none ha
      (checks_cons_none hform (checks_cons_none (chk_none (decide_eq_false (Nat.not_le.2 hroom))) checks_nil))))
  · next hfull =>
    refine issue_flt hg (verdict_of_some ((checks_append ha).trans ?_))
    rw [hform, decide_eq_true (Nat.not_lt.1 hfull)]
    rfl

theorem exec_fmtclr : exec (.fmtclr h) s = .next (s.withCtx { s.ctx with fq := [] }) := by
  rw [show exec (.fmtclr h) s = execFmtclr h s from rfl, execFmtclr]
  exact issue_ctx hg (verdict_of_none ha)

theorem exec_sqbind (hb : s.ctx.sqBusy = false) :
    exec (.sqbind h qb unb) s = .next (s.withCtx { s.ctx with sq := if unb then none else some qb }) := by
  rw [show exec (.sqbind h qb unb) s = execSqbind h qb unb s from rfl, execSqbind]
  exact issue_ctx hg (verdict_of_none (checks_append_none ha (checks_cons_none (chk_none hb) checks_nil)))

theorem exec_mpbclr (hm : s.ctx.maskedFlight = false) (hl : s.ctx.mpbFlight = false) :
    exec (.mpbclr h) s = .next (s.withCtx { s.ctx with mpb := none }) := by
  rw [show exec (.mpbclr h) s = execMpbclr h s from rfl, execMpbclr]
  exact issue_ctx hg (verdict_of_none (checks_append_none ha
    (checks_cons_none (chk_none (Bool.or_eq_false_iff.2 ⟨hm, hl⟩)) checks_nil)))
end

section
variable (ha : checks (s.matrixChecks gang) = none)
include ha

/-- WSWAP exchanges the banks of each member of the gang (R250). -/
theorem exec_wswap : ∃ t, exec (.wswap h gang) s = .next t ∧ t = { s with berths := t.berths, iss := .issued } ∧
    ∀ b, t.berth b = if s.cur ≤ b ∧ b < s.cur + gang.size then
      { s.berth b with ctx := { s.ctxAt b with active := 1 - (s.ctxAt b).active } } else s.berth b := by
  obtain ⟨hframe, hberth⟩ := foldl_gangOf s gang fun _ c => { c with active := 1 - c.active }
  rw [show exec (.wswap h gang) s = execWswap h gang s from rfl, execWswap]
  exact ⟨_, issue_go hg (verdict_of_none ha), by rw [hframe], hberth⟩

theorem exec_acczero : exec (.acczero h k gang) s = .next (s.flown 4 (.accZero k (s.gangOf gang)) false) := by
  rw [show exec (.acczero h k gang) s = execAcczero h k gang s from rfl, execAcczero]
  exact (issue_go hg (verdict_of_none ha)).trans rfl

theorem exec_accfree (hb : s.ctx.accBusy k = false) :
    exec (.accfree h k gang) s = .next (s.flown 4 (.accFree k (s.gangOf gang)) false) := by
  rw [show exec (.accfree h k gang) s = execAccfree h k gang s from rfl, execAccfree]
  exact (issue_go hg (verdict_of_none (checks_append_none ha (checks_cons_none (chk_none hb) checks_nil)))).trans rfl

/-- A write to the slot that is in flight is a fault of ACCFREE (R255). -/
theorem exec_accfree_busy (hb : s.ctx.accBusy k = true) : exec (.accfree h k gang) s = .next (s.trapped 0x06 (w64 k)) := by
  rw [show exec (.accfree h k gang) s = execAccfree h k gang s from rfl, execAccfree]
  refine issue_flt hg (verdict_of_some ((checks_append ha).trans ?_))
  rw [hb]
  rfl
end

/-- ACCCONF with a mode that the berth can take, on an engine with nothing in flight (R260). -/
theorem exec_accconf (hv : (s.ctx.reg m).toNat ≤ 2) (hlead : (s.ctx.reg m).toNat ≠ 0 → s.cur % 2 ^ (s.ctx.reg m).toNat ≠ 0)
    (hm : ∀ f ∈ s.ctx.flights, f.eff.isM = false) (hb : s.leaderBusy s.cur = false) (ha : s.ctx.aside = none) (hq : s.ctx.fq = []) :
    ∃ t, exec (.accconf h m) s = .next t ∧ s.issuedAs t { s.ctx with
      acc := [], live := [], banks := [], mpb := none
      mode := if (s.ctx.reg m).toNat = 1 then .pair else if (s.ctx.reg m).toNat = 2 then .quad else .own } 0 true := by
  have hmode : bf (s.ctx.reg m) 0 2 = (s.ctx.reg m).toNat := by rw [bf_zero, Nat.mod_eq_of_lt (by omega)]
  have hfollows : (bf (s.ctx.reg m) 0 2 != 0 && s.cur % 2 ^ bf (s.ctx.reg m) 0 2 == 0) = false := by
    rw [hmode]
    simpa using hlead
  have hidle : (s.ctx.flights.any (fun f => f.eff.isM) || s.leaderBusy s.cur || s.ctx.aside.isSome || !s.ctx.fq.isEmpty) = false := by
    rw [hb, ha, hq]
    simpa using hm
  have hset : { s.ctx.matrixReset with
      mode := match bf (s.ctx.reg m) 0 2 with | 1 => EMode.pair | 2 => EMode.quad | _ => EMode.own } = { s.ctx with
      acc := [], live := [], banks := [], mpb := none
      mode := if (s.ctx.reg m).toNat = 1 then .pair else if (s.ctx.reg m).toNat = 2 then .quad else .own } := by
    rw [hmode]
    generalize (s.ctx.reg m).toNat = v at hv ⊢
    interval_cases v <;> rfl
  rw [show exec (.accconf h m) s = execAccconf h m s from rfl, execAccconf]
  refine ⟨_, issue_go hg (verdict_of_none (checks_cons_none (chk_none (decide_eq_false (Nat.not_lt.2 hv)))
    (checks_cons_none (chk_none hfollows) (checks_cons_none (chk_none hidle) checks_nil)))), ?_⟩
  rw [← hset]
  exact issuedAs_wantPersist s fun c =>
    { c.matrixReset with mode := match bf (c.reg m) 0 2 with | 1 => .pair | 2 => .quad | _ => .own }

-- rows that move ------------------------------------------------------------------------------------------------------------

section
variable (ha : checks (s.matrixChecks .single) = none)
include ha

theorem exec_accread (hv : (s.ctx.reg m).toNat ≤ 255) (hp : s.ctx.portHeld 2 = 0) :
    exec (.accread h x k m) s = .next (s.withCtx { s.ctx with
      ports := Tab.set 0 s.ctx.ports 2 1
      flights := s.ctx.flights ++ [⟨8, .mcells (s.ctx.cellsOf x (List.replicate 128 (BitVec.allOnes 32))
        ((List.range 128).map fun n => s.ctx.accCell k (s.ctx.reg m).toNat n)), names3 [x]⟩] }) := by
  rw [show exec (.accread h x k m) s = execAccread h x k m s from rfl, execAccread]
  exact issue_ctx hg (verdict_of_none (checks_append_none ha (checks_cons_none (chk_none (decide_eq_false (Nat.not_lt.2 hv)))
    (checks_cons_none (portChk_free hp) checks_nil))))

theorem exec_accwrite (hv : (s.ctx.reg m).toNat ≤ 255) : exec (.accwrite h k m x) s =
    .next (s.flown 8 (.accRow k (s.ctx.reg m).toNat (s.ctx.lanes x)) (names3 [x])) := by
  rw [show exec (.accwrite h k m x) s = execAccwrite h k m x s from rfl, execAccwrite]
  exact issue_ctx hg (verdict_of_none (checks_append_none ha
    (checks_cons_none (chk_none (decide_eq_false (Nat.not_lt.2 hv))) checks_nil)))

theorem exec_accwrite_bound (hv : 255 < (s.ctx.reg m).toNat) :
    exec (.accwrite h k m x) s = .next (s.trapped 0x02 (s.ctx.reg m)) := by
  rw [show exec (.accwrite h k m x) s = execAccwrite h k m x s from rfl, execAccwrite]
  refine issue_flt hg (verdict_of_some ((checks_append ha).trans ?_))
  rw [decide_eq_true hv]
  rfl

/-- MPBLD of a block in form, while nothing uses the one that it replaces (R259). -/
theorem exec_mpbld (hal : (s.ctx.reg m).toNat % 512 = 0) (hin : (s.ctx.reg m).toNat + 0x2000 ≤ 0x100000)
    (hblk : mpbBad (Memory.read zeroByte s.ctx.spad (s.ctx.reg m).toNat 0x2000) = none)
    (hown : s.ownFault (s.ctx.reg m).toNat 0x2000 .read = none) (hm : s.ctx.maskedFlight = false) (hp : s.ctx.portHeld 3 = 0) :
    exec (.mpbld h m) s = .next (s.withCtx { s.ctx with
      ports := Tab.set 0 s.ctx.ports 3 16
      flights := s.ctx.flights ++ [⟨16, .mpb (Memory.read zeroByte s.ctx.spad (s.ctx.reg m).toNat 0x2000), false⟩] }) := by
  rw [show exec (.mpbld h m) s = execMpbld h m s from rfl, execMpbld]
  exact issue_ctx hg (verdict_of_none (checks_append_none ha
    (checks_cons_none (chk_none (bne_eq_false_iff_eq.2 hal))
    (checks_cons_none (chk_none (decide_eq_false (Nat.not_lt.2 hin)))
    (checks_cons_none (Option.map_eq_none_iff.2 hblk)
    (checks_cons_none (Option.map_eq_none_iff.2 hown)
    (checks_cons_none (chk_none hm) (checks_cons_none (portChk_free hp) checks_nil))))))))
end

/-- ACCDRAIN of rows of the slot into a range that is the berth-thread's to write (R257). -/
theorem exec_accdrain {fmt : Fmt} {rm : RM} {sat : Bool} {ra rb : Nat} (ha : checks (s.matrixChecks gang) = none)
    (hone : 1 ≤ (s.ctx.reg m).toNat) (hmax : (s.ctx.reg m).toNat ≤ 256) (hrows : (s.ctx.reg rb).toNat + (s.ctx.reg m).toNat ≤ 256)
    (hin : (s.ctx.reg ra).toNat + (s.ctx.reg m).toNat * drainRow gang fmt ≤ 0x100000) (hal : (s.ctx.reg ra).toNat % 64 = 0)
    (hp : s.ctx.portHeld 2 = 0) (hown : s.ownFault (s.ctx.reg ra).toNat ((s.ctx.reg m).toNat * drainRow gang fmt) .write = none) :
    exec (.accdrain h k m gang fmt rm sat ra rb) s = .next (s.withCtx { s.ctx with
      ports := Tab.set 0 s.ctx.ports 2 (s.ctx.reg m).toNat
      flights := s.ctx.flights ++ [⟨8 + (s.ctx.reg m).toNat, .drain (cellsFrom (s.ctx.reg ra).toNat
        ((List.range (s.ctx.reg m).toNat).flatMap fun i => (List.range gang.size).flatMap fun j => (List.range 128).flatMap fun n =>
          leBytes (fmt.bits / 8) (drainCode fmt rm sat ((s.ctxAt (s.cur + j)).accCell k ((s.ctx.reg rb).toNat + i) n))))
        (s.gangOf gang), false⟩] }) := by
  have hrange : decide ((s.ctx.reg m).toNat < 1 ∨ 256 < (s.ctx.reg m).toNat ∨
      256 < (s.ctx.reg rb).toNat + (s.ctx.reg m).toNat) = false := decide_eq_false (by omega)
  have hmembers : ∀ f : Nat → List Byte, (s.gangOf gang).flatMap f = (List.range gang.size).flatMap fun j => f (s.cur + j) :=
    fun f => List.flatMap_map ..
  rw [show exec (.accdrain h k m gang fmt rm sat ra rb) s = execAccdrain h k m gang fmt rm sat ra rb s from rfl, execAccdrain]
  refine (issue_go hg (verdict_of_none (checks_append_none ha
    (checks_cons_none (chk_none hrange)
    (checks_cons_none (chk_none (decide_eq_false (Nat.not_lt.2 hin)))
    (checks_cons_none (chk_none (bne_eq_false_iff_eq.2 hal))
    (checks_cons_none (portChk_free hp) (checks_cons_none (Option.map_eq_none_iff.2 hown) checks_nil)))))))).trans ?_
  dsimp only
  rw [modCtx_issued]
  simp only [hmembers]
  rfl
end

/-- Settles O23: each word once its checks pass, and the faults of a full queue, a busy slot and a row out of range. -/
theorem matrixStateAndTransfers : Obligations.MatrixStateAndTransfers := by
  refine ⟨fun s h m qb k unb gang hg => ?state, fun s h x k m ra rb gang fmt rm sat hg => ?transfers⟩
  case state =>
    refine ⟨fun ha hv hz hform => ?_, exec_fmtclr hg, exec_sqbind hg, exec_mpbclr hg, exec_wswap hg, exec_acczero hg,
      exec_accfree hg, exec_accfree_busy hg, exec_accconf hg⟩
    obtain ⟨f, hf, hlow⟩ := hform
    have hpush := exec_fmtpush hg ha hv hz hf hlow
    exact ⟨fun hroom => hpush.trans (if_pos hroom), fun hfull => hpush.trans (if_neg (Nat.not_lt.2 hfull))⟩
  case transfers =>
    exact ⟨exec_accread hg, exec_accwrite hg, exec_accwrite_bound hg, exec_accdrain hg, exec_mpbld hg⟩

end Sys2Proof.Machine
end

section
/-! PROOF. WLOAD and MMUL at issue (spec/17 R249, R252, R253). -/

namespace Sys2Proof.Machine
open Sys2Proof

-- the slots that a word takes -------------------------------------------------------------------------------------------------

/-- The slots of a list of ring and slot numbers are full and carry no failure. -/
def Ctx.slotsReady (c : Ctx) (l : List (Nat × Nat)) : Prop :=
  ∀ y ∈ l, ((c.ring y.1).slot y.2).st = .full ∧ ((c.ring y.1).slot y.2).fail = none

/-- The next slot of each ring of the list is taken. -/
def Ctx.taken (c : Ctx) (l : List (Nat × Nat)) : Ctx := l.foldl (fun c y => c.takeSlot y.1) c

/-- The address of a place of the list; 0 beyond it. -/
def Ctx.slotAddr (c : Ctx) (l : List (Nat × Nat)) (i : Nat) : Nat :=
  match l[i]? with
  | some y => (c.ring y.1).addr y.2
  | none => 0

theorem slotAddr_eq (c : Ctx) (l : List (Nat × Nat)) (i : Nat) :
    c.slotAddr l i = (l[i]?.map fun y => (c.ring y.1).addr y.2).getD 0 := by
  unfold Ctx.slotAddr
  cases l[i]? <;> rfl

/-- Taking slots reads and writes the rings. -/
theorem taken_congr {c c' : Ctx} (hr : c'.rings = c.rings) (l : List (Nat × Nat)) :
    c'.taken l = { c' with rings := (c.taken l).rings } := by
  induction l generalizing c c' with
  | nil => exact congrArg (fun r => { c' with rings := r }) hr
  | cons y l ih =>
    have hfirst : (c'.takeSlot y.1).rings = (c.takeSlot y.1).rings :=
      congrArg (fun t => Tab.upd Ring.none t y.1 fun r =>
        { r.modSlot r.take (fun x => { x with st := .draining }) with take := (r.take + 1) % r.n }) hr
    exact ih hfirst

section
variable {s : State} {l : List (Nat × Nat)} (hh : s.ctx.holding = false)
include hh

/-- Slots that are ready hold nothing up (R51, spec/15 R218). -/
theorem slotsVerdict_ready (hl : s.ctx.slotsReady l) : slotsVerdict s l = .go := by
  have hfull : (l.any fun y => ((s.ctx.ring y.1).slot y.2).st != .full) = false :=
    List.any_eq_false.2 fun y hy => by simp [(hl y hy).1]
  have hfail : (l.filterMap fun y => ((s.ctx.ring y.1).slot y.2).fail) = [] :=
    List.filterMap_eq_nil_iff.2 fun y hy => (hl y hy).2
  unfold slotsVerdict
  dsimp only
  rw [hfull, freezeIf_free hh, hfail]
  rfl

/-- A slot that is not full holds the freeze line. -/
theorem slotsVerdict_waits (hl : ∃ y ∈ l, ((s.ctx.ring y.1).slot y.2).st ≠ .full) : slotsVerdict s l = .freeze s := by
  have hempty : (l.any fun y => ((s.ctx.ring y.1).slot y.2).st != .full) = true := by simpa using hl
  unfold slotsVerdict
  dsimp only
  rw [hempty]
  exact freezeIf_full hh
end

-- WLOAD -------------------------------------------------------------------------------------------------------------------------

/-- The checks of WLOAD (R249). -/
def State.wloadChecks (s : State) (q : Nat) (gang : Gang) (fmt : Fmt) : List (Option (Nat × W64)) :=
  s.matrixChecks gang ++ [s.ctx.portChk 1] ++ s.ctx.ringChecks q (gang.size * 256 * 16 * fmt.bits) (gang.size * 1024) fmt
    ++ [chk (s.lowWater && !lowWaterFmt fmt) 0x02 (w64 fmt.code)]
    ++ s.slotChecks (s.ctx.slotsOf q (s.ctx.scaleRing fmt)) [gang.size * 256 * 16 * fmt.bits, gang.size * 1024 * scaleBytes fmt]

/-- The WLOAD that goes in flight. -/
def State.wloadRec (s : State) (q : Nat) (gang : Gang) (fmt : Fmt) : WRec :=
  ⟨s.ctx.uck, q, s.ctx.slotAddr (s.ctx.slotsOf q (s.ctx.scaleRing fmt)) 0, s.ctx.scaleRing fmt,
    s.ctx.slotAddr (s.ctx.slotsOf q (s.ctx.scaleRing fmt)) 1, fmt, s.gangBanks gang true⟩

/-- Each member's shadow bank takes the format. -/
def State.shadowFormat (s : State) (gang : Gang) (fmt : Fmt) : State :=
  (s.gangBanks gang true).foldl (fun u y => u.modCtxAt y.1 fun c => c.modBank y.2 fun x => { x with fmt := some fmt }) s

/-- The leader takes the slots, holds its weight port, and has the WLOAD in flight. -/
def Ctx.wloadStarted (l : List (Nat × Nat)) (r : WRec) (c : Ctx) : Ctx := ((c.taken l).holdPort portWeight 256).fly 256 (.wload r)

theorem wloadStarted_modBank (l : List (Nat × Nat)) (r : WRec) (c : Ctx) (i : Nat) (f : Bank → Bank) :
    (c.modBank i f).wloadStarted l r = { c.taken l with
      banks := Tab.set Bank.none c.banks i (f (c.bank i))
      ports := Tab.set 0 c.ports 1 256
      flights := c.flights ++ [⟨256, .wload r, false⟩] } := by
  have hbank : (c.modBank i f).taken l = { c.modBank i f with rings := (c.taken l).rings } :=
    taken_congr (c := c) (c' := c.modBank i f) rfl l
  have hrings : c.taken l = { c with rings := (c.taken l).rings } := taken_congr rfl l
  rw [Ctx.wloadStarted, hbank]
  conv_rhs => rw [hrings]
  rfl

theorem shadowFormat_effect (s : State) (gang : Gang) (fmt : Fmt) : s.shadowFormat gang fmt =
    { s with berths := (s.shadowFormat gang fmt).berths } ∧
    ∀ b, (s.shadowFormat gang fmt).berth b = if s.cur ≤ b ∧ b < s.cur + gang.size then
      { s.berth b with ctx := (s.ctxAt b).modBank (1 - (s.ctxAt b).active) fun x => { x with fmt := some fmt } } else s.berth b := by
  have hfold : s.shadowFormat gang fmt = (s.gangOf gang).foldl (fun u b => u.modCtxAt b fun c =>
      c.modBank (1 - (s.ctxAt b).active) fun x => { x with fmt := some fmt }) s := List.foldl_map
  rw [hfold]
  exact foldl_gangOf s gang fun b c => c.modBank (1 - (s.ctxAt b).active) fun x => { x with fmt := some fmt }

theorem Gang.size_pos (gang : Gang) : 0 < gang.size := by cases gang <;> decide

/-- The leader's own shadow bank. -/
theorem ctx_shadowFormat (s : State) (gang : Gang) (fmt : Fmt) : (s.shadowFormat gang fmt).ctx =
    s.ctx.modBank (1 - s.ctx.active) fun x => { x with fmt := some fmt } := by
  obtain ⟨hframe, hberth⟩ := shadowFormat_effect s gang fmt
  have hcur : (s.shadowFormat gang fmt).cur = s.cur := by rw [hframe]
  rw [State.ctx, State.ctxAt, hcur, hberth, if_pos ⟨Nat.le_refl _, Nat.lt_add_of_pos_right (Gang.size_pos gang)⟩]
  rfl

section
variable {s : State} {h : Hd} {q : Nat} {gang : Gang} {fmt : Fmt} (hg : s.ctx.guard h = true) (hh : s.ctx.holding = false)
  (hc : checks (s.wloadChecks q gang fmt) = none)
include hg hh hc

theorem exec_wload_ready (hl : s.ctx.slotsReady (s.ctx.slotsOf q (s.ctx.scaleRing fmt))) : exec (.wload h q gang fmt) s =
    .next { (s.shadowFormat gang fmt).modCtx (Ctx.wloadStarted (s.ctx.slotsOf q (s.ctx.scaleRing fmt)) (s.wloadRec q gang fmt)) with
      iss := .issued } := by
  rw [show exec (.wload h q gang fmt) s = execWload h q gang fmt s from rfl, execWload]
  exact (issue_go hg ((verdict_of_none hc).trans (slotsVerdict_ready hh hl))).trans rfl

theorem exec_wload_waits (hl : ∃ y ∈ s.ctx.slotsOf q (s.ctx.scaleRing fmt), ((s.ctx.ring y.1).slot y.2).st ≠ .full) :
    exec (.wload h q gang fmt) s = .next s.frozen := by
  rw [show exec (.wload h q gang fmt) s = execWload h q gang fmt s from rfl, execWload]
  exact issue_freeze hg ((verdict_of_none hc).trans (slotsVerdict_waits hh hl))
end

/-- What WLOAD leaves: the leader's context, and the other members' banks (R249). -/
theorem wloadStarted_effect (s : State) (gang : Gang) (fmt : Fmt) (l : List (Nat × Nat)) (r : WRec) :
    let t : State := { (s.shadowFormat gang fmt).modCtx (Ctx.wloadStarted l r) with iss := .issued }
    t = { s with berths := t.berths, iss := .issued } ∧
    t.ctx = { s.ctx.taken l with
      banks := Tab.set Bank.none s.ctx.banks (1 - s.ctx.active) { s.ctx.bank (1 - s.ctx.active) with fmt := some fmt }
      ports := Tab.set 0 s.ctx.ports 1 256
      flights := s.ctx.flights ++ [⟨256, .wload r, false⟩] } ∧
    ∀ b, b ≠ s.cur → t.berth b = (s.shadowFormat gang fmt).berth b := by
  obtain ⟨hframe, -⟩ := shadowFormat_effect s gang fmt
  have hcur : (s.shadowFormat gang fmt).cur = s.cur := by rw [hframe]
  obtain ⟨hlast, hother⟩ : (s.shadowFormat gang fmt).sameBut s.cur ((s.shadowFormat gang fmt).modCtx (Ctx.wloadStarted l r)) :=
    hcur ▸ sameBut_modCtxAt ..
  refine ⟨by rw [hlast, hframe], ?_, hother⟩
  exact (ctx_modCtx ..).trans ((congrArg (Ctx.wloadStarted l r) (ctx_shadowFormat s gang fmt)).trans (wloadStarted_modBank ..))

-- MMUL --------------------------------------------------------------------------------------------------------------------------

/-- The head format word's activation format (R246). -/
def Ctx.headFmt (c : Ctx) : Fmt := (afmtOf (c.fq.headD 0)).getD .bf16

/-- The slots that an MMUL takes. -/
def Ctx.mmulSlots (c : Ctx) (q : Nat) : List (Nat × Nat) := c.slotsOf q (c.scaleRing c.headFmt)

/-- The MMUL that goes in flight (R253): the leader's bank fixes its rows (log entry 137). -/
def State.mmulRec (s : State) (k q m : Nat) (gang : Gang) (z mask : Bool) : MRec where
  t0 := s.ctx.uck
  slot := k
  row0 := (s.ctx.fq.headD 0).toNat / 2 ^ 8 % 2 ^ 8
  mrow0 := (s.ctx.fq.headD 0).toNat / 2 ^ 16 % 2 ^ 8
  z := z
  mask := if mask then s.ctx.mpb else none
  masked := mask
  afmt := s.ctx.headFmt
  wfmt := (s.ctx.bank s.ctx.active).fmt.getD .bf16
  rows := rowsOf (widerOf s.ctx.headFmt ((s.ctx.bank s.ctx.active).fmt.getD .bf16)) (s.ctx.reg m).toNat
  qa := q
  aslot := s.ctx.slotAddr (s.ctx.mmulSlots q) 0
  sq := s.ctx.scaleRing s.ctx.headFmt
  sslot := s.ctx.slotAddr (s.ctx.mmulSlots q) 1
  members := s.memberBanks gang
  acts := []

/-- The leader takes the format word and the slots, holds its array port, and has the MMUL in flight. -/
def Ctx.mmulStarted (l : List (Nat × Nat)) (p : Nat) (r : MRec) (c : Ctx) : Ctx :=
  ((({ c with fq := c.fq.tail } : Ctx).taken l).holdPort portArray p).fly (p + 395) (.mmul r)

theorem mmulStarted_eq (l : List (Nat × Nat)) (p : Nat) (r : MRec) (c : Ctx) : c.mmulStarted l p r = { c.taken l with
    fq := c.fq.tail
    ports := Tab.set 0 c.ports 0 p
    flights := c.flights ++ [⟨p + 395, .mmul r, false⟩] } := by
  have hpopped : ({ c with fq := c.fq.tail } : Ctx).taken l = { c with fq := c.fq.tail, rings := (c.taken l).rings } :=
    taken_congr (c := c) (c' := { c with fq := c.fq.tail }) rfl l
  have hrings : c.taken l = { c with rings := (c.taken l).rings } := taken_congr rfl l
  rw [Ctx.mmulStarted, hpopped]
  conv_rhs => rw [hrings]
  rfl

section
variable {s : State} {h : Hd} {k q m : Nat} {gang : Gang} {z mask : Bool} (hg : s.ctx.guard h = true) (hh : s.ctx.holding = false)
  (hc : checks (s.matrixChecks gang ++ s.mmulChecks q m gang mask) = none)
include hg hh hc

theorem exec_mmul_ready (hl : s.ctx.slotsReady (s.ctx.mmulSlots q)) : exec (.mmul h k q m gang z mask) s =
    .next (s.withCtx { s.ctx.taken (s.ctx.mmulSlots q) with
      fq := s.ctx.fq.tail
      ports := Tab.set 0 s.ctx.ports 0 (s.ctx.reg m).toNat
      flights := s.ctx.flights ++ [⟨(s.ctx.reg m).toNat + 395, .mmul (s.mmulRec k q m gang z mask), false⟩] }) := by
  rw [show exec (.mmul h k q m gang z mask) s = execMmul h k q m gang z mask s from rfl, execMmul, ← mmulStarted_eq]
  exact (issue_go hg ((verdict_of_none hc).trans (slotsVerdict_ready hh hl))).trans rfl

theorem exec_mmul_waits (hl : ∃ y ∈ s.ctx.mmulSlots q, ((s.ctx.ring y.1).slot y.2).st ≠ .full) :
    exec (.mmul h k q m gang z mask) s = .next s.frozen := by
  rw [show exec (.mmul h k q m gang z mask) s = execMmul h k q m gang z mask s from rfl, execMmul]
  exact issue_freeze hg ((verdict_of_none hc).trans (slotsVerdict_waits hh hl))
end

/-- Settles O24: each word once its slots are ready, and while one is not full. -/
theorem matrixOperationsIssue : Obligations.MatrixOperationsIssue := by
  intro s h k q m gang fmt z mask hg hh
  refine ⟨fun hc hl => ?load, exec_wload_waits hg hh, fun hc hl => ?multiply, exec_mmul_waits hg hh⟩
  case load =>
    obtain ⟨hframe, hctx, hother⟩ := wloadStarted_effect s gang fmt (s.ctx.slotsOf q (s.ctx.scaleRing fmt)) (s.wloadRec q gang fmt)
    obtain ⟨-, hberth⟩ := shadowFormat_effect s gang fmt
    refine ⟨_, exec_wload_ready hg hh hc hl, hframe, hctx.trans ?_, fun b hb => (hother b hb).trans (hberth b)⟩
    rw [State.wloadRec, slotAddr_eq, slotAddr_eq]
    rfl
  case multiply =>
    rw [exec_mmul_ready hg hh hc hl, State.mmulRec, slotAddr_eq, slotAddr_eq]
    rfl

end Sys2Proof.Machine
end
